-- ==== Sys2Proof/Word.lean ====
section
/-! DEFINITION. The word types of the manual (R7) and the sparse table that holds a register file, a cache or
any other array of the module: the list of the entries that differ from what an absent entry reads as. -/

namespace Sys2Proof

abbrev Byte := BitVec 8
abbrev Word := BitVec 64
/-- A cache or fetch line: 512 bits, bits [7:0] its lowest byte (R7). -/
abbrev Line := BitVec 512

/-- A sparse table: indices strictly rising. -/
abbrev Tab (α : Type) := List (Nat × α)

/-- The entry at `i`, if the table lists one. -/
def Tab.find? {α : Type} : Tab α → Nat → Option α
  | [], _ => none
  | (j, a) :: t, i => if j = i then some a else Tab.find? t i

/-- The entry at `i`, `d` where the table lists none. -/
def Tab.get {α : Type} (d : α) (t : Tab α) (i : Nat) : α := (t.find? i).getD d

/-- List `a` at `i`. -/
def Tab.put {α : Type} : Tab α → Nat → α → Tab α
  | [], i, a => [(i, a)]
  | (j, b) :: t, i, a =>
    if i < j then (i, a) :: (j, b) :: t
    else if i = j then (i, a) :: t
    else (j, b) :: Tab.put t i a

/-- Remove the entry at `i`. -/
def Tab.drop {α : Type} : Tab α → Nat → Tab α
  | [], _ => []
  | (j, b) :: t, i => if j = i then Tab.drop t i else (j, b) :: Tab.drop t i

/-- Write `a` at `i`, where an absent entry reads as `d`: writing `d` removes the entry. -/
def Tab.set {α : Type} [DecidableEq α] (d : α) (t : Tab α) (i : Nat) (a : α) : Tab α :=
  if a = d then t.drop i else t.put i a

/-- The canonical form: indices strictly rising and no entry equal to `d`. -/
def Tab.wf {α : Type} [DecidableEq α] (d : α) : Tab α → Bool
  | [] => true
  | [(_, a)] => decide (a ≠ d)
  | (i, a) :: (j, b) :: t => decide (a ≠ d) && decide (i < j) && Tab.wf d ((j, b) :: t)

end Sys2Proof
end

