-- ==== Sys2Proof/Syntax.lean ====
section
/-! DEFINITION. The syntax: one constructor per row of spec/opcode_table.json. The first 192 rows less their
timed outcomes are instruction words (R179 to R189); the other rows are events of the module's other agents
(the sluice, engines, controllers, front end, hosts), which a step takes from the agenda. -/

namespace Sys2Proof

abbrev SReg := BitVec 6
abbrev VReg := BitVec 5
abbrev TReg := BitVec 3
abbrev PReg := BitVec 3
abbrev AReg := BitVec 2
abbrev BReg := BitVec 1

/-- The predicate of an instruction (R181): executes when `p[reg]`, negated by `neg`, is true. -/
structure Guard where
  neg : Bool
  reg : PReg
  deriving DecidableEq, Repr

/-- Type codes 0x00 to 0x0F (Table 7.4). -/
inductive Ty where
  | i8 | i16 | i32 | i64 | w8 | w16 | w32 | w64 | f16 | f32 | f64 | bf16 | e2m1 | e4m3 | e5m2 | s4e
  deriving DecidableEq, Repr

/-- Condition codes 0x00 to 0x0A (Table 7.5). -/
inductive Cond where
  | eq | ne | lt | le | gt | ge | ltu | leu | gtu | geu | un
  deriving DecidableEq, Repr

/-- Rounding modes 0 to 4 (Table 5.7). -/
inductive RM where
  | rne | rtz | rdn | rup | rsh
  deriving DecidableEq, Repr

/-- Cache hints 0 to 3 (R185). -/
inductive Hint where
  | normal | stream | keep | noalloc
  deriving DecidableEq, Repr

/-- Element width of a vector access (R239). -/
inductive VW where
  | b8 | b16 | b32
  deriving DecidableEq, Repr

/-- A memory operand `[base + index*2^scale + disp]` (R195, R235); index 0 names none. -/
structure MemOp where
  base : SReg
  index : SReg
  scale : BitVec 4
  disp : BitVec 32
  deriving DecidableEq, Repr

/-- Last operand of a vector shift (R278). -/
inductive VShift where
  | reg (b : VReg)
  | imm (n : BitVec 5)
  deriving DecidableEq, Repr

/-- Lane index of VMOVS (R290). -/
inductive LaneIx where
  | reg (b : SReg)
  | imm (n : BitVec 6)
  deriving DecidableEq, Repr

/-- VSHUF patterns (Table 10.4). -/
inductive Shuf where
  | ziplo (b : VReg) | ziphi (b : VReg) | even (b : VReg) | odd (b : VReg)
  | rot (r : BitVec 6) | rev | xor (r : BitVec 6)
  deriving DecidableEq, Repr

/-- VSCAN operations (R294). -/
inductive ScanOp where
  | add | max | min
  deriving DecidableEq, Repr

/-- System registers (Table 12.2), in selector order. -/
inductive SysReg where
  | spaceid | ctxid | ctxgen | chunklen | chunkseq | retired | trapvec | trapcause | trappc | trapaddr
  | trapinfo | seed | ftz | dbgcaps | profk
  deriving DecidableEq, Repr

/-- Remote command kinds (Table 11.6). -/
inductive MxKind where
  | bput4 | bput8 | bput16 | bdrop
  deriving DecidableEq, Repr

/-- The command blocks of a register page (R370, R405, R425, R449). -/
inductive Block where
  | cmd | job | debug | platform
  deriving DecidableEq, Repr

/-- What a group bridge relays: a host's message to a member module, or the member's answer (R367). -/
inductive Relay where
  | message (seq : Nat)
  | answer (seq : Nat)
  deriving DecidableEq, Repr

inductive Instr where
  | nop (g : Guard)
  | mov (g : Guard) (d a : SReg)
  | movi (g : Guard) (d : SReg) (imm : BitVec 48)
  | movhi (g : Guard) (d a : SReg) (imm : BitVec 16)
  | add (g : Guard) (d a b : SReg)
  | addi (g : Guard) (d a : SReg) (imm : BitVec 48)
  | sub (g : Guard) (d a b : SReg)
  | neg (g : Guard) (d a : SReg)
  | mul (g : Guard) (d a b : SReg)
  | mulh (g : Guard) (d a b : SReg)
  | mulhn (g : Guard) (d a b : SReg)
  | div (g : Guard) (d a b : SReg)
  | divn (g : Guard) (d a b : SReg)
  | rem (g : Guard) (d a b : SReg)
  | remn (g : Guard) (d a b : SReg)
  | madd (g : Guard) (d a b c : SReg)
  | and (g : Guard) (d a b : SReg)
  | andi (g : Guard) (d a : SReg) (imm : BitVec 48)
  | or (g : Guard) (d a b : SReg)
  | ori (g : Guard) (d a : SReg) (imm : BitVec 48)
  | xor (g : Guard) (d a b : SReg)
  | xori (g : Guard) (d a : SReg) (imm : BitVec 48)
  | andn (g : Guard) (d a b : SReg)
  | not (g : Guard) (d a : SReg)
  | shl (g : Guard) (d a b : SReg)
  | shli (g : Guard) (d a : SReg) (n : BitVec 6)
  | shr (g : Guard) (d a b : SReg)
  | shri (g : Guard) (d a : SReg) (n : BitVec 6)
  | sar (g : Guard) (d a b : SReg)
  | sari (g : Guard) (d a : SReg) (n : BitVec 6)
  | rol (g : Guard) (d a b : SReg)
  | roli (g : Guard) (d a : SReg) (n : BitVec 6)
  | cmp (g : Guard) (c : Cond) (d : PReg) (a b : SReg)
  | cmpi (g : Guard) (c : Cond) (d : PReg) (a : SReg) (imm : BitVec 48)
  | sel (g : Guard) (d a b : SReg) (c : PReg)
  | min (g : Guard) (d a b : SReg)
  | max (g : Guard) (d a b : SReg)
  | minn (g : Guard) (d a b : SReg)
  | maxn (g : Guard) (d a b : SReg)
  | clz (g : Guard) (d a : SReg)
  | ctz (g : Guard) (d a : SReg)
  | popc (g : Guard) (d a : SReg)
  | ext (g : Guard) (t : Ty) (d a : SReg)
  | bfx (g : Guard) (d a : SReg) (pos : BitVec 6) (len : BitVec 7) (sx : Bool)
  | bfi (g : Guard) (d a b : SReg) (pos : BitVec 6) (len : BitVec 7)
  | lea (g : Guard) (d : SReg) (m : MemOp)
  | plog (g : Guard) (d a b : PReg) (tt : BitVec 4)
  | fadd (g : Guard) (t : Ty) (rm : RM) (d a b : SReg)
  | fsub (g : Guard) (t : Ty) (rm : RM) (d a b : SReg)
  | fmul (g : Guard) (t : Ty) (rm : RM) (d a b : SReg)
  | ffma (g : Guard) (t : Ty) (rm : RM) (d a b c : SReg)
  | fdiv (g : Guard) (t : Ty) (rm : RM) (d a b : SReg)
  | fsqrt (g : Guard) (t : Ty) (rm : RM) (d a : SReg)
  | fmin (g : Guard) (t : Ty) (d a b : SReg)
  | fmax (g : Guard) (t : Ty) (d a b : SReg)
  | fcvt (g : Guard) (t s : Ty) (rm : RM) (d a : SReg)
  | fcvti (g : Guard) (t s : Ty) (rm : RM) (d a : SReg)
  | icvtf (g : Guard) (t s : Ty) (rm : RM) (d a : SReg)
  | fcmp (g : Guard) (t : Ty) (c : Cond) (d : PReg) (a b : SReg)
  | br (g : Guard) (off : BitVec 45) (slot : BitVec 3)
  | bri (g : Guard) (a : SReg)
  | call (g : Guard) (d : SReg) (off : BitVec 45) (slot : BitVec 3)
  | calli (g : Guard) (d a : SReg)
  | loop (g : Guard) (lvl : BitVec 2) (off : BitVec 24) (slot : BitVec 3) (a : SReg)
  | loopi (g : Guard) (lvl : BitVec 2) (off : BitVec 24) (slot : BitVec 3) (count : BitVec 20)
  | lbrk (g : Guard) (lvl : BitVec 2)
  | lsave (g : Guard) (d : SReg) (lvl : BitVec 2)
  | lrest (g : Guard) (lvl : BitVec 2) (a : SReg)
  | exit (g : Guard)
  | spawn (g : Guard) (d a : SReg) (off : BitVec 45) (slot : BitVec 3)
  | join (g : Guard) (d a : SReg)
  | joinTimeout (core slot : Nat)
  | cut (g : Guard)
  | msgsend (g : Guard) (d a b : SReg)
  | msgrecv (g : Guard) (d a : SReg)
  | msgrecvTimeout (core slot : Nat)
  | ld (g : Guard) (t : Ty) (h : Hint) (inv : Bool) (d : SReg) (m : MemOp)
  | st (g : Guard) (t : Ty) (h : Hint) (d : SReg) (m : MemOp)
  | ldv (g : Guard) (w : VW) (h : Hint) (inv : Bool) (d : VReg) (m : MemOp) (c : SReg)
  | stv (g : Guard) (w : VW) (h : Hint) (d : VReg) (m : MemOp) (c : SReg)
  | ldvs (g : Guard) (w : VW) (h : Hint) (inv : Bool) (d : VReg) (a b : SReg) (disp : BitVec 32) (c : SReg)
  | stvs (g : Guard) (w : VW) (h : Hint) (d : VReg) (a b : SReg) (disp : BitVec 32) (c : SReg)
  | ldvg (g : Guard) (w : VW) (h : Hint) (inv : Bool) (d : VReg) (a : SReg) (b : VReg) (scale : BitVec 4) (disp : BitVec 32) (c : SReg)
  | stvg (g : Guard) (w : VW) (h : Hint) (d : VReg) (a : SReg) (b : VReg) (scale : BitVec 4) (disp : BitVec 32) (c : SReg)
  | ldt (g : Guard) (h : Hint) (inv : Bool) (d : TReg) (m : MemOp) (pw : BitVec 2)
  | ldtCol (g : Guard) (h : Hint) (inv : Bool) (d : TReg) (m : MemOp) (pw : BitVec 2)
  | stt (g : Guard) (h : Hint) (d : TReg) (m : MemOp) (pw : BitVec 2)
  | sttCol (g : Guard) (h : Hint) (d : TReg) (m : MemOp) (pw : BitVec 2)
  | pref (g : Guard) (h : Hint) (m : MemOp)
  | linewb (g : Guard) (h : Hint) (m : MemOp)
  | copy (g : Guard) (col : BitVec 3) (d a b c : SReg)
  | copyDigest (g : Guard) (col : BitVec 3) (d a b c : SReg)
  | copy2 (g : Guard) (col : BitVec 3) (d a b c : SReg)
  | copy3 (g : Guard) (col : BitVec 3) (d a b c : SReg)
  | get (g : Guard) (col : BitVec 3) (d a b c : SReg)
  | put (g : Guard) (col : BitVec 3) (d a b c : SReg)
  | rpan (g : Guard) (col : BitVec 3) (m : BitVec 2) (d a b c : SReg) (slot : BitVec 8)
  | fenceE (g : Guard) (d : SReg) (cols : BitVec 8) (classes : BitVec 4)
  | fenceETimeout (core slot : Nat)
  | fenceX (g : Guard) (d : SReg) (cols : BitVec 8)
  | fenceXTimeout (core slot : Nat)
  | chk (g : Guard) (d : PReg) (a : SReg)
  | bararr (g : Guard) (d : SReg) (bg : BitVec 4)
  | bararrTimeout (core slot : Nat)
  | barwait (g : Guard) (d a : SReg) (bg : BitVec 4)
  | barwaitTimeout (core slot : Nat)
  | bartest (g : Guard) (d : PReg) (a : SReg) (bg : BitVec 4)
  | barrierPhaseComplete (bg : Nat)
  | waitz (g : Guard) (wide : Bool) (d : SReg) (m : MemOp)
  | waitne (g : Guard) (wide : Bool) (d : SReg) (m : MemOp) (c : SReg)
  | waitRecheck (core slot : Nat)
  | waitTimeout (core slot : Nat)
  | panr (g : Guard) (col : BitVec 3) (m : BitVec 2) (d a b c : SReg) (slot : BitVec 8)
  | panrv (g : Guard) (col : BitVec 3) (m : BitVec 2) (d : VReg) (a b c : SReg) (slot : BitVec 8)
  | pann (g : Guard) (col : BitVec 3) (m : BitVec 2) (d a b : SReg) (slot : BitVec 8)
  | panv (g : Guard) (col : BitVec 3) (d a : SReg) (b c : VReg) (mask : SReg) (slot : BitVec 8)
  | panvr (g : Guard) (col : BitVec 3) (d : VReg) (a : SReg) (b c : VReg) (mask : SReg) (slot : BitVec 8)
  | panld (g : Guard) (a : SReg) (slot : BitVec 8)
  | panq (g : Guard) (d : SReg) (slot : BitVec 8)
  | pandrop (g : Guard) (slot : BitVec 8)
  | vadd (g : Guard) (t : Ty) (rm : RM) (mk : Option SReg) (d a b : VReg)
  | vsub (g : Guard) (t : Ty) (rm : RM) (mk : Option SReg) (d a b : VReg)
  | vmul (g : Guard) (t : Ty) (rm : RM) (mk : Option SReg) (d a b : VReg)
  | vfma (g : Guard) (t : Ty) (rm : RM) (mk : Option SReg) (d a b c : VReg)
  | vmin (g : Guard) (t : Ty) (mk : Option SReg) (d a b : VReg)
  | vmax (g : Guard) (t : Ty) (mk : Option SReg) (d a b : VReg)
  | vabs (g : Guard) (t : Ty) (mk : Option SReg) (d a : VReg)
  | vneg (g : Guard) (t : Ty) (mk : Option SReg) (d a : VReg)
  | vdiv (g : Guard) (t : Ty) (rm : RM) (mk : Option SReg) (d a b : VReg)
  | vsqrt (g : Guard) (t : Ty) (rm : RM) (mk : Option SReg) (d a : VReg)
  | vrsq (g : Guard) (t : Ty) (rm : RM) (mk : Option SReg) (d a : VReg)
  | vexp2 (g : Guard) (t : Ty) (rm : RM) (mk : Option SReg) (d a : VReg)
  | vlog2 (g : Guard) (t : Ty) (rm : RM) (mk : Option SReg) (d a : VReg)
  | vand (g : Guard) (t : Ty) (mk : Option SReg) (d a b : VReg)
  | vor (g : Guard) (t : Ty) (mk : Option SReg) (d a b : VReg)
  | vxor (g : Guard) (t : Ty) (mk : Option SReg) (d a b : VReg)
  | vshl (g : Guard) (t : Ty) (mk : Option SReg) (d a : VReg) (b : VShift)
  | vshr (g : Guard) (t : Ty) (mk : Option SReg) (d a : VReg) (b : VShift)
  | vsar (g : Guard) (t : Ty) (mk : Option SReg) (d a : VReg) (b : VShift)
  | vcmp (g : Guard) (t : Ty) (c : Cond) (mk : Option SReg) (d : SReg) (a b : VReg)
  | vsel (g : Guard) (mk : Option SReg) (d a b : VReg) (c : SReg)
  | vcvt (g : Guard) (t s : Ty) (rm : RM) (mk : Option SReg) (d a : VReg)
  | vpack (g : Guard) (t : Ty) (p : BitVec 3) (mk : Option SReg) (d a b : VReg)
  | vunpk (g : Guard) (t : Ty) (p : BitVec 3) (mk : Option SReg) (d a : VReg)
  | vbcast (g : Guard) (t : Ty) (mk : Option SReg) (d : VReg) (a : SReg)
  | vmovs (g : Guard) (t : Ty) (d : SReg) (a : VReg) (ix : LaneIx)
  | vperm (g : Guard) (mk : Option SReg) (d a b : VReg)
  | vshuf (g : Guard) (mk : Option SReg) (d a : VReg) (pat : Shuf)
  | vredsum (g : Guard) (t : Ty) (rm : RM) (mk : Option SReg) (d : SReg) (a : VReg)
  | vredmax (g : Guard) (t : Ty) (mk : Option SReg) (d : SReg) (a : VReg)
  | vredmin (g : Guard) (t : Ty) (mk : Option SReg) (d : SReg) (a : VReg)
  | vscan (g : Guard) (t : Ty) (rm : RM) (op : ScanOp) (mk : Option SReg) (d a : VReg)
  | vdot (g : Guard) (t s : Ty) (rm : RM) (mk : Option SReg) (d a b c : VReg)
  | vclamp (g : Guard) (t : Ty) (mk : Option SReg) (d a b c : VReg)
  | vround (g : Guard) (t : Ty) (rm : RM) (mk : Option SReg) (d a : VReg)
  | vmov (g : Guard) (mk : Option SReg) (d a : VReg)
  | vmovi (g : Guard) (t : Ty) (mk : Option SReg) (d : VReg) (imm : BitVec 32)
  | vpopc (g : Guard) (t : Ty) (mk : Option SReg) (d a : VReg)
  | vcomp (g : Guard) (mk : Option SReg) (d a : VReg)
  | vexpnd (g : Guard) (mk : Option SReg) (d a : VReg)
  | bload (g : Guard) (h : Hint) (fmt : BitVec 3) (d : BReg) (m : MemOp)
  | bquery (g : Guard) (d : SReg) (b : BReg)
  | mma (g : Guard) (nmask : BitVec 4) (af : BitVec 3) (d : AReg) (a : TReg) (b : BReg)
  | mmax (g : Guard) (nmask : BitVec 4) (af : BitVec 3) (d : AReg) (a : TReg) (b : BReg)
  | accz (g : Guard) (d : AReg)
  | accanch (g : Guard) (d : AReg) (imm : BitVec 16)
  | accout (g : Guard) (t : Ty) (rm : RM) (mk : Option SReg) (d : VReg) (a : AReg) (row : BitVec 4)
  | accadd (g : Guard) (d a : AReg)
  | accst (g : Guard) (h : Hint) (d : AReg) (m : MemOp) (row : BitVec 5)
  | accld (g : Guard) (h : Hint) (d : AReg) (m : MemOp) (row : BitVec 5)
  | tmov (g : Guard) (d a : TReg)
  | tmovTr (g : Guard) (d a : TReg)
  | tcvt (g : Guard) (t s : Ty) (rm : RM) (d a : TReg)
  | tzero (g : Guard) (d : TReg)
  | tldv (g : Guard) (d : TReg) (a : VReg) (row : BitVec 4)
  | tstv (g : Guard) (d : VReg) (a : TReg) (row : BitVec 4)
  | tgetsc (g : Guard) (d : SReg) (a : TReg) (row : BitVec 4)
  | tsetsc (g : Guard) (d : TReg) (a : SReg) (row : BitVec 4)
  | mfence (g : Guard)
  | mxstat (g : Guard) (d : SReg) (a : AReg)
  | mxsend (g : Guard) (col : BitVec 3) (kind : MxKind) (n : BReg) (d a b c : SReg)
  | capmk (g : Guard) (d a : SReg)
  | caprev (g : Guard) (a : SReg)
  | bputCommand (op : Nat)
  | bdropCommand (op : Nat)
  | trap (g : Guard) (imm : BitVec 16)
  | eret (g : Guard)
  | sysrd (g : Guard) (d : SReg) (sel : SysReg)
  | syswr (g : Guard) (sel : SysReg) (a : SReg)
  | spurge (g : Guard) (d a b c : SReg)
  | winset (g : Guard) (d a b c : SReg)
  | fmtset (g : Guard) (d a b : SReg)
  | cntrd (g : Guard) (d a : SReg)
  | attest (g : Guard) (d a b : SReg)
  | dbgwp (g : Guard) (d a b c : SReg)
  | dbgstep (g : Guard) (d a b : SReg)
  | dbgstepTimeout (core slot : Nat)
  | stepEnd (core slot : Nat)
  | dbgstop (g : Guard) (d a b : SReg)
  | snap (g : Guard) (d : SReg)
  | keywipe (g : Guard) (a : SReg)
  | fuserd (g : Guard) (d a : SReg)
  | unlock (g : Guard) (d a : SReg)
  | dbgcapGrant (g : Guard) (a b : SReg)
  | dbgcapRevoke (g : Guard)
  | sluiceGrant (core slot : Nat)
  | engineInstructionCompleted (core : Nat) (matrix : Bool)
  | attestRecordWritten (op : Nat)
  | commitComplete (core slot : Nat)
  | exclusiveGrant (core slot : Nat)
  | preemptionRequest (core : Nat)
  | taskResume (core : Nat)
  | messageDelivery (ix : Nat)
  | messageUndeliverable (ix : Nat)
  | engineCommit (op ix : Nat)
  | panApplication (op : Nat)
  | brineApplication (op : Nat)
  | brineSendHome (die key : Nat)
  | crystallize (die key : Nat)
  | remoteGet (src epoch space va n : Nat)
  | remotePut (src epoch space va : Nat) (data : List Byte)
  | remoteRpan (src epoch space va slot : Nat) (operand : Line)
  | remoteAck (op code count : Nat) (data : List Byte)
  | remoteAckTimeout (op : Nat)
  | l1Eviction (core key : Nat)
  | l2Eviction (key : Nat)
  | coreLoopTake (core : Nat)
  | gangMemberStart (core : Nat)
  | taskComplete (core : Nat)
  | entryTake (q : Nat)
  | queueSlotTake (q : Nat)
  | queueEvict (q : Nat)
  | arbiterVisit
  | registerWrite (vi off size : Nat) (value : Option Word)
  | hostMemoryAccess (vi space va n : Nat) (data : Option (List Byte))
  | bridgeRelay (modid vi : Nat) (m : Relay)
  | queueEnable (q : Nat)
  | queueDisable (q : Nat)
  | stailWrite (q : Nat) (value : BitVec 32)
  | cheadWrite (q : Nat) (value : BitVec 32)
  | queueReset (q : Nat)
  | resetLinkEpoch (q : Nat)
  | cmdUnassigned (vi : Nat) (blk : Block)
  | mkspace (vi : Nat)
  | setpeer (vi : Nat)
  | setqos (vi : Nat)
  | map (vi : Nat)
  | unmap (vi : Nat)
  | mapreg (vi : Nat)
  | replay (vi : Nat)
  | kill (vi : Nat)
  | migrate (vi : Nat)
  | migrationLineCopy (mc line : Nat)
  | fring (vi : Nat)
  | rmspace (vi : Nat)
  | hotpol (vi : Nat)
  | rtwrite (vi : Nat)
  | hotnessPeriod (threshold : Nat)
  | dring (vi : Nat)
  | snaprd (vi : Nat)
  | profbuf (vi : Nat)
  | reclog (vi : Nat)
  | rerun (vi : Nat)
  | xtrig (vi : Nat)
  | stopBroadcast (seq core : Nat)
  | stopRecord (seq : Nat)
  | replayDivergence (space : Nat)
  | profilePeriod
  | pwrset (vi : Nat)
  | fwload (vi : Nat)
  | fwswitch (vi : Nat)
  | fwReady
  | handoverTimeout
  | rasring (vi : Nat)
  | diereset (vi : Nat)
  | mreset (vi : Nat)
  | moduleReset (selfTestFails : Bool)
  | dieError (die : Nat)
  | dieResetTimeout (die : Nat)
  | firmwareWatchdog
  | powerArbiterTick (freqs budgets : List Nat)
  | thermalHold (die temp : Nat)
  | thermalRelease (die temp : Nat)
  | thermalTrip (die temp : Nat)
  | patrolScrub (mc line : Nat) (bad : Nat)
  | jobset (vi : Nat)
  | jobclr (vi : Nat)
  | laneRepair (link lanes : Nat)
  deriving DecidableEq, Repr

end Sys2Proof
end

