-- ==== Sys2Proof/WellFormed.lean ====
section
/-! DEFINITION. What an instruction of the syntax must meet to have an encoding: the operand limits that the
entries of spec/ state beyond the widths of the fields (R186). An event has no encoding. -/

namespace Sys2Proof

/-- PN = 1 with PRED = 0 is illegal (R181). -/
def Guard.ok (g : Guard) : Bool := !(g.neg && g.reg == 0)

/-- Integer types of EXT, LD, ST and the conversions: 0x00 to 0x07 (R209). -/
def Ty.int64 : Ty → Bool
  | .i8 | .i16 | .i32 | .i64 | .w8 | .w16 | .w32 | .w64 => true
  | .f16 | .f32 | .f64 | .bf16 | .e2m1 | .e4m3 | .e5m2 | .s4e => false

/-- INT of R276. -/
def Ty.int32 : Ty → Bool
  | .i8 | .i16 | .i32 | .w8 | .w16 | .w32 => true
  | .i64 | .w64 | .f16 | .f32 | .f64 | .bf16 | .e2m1 | .e4m3 | .e5m2 | .s4e => false

/-- FLT of R276. -/
def Ty.flt : Ty → Bool
  | .f16 | .bf16 | .f32 => true
  | .i8 | .i16 | .i32 | .i64 | .w8 | .w16 | .w32 | .w64 | .f64 | .e2m1 | .e4m3 | .e5m2 | .s4e => false

/-- ALL of R276. -/
def Ty.lane (t : Ty) : Bool := t.int32 || t.flt

/-- Types of FADD to FMAX and FCMP (Table 8.4). -/
def Ty.scalarFloat (t : Ty) : Bool := t == .f32 || t == .f64

/-- Float types of FCVT, FCVTI and ICVTF (Table 8.4). -/
def Ty.anyFloat (t : Ty) : Bool := t.flt || t == .f64

/-- Codes of 8 and 4 bits. -/
def Ty.small : Ty → Bool
  | .e2m1 | .e4m3 | .e5m2 | .s4e => true
  | .i8 | .i16 | .i32 | .i64 | .w8 | .w16 | .w32 | .w64 | .f16 | .f32 | .f64 | .bf16 => false

/-- Width of an element of the type, in bits (Table 7.4, Table 5.1). -/
def Ty.width : Ty → Nat
  | .i8 | .w8 | .e4m3 | .e5m2 => 8
  | .i16 | .w16 | .f16 | .bf16 => 16
  | .i32 | .w32 | .f32 => 32
  | .i64 | .w64 | .f64 => 64
  | .e2m1 | .s4e => 4

/-- iN types. -/
def Ty.signed : Ty → Bool
  | .i8 | .i16 | .i32 | .i64 => true
  | .w8 | .w16 | .w32 | .w64 | .f16 | .f32 | .f64 | .bf16 | .e2m1 | .e4m3 | .e5m2 | .s4e => false

/-- Types of VPACK and VUNPK (R287). -/
def Ty.packed (t : Ty) : Bool := t.width == 4 || t.width == 8 || t.width == 16

/-- Types of ACCOUT (R300). -/
def Ty.readout (t : Ty) : Bool := t == .f32 || t == .bf16 || t == .e4m3 || t == .e5m2

/-- Types of TCVT (R304). -/
def Ty.tile (t : Ty) : Bool := t == .bf16 || t == .i8 || t.small

/-- Conditions of integers and of floats (R184). -/
def Cond.int (c : Cond) : Bool := c != .un

def Cond.float (c : Cond) : Bool := c == .eq || c == .ne || c == .lt || c == .le || c == .gt || c == .ge || c == .un

def Cond.on (c : Cond) (t : Ty) : Bool := if t.int32 then c.int else c.float

/-- RM is zero for an integer type (R276). -/
def rmOn (t : Ty) (rm : RM) : Bool := !t.int64 || rm == .rne

/-- RM is zero for .max and .min (R294). -/
def scanRm (op : ScanOp) (rm : RM) : Bool := op == .add || rm == .rne

/-- Table 10.3. -/
def cvtPair (t s : Ty) : Bool :=
  (s.flt && (t.lane || t.small)) || (s.int32 && t.flt) || (s.int32 && t.int32 && t != s) ||
  (s.small && t.flt) || (s == .s4e && t.int32)

/-- R295. -/
def dotPair (t s : Ty) : Bool :=
  ((t == .i32 || t == .w32) && (s == .i8 || s == .w8 || s == .i16 || s == .w16)) ||
  (t == .f32 && (s == .f16 || s == .bf16))

/-- Part of a packed vector (R287). -/
def part (t : Ty) (p : BitVec 3) : Bool := decide (p.toNat < 32 / t.width)

/-- R289. -/
def movImm (t : Ty) (imm : BitVec 32) : Bool :=
  if t.signed then (imm.setWidth t.width).signExtend 32 == imm else (imm.setWidth t.width).setWidth 32 == imm

/-- An immediate count is below the width (R278). -/
def VShift.ok (b : VShift) (t : Ty) : Bool :=
  match b with
  | .reg _ => true
  | .imm n => decide (n.toNat < t.width)

/-- R182. -/
def scaleOk (s : BitVec 4) : Bool := decide (s.toNat ≤ 8)

/-- R195: no scale without an index. -/
def MemOp.ok (m : MemOp) : Bool := scaleOk m.scale && !(m.index == 0 && m.scale != 0)

/-- Hints allowed on stores and the rest (R236). -/
def Hint.store (h : Hint) : Bool := h != .noalloc

/-- A slot of format C or L (R182). -/
def slotOk (s : BitVec 3) : Bool := decide (s.toNat ≤ 4)

/-- A loop's body end lies after the instruction, which stands in slot `own` (R220). -/
def bodyAfter (own : Nat) (off : BitVec 24) (slot : BitVec 3) : Bool :=
  decide (0 < off.toInt) || (off == 0 && decide (own < slot.toNat))

/-- R209. -/
def bitField (pos : BitVec 6) (len : BitVec 7) : Bool :=
  decide (1 ≤ len.toNat) && decide (pos.toNat + len.toNat ≤ 64)

/-- `n` registers from `r` end by s63. -/
def fits (r : SReg) (n : Nat) : Bool := decide (r.toNat + n ≤ 64)

/-- `x` is none of the `n` registers from `r`. -/
def outside (r : SReg) (n : Nat) (x : SReg) : Bool := decide (x.toNat < r.toNat) || decide (r.toNat + n ≤ x.toNat)

/-- A vector register pair (R266). -/
def pair (v : VReg) : Bool := decide (v.toNat ≤ 30)

/-- Ones among the bits of a quarter mask. -/
def quarterCount (nm : BitVec 4) : Nat :=
  (if nm.getLsbD 0 then 1 else 0) + (if nm.getLsbD 1 then 1 else 0) + (if nm.getLsbD 2 then 1 else 0) +
    (if nm.getLsbD 3 then 1 else 0)

/-- R300. -/
def quarters (d : AReg) (nm : BitVec 4) : Bool := nm != 0 && decide (d.toNat + quarterCount nm ≤ 4)

/-- BDROP names no source (R322). -/
def dropOperands (k : MxKind) (b c : SReg) : Bool := k != .bdrop || (b == 0 && c == 0)

/-- RW registers of Table 12.2. -/
def SysReg.writable : SysReg → Bool
  | .chunklen | .trapvec | .trapcause | .trappc | .trapaddr | .trapinfo | .seed | .ftz | .profk => true
  | .spaceid | .ctxid | .ctxgen | .chunkseq | .retired | .dbgcaps => false

/-- The predicate of an instruction word; an event has none. -/
def Instr.guard? : Instr → Option Guard
  | .nop g => some g
  | .mov g _ _ => some g
  | .movi g _ _ => some g
  | .movhi g _ _ _ => some g
  | .add g _ _ _ => some g
  | .addi g _ _ _ => some g
  | .sub g _ _ _ => some g
  | .neg g _ _ => some g
  | .mul g _ _ _ => some g
  | .mulh g _ _ _ => some g
  | .mulhn g _ _ _ => some g
  | .div g _ _ _ => some g
  | .divn g _ _ _ => some g
  | .rem g _ _ _ => some g
  | .remn g _ _ _ => some g
  | .madd g _ _ _ _ => some g
  | .and g _ _ _ => some g
  | .andi g _ _ _ => some g
  | .or g _ _ _ => some g
  | .ori g _ _ _ => some g
  | .xor g _ _ _ => some g
  | .xori g _ _ _ => some g
  | .andn g _ _ _ => some g
  | .not g _ _ => some g
  | .shl g _ _ _ => some g
  | .shli g _ _ _ => some g
  | .shr g _ _ _ => some g
  | .shri g _ _ _ => some g
  | .sar g _ _ _ => some g
  | .sari g _ _ _ => some g
  | .rol g _ _ _ => some g
  | .roli g _ _ _ => some g
  | .cmp g _ _ _ _ => some g
  | .cmpi g _ _ _ _ => some g
  | .sel g _ _ _ _ => some g
  | .min g _ _ _ => some g
  | .max g _ _ _ => some g
  | .minn g _ _ _ => some g
  | .maxn g _ _ _ => some g
  | .clz g _ _ => some g
  | .ctz g _ _ => some g
  | .popc g _ _ => some g
  | .ext g _ _ _ => some g
  | .bfx g _ _ _ _ _ => some g
  | .bfi g _ _ _ _ _ => some g
  | .lea g _ _ => some g
  | .plog g _ _ _ _ => some g
  | .fadd g _ _ _ _ _ => some g
  | .fsub g _ _ _ _ _ => some g
  | .fmul g _ _ _ _ _ => some g
  | .ffma g _ _ _ _ _ _ => some g
  | .fdiv g _ _ _ _ _ => some g
  | .fsqrt g _ _ _ _ => some g
  | .fmin g _ _ _ _ => some g
  | .fmax g _ _ _ _ => some g
  | .fcvt g _ _ _ _ _ => some g
  | .fcvti g _ _ _ _ _ => some g
  | .icvtf g _ _ _ _ _ => some g
  | .fcmp g _ _ _ _ _ => some g
  | .br g _ _ => some g
  | .bri g _ => some g
  | .call g _ _ _ => some g
  | .calli g _ _ => some g
  | .loop g _ _ _ _ => some g
  | .loopi g _ _ _ _ => some g
  | .lbrk g _ => some g
  | .lsave g _ _ => some g
  | .lrest g _ _ => some g
  | .exit g => some g
  | .spawn g _ _ _ _ => some g
  | .join g _ _ => some g
  | .cut g => some g
  | .msgsend g _ _ _ => some g
  | .msgrecv g _ _ => some g
  | .ld g _ _ _ _ _ => some g
  | .st g _ _ _ _ => some g
  | .ldv g _ _ _ _ _ _ => some g
  | .stv g _ _ _ _ _ => some g
  | .ldvs g _ _ _ _ _ _ _ _ => some g
  | .stvs g _ _ _ _ _ _ _ => some g
  | .ldvg g _ _ _ _ _ _ _ _ _ => some g
  | .stvg g _ _ _ _ _ _ _ _ => some g
  | .ldt g _ _ _ _ _ => some g
  | .ldtCol g _ _ _ _ _ => some g
  | .stt g _ _ _ _ => some g
  | .sttCol g _ _ _ _ => some g
  | .pref g _ _ => some g
  | .linewb g _ _ => some g
  | .copy g _ _ _ _ _ => some g
  | .copyDigest g _ _ _ _ _ => some g
  | .copy2 g _ _ _ _ _ => some g
  | .copy3 g _ _ _ _ _ => some g
  | .get g _ _ _ _ _ => some g
  | .put g _ _ _ _ _ => some g
  | .rpan g _ _ _ _ _ _ _ => some g
  | .fenceE g _ _ _ => some g
  | .fenceX g _ _ => some g
  | .chk g _ _ => some g
  | .bararr g _ _ => some g
  | .barwait g _ _ _ => some g
  | .bartest g _ _ _ => some g
  | .waitz g _ _ _ => some g
  | .waitne g _ _ _ _ => some g
  | .panr g _ _ _ _ _ _ _ => some g
  | .panrv g _ _ _ _ _ _ _ => some g
  | .pann g _ _ _ _ _ _ => some g
  | .panv g _ _ _ _ _ _ _ => some g
  | .panvr g _ _ _ _ _ _ _ => some g
  | .panld g _ _ => some g
  | .panq g _ _ => some g
  | .pandrop g _ => some g
  | .vadd g _ _ _ _ _ _ => some g
  | .vsub g _ _ _ _ _ _ => some g
  | .vmul g _ _ _ _ _ _ => some g
  | .vfma g _ _ _ _ _ _ _ => some g
  | .vmin g _ _ _ _ _ => some g
  | .vmax g _ _ _ _ _ => some g
  | .vabs g _ _ _ _ => some g
  | .vneg g _ _ _ _ => some g
  | .vdiv g _ _ _ _ _ _ => some g
  | .vsqrt g _ _ _ _ _ => some g
  | .vrsq g _ _ _ _ _ => some g
  | .vexp2 g _ _ _ _ _ => some g
  | .vlog2 g _ _ _ _ _ => some g
  | .vand g _ _ _ _ _ => some g
  | .vor g _ _ _ _ _ => some g
  | .vxor g _ _ _ _ _ => some g
  | .vshl g _ _ _ _ _ => some g
  | .vshr g _ _ _ _ _ => some g
  | .vsar g _ _ _ _ _ => some g
  | .vcmp g _ _ _ _ _ _ => some g
  | .vsel g _ _ _ _ _ => some g
  | .vcvt g _ _ _ _ _ _ => some g
  | .vpack g _ _ _ _ _ _ => some g
  | .vunpk g _ _ _ _ _ => some g
  | .vbcast g _ _ _ _ => some g
  | .vmovs g _ _ _ _ => some g
  | .vperm g _ _ _ _ => some g
  | .vshuf g _ _ _ _ => some g
  | .vredsum g _ _ _ _ _ => some g
  | .vredmax g _ _ _ _ => some g
  | .vredmin g _ _ _ _ => some g
  | .vscan g _ _ _ _ _ _ => some g
  | .vdot g _ _ _ _ _ _ _ _ => some g
  | .vclamp g _ _ _ _ _ _ => some g
  | .vround g _ _ _ _ _ => some g
  | .vmov g _ _ _ => some g
  | .vmovi g _ _ _ _ => some g
  | .vpopc g _ _ _ _ => some g
  | .vcomp g _ _ _ => some g
  | .vexpnd g _ _ _ => some g
  | .bload g _ _ _ _ => some g
  | .bquery g _ _ => some g
  | .mma g _ _ _ _ _ => some g
  | .mmax g _ _ _ _ _ => some g
  | .accz g _ => some g
  | .accanch g _ _ => some g
  | .accout g _ _ _ _ _ _ => some g
  | .accadd g _ _ => some g
  | .accst g _ _ _ _ => some g
  | .accld g _ _ _ _ => some g
  | .tmov g _ _ => some g
  | .tmovTr g _ _ => some g
  | .tcvt g _ _ _ _ _ => some g
  | .tzero g _ => some g
  | .tldv g _ _ _ => some g
  | .tstv g _ _ _ => some g
  | .tgetsc g _ _ _ => some g
  | .tsetsc g _ _ _ => some g
  | .mfence g => some g
  | .mxstat g _ _ => some g
  | .mxsend g _ _ _ _ _ _ _ => some g
  | .capmk g _ _ => some g
  | .caprev g _ => some g
  | .trap g _ => some g
  | .eret g => some g
  | .sysrd g _ _ => some g
  | .syswr g _ _ => some g
  | .spurge g _ _ _ _ => some g
  | .winset g _ _ _ _ => some g
  | .fmtset g _ _ _ => some g
  | .cntrd g _ _ => some g
  | .attest g _ _ _ => some g
  | .dbgwp g _ _ _ _ => some g
  | .dbgstep g _ _ _ => some g
  | .dbgstop g _ _ _ => some g
  | .snap g _ => some g
  | .keywipe g _ => some g
  | .fuserd g _ _ => some g
  | .unlock g _ _ => some g
  | .dbgcapGrant g _ _ => some g
  | .dbgcapRevoke g => some g
  | .joinTimeout _ _ => none
  | .msgrecvTimeout _ _ => none
  | .fenceETimeout _ _ => none
  | .fenceXTimeout _ _ => none
  | .bararrTimeout _ _ => none
  | .barwaitTimeout _ _ => none
  | .barrierPhaseComplete _ => none
  | .waitRecheck _ _ => none
  | .waitTimeout _ _ => none
  | .bputCommand _ => none
  | .bdropCommand _ => none
  | .dbgstepTimeout _ _ => none
  | .stepEnd _ _ => none
  | .sluiceGrant _ _ => none
  | .commitComplete _ _ => none
  | .exclusiveGrant _ _ => none
  | .preemptionRequest _ => none
  | .taskResume _ => none
  | .messageDelivery _ => none
  | .messageUndeliverable _ => none
  | .engineCommit _ _ => none
  | .panApplication _ => none
  | .brineApplication _ => none
  | .brineSendHome _ _ => none
  | .crystallize _ _ => none
  | .remoteGet _ _ _ _ _ => none
  | .remotePut _ _ _ _ _ => none
  | .remoteRpan _ _ _ _ _ _ => none
  | .remoteAck _ _ _ _ => none
  | .remoteAckTimeout _ => none
  | .l1Eviction _ _ => none
  | .l2Eviction _ => none
  | .coreLoopTake _ => none
  | .gangMemberStart _ => none
  | .taskComplete _ => none
  | .entryTake _ => none
  | .queueSlotTake _ => none
  | .queueEvict _ => none
  | .arbiterVisit => none
  | .registerWrite _ _ _ _ => none
  | .hostMemoryAccess _ _ _ _ _ => none
  | .bridgeRelay _ _ _ => none
  | .queueEnable _ => none
  | .queueDisable _ => none
  | .stailWrite _ _ => none
  | .cheadWrite _ _ => none
  | .queueReset _ => none
  | .resetLinkEpoch _ => none
  | .cmdUnassigned _ _ => none
  | .mkspace _ => none
  | .setpeer _ => none
  | .setqos _ => none
  | .map _ => none
  | .unmap _ => none
  | .mapreg _ => none
  | .replay _ => none
  | .kill _ => none
  | .migrate _ => none
  | .migrationLineCopy _ _ => none
  | .fring _ => none
  | .rmspace _ => none
  | .hotpol _ => none
  | .rtwrite _ => none
  | .hotnessPeriod _ => none
  | .dring _ => none
  | .snaprd _ => none
  | .profbuf _ => none
  | .reclog _ => none
  | .rerun _ => none
  | .xtrig _ => none
  | .stopBroadcast _ _ => none
  | .stopRecord _ => none
  | .replayDivergence _ => none
  | .profilePeriod => none
  | .pwrset _ => none
  | .fwload _ => none
  | .fwswitch _ => none
  | .fwReady => none
  | .handoverTimeout => none
  | .rasring _ => none
  | .diereset _ => none
  | .mreset _ => none
  | .moduleReset _ => none
  | .dieError _ => none
  | .dieResetTimeout _ => none
  | .firmwareWatchdog => none
  | .powerArbiterTick _ _ => none
  | .thermalHold _ _ => none
  | .thermalRelease _ _ => none
  | .thermalTrip _ _ => none
  | .patrolScrub _ _ _ => none
  | .jobset _ => none
  | .jobclr _ => none
  | .engineInstructionCompleted _ _ => none
  | .attestRecordWritten _ => none
  | .laneRepair _ _ => none

/-- Well-formed: has an encoding, in slot `own` of a fetch line. -/
def Instr.wf (own : Nat) : Instr → Bool
  | .nop g => g.ok
  | .mov g _ _ => g.ok
  | .movi g _ _ => g.ok
  | .movhi g _ _ _ => g.ok
  | .add g _ _ _ => g.ok
  | .addi g _ _ _ => g.ok
  | .sub g _ _ _ => g.ok
  | .neg g _ _ => g.ok
  | .mul g _ _ _ => g.ok
  | .mulh g _ _ _ => g.ok
  | .mulhn g _ _ _ => g.ok
  | .div g _ _ _ => g.ok
  | .divn g _ _ _ => g.ok
  | .rem g _ _ _ => g.ok
  | .remn g _ _ _ => g.ok
  | .madd g _ _ _ _ => g.ok
  | .and g _ _ _ => g.ok
  | .andi g _ _ _ => g.ok
  | .or g _ _ _ => g.ok
  | .ori g _ _ _ => g.ok
  | .xor g _ _ _ => g.ok
  | .xori g _ _ _ => g.ok
  | .andn g _ _ _ => g.ok
  | .not g _ _ => g.ok
  | .shl g _ _ _ => g.ok
  | .shli g _ _ _ => g.ok
  | .shr g _ _ _ => g.ok
  | .shri g _ _ _ => g.ok
  | .sar g _ _ _ => g.ok
  | .sari g _ _ _ => g.ok
  | .rol g _ _ _ => g.ok
  | .roli g _ _ _ => g.ok
  | .cmp g c _ _ _ => g.ok && c.int
  | .cmpi g c _ _ _ => g.ok && c.int
  | .sel g _ _ _ _ => g.ok
  | .min g _ _ _ => g.ok
  | .max g _ _ _ => g.ok
  | .minn g _ _ _ => g.ok
  | .maxn g _ _ _ => g.ok
  | .clz g _ _ => g.ok
  | .ctz g _ _ => g.ok
  | .popc g _ _ => g.ok
  | .ext g t _ _ => g.ok && t.int64
  | .bfx g _ _ pos len _ => g.ok && bitField pos len
  | .bfi g _ _ _ pos len => g.ok && bitField pos len
  | .lea g _ m => g.ok && m.ok
  | .plog g _ _ _ _ => g.ok
  | .fadd g t _ _ _ _ => g.ok && t.scalarFloat
  | .fsub g t _ _ _ _ => g.ok && t.scalarFloat
  | .fmul g t _ _ _ _ => g.ok && t.scalarFloat
  | .ffma g t _ _ _ _ _ => g.ok && t.scalarFloat
  | .fdiv g t _ _ _ _ => g.ok && t.scalarFloat
  | .fsqrt g t _ _ _ => g.ok && t.scalarFloat
  | .fmin g t _ _ _ => g.ok && t.scalarFloat
  | .fmax g t _ _ _ => g.ok && t.scalarFloat
  | .fcvt g t s _ _ _ => g.ok && t.anyFloat && s.anyFloat
  | .fcvti g t s _ _ _ => g.ok && t.int64 && s.anyFloat
  | .icvtf g t s _ _ _ => g.ok && t.anyFloat && s.int64
  | .fcmp g t c _ _ _ => g.ok && t.scalarFloat && c.float
  | .br g _ slot => g.ok && slotOk slot
  | .bri g _ => g.ok
  | .call g _ _ slot => g.ok && slotOk slot
  | .calli g _ _ => g.ok
  | .loop g _ off slot _ => g.ok && slotOk slot && bodyAfter own off slot
  | .loopi g _ off slot _ => g.ok && slotOk slot && bodyAfter own off slot
  | .lbrk g _ => g.ok
  | .lsave g d _ => g.ok && fits d 3
  | .lrest g _ a => g.ok && fits a 3
  | .exit g => g.ok
  | .spawn g _ _ _ slot => g.ok && slotOk slot
  | .join g _ _ => g.ok
  | .cut g => g.ok
  | .msgsend g _ _ b => g.ok && fits b 8
  | .msgrecv g d a => g.ok && fits d 8 && outside d 8 a
  | .ld g t _ _ _ m => g.ok && t.int64 && m.ok
  | .st g t h _ m => g.ok && t.int64 && h.store && m.ok
  | .ldv g _ _ _ _ m _ => g.ok && m.ok
  | .stv g _ h _ m _ => g.ok && h.store && m.ok
  | .ldvs g _ _ _ _ _ _ _ _ => g.ok
  | .stvs g _ h _ _ _ _ _ => g.ok && h.store
  | .ldvg g _ _ _ _ _ _ sc _ _ => g.ok && scaleOk sc
  | .stvg g _ h _ _ _ sc _ _ => g.ok && h.store && scaleOk sc
  | .ldt g _ _ _ m _ => g.ok && m.ok
  | .ldtCol g _ _ _ m _ => g.ok && m.ok
  | .stt g h _ m _ => g.ok && h.store && m.ok
  | .sttCol g h _ m _ => g.ok && h.store && m.ok
  | .pref g _ m => g.ok && m.ok
  | .linewb g h m => g.ok && h.store && m.ok
  | .copy g _ d _ _ c => g.ok && outside c 1 d
  | .copyDigest g _ d _ _ c => g.ok && fits c 2 && outside c 2 d
  | .copy2 g _ d _ _ c => g.ok && fits c 4 && outside c 4 d
  | .copy3 g _ d _ _ c => g.ok && fits c 7 && outside c 7 d
  | .get g _ _ _ _ c => g.ok && fits c 2
  | .put g _ _ _ _ c => g.ok && fits c 2
  | .rpan g _ m _ _ b _ _ => g.ok && fits b (2 ^ m.toNat)
  | .fenceE g _ _ _ => g.ok
  | .fenceX g _ _ => g.ok
  | .chk g _ _ => g.ok
  | .bararr g _ _ => g.ok
  | .barwait g _ _ _ => g.ok
  | .bartest g _ _ _ => g.ok
  | .waitz g _ _ m => g.ok && m.ok
  | .waitne g _ _ m _ => g.ok && m.ok
  | .panr g _ m _ _ b _ _ => g.ok && fits b (2 ^ m.toNat)
  | .panrv g _ m _ _ b _ _ => g.ok && fits b (2 ^ m.toNat)
  | .pann g _ m _ _ b _ => g.ok && fits b (2 ^ m.toNat)
  | .panv g _ _ _ _ c _ _ => g.ok && pair c
  | .panvr g _ d _ _ c _ _ => g.ok && pair c && pair d
  | .panld g _ _ => g.ok
  | .panq g _ _ => g.ok
  | .pandrop g _ => g.ok
  | .vadd g t rm _ _ _ _ => g.ok && t.lane && rmOn t rm
  | .vsub g t rm _ _ _ _ => g.ok && t.lane && rmOn t rm
  | .vmul g t rm _ _ _ _ => g.ok && t.lane && rmOn t rm
  | .vfma g t rm _ _ _ _ _ => g.ok && t.lane && rmOn t rm
  | .vmin g t _ _ _ _ => g.ok && t.lane
  | .vmax g t _ _ _ _ => g.ok && t.lane
  | .vabs g t _ _ _ => g.ok && t.lane
  | .vneg g t _ _ _ => g.ok && t.lane
  | .vdiv g t rm _ _ _ _ => g.ok && t.lane && rmOn t rm
  | .vsqrt g t _ _ _ _ => g.ok && t.flt
  | .vrsq g t _ _ _ _ => g.ok && t.flt
  | .vexp2 g t _ _ _ _ => g.ok && t.flt
  | .vlog2 g t _ _ _ _ => g.ok && t.flt
  | .vand g t _ _ _ _ => g.ok && t.int32
  | .vor g t _ _ _ _ => g.ok && t.int32
  | .vxor g t _ _ _ _ => g.ok && t.int32
  | .vshl g t _ _ _ b => g.ok && t.int32 && b.ok t
  | .vshr g t _ _ _ b => g.ok && t.int32 && b.ok t
  | .vsar g t _ _ _ b => g.ok && t.int32 && b.ok t
  | .vcmp g t c _ _ _ _ => g.ok && t.lane && c.on t
  | .vsel g _ _ _ _ _ => g.ok
  | .vcvt g t s _ _ _ _ => g.ok && cvtPair t s
  | .vpack g t p _ _ _ _ => g.ok && t.packed && part t p
  | .vunpk g t p _ _ _ => g.ok && t.packed && part t p
  | .vbcast g t _ _ _ => g.ok && t.lane
  | .vmovs g t _ _ _ => g.ok && t.lane
  | .vperm g _ _ _ _ => g.ok
  | .vshuf g _ _ _ _ => g.ok
  | .vredsum g t rm _ _ _ => g.ok && t.lane && rmOn t rm
  | .vredmax g t _ _ _ => g.ok && t.lane
  | .vredmin g t _ _ _ => g.ok && t.lane
  | .vscan g t rm op _ _ _ => g.ok && t.lane && rmOn t rm && scanRm op rm
  | .vdot g t s rm _ _ _ _ _ => g.ok && dotPair t s && rmOn t rm
  | .vclamp g t _ _ _ _ _ => g.ok && t.lane
  | .vround g t _ _ _ _ => g.ok && t.flt
  | .vmov g _ _ _ => g.ok
  | .vmovi g t _ _ imm => g.ok && t.lane && movImm t imm
  | .vpopc g t _ _ _ => g.ok && t.int32
  | .vcomp g _ _ _ => g.ok
  | .vexpnd g _ _ _ => g.ok
  | .bload g h fmt _ m => g.ok && h.store && decide (fmt.toNat ≤ 6) && m.ok
  | .bquery g _ _ => g.ok
  | .mma g nm af d _ _ => g.ok && quarters d nm && decide (af.toNat ≤ 6)
  | .mmax g nm af d _ _ => g.ok && quarters d nm && decide (af.toNat ≤ 6)
  | .accz g _ => g.ok
  | .accanch g _ _ => g.ok
  | .accout g t _ _ _ _ _ => g.ok && t.readout
  | .accadd g _ _ => g.ok
  | .accst g h _ m row => g.ok && h.store && m.ok && decide (row.toNat ≤ 16)
  | .accld g h _ m row => g.ok && h.store && m.ok && decide (row.toNat ≤ 16)
  | .tmov g _ _ => g.ok
  | .tmovTr g _ _ => g.ok
  | .tcvt g t s _ _ _ => g.ok && t.tile && s.tile
  | .tzero g _ => g.ok
  | .tldv g _ _ _ => g.ok
  | .tstv g _ _ _ => g.ok
  | .tgetsc g _ _ _ => g.ok
  | .tsetsc g _ _ _ => g.ok
  | .mfence g => g.ok
  | .mxstat g _ _ => g.ok
  | .mxsend g _ kind _ _ _ b c => g.ok && dropOperands kind b c
  | .capmk g _ _ => g.ok
  | .caprev g _ => g.ok
  | .trap g _ => g.ok
  | .eret g => g.ok
  | .sysrd g _ _ => g.ok
  | .syswr g r _ => g.ok && r.writable
  | .spurge g _ _ _ _ => g.ok
  | .winset g _ _ _ _ => g.ok
  | .fmtset g _ _ _ => g.ok
  | .cntrd g _ _ => g.ok
  | .attest g _ _ _ => g.ok
  | .dbgwp g _ _ _ _ => g.ok
  | .dbgstep g _ _ _ => g.ok
  | .dbgstop g _ _ _ => g.ok
  | .snap g _ => g.ok
  | .keywipe g _ => g.ok
  | .fuserd g _ _ => g.ok
  | .unlock g _ _ => g.ok
  | .dbgcapGrant g _ _ => g.ok
  | .dbgcapRevoke g => g.ok
  | .joinTimeout _ _ => false
  | .msgrecvTimeout _ _ => false
  | .fenceETimeout _ _ => false
  | .fenceXTimeout _ _ => false
  | .bararrTimeout _ _ => false
  | .barwaitTimeout _ _ => false
  | .barrierPhaseComplete _ => false
  | .waitRecheck _ _ => false
  | .waitTimeout _ _ => false
  | .bputCommand _ => false
  | .bdropCommand _ => false
  | .dbgstepTimeout _ _ => false
  | .stepEnd _ _ => false
  | .sluiceGrant _ _ => false
  | .commitComplete _ _ => false
  | .exclusiveGrant _ _ => false
  | .preemptionRequest _ => false
  | .taskResume _ => false
  | .messageDelivery _ => false
  | .messageUndeliverable _ => false
  | .engineCommit _ _ => false
  | .panApplication _ => false
  | .brineApplication _ => false
  | .brineSendHome _ _ => false
  | .crystallize _ _ => false
  | .remoteGet _ _ _ _ _ => false
  | .remotePut _ _ _ _ _ => false
  | .remoteRpan _ _ _ _ _ _ => false
  | .remoteAck _ _ _ _ => false
  | .remoteAckTimeout _ => false
  | .l1Eviction _ _ => false
  | .l2Eviction _ => false
  | .coreLoopTake _ => false
  | .gangMemberStart _ => false
  | .taskComplete _ => false
  | .entryTake _ => false
  | .queueSlotTake _ => false
  | .queueEvict _ => false
  | .arbiterVisit => false
  | .registerWrite _ _ _ _ => false
  | .hostMemoryAccess _ _ _ _ _ => false
  | .bridgeRelay _ _ _ => false
  | .queueEnable _ => false
  | .queueDisable _ => false
  | .stailWrite _ _ => false
  | .cheadWrite _ _ => false
  | .queueReset _ => false
  | .resetLinkEpoch _ => false
  | .cmdUnassigned _ _ => false
  | .mkspace _ => false
  | .setpeer _ => false
  | .setqos _ => false
  | .map _ => false
  | .unmap _ => false
  | .mapreg _ => false
  | .replay _ => false
  | .kill _ => false
  | .migrate _ => false
  | .migrationLineCopy _ _ => false
  | .fring _ => false
  | .rmspace _ => false
  | .hotpol _ => false
  | .rtwrite _ => false
  | .hotnessPeriod _ => false
  | .dring _ => false
  | .snaprd _ => false
  | .profbuf _ => false
  | .reclog _ => false
  | .rerun _ => false
  | .xtrig _ => false
  | .stopBroadcast _ _ => false
  | .stopRecord _ => false
  | .replayDivergence _ => false
  | .profilePeriod => false
  | .pwrset _ => false
  | .fwload _ => false
  | .fwswitch _ => false
  | .fwReady => false
  | .handoverTimeout => false
  | .rasring _ => false
  | .diereset _ => false
  | .mreset _ => false
  | .moduleReset _ => false
  | .dieError _ => false
  | .dieResetTimeout _ => false
  | .firmwareWatchdog => false
  | .powerArbiterTick _ _ => false
  | .thermalHold _ _ => false
  | .thermalRelease _ _ => false
  | .thermalTrip _ _ => false
  | .patrolScrub _ _ _ => false
  | .jobset _ => false
  | .jobclr _ => false
  | .engineInstructionCompleted _ _ => false
  | .attestRecordWritten _ => false
  | .laneRepair _ _ => false

end Sys2Proof
end

