-- ==== Sys2Proof/Decode.lean ====
section
/-! DEFINITION. The instruction word (R179 to R189): its fields, the eight low-field formats, the decoder, which
rejects by the reason of R186, and the encoder, written from the same tables. -/

namespace Sys2Proof

/-- Why a word is not an instruction (R186). -/
inductive Illegal where
  /-- OP is not listed, or all 96 bits are one -/
  | opcode
  /-- MIN is not listed for OP -/
  | minor
  /-- a register field has a bit above those its file uses -/
  | register
  /-- a field or bit that must be zero is not -/
  | zero
  /-- PN = 1 with PRED = 0 -/
  | predicate
  /-- a code is reserved or out of range in its field -/
  | code
  /-- the entry does not accept the operands -/
  | operand
  deriving DecidableEq, Repr

/-- Table 7.2. -/
structure Fields where
  op : BitVec 8
  min : BitVec 6
  pn : Bool
  pred : BitVec 3
  d : BitVec 6
  a : BitVec 6
  b : BitVec 6
  c : BitVec 6
  mod : BitVec 6
  low : BitVec 48
  deriving DecidableEq, Repr

def Fields.word (f : Fields) : BitVec 96 :=
  f.op ++ f.min ++ BitVec.ofBool f.pn ++ f.pred ++ f.d ++ f.a ++ f.b ++ f.c ++ f.mod ++ f.low

def Fields.ofWord (w : BitVec 96) : Fields :=
  { op := w.extractLsb' 88 8, min := w.extractLsb' 82 6, pn := w.getLsbD 81, pred := w.extractLsb' 78 3,
    d := w.extractLsb' 72 6, a := w.extractLsb' 66 6, b := w.extractLsb' 60 6, c := w.extractLsb' 54 6,
    mod := w.extractLsb' 48 6, low := w.extractLsb' 0 48 }

abbrev Dec := Except Illegal Instr

def need (b : Bool) (e : Illegal) (k : Dec) : Dec := if b then k else .error e

/-- A register field of an `n`-bit file, or another field of `n` bits (R180). -/
def reg (n : Nat) (x : BitVec 6) (k : BitVec n → Dec) : Dec :=
  if x.toNat < 2 ^ n then k (x.setWidth n) else .error .register

/-- A coded field. -/
def code {α : Type} (o : Option α) (k : α → Dec) : Dec :=
  match o with
  | some a => k a
  | none => .error .code

/-- The low `n` bits of the low field; the others are zero. -/
def low (n : Nat) (x : BitVec 48) (k : BitVec n → Dec) : Dec :=
  if x.toNat < 2 ^ n then k (x.setWidth n) else .error .zero

/-- The low `n` bits of IMM32; the others are zero. -/
def sub (n : Nat) (x : BitVec 32) (k : BitVec n → Dec) : Dec :=
  if x.toNat < 2 ^ n then k (x.setWidth n) else .error .zero

/-- A signed immediate within 16 bits (ACCANCH, R300). -/
def slow16 (x : BitVec 48) (k : BitVec 16 → Dec) : Dec :=
  if (x.setWidth 16).signExtend 48 = x then k (x.setWidth 16) else .error .operand

/-! ### Codes -/

def Ty.code : Ty → BitVec 6
  | .i8 => 0 | .i16 => 1 | .i32 => 2 | .i64 => 3 | .w8 => 4 | .w16 => 5 | .w32 => 6 | .w64 => 7
  | .f16 => 8 | .f32 => 9 | .f64 => 10 | .bf16 => 11 | .e2m1 => 12 | .e4m3 => 13 | .e5m2 => 14 | .s4e => 15

def Ty.ofCode (c : BitVec 6) : Option Ty :=
  match c.toNat with
  | 0 => some .i8 | 1 => some .i16 | 2 => some .i32 | 3 => some .i64
  | 4 => some .w8 | 5 => some .w16 | 6 => some .w32 | 7 => some .w64
  | 8 => some .f16 | 9 => some .f32 | 10 => some .f64 | 11 => some .bf16
  | 12 => some .e2m1 | 13 => some .e4m3 | 14 => some .e5m2 | 15 => some .s4e
  | _ => none

def Cond.code : Cond → BitVec 6
  | .eq => 0 | .ne => 1 | .lt => 2 | .le => 3 | .gt => 4 | .ge => 5 | .ltu => 6 | .leu => 7 | .gtu => 8
  | .geu => 9 | .un => 10

def Cond.ofCode (c : BitVec 6) : Option Cond :=
  match c.toNat with
  | 0 => some .eq | 1 => some .ne | 2 => some .lt | 3 => some .le | 4 => some .gt | 5 => some .ge
  | 6 => some .ltu | 7 => some .leu | 8 => some .gtu | 9 => some .geu | 10 => some .un
  | _ => none

def RM.code : RM → BitVec 3
  | .rne => 0 | .rtz => 1 | .rdn => 2 | .rup => 3 | .rsh => 4

def RM.ofCode (c : BitVec 3) : Option RM :=
  match c.toNat with
  | 0 => some .rne | 1 => some .rtz | 2 => some .rdn | 3 => some .rup | 4 => some .rsh
  | _ => none

def Hint.code : Hint → BitVec 4
  | .normal => 0 | .stream => 1 | .keep => 2 | .noalloc => 3

def Hint.ofCode (c : BitVec 4) : Option Hint :=
  match c.toNat with
  | 0 => some .normal | 1 => some .stream | 2 => some .keep | 3 => some .noalloc
  | _ => none

def VW.code : VW → BitVec 6
  | .b8 => 0 | .b16 => 1 | .b32 => 2

def VW.ofCode (c : BitVec 6) : Option VW :=
  match c.toNat with
  | 0 => some .b8 | 1 => some .b16 | 2 => some .b32
  | _ => none

def ScanOp.code : ScanOp → BitVec 2
  | .add => 0 | .max => 1 | .min => 2

def ScanOp.ofCode (c : BitVec 2) : Option ScanOp :=
  match c.toNat with
  | 0 => some .add | 1 => some .max | 2 => some .min
  | _ => none

def MxKind.code : MxKind → BitVec 4
  | .bput4 => 0 | .bput8 => 1 | .bput16 => 2 | .bdrop => 3

def MxKind.ofCode (c : BitVec 4) : Option MxKind :=
  match c.toNat with
  | 0 => some .bput4 | 1 => some .bput8 | 2 => some .bput16 | 3 => some .bdrop
  | _ => none

def SysReg.code : SysReg → BitVec 8
  | .spaceid => 0 | .ctxid => 1 | .ctxgen => 2 | .chunklen => 3 | .chunkseq => 4 | .retired => 5 | .trapvec => 6
  | .trapcause => 7 | .trappc => 8 | .trapaddr => 9 | .trapinfo => 10 | .seed => 11 | .ftz => 12
  | .dbgcaps => 13 | .profk => 14

def SysReg.ofCode (c : BitVec 8) : Option SysReg :=
  match c.toNat with
  | 0 => some .spaceid | 1 => some .ctxid | 2 => some .ctxgen | 3 => some .chunklen | 4 => some .chunkseq
  | 5 => some .retired | 6 => some .trapvec | 7 => some .trapcause | 8 => some .trappc | 9 => some .trapaddr
  | 10 => some .trapinfo | 11 => some .seed | 12 => some .ftz | 13 => some .dbgcaps | 14 => some .profk
  | _ => none

/-- MIN of WAITZ and WAITNE: w32 or w64 (Table 7.10). -/
def wideCode (wide : Bool) : BitVec 6 := if wide then 7 else 6

def wideOfCode (c : BitVec 6) : Option Bool :=
  match c.toNat with
  | 6 => some false
  | 7 => some true
  | _ => none

/-! ### The low-field formats (Table 7.3) -/

def mLow (disp : BitVec 32) (hint : BitVec 4) (inv : Bool) : BitVec 48 :=
  disp ++ hint ++ 0#3 ++ BitVec.ofBool inv ++ 0#8
def mDisp (x : BitVec 48) : BitVec 32 := x.extractLsb' 16 32
def mHint (x : BitVec 48) : BitVec 4 := x.extractLsb' 12 4
def mInv (x : BitVec 48) : Bool := x.getLsbD 8
/-- COL and bits [7:0] are zero (R236). -/
def mRest (x : BitVec 48) : Bool := x.extractLsb' 9 3 == 0 && x.extractLsb' 0 8 == 0

def xLow (nmask : BitVec 4) (af : BitVec 3) (mode : BitVec 4) : BitVec 48 := nmask ++ 0#1 ++ af ++ mode ++ 0#36
def xNmask (x : BitVec 48) : BitVec 4 := x.extractLsb' 44 4
def xAfmt (x : BitVec 48) : BitVec 4 := x.extractLsb' 40 4
def xMode (x : BitVec 48) : BitVec 4 := x.extractLsb' 36 4
def xRest (x : BitVec 48) : Bool := x.extractLsb' 0 36 == 0

def cOff (x : BitVec 48) : BitVec 45 := x.extractLsb' 3 45
def cSlot (x : BitVec 48) : BitVec 3 := x.extractLsb' 0 3

def lLow (off : BitVec 24) (slot : BitVec 3) (count : BitVec 20) : BitVec 48 := off ++ slot ++ 0#1 ++ count
def lOff (x : BitVec 48) : BitVec 24 := x.extractLsb' 24 24
def lSlot (x : BitVec 48) : BitVec 3 := x.extractLsb' 21 3
def lCount (x : BitVec 48) : BitVec 20 := x.extractLsb' 0 20
def lRest (x : BitVec 48) : Bool := !x.getLsbD 20

def eLow (slot : BitVec 8) (col : BitVec 3) : BitVec 48 := slot ++ 0#28 ++ col ++ 0#9
def eSlot (x : BitVec 48) : BitVec 8 := x.extractLsb' 40 8
def eCol (x : BitVec 48) : BitVec 3 := x.extractLsb' 9 3
def eRest (x : BitVec 48) : Bool := x.extractLsb' 12 28 == 0 && x.extractLsb' 0 9 == 0

def vLow (rm : BitVec 3) (mk : Option SReg) (imm : BitVec 32) : BitVec 48 :=
  rm ++ BitVec.ofBool mk.isSome ++ mk.getD 0 ++ 0#6 ++ imm
def vRm (x : BitVec 48) : BitVec 3 := x.extractLsb' 45 3
def vMk (x : BitVec 48) : Bool := x.getLsbD 44
def vMs (x : BitVec 48) : BitVec 6 := x.extractLsb' 38 6
def vImm (x : BitVec 48) : BitVec 32 := x.extractLsb' 0 32
def vRest (x : BitVec 48) : Bool := x.extractLsb' 32 6 == 0

/-- The lane mask of format V: MK = 0 requires MS = 0. -/
def maskField (x : BitVec 48) (k : Option SReg → Dec) : Dec :=
  if vMk x then k (some (vMs x)) else need (vMs x == 0) .zero (k none)

/-- Last operand of a vector shift: field B and IMM32 (R276, R278). -/
def VShift.regField : VShift → BitVec 6
  | .reg b => b.setWidth 6
  | .imm _ => 0
def VShift.immField : VShift → BitVec 32
  | .reg _ => 0
  | .imm n => 1#24 ++ 0#3 ++ n

def vshift (b : BitVec 6) (x : BitVec 32) (k : VShift → Dec) : Dec :=
  if x.getLsbD 8 then
    need (b == 0 && x == (VShift.imm (x.extractLsb' 0 5)).immField) .zero (k (.imm (x.extractLsb' 0 5)))
  else need (x == 0) .zero (reg 5 b fun r => k (.reg r))

def LaneIx.regField : LaneIx → BitVec 6
  | .reg b => b
  | .imm _ => 0
def LaneIx.immField : LaneIx → BitVec 32
  | .reg _ => 0
  | .imm n => 1#24 ++ 0#2 ++ n

def laneIx (b : BitVec 6) (x : BitVec 32) (k : LaneIx → Dec) : Dec :=
  if x.getLsbD 8 then
    need (b == 0 && x == (LaneIx.imm (x.extractLsb' 0 6)).immField) .zero (k (.imm (x.extractLsb' 0 6)))
  else need (x == 0) .zero (k (.reg b))

def Shuf.regField : Shuf → BitVec 6
  | .ziplo b | .ziphi b | .even b | .odd b => b.setWidth 6
  | .rot _ | .rev | .xor _ => 0
/-- IMM32[2:0] is the pattern, [13:8] is r (Table 10.4). -/
def Shuf.immField : Shuf → BitVec 32
  | .ziplo _ => 0
  | .ziphi _ => 1
  | .even _ => 2
  | .odd _ => 3
  | .rot r => 0#18 ++ r ++ 4#8
  | .rev => 5
  | .xor r => 0#18 ++ r ++ 6#8

def shuf (b : BitVec 6) (x : BitVec 32) (k : Shuf → Dec) : Dec :=
  match (x.extractLsb' 0 8).toNat with
  | 0 => need (x == 0) .zero (reg 5 b fun r => k (.ziplo r))
  | 1 => need (x == 1) .zero (reg 5 b fun r => k (.ziphi r))
  | 2 => need (x == 2) .zero (reg 5 b fun r => k (.even r))
  | 3 => need (x == 3) .zero (reg 5 b fun r => k (.odd r))
  | 4 => need (b == 0 && x.extractLsb' 14 18 == 0) .zero (k (.rot (x.extractLsb' 8 6)))
  | 5 => need (b == 0 && x == 5) .zero (k .rev)
  | 6 => need (b == 0 && x.extractLsb' 14 18 == 0) .zero (k (.xor (x.extractLsb' 8 6)))
  | _ => .error .code

/-! ### Decoding -/

/-- Operation codes 0x00 to 0x3f (Tables 7.6 to 7.10). -/
def decodeScalar (f : Fields) (g : Guard) : Dec :=
  match f.op.toNat with
  | 0x00 => need (f.min == 0) .minor <| need (f.d == 0 && f.a == 0 && f.b == 0 && f.c == 0 && f.mod == 0 && f.low == 0) .zero <| .ok (.nop g)
  | 0x01 => need (f.min == 0) .minor <| need (f.b == 0 && f.c == 0 && f.mod == 0 && f.low == 0) .zero <| .ok (.mov g f.d f.a)
  | 0x02 => need (f.min == 0) .minor <| need (f.a == 0 && f.b == 0 && f.c == 0 && f.mod == 0) .zero <| .ok (.movi g f.d f.low)
  | 0x03 => need (f.min == 0) .minor <| need (f.b == 0 && f.c == 0 && f.mod == 0) .zero <| low 16 f.low fun imm => .ok (.movhi g f.d f.a imm)
  | 0x04 => need (f.min == 0) .minor <| need (f.c == 0 && f.mod == 0 && f.low == 0) .zero <| .ok (.add g f.d f.a f.b)
  | 0x05 => need (f.min == 0) .minor <| need (f.b == 0 && f.c == 0 && f.mod == 0) .zero <| .ok (.addi g f.d f.a f.low)
  | 0x06 => need (f.min == 0) .minor <| need (f.c == 0 && f.mod == 0 && f.low == 0) .zero <| .ok (.sub g f.d f.a f.b)
  | 0x07 => need (f.min == 0) .minor <| need (f.b == 0 && f.c == 0 && f.mod == 0 && f.low == 0) .zero <| .ok (.neg g f.d f.a)
  | 0x08 => need (f.min == 0) .minor <| need (f.c == 0 && f.mod == 0 && f.low == 0) .zero <| .ok (.mul g f.d f.a f.b)
  | 0x09 => need (f.min == 0) .minor <| need (f.c == 0 && f.mod == 0 && f.low == 0) .zero <| .ok (.mulh g f.d f.a f.b)
  | 0x0a => need (f.min == 0) .minor <| need (f.c == 0 && f.mod == 0 && f.low == 0) .zero <| .ok (.mulhn g f.d f.a f.b)
  | 0x0b => need (f.min == 0) .minor <| need (f.c == 0 && f.mod == 0 && f.low == 0) .zero <| .ok (.div g f.d f.a f.b)
  | 0x0c => need (f.min == 0) .minor <| need (f.c == 0 && f.mod == 0 && f.low == 0) .zero <| .ok (.divn g f.d f.a f.b)
  | 0x0d => need (f.min == 0) .minor <| need (f.c == 0 && f.mod == 0 && f.low == 0) .zero <| .ok (.rem g f.d f.a f.b)
  | 0x0e => need (f.min == 0) .minor <| need (f.c == 0 && f.mod == 0 && f.low == 0) .zero <| .ok (.remn g f.d f.a f.b)
  | 0x0f => need (f.min == 0) .minor <| need (f.mod == 0 && f.low == 0) .zero <| .ok (.madd g f.d f.a f.b f.c)
  | 0x10 => need (f.min == 0) .minor <| need (f.c == 0 && f.mod == 0 && f.low == 0) .zero <| .ok (.and g f.d f.a f.b)
  | 0x11 => need (f.min == 0) .minor <| need (f.b == 0 && f.c == 0 && f.mod == 0) .zero <| .ok (.andi g f.d f.a f.low)
  | 0x12 => need (f.min == 0) .minor <| need (f.c == 0 && f.mod == 0 && f.low == 0) .zero <| .ok (.or g f.d f.a f.b)
  | 0x13 => need (f.min == 0) .minor <| need (f.b == 0 && f.c == 0 && f.mod == 0) .zero <| .ok (.ori g f.d f.a f.low)
  | 0x14 => need (f.min == 0) .minor <| need (f.c == 0 && f.mod == 0 && f.low == 0) .zero <| .ok (.xor g f.d f.a f.b)
  | 0x15 => need (f.min == 0) .minor <| need (f.b == 0 && f.c == 0 && f.mod == 0) .zero <| .ok (.xori g f.d f.a f.low)
  | 0x16 => need (f.min == 0) .minor <| need (f.c == 0 && f.mod == 0 && f.low == 0) .zero <| .ok (.andn g f.d f.a f.b)
  | 0x17 => need (f.min == 0) .minor <| need (f.b == 0 && f.c == 0 && f.mod == 0 && f.low == 0) .zero <| .ok (.not g f.d f.a)
  | 0x18 => need (f.min == 0) .minor <| need (f.c == 0 && f.mod == 0 && f.low == 0) .zero <| .ok (.shl g f.d f.a f.b)
  | 0x19 => need (f.min == 0) .minor <| need (f.b == 0 && f.c == 0 && f.mod == 0) .zero <| low 6 f.low fun n => .ok (.shli g f.d f.a n)
  | 0x1a => need (f.min == 0) .minor <| need (f.c == 0 && f.mod == 0 && f.low == 0) .zero <| .ok (.shr g f.d f.a f.b)
  | 0x1b => need (f.min == 0) .minor <| need (f.b == 0 && f.c == 0 && f.mod == 0) .zero <| low 6 f.low fun n => .ok (.shri g f.d f.a n)
  | 0x1c => need (f.min == 0) .minor <| need (f.c == 0 && f.mod == 0 && f.low == 0) .zero <| .ok (.sar g f.d f.a f.b)
  | 0x1d => need (f.min == 0) .minor <| need (f.b == 0 && f.c == 0 && f.mod == 0) .zero <| low 6 f.low fun n => .ok (.sari g f.d f.a n)
  | 0x1e => need (f.min == 0) .minor <| need (f.c == 0 && f.mod == 0 && f.low == 0) .zero <| .ok (.rol g f.d f.a f.b)
  | 0x1f => need (f.min == 0) .minor <| need (f.b == 0 && f.c == 0 && f.mod == 0) .zero <| low 6 f.low fun n => .ok (.roli g f.d f.a n)
  | 0x20 => need (f.min == 0) .minor <| need (f.c == 0 && f.low == 0) .zero <| reg 3 f.d fun d => code (Cond.ofCode f.mod) fun c => .ok (.cmp g c d f.a f.b)
  | 0x21 => need (f.min == 0) .minor <| need (f.b == 0 && f.c == 0) .zero <| reg 3 f.d fun d => code (Cond.ofCode f.mod) fun c => .ok (.cmpi g c d f.a f.low)
  | 0x22 => need (f.min == 0) .minor <| need (f.mod == 0 && f.low == 0) .zero <| reg 3 f.c fun c => .ok (.sel g f.d f.a f.b c)
  | 0x23 => need (f.min == 0) .minor <| need (f.c == 0 && f.mod == 0 && f.low == 0) .zero <| .ok (.min g f.d f.a f.b)
  | 0x24 => need (f.min == 0) .minor <| need (f.c == 0 && f.mod == 0 && f.low == 0) .zero <| .ok (.max g f.d f.a f.b)
  | 0x25 => need (f.min == 0) .minor <| need (f.c == 0 && f.mod == 0 && f.low == 0) .zero <| .ok (.minn g f.d f.a f.b)
  | 0x26 => need (f.min == 0) .minor <| need (f.c == 0 && f.mod == 0 && f.low == 0) .zero <| .ok (.maxn g f.d f.a f.b)
  | 0x27 => need (f.min == 0) .minor <| need (f.b == 0 && f.c == 0 && f.mod == 0 && f.low == 0) .zero <| .ok (.clz g f.d f.a)
  | 0x28 => need (f.min == 0) .minor <| need (f.b == 0 && f.c == 0 && f.mod == 0 && f.low == 0) .zero <| .ok (.ctz g f.d f.a)
  | 0x29 => need (f.min == 0) .minor <| need (f.b == 0 && f.c == 0 && f.mod == 0 && f.low == 0) .zero <| .ok (.popc g f.d f.a)
  | 0x2a => need (f.min == 0) .minor <| need (f.b == 0 && f.c == 0 && f.low == 0) .zero <| code (Ty.ofCode f.mod) fun t => .ok (.ext g t f.d f.a)
  | 0x2b => need (f.min == 0) .minor <| need (f.b == 0 && f.c == 0 && f.mod == 0) .zero <| low 14 f.low fun q => .ok (.bfx g f.d f.a (q.extractLsb' 0 6) (q.extractLsb' 6 7) (q.getLsbD 13))
  | 0x2c => need (f.min == 0) .minor <| need (f.c == 0 && f.mod == 0) .zero <| low 13 f.low fun q => .ok (.bfi g f.d f.a f.b (q.extractLsb' 0 6) (q.extractLsb' 6 7))
  | 0x2d => need (f.min == 0) .minor <| need (f.c == 0) .zero <| reg 4 f.mod fun sc => need (mRest f.low && mHint f.low == 0 && !mInv f.low) .zero <| .ok (.lea g f.d ⟨f.a, f.b, sc, mDisp f.low⟩)
  | 0x2e => need (f.min == 0) .minor <| need (f.c == 0 && f.low == 0) .zero <| reg 3 f.d fun d => reg 3 f.a fun a => reg 3 f.b fun b => reg 4 f.mod fun tt => .ok (.plog g d a b tt)
  | 0x2f =>
    match f.min.toNat with
    | 0 => need (f.c == 0) .zero <| code (Ty.ofCode f.mod) fun t => code (RM.ofCode (vRm f.low)) fun rm => need (vRest f.low && !vMk f.low && vMs f.low == 0 && vImm f.low == 0) .zero <| .ok (.fadd g t rm f.d f.a f.b)
    | 1 => need (f.c == 0) .zero <| code (Ty.ofCode f.mod) fun t => code (RM.ofCode (vRm f.low)) fun rm => need (vRest f.low && !vMk f.low && vMs f.low == 0 && vImm f.low == 0) .zero <| .ok (.fsub g t rm f.d f.a f.b)
    | 2 => need (f.c == 0) .zero <| code (Ty.ofCode f.mod) fun t => code (RM.ofCode (vRm f.low)) fun rm => need (vRest f.low && !vMk f.low && vMs f.low == 0 && vImm f.low == 0) .zero <| .ok (.fmul g t rm f.d f.a f.b)
    | 3 => code (Ty.ofCode f.mod) fun t => code (RM.ofCode (vRm f.low)) fun rm => need (vRest f.low && !vMk f.low && vMs f.low == 0 && vImm f.low == 0) .zero <| .ok (.ffma g t rm f.d f.a f.b f.c)
    | 4 => need (f.c == 0) .zero <| code (Ty.ofCode f.mod) fun t => code (RM.ofCode (vRm f.low)) fun rm => need (vRest f.low && !vMk f.low && vMs f.low == 0 && vImm f.low == 0) .zero <| .ok (.fdiv g t rm f.d f.a f.b)
    | 5 => need (f.b == 0 && f.c == 0) .zero <| code (Ty.ofCode f.mod) fun t => code (RM.ofCode (vRm f.low)) fun rm => need (vRest f.low && !vMk f.low && vMs f.low == 0 && vImm f.low == 0) .zero <| .ok (.fsqrt g t rm f.d f.a)
    | 6 => need (f.c == 0) .zero <| code (Ty.ofCode f.mod) fun t => need (vRest f.low && vRm f.low == 0 && !vMk f.low && vMs f.low == 0 && vImm f.low == 0) .zero <| .ok (.fmin g t f.d f.a f.b)
    | 7 => need (f.c == 0) .zero <| code (Ty.ofCode f.mod) fun t => need (vRest f.low && vRm f.low == 0 && !vMk f.low && vMs f.low == 0 && vImm f.low == 0) .zero <| .ok (.fmax g t f.d f.a f.b)
    | 8 => need (f.b == 0 && f.c == 0) .zero <| code (Ty.ofCode f.mod) fun t => code (RM.ofCode (vRm f.low)) fun rm => need (vRest f.low && !vMk f.low && vMs f.low == 0) .zero <| sub 4 (vImm f.low) fun q => code (Ty.ofCode (q.setWidth 6)) fun s => .ok (.fcvt g t s rm f.d f.a)
    | 9 => need (f.b == 0 && f.c == 0) .zero <| code (Ty.ofCode f.mod) fun t => code (RM.ofCode (vRm f.low)) fun rm => need (vRest f.low && !vMk f.low && vMs f.low == 0) .zero <| sub 4 (vImm f.low) fun q => code (Ty.ofCode (q.setWidth 6)) fun s => .ok (.fcvti g t s rm f.d f.a)
    | 10 => need (f.b == 0 && f.c == 0) .zero <| code (Ty.ofCode f.mod) fun t => code (RM.ofCode (vRm f.low)) fun rm => need (vRest f.low && !vMk f.low && vMs f.low == 0) .zero <| sub 4 (vImm f.low) fun q => code (Ty.ofCode (q.setWidth 6)) fun s => .ok (.icvtf g t s rm f.d f.a)
    | 11 => need (f.c == 0) .zero <| reg 3 f.d fun d => code (Ty.ofCode f.mod) fun t => need (vRest f.low && vRm f.low == 0 && !vMk f.low && vMs f.low == 0) .zero <| sub 6 (vImm f.low) fun q => code (Cond.ofCode q) fun c => .ok (.fcmp g t c d f.a f.b)
    | _ => .error .minor
  | 0x30 => need (f.min == 0) .minor <| need (f.d == 0 && f.a == 0 && f.b == 0 && f.c == 0 && f.mod == 0) .zero <| .ok (.br g (cOff f.low) (cSlot f.low))
  | 0x31 => need (f.min == 0) .minor <| need (f.d == 0 && f.b == 0 && f.c == 0 && f.mod == 0 && f.low == 0) .zero <| .ok (.bri g f.a)
  | 0x32 => need (f.min == 0) .minor <| need (f.a == 0 && f.b == 0 && f.c == 0 && f.mod == 0) .zero <| .ok (.call g f.d (cOff f.low) (cSlot f.low))
  | 0x33 => need (f.min == 0) .minor <| need (f.b == 0 && f.c == 0 && f.mod == 0 && f.low == 0) .zero <| .ok (.calli g f.d f.a)
  | 0x34 => need (f.min == 0) .minor <| need (f.d == 0 && f.b == 0 && f.c == 0) .zero <| reg 2 f.mod fun lvl => need (lRest f.low && lCount f.low == 0) .zero <| .ok (.loop g lvl (lOff f.low) (lSlot f.low) f.a)
  | 0x35 => need (f.min == 0) .minor <| need (f.d == 0 && f.a == 0 && f.b == 0 && f.c == 0) .zero <| reg 2 f.mod fun lvl => need (lRest f.low) .zero <| .ok (.loopi g lvl (lOff f.low) (lSlot f.low) (lCount f.low))
  | 0x36 => need (f.min == 0) .minor <| need (f.d == 0 && f.a == 0 && f.b == 0 && f.c == 0 && f.low == 0) .zero <| reg 2 f.mod fun lvl => .ok (.lbrk g lvl)
  | 0x37 => need (f.min == 0) .minor <| need (f.a == 0 && f.b == 0 && f.c == 0 && f.low == 0) .zero <| reg 2 f.mod fun lvl => .ok (.lsave g f.d lvl)
  | 0x38 => need (f.min == 0) .minor <| need (f.d == 0 && f.b == 0 && f.c == 0 && f.low == 0) .zero <| reg 2 f.mod fun lvl => .ok (.lrest g lvl f.a)
  | 0x39 => need (f.min == 0) .minor <| need (f.d == 0 && f.a == 0 && f.b == 0 && f.c == 0 && f.mod == 0 && f.low == 0) .zero <| .ok (.exit g)
  | 0x3a => need (f.min == 0) .minor <| need (f.b == 0 && f.c == 0 && f.mod == 0) .zero <| .ok (.spawn g f.d f.a (cOff f.low) (cSlot f.low))
  | 0x3b => need (f.min == 0) .minor <| need (f.b == 0 && f.c == 0 && f.mod == 0 && f.low == 0) .zero <| .ok (.join g f.d f.a)
  | 0x3c => need (f.min == 0) .minor <| need (f.d == 0 && f.a == 0 && f.b == 0 && f.c == 0 && f.mod == 0 && f.low == 0) .zero <| .ok (.cut g)
  | 0x3d => need (f.min == 0) .minor <| need (f.c == 0 && f.mod == 0 && f.low == 0) .zero <| .ok (.msgsend g f.d f.a f.b)
  | 0x3e => need (f.min == 0) .minor <| need (f.b == 0 && f.c == 0 && f.mod == 0 && f.low == 0) .zero <| .ok (.msgrecv g f.d f.a)
  | _ => .error .opcode

/-- Operation codes 0x40 to 0x6a (Tables 7.6 to 7.10). -/
def decodeAccess (f : Fields) (g : Guard) : Dec :=
  match f.op.toNat with
  | 0x40 => need (f.c == 0) .zero <| reg 4 f.mod fun sc => code (Ty.ofCode f.min) fun t => code (Hint.ofCode (mHint f.low)) fun h => need (mRest f.low) .zero <| .ok (.ld g t h (mInv f.low) f.d ⟨f.a, f.b, sc, mDisp f.low⟩)
  | 0x41 => need (f.c == 0) .zero <| reg 4 f.mod fun sc => code (Ty.ofCode f.min) fun t => code (Hint.ofCode (mHint f.low)) fun h => need (mRest f.low && !mInv f.low) .zero <| .ok (.st g t h f.d ⟨f.a, f.b, sc, mDisp f.low⟩)
  | 0x42 => reg 5 f.d fun d => reg 4 f.mod fun sc => code (VW.ofCode f.min) fun w => code (Hint.ofCode (mHint f.low)) fun h => need (mRest f.low) .zero <| .ok (.ldv g w h (mInv f.low) d ⟨f.a, f.b, sc, mDisp f.low⟩ f.c)
  | 0x43 => reg 5 f.d fun d => reg 4 f.mod fun sc => code (VW.ofCode f.min) fun w => code (Hint.ofCode (mHint f.low)) fun h => need (mRest f.low && !mInv f.low) .zero <| .ok (.stv g w h d ⟨f.a, f.b, sc, mDisp f.low⟩ f.c)
  | 0x44 => need (f.mod == 0) .zero <| reg 5 f.d fun d => code (VW.ofCode f.min) fun w => code (Hint.ofCode (mHint f.low)) fun h => need (mRest f.low) .zero <| .ok (.ldvs g w h (mInv f.low) d f.a f.b (mDisp f.low) f.c)
  | 0x45 => need (f.mod == 0) .zero <| reg 5 f.d fun d => code (VW.ofCode f.min) fun w => code (Hint.ofCode (mHint f.low)) fun h => need (mRest f.low && !mInv f.low) .zero <| .ok (.stvs g w h d f.a f.b (mDisp f.low) f.c)
  | 0x46 => reg 5 f.d fun d => reg 5 f.b fun b => reg 4 f.mod fun scale => code (VW.ofCode f.min) fun w => code (Hint.ofCode (mHint f.low)) fun h => need (mRest f.low) .zero <| .ok (.ldvg g w h (mInv f.low) d f.a b scale (mDisp f.low) f.c)
  | 0x47 => reg 5 f.d fun d => reg 5 f.b fun b => reg 4 f.mod fun scale => code (VW.ofCode f.min) fun w => code (Hint.ofCode (mHint f.low)) fun h => need (mRest f.low && !mInv f.low) .zero <| .ok (.stvg g w h d f.a b scale (mDisp f.low) f.c)
  | 0x48 =>
    match f.min.toNat with
    | 0 => reg 3 f.d fun d => reg 2 f.c fun pw => reg 4 f.mod fun sc => code (Hint.ofCode (mHint f.low)) fun h => need (mRest f.low) .zero <| .ok (.ldt g h (mInv f.low) d ⟨f.a, f.b, sc, mDisp f.low⟩ pw)
    | 1 => reg 3 f.d fun d => reg 2 f.c fun pw => reg 4 f.mod fun sc => code (Hint.ofCode (mHint f.low)) fun h => need (mRest f.low) .zero <| .ok (.ldtCol g h (mInv f.low) d ⟨f.a, f.b, sc, mDisp f.low⟩ pw)
    | _ => .error .minor
  | 0x49 =>
    match f.min.toNat with
    | 0 => reg 3 f.d fun d => reg 2 f.c fun pw => reg 4 f.mod fun sc => code (Hint.ofCode (mHint f.low)) fun h => need (mRest f.low && !mInv f.low) .zero <| .ok (.stt g h d ⟨f.a, f.b, sc, mDisp f.low⟩ pw)
    | 1 => reg 3 f.d fun d => reg 2 f.c fun pw => reg 4 f.mod fun sc => code (Hint.ofCode (mHint f.low)) fun h => need (mRest f.low && !mInv f.low) .zero <| .ok (.sttCol g h d ⟨f.a, f.b, sc, mDisp f.low⟩ pw)
    | _ => .error .minor
  | 0x4a => need (f.min == 0) .minor <| need (f.d == 0 && f.c == 0) .zero <| reg 4 f.mod fun sc => code (Hint.ofCode (mHint f.low)) fun h => need (mRest f.low && !mInv f.low) .zero <| .ok (.pref g h ⟨f.a, f.b, sc, mDisp f.low⟩)
  | 0x4b => need (f.min == 0) .minor <| need (f.d == 0 && f.c == 0) .zero <| reg 4 f.mod fun sc => code (Hint.ofCode (mHint f.low)) fun h => need (mRest f.low && !mInv f.low) .zero <| .ok (.linewb g h ⟨f.a, f.b, sc, mDisp f.low⟩)
  | 0x4d =>
    match f.min.toNat with
    | 0 => need (f.mod == 0) .zero <| need (eRest f.low && eSlot f.low == 0) .zero <| .ok (.copy g (eCol f.low) f.d f.a f.b f.c)
    | 1 => need (f.mod == 0) .zero <| need (eRest f.low && eSlot f.low == 0) .zero <| .ok (.copyDigest g (eCol f.low) f.d f.a f.b f.c)
    | _ => .error .minor
  | 0x4e => need (f.min == 0) .minor <| need (f.mod == 0) .zero <| need (eRest f.low && eSlot f.low == 0) .zero <| .ok (.copy2 g (eCol f.low) f.d f.a f.b f.c)
  | 0x4f => need (f.min == 0) .minor <| need (f.mod == 0) .zero <| need (eRest f.low && eSlot f.low == 0) .zero <| .ok (.copy3 g (eCol f.low) f.d f.a f.b f.c)
  | 0x50 => need (f.min == 0) .minor <| need (f.mod == 0) .zero <| need (eRest f.low && eSlot f.low == 0) .zero <| .ok (.get g (eCol f.low) f.d f.a f.b f.c)
  | 0x51 => need (f.min == 0) .minor <| need (f.mod == 0) .zero <| need (eRest f.low && eSlot f.low == 0) .zero <| .ok (.put g (eCol f.low) f.d f.a f.b f.c)
  | 0x52 => need (f.min == 0) .minor <| reg 2 f.mod fun m => need (eRest f.low) .zero <| .ok (.rpan g (eCol f.low) m f.d f.a f.b f.c (eSlot f.low))
  | 0x53 => need (f.min == 0) .minor <| need (f.a == 0 && f.b == 0 && f.c == 0 && f.mod == 0) .zero <| low 12 f.low fun q => .ok (.fenceE g f.d (q.extractLsb' 0 8) (q.extractLsb' 8 4))
  | 0x54 => need (f.min == 0) .minor <| need (f.a == 0 && f.b == 0 && f.c == 0 && f.mod == 0) .zero <| low 8 f.low fun cols => .ok (.fenceX g f.d cols)
  | 0x55 => need (f.min == 0) .minor <| need (f.a == 0 && f.b == 0 && f.c == 0 && f.mod == 0) .zero <| low 4 f.low fun bg => .ok (.bararr g f.d bg)
  | 0x56 => need (f.min == 0) .minor <| need (f.b == 0 && f.c == 0 && f.mod == 0) .zero <| low 4 f.low fun bg => .ok (.barwait g f.d f.a bg)
  | 0x57 => need (f.min == 0) .minor <| need (f.b == 0 && f.c == 0 && f.mod == 0) .zero <| reg 3 f.d fun d => low 4 f.low fun bg => .ok (.bartest g d f.a bg)
  | 0x58 => need (f.c == 0) .zero <| reg 4 f.mod fun sc => code (wideOfCode f.min) fun wide => need (mRest f.low && mHint f.low == 0 && !mInv f.low) .zero <| .ok (.waitz g wide f.d ⟨f.a, f.b, sc, mDisp f.low⟩)
  | 0x59 => reg 4 f.mod fun sc => code (wideOfCode f.min) fun wide => need (mRest f.low && mHint f.low == 0 && !mInv f.low) .zero <| .ok (.waitne g wide f.d ⟨f.a, f.b, sc, mDisp f.low⟩ f.c)
  | 0x5a => need (f.min == 0) .minor <| need (f.b == 0 && f.c == 0 && f.mod == 0 && f.low == 0) .zero <| reg 3 f.d fun d => .ok (.chk g d f.a)
  | 0x60 => need (f.min == 0) .minor <| reg 2 f.mod fun m => need (eRest f.low) .zero <| .ok (.panr g (eCol f.low) m f.d f.a f.b f.c (eSlot f.low))
  | 0x61 => need (f.min == 0) .minor <| reg 5 f.d fun d => reg 2 f.mod fun m => need (eRest f.low) .zero <| .ok (.panrv g (eCol f.low) m d f.a f.b f.c (eSlot f.low))
  | 0x62 => need (f.min == 0) .minor <| need (f.c == 0) .zero <| reg 2 f.mod fun m => need (eRest f.low) .zero <| .ok (.pann g (eCol f.low) m f.d f.a f.b (eSlot f.low))
  | 0x63 => need (f.min == 0) .minor <| reg 5 f.b fun b => reg 5 f.c fun c => need (eRest f.low) .zero <| .ok (.panv g (eCol f.low) f.d f.a b c f.mod (eSlot f.low))
  | 0x64 => need (f.min == 0) .minor <| reg 5 f.d fun d => reg 5 f.b fun b => reg 5 f.c fun c => need (eRest f.low) .zero <| .ok (.panvr g (eCol f.low) d f.a b c f.mod (eSlot f.low))
  | 0x65 => need (f.min == 0) .minor <| need (f.d == 0 && f.b == 0 && f.c == 0 && f.mod == 0) .zero <| need (eRest f.low && eCol f.low == 0) .zero <| .ok (.panld g f.a (eSlot f.low))
  | 0x66 => need (f.min == 0) .minor <| need (f.a == 0 && f.b == 0 && f.c == 0 && f.mod == 0) .zero <| need (eRest f.low && eCol f.low == 0) .zero <| .ok (.panq g f.d (eSlot f.low))
  | 0x67 => need (f.min == 0) .minor <| need (f.d == 0 && f.a == 0 && f.b == 0 && f.c == 0 && f.mod == 0) .zero <| need (eRest f.low && eCol f.low == 0) .zero <| .ok (.pandrop g (eSlot f.low))
  | 0x68 => need (f.min == 0) .minor <| code (MxKind.ofCode (f.mod.extractLsb' 0 4)) fun kind => need (f.mod.getLsbD 5 = false) .zero <| need (eRest f.low && eSlot f.low == 0) .zero <| .ok (.mxsend g (eCol f.low) kind (f.mod.extractLsb' 4 1) f.d f.a f.b f.c)
  | 0x69 => need (f.min == 0) .minor <| need (f.b == 0 && f.c == 0 && f.mod == 0 && f.low == 0) .zero <| .ok (.capmk g f.d f.a)
  | 0x6a => need (f.min == 0) .minor <| need (f.d == 0 && f.b == 0 && f.c == 0 && f.mod == 0 && f.low == 0) .zero <| .ok (.caprev g f.a)
  | _ => .error .opcode

/-- Operation codes 0x80 to 0xa7 (Tables 7.6 to 7.10). -/
def decodeVector (f : Fields) (g : Guard) : Dec :=
  match f.op.toNat with
  | 0x80 => need (f.min == 0) .minor <| need (f.c == 0) .zero <| reg 5 f.d fun d => reg 5 f.a fun a => reg 5 f.b fun b => code (Ty.ofCode f.mod) fun t => code (RM.ofCode (vRm f.low)) fun rm => maskField f.low fun mk => need (vRest f.low && vImm f.low == 0) .zero <| .ok (.vadd g t rm mk d a b)
  | 0x81 => need (f.min == 0) .minor <| need (f.c == 0) .zero <| reg 5 f.d fun d => reg 5 f.a fun a => reg 5 f.b fun b => code (Ty.ofCode f.mod) fun t => code (RM.ofCode (vRm f.low)) fun rm => maskField f.low fun mk => need (vRest f.low && vImm f.low == 0) .zero <| .ok (.vsub g t rm mk d a b)
  | 0x82 => need (f.min == 0) .minor <| need (f.c == 0) .zero <| reg 5 f.d fun d => reg 5 f.a fun a => reg 5 f.b fun b => code (Ty.ofCode f.mod) fun t => code (RM.ofCode (vRm f.low)) fun rm => maskField f.low fun mk => need (vRest f.low && vImm f.low == 0) .zero <| .ok (.vmul g t rm mk d a b)
  | 0x83 => need (f.min == 0) .minor <| reg 5 f.d fun d => reg 5 f.a fun a => reg 5 f.b fun b => reg 5 f.c fun c => code (Ty.ofCode f.mod) fun t => code (RM.ofCode (vRm f.low)) fun rm => maskField f.low fun mk => need (vRest f.low && vImm f.low == 0) .zero <| .ok (.vfma g t rm mk d a b c)
  | 0x84 => need (f.min == 0) .minor <| need (f.c == 0) .zero <| reg 5 f.d fun d => reg 5 f.a fun a => reg 5 f.b fun b => code (Ty.ofCode f.mod) fun t => maskField f.low fun mk => need (vRest f.low && vRm f.low == 0 && vImm f.low == 0) .zero <| .ok (.vmin g t mk d a b)
  | 0x85 => need (f.min == 0) .minor <| need (f.c == 0) .zero <| reg 5 f.d fun d => reg 5 f.a fun a => reg 5 f.b fun b => code (Ty.ofCode f.mod) fun t => maskField f.low fun mk => need (vRest f.low && vRm f.low == 0 && vImm f.low == 0) .zero <| .ok (.vmax g t mk d a b)
  | 0x86 => need (f.min == 0) .minor <| need (f.b == 0 && f.c == 0) .zero <| reg 5 f.d fun d => reg 5 f.a fun a => code (Ty.ofCode f.mod) fun t => maskField f.low fun mk => need (vRest f.low && vRm f.low == 0 && vImm f.low == 0) .zero <| .ok (.vabs g t mk d a)
  | 0x87 => need (f.min == 0) .minor <| need (f.b == 0 && f.c == 0) .zero <| reg 5 f.d fun d => reg 5 f.a fun a => code (Ty.ofCode f.mod) fun t => maskField f.low fun mk => need (vRest f.low && vRm f.low == 0 && vImm f.low == 0) .zero <| .ok (.vneg g t mk d a)
  | 0x88 => need (f.min == 0) .minor <| need (f.c == 0) .zero <| reg 5 f.d fun d => reg 5 f.a fun a => reg 5 f.b fun b => code (Ty.ofCode f.mod) fun t => code (RM.ofCode (vRm f.low)) fun rm => maskField f.low fun mk => need (vRest f.low && vImm f.low == 0) .zero <| .ok (.vdiv g t rm mk d a b)
  | 0x89 => need (f.min == 0) .minor <| need (f.b == 0 && f.c == 0) .zero <| reg 5 f.d fun d => reg 5 f.a fun a => code (Ty.ofCode f.mod) fun t => code (RM.ofCode (vRm f.low)) fun rm => maskField f.low fun mk => need (vRest f.low && vImm f.low == 0) .zero <| .ok (.vsqrt g t rm mk d a)
  | 0x8a => need (f.min == 0) .minor <| need (f.b == 0 && f.c == 0) .zero <| reg 5 f.d fun d => reg 5 f.a fun a => code (Ty.ofCode f.mod) fun t => code (RM.ofCode (vRm f.low)) fun rm => maskField f.low fun mk => need (vRest f.low && vImm f.low == 0) .zero <| .ok (.vrsq g t rm mk d a)
  | 0x8b => need (f.min == 0) .minor <| need (f.b == 0 && f.c == 0) .zero <| reg 5 f.d fun d => reg 5 f.a fun a => code (Ty.ofCode f.mod) fun t => code (RM.ofCode (vRm f.low)) fun rm => maskField f.low fun mk => need (vRest f.low && vImm f.low == 0) .zero <| .ok (.vexp2 g t rm mk d a)
  | 0x8c => need (f.min == 0) .minor <| need (f.b == 0 && f.c == 0) .zero <| reg 5 f.d fun d => reg 5 f.a fun a => code (Ty.ofCode f.mod) fun t => code (RM.ofCode (vRm f.low)) fun rm => maskField f.low fun mk => need (vRest f.low && vImm f.low == 0) .zero <| .ok (.vlog2 g t rm mk d a)
  | 0x8d => need (f.min == 0) .minor <| need (f.c == 0) .zero <| reg 5 f.d fun d => reg 5 f.a fun a => reg 5 f.b fun b => code (Ty.ofCode f.mod) fun t => maskField f.low fun mk => need (vRest f.low && vRm f.low == 0 && vImm f.low == 0) .zero <| .ok (.vand g t mk d a b)
  | 0x8e => need (f.min == 0) .minor <| need (f.c == 0) .zero <| reg 5 f.d fun d => reg 5 f.a fun a => reg 5 f.b fun b => code (Ty.ofCode f.mod) fun t => maskField f.low fun mk => need (vRest f.low && vRm f.low == 0 && vImm f.low == 0) .zero <| .ok (.vor g t mk d a b)
  | 0x8f => need (f.min == 0) .minor <| need (f.c == 0) .zero <| reg 5 f.d fun d => reg 5 f.a fun a => reg 5 f.b fun b => code (Ty.ofCode f.mod) fun t => maskField f.low fun mk => need (vRest f.low && vRm f.low == 0 && vImm f.low == 0) .zero <| .ok (.vxor g t mk d a b)
  | 0x90 => need (f.min == 0) .minor <| need (f.c == 0) .zero <| reg 5 f.d fun d => reg 5 f.a fun a => code (Ty.ofCode f.mod) fun t => maskField f.low fun mk => need (vRest f.low && vRm f.low == 0) .zero <| vshift f.b (vImm f.low) fun b => .ok (.vshl g t mk d a b)
  | 0x91 => need (f.min == 0) .minor <| need (f.c == 0) .zero <| reg 5 f.d fun d => reg 5 f.a fun a => code (Ty.ofCode f.mod) fun t => maskField f.low fun mk => need (vRest f.low && vRm f.low == 0) .zero <| vshift f.b (vImm f.low) fun b => .ok (.vshr g t mk d a b)
  | 0x92 => need (f.min == 0) .minor <| need (f.c == 0) .zero <| reg 5 f.d fun d => reg 5 f.a fun a => code (Ty.ofCode f.mod) fun t => maskField f.low fun mk => need (vRest f.low && vRm f.low == 0) .zero <| vshift f.b (vImm f.low) fun b => .ok (.vsar g t mk d a b)
  | 0x93 => need (f.min == 0) .minor <| need (f.c == 0) .zero <| reg 5 f.a fun a => reg 5 f.b fun b => code (Ty.ofCode f.mod) fun t => maskField f.low fun mk => need (vRest f.low && vRm f.low == 0) .zero <| sub 6 (vImm f.low) fun q => code (Cond.ofCode q) fun c => .ok (.vcmp g t c mk f.d a b)
  | 0x94 => need (f.min == 0) .minor <| need (f.mod == 0) .zero <| reg 5 f.d fun d => reg 5 f.a fun a => reg 5 f.b fun b => maskField f.low fun mk => need (vRest f.low && vRm f.low == 0 && vImm f.low == 0) .zero <| .ok (.vsel g mk d a b f.c)
  | 0x95 => need (f.min == 0) .minor <| need (f.b == 0 && f.c == 0) .zero <| reg 5 f.d fun d => reg 5 f.a fun a => code (Ty.ofCode f.mod) fun t => code (RM.ofCode (vRm f.low)) fun rm => maskField f.low fun mk => need (vRest f.low) .zero <| sub 4 (vImm f.low) fun q => code (Ty.ofCode (q.setWidth 6)) fun s => .ok (.vcvt g t s rm mk d a)
  | 0x96 => need (f.min == 0) .minor <| need (f.c == 0) .zero <| reg 5 f.d fun d => reg 5 f.a fun a => reg 5 f.b fun b => code (Ty.ofCode f.mod) fun t => maskField f.low fun mk => need (vRest f.low && vRm f.low == 0) .zero <| sub 3 (vImm f.low) fun p => .ok (.vpack g t p mk d a b)
  | 0x97 => need (f.min == 0) .minor <| need (f.b == 0 && f.c == 0) .zero <| reg 5 f.d fun d => reg 5 f.a fun a => code (Ty.ofCode f.mod) fun t => maskField f.low fun mk => need (vRest f.low && vRm f.low == 0) .zero <| sub 3 (vImm f.low) fun p => .ok (.vunpk g t p mk d a)
  | 0x98 => need (f.min == 0) .minor <| need (f.b == 0 && f.c == 0) .zero <| reg 5 f.d fun d => code (Ty.ofCode f.mod) fun t => maskField f.low fun mk => need (vRest f.low && vRm f.low == 0 && vImm f.low == 0) .zero <| .ok (.vbcast g t mk d f.a)
  | 0x99 => need (f.min == 0) .minor <| need (f.c == 0) .zero <| reg 5 f.a fun a => code (Ty.ofCode f.mod) fun t => need (vRest f.low && vRm f.low == 0 && !vMk f.low && vMs f.low == 0) .zero <| laneIx f.b (vImm f.low) fun ix => .ok (.vmovs g t f.d a ix)
  | 0x9a => need (f.min == 0) .minor <| need (f.c == 0 && f.mod == 0) .zero <| reg 5 f.d fun d => reg 5 f.a fun a => reg 5 f.b fun b => maskField f.low fun mk => need (vRest f.low && vRm f.low == 0 && vImm f.low == 0) .zero <| .ok (.vperm g mk d a b)
  | 0x9b => need (f.min == 0) .minor <| need (f.c == 0 && f.mod == 0) .zero <| reg 5 f.d fun d => reg 5 f.a fun a => maskField f.low fun mk => need (vRest f.low && vRm f.low == 0) .zero <| shuf f.b (vImm f.low) fun pat => .ok (.vshuf g mk d a pat)
  | 0x9c => need (f.min == 0) .minor <| need (f.b == 0 && f.c == 0) .zero <| reg 5 f.a fun a => code (Ty.ofCode f.mod) fun t => code (RM.ofCode (vRm f.low)) fun rm => maskField f.low fun mk => need (vRest f.low && vImm f.low == 0) .zero <| .ok (.vredsum g t rm mk f.d a)
  | 0x9d => need (f.min == 0) .minor <| need (f.b == 0 && f.c == 0) .zero <| reg 5 f.a fun a => code (Ty.ofCode f.mod) fun t => maskField f.low fun mk => need (vRest f.low && vRm f.low == 0 && vImm f.low == 0) .zero <| .ok (.vredmax g t mk f.d a)
  | 0x9e => need (f.min == 0) .minor <| need (f.b == 0 && f.c == 0) .zero <| reg 5 f.a fun a => code (Ty.ofCode f.mod) fun t => maskField f.low fun mk => need (vRest f.low && vRm f.low == 0 && vImm f.low == 0) .zero <| .ok (.vredmin g t mk f.d a)
  | 0x9f => need (f.min == 0) .minor <| need (f.b == 0 && f.c == 0) .zero <| reg 5 f.d fun d => reg 5 f.a fun a => code (Ty.ofCode f.mod) fun t => code (RM.ofCode (vRm f.low)) fun rm => maskField f.low fun mk => need (vRest f.low) .zero <| sub 2 (vImm f.low) fun q => code (ScanOp.ofCode q) fun op => .ok (.vscan g t rm op mk d a)
  | 0xa0 => need (f.min == 0) .minor <| reg 5 f.d fun d => reg 5 f.a fun a => reg 5 f.b fun b => reg 5 f.c fun c => code (Ty.ofCode f.mod) fun t => code (RM.ofCode (vRm f.low)) fun rm => maskField f.low fun mk => need (vRest f.low) .zero <| sub 4 (vImm f.low) fun q => code (Ty.ofCode (q.setWidth 6)) fun s => .ok (.vdot g t s rm mk d a b c)
  | 0xa1 => need (f.min == 0) .minor <| reg 5 f.d fun d => reg 5 f.a fun a => reg 5 f.b fun b => reg 5 f.c fun c => code (Ty.ofCode f.mod) fun t => maskField f.low fun mk => need (vRest f.low && vRm f.low == 0 && vImm f.low == 0) .zero <| .ok (.vclamp g t mk d a b c)
  | 0xa2 => need (f.min == 0) .minor <| need (f.b == 0 && f.c == 0) .zero <| reg 5 f.d fun d => reg 5 f.a fun a => code (Ty.ofCode f.mod) fun t => code (RM.ofCode (vRm f.low)) fun rm => maskField f.low fun mk => need (vRest f.low && vImm f.low == 0) .zero <| .ok (.vround g t rm mk d a)
  | 0xa3 => need (f.min == 0) .minor <| need (f.b == 0 && f.c == 0 && f.mod == 0) .zero <| reg 5 f.d fun d => reg 5 f.a fun a => maskField f.low fun mk => need (vRest f.low && vRm f.low == 0 && vImm f.low == 0) .zero <| .ok (.vmov g mk d a)
  | 0xa4 => need (f.min == 0) .minor <| need (f.a == 0 && f.b == 0 && f.c == 0) .zero <| reg 5 f.d fun d => code (Ty.ofCode f.mod) fun t => maskField f.low fun mk => need (vRest f.low && vRm f.low == 0) .zero <| .ok (.vmovi g t mk d (vImm f.low))
  | 0xa5 => need (f.min == 0) .minor <| need (f.b == 0 && f.c == 0) .zero <| reg 5 f.d fun d => reg 5 f.a fun a => code (Ty.ofCode f.mod) fun t => maskField f.low fun mk => need (vRest f.low && vRm f.low == 0 && vImm f.low == 0) .zero <| .ok (.vpopc g t mk d a)
  | 0xa6 => need (f.min == 0) .minor <| need (f.b == 0 && f.c == 0 && f.mod == 0) .zero <| reg 5 f.d fun d => reg 5 f.a fun a => maskField f.low fun mk => need (vRest f.low && vRm f.low == 0 && vImm f.low == 0) .zero <| .ok (.vcomp g mk d a)
  | 0xa7 => need (f.min == 0) .minor <| need (f.b == 0 && f.c == 0 && f.mod == 0) .zero <| reg 5 f.d fun d => reg 5 f.a fun a => maskField f.low fun mk => need (vRest f.low && vRm f.low == 0 && vImm f.low == 0) .zero <| .ok (.vexpnd g mk d a)
  | _ => .error .opcode

/-- Operation codes 0xc0 to 0xd1 (Tables 7.6 to 7.10). -/
def decodeMatrix (f : Fields) (g : Guard) : Dec :=
  match f.op.toNat with
  | 0xc0 => need (f.min == 0) .minor <| reg 1 f.d fun d => reg 3 f.c fun fmt => reg 4 f.mod fun sc => code (Hint.ofCode (mHint f.low)) fun h => need (mRest f.low && !mInv f.low) .zero <| .ok (.bload g h fmt d ⟨f.a, f.b, sc, mDisp f.low⟩)
  | 0xc1 => need (f.min == 0) .minor <| need (f.b == 0 && f.c == 0 && f.mod == 0 && f.low == 0) .zero <| reg 1 f.a fun b => .ok (.bquery g f.d b)
  | 0xc2 => need (f.min == 0) .minor <| need (f.c == 0 && f.mod == 0) .zero <| reg 2 f.d fun d => reg 3 f.a fun a => reg 1 f.b fun b => need (xRest f.low && xMode f.low == 0) .code <| need (!(xAfmt f.low).getLsbD 3) .code <| .ok (.mma g (xNmask f.low) ((xAfmt f.low).setWidth 3) d a b)
  | 0xc3 => need (f.min == 0) .minor <| need (f.c == 0 && f.mod == 0) .zero <| reg 2 f.d fun d => reg 3 f.a fun a => reg 1 f.b fun b => need (xRest f.low && xMode f.low == 1) .code <| need (!(xAfmt f.low).getLsbD 3) .code <| .ok (.mmax g (xNmask f.low) ((xAfmt f.low).setWidth 3) d a b)
  | 0xc4 => need (f.min == 0) .minor <| need (f.a == 0 && f.b == 0 && f.c == 0 && f.mod == 0 && f.low == 0) .zero <| reg 2 f.d fun d => .ok (.accz g d)
  | 0xc5 => need (f.min == 0) .minor <| need (f.a == 0 && f.b == 0 && f.c == 0 && f.mod == 0) .zero <| reg 2 f.d fun d => slow16 f.low fun imm => .ok (.accanch g d imm)
  | 0xc6 => need (f.min == 0) .minor <| need (f.b == 0 && f.c == 0) .zero <| reg 5 f.d fun d => reg 2 f.a fun a => code (Ty.ofCode f.mod) fun t => code (RM.ofCode (vRm f.low)) fun rm => maskField f.low fun mk => need (vRest f.low) .zero <| sub 4 (vImm f.low) fun row => .ok (.accout g t rm mk d a row)
  | 0xc7 => need (f.min == 0) .minor <| need (f.b == 0 && f.c == 0 && f.mod == 0 && f.low == 0) .zero <| reg 2 f.d fun d => reg 2 f.a fun a => .ok (.accadd g d a)
  | 0xc8 =>
    match f.min.toNat with
    | 0 => reg 2 f.d fun d => reg 5 f.c fun row => reg 4 f.mod fun sc => code (Hint.ofCode (mHint f.low)) fun h => need (mRest f.low && !mInv f.low) .zero <| .ok (.accst g h d ⟨f.a, f.b, sc, mDisp f.low⟩ row)
    | 1 => reg 2 f.d fun d => reg 5 f.c fun row => reg 4 f.mod fun sc => code (Hint.ofCode (mHint f.low)) fun h => need (mRest f.low && !mInv f.low) .zero <| .ok (.accld g h d ⟨f.a, f.b, sc, mDisp f.low⟩ row)
    | _ => .error .minor
  | 0xc9 =>
    match f.min.toNat with
    | 0 => need (f.b == 0 && f.c == 0 && f.mod == 0 && f.low == 0) .zero <| reg 3 f.d fun d => reg 3 f.a fun a => .ok (.tmov g d a)
    | 1 => need (f.b == 0 && f.c == 0 && f.mod == 0 && f.low == 0) .zero <| reg 3 f.d fun d => reg 3 f.a fun a => .ok (.tmovTr g d a)
    | _ => .error .minor
  | 0xca => need (f.min == 0) .minor <| need (f.b == 0 && f.c == 0) .zero <| reg 3 f.d fun d => reg 3 f.a fun a => code (Ty.ofCode f.mod) fun t => code (RM.ofCode (vRm f.low)) fun rm => need (vRest f.low && !vMk f.low && vMs f.low == 0) .zero <| sub 4 (vImm f.low) fun q => code (Ty.ofCode (q.setWidth 6)) fun s => .ok (.tcvt g t s rm d a)
  | 0xcb => need (f.min == 0) .minor <| need (f.a == 0 && f.b == 0 && f.c == 0 && f.mod == 0 && f.low == 0) .zero <| reg 3 f.d fun d => .ok (.tzero g d)
  | 0xcc => need (f.min == 0) .minor <| need (f.b == 0 && f.mod == 0 && f.low == 0) .zero <| reg 3 f.d fun d => reg 5 f.a fun a => reg 4 f.c fun row => .ok (.tldv g d a row)
  | 0xcd => need (f.min == 0) .minor <| need (f.b == 0 && f.mod == 0 && f.low == 0) .zero <| reg 5 f.d fun d => reg 3 f.a fun a => reg 4 f.c fun row => .ok (.tstv g d a row)
  | 0xce => need (f.min == 0) .minor <| need (f.b == 0 && f.mod == 0 && f.low == 0) .zero <| reg 3 f.a fun a => reg 4 f.c fun row => .ok (.tgetsc g f.d a row)
  | 0xcf => need (f.min == 0) .minor <| need (f.b == 0 && f.mod == 0 && f.low == 0) .zero <| reg 3 f.d fun d => reg 4 f.c fun row => .ok (.tsetsc g d f.a row)
  | 0xd0 => need (f.min == 0) .minor <| need (f.d == 0 && f.a == 0 && f.b == 0 && f.c == 0 && f.mod == 0 && f.low == 0) .zero <| .ok (.mfence g)
  | 0xd1 => need (f.min == 0) .minor <| need (f.b == 0 && f.c == 0 && f.mod == 0 && f.low == 0) .zero <| reg 2 f.a fun a => .ok (.mxstat g f.d a)
  | _ => .error .opcode

/-- Operation codes 0xe0 to 0xef (Tables 7.6 to 7.10). -/
def decodeSystem (f : Fields) (g : Guard) : Dec :=
  match f.op.toNat with
  | 0xe0 => need (f.min == 0) .minor <| need (f.d == 0 && f.a == 0 && f.b == 0 && f.c == 0 && f.mod == 0) .zero <| low 16 f.low fun imm => .ok (.trap g imm)
  | 0xe1 => need (f.min == 0) .minor <| need (f.d == 0 && f.a == 0 && f.b == 0 && f.c == 0 && f.mod == 0 && f.low == 0) .zero <| .ok (.eret g)
  | 0xe2 => need (f.min == 0) .minor <| need (f.a == 0 && f.b == 0 && f.c == 0 && f.mod == 0) .zero <| low 8 f.low fun q => code (SysReg.ofCode q) fun sr => .ok (.sysrd g f.d sr)
  | 0xe3 => need (f.min == 0) .minor <| need (f.d == 0 && f.b == 0 && f.c == 0 && f.mod == 0) .zero <| low 8 f.low fun q => code (SysReg.ofCode q) fun sr => .ok (.syswr g sr f.a)
  | 0xe4 => need (f.min == 0) .minor <| need (f.mod == 0 && f.low == 0) .zero <| .ok (.spurge g f.d f.a f.b f.c)
  | 0xe5 => need (f.min == 0) .minor <| need (f.mod == 0 && f.low == 0) .zero <| .ok (.winset g f.d f.a f.b f.c)
  | 0xe6 => need (f.min == 0) .minor <| need (f.c == 0 && f.mod == 0 && f.low == 0) .zero <| .ok (.fmtset g f.d f.a f.b)
  | 0xe7 =>
    match f.min.toNat with
    | 0 => need (f.b == 0 && f.c == 0 && f.mod == 0 && f.low == 0) .zero <| .ok (.cntrd g f.d f.a)
    | 1 => need (f.c == 0 && f.mod == 0 && f.low == 0) .zero <| .ok (.attest g f.d f.a f.b)
    | _ => .error .minor
  | 0xe8 => need (f.min == 0) .minor <| need (f.mod == 0 && f.low == 0) .zero <| .ok (.dbgwp g f.d f.a f.b f.c)
  | 0xe9 => need (f.min == 0) .minor <| need (f.c == 0 && f.mod == 0 && f.low == 0) .zero <| .ok (.dbgstep g f.d f.a f.b)
  | 0xea => need (f.min == 0) .minor <| need (f.c == 0 && f.mod == 0 && f.low == 0) .zero <| .ok (.dbgstop g f.d f.a f.b)
  | 0xeb => need (f.min == 0) .minor <| need (f.a == 0 && f.b == 0 && f.c == 0 && f.mod == 0 && f.low == 0) .zero <| .ok (.snap g f.d)
  | 0xec => need (f.min == 0) .minor <| need (f.d == 0 && f.b == 0 && f.c == 0 && f.mod == 0 && f.low == 0) .zero <| .ok (.keywipe g f.a)
  | 0xed => need (f.min == 0) .minor <| need (f.b == 0 && f.c == 0 && f.mod == 0 && f.low == 0) .zero <| .ok (.fuserd g f.d f.a)
  | 0xee => need (f.min == 0) .minor <| need (f.b == 0 && f.c == 0 && f.mod == 0 && f.low == 0) .zero <| .ok (.unlock g f.d f.a)
  | 0xef =>
    match f.min.toNat with
    | 0 => need (f.d == 0 && f.c == 0 && f.mod == 0 && f.low == 0) .zero <| .ok (.dbgcapGrant g f.a f.b)
    | 1 => need (f.d == 0 && f.a == 0 && f.b == 0 && f.c == 0 && f.mod == 0 && f.low == 0) .zero <| .ok (.dbgcapRevoke g)
    | _ => .error .minor
  | _ => .error .opcode

/-- Whether an instruction in slot `own` meets the limits of its entry. -/
def checked (own : Nat) (i : Instr) : Dec := if i.wf own then .ok i else .error .operand

def decodeFields (own : Nat) (f : Fields) : Dec :=
  let g : Guard := ⟨f.pn, f.pred⟩
  if !g.ok then .error .predicate
  else
    let r :=
      if f.op.toNat < 0x40 then decodeScalar f g
      else if f.op.toNat < 0x80 then decodeAccess f g
      else if f.op.toNat < 0xC0 then decodeVector f g
      else if f.op.toNat < 0xE0 then decodeMatrix f g
      else decodeSystem f g
    match r with
    | .ok i => checked own i
    | .error e => .error e

/-- Decode the word in slot `own` of a line (R186). -/
def decode (own : Nat) (w : BitVec 96) : Dec := decodeFields own (.ofWord w)

/-! ### Encoding -/

/-- The word with operation code `op` and every other field zero. -/
def base (g : Guard) (op : BitVec 8) : Fields :=
  { op, min := 0, pn := g.neg, pred := g.reg, d := 0, a := 0, b := 0, c := 0, mod := 0, low := 0 }

/-- The fields of an instruction; an event has none. -/
def Instr.fields : Instr → Option Fields
  | .nop g => some (base g 0x00)
  | .mov g d a => some { base g 0x01 with d := d, a := a }
  | .movi g d imm => some { base g 0x02 with d := d, low := imm }
  | .movhi g d a imm => some { base g 0x03 with d := d, a := a, low := imm.setWidth 48 }
  | .add g d a b => some { base g 0x04 with d := d, a := a, b := b }
  | .addi g d a imm => some { base g 0x05 with d := d, a := a, low := imm }
  | .sub g d a b => some { base g 0x06 with d := d, a := a, b := b }
  | .neg g d a => some { base g 0x07 with d := d, a := a }
  | .mul g d a b => some { base g 0x08 with d := d, a := a, b := b }
  | .mulh g d a b => some { base g 0x09 with d := d, a := a, b := b }
  | .mulhn g d a b => some { base g 0x0a with d := d, a := a, b := b }
  | .div g d a b => some { base g 0x0b with d := d, a := a, b := b }
  | .divn g d a b => some { base g 0x0c with d := d, a := a, b := b }
  | .rem g d a b => some { base g 0x0d with d := d, a := a, b := b }
  | .remn g d a b => some { base g 0x0e with d := d, a := a, b := b }
  | .madd g d a b c => some { base g 0x0f with d := d, a := a, b := b, c := c }
  | .and g d a b => some { base g 0x10 with d := d, a := a, b := b }
  | .andi g d a imm => some { base g 0x11 with d := d, a := a, low := imm }
  | .or g d a b => some { base g 0x12 with d := d, a := a, b := b }
  | .ori g d a imm => some { base g 0x13 with d := d, a := a, low := imm }
  | .xor g d a b => some { base g 0x14 with d := d, a := a, b := b }
  | .xori g d a imm => some { base g 0x15 with d := d, a := a, low := imm }
  | .andn g d a b => some { base g 0x16 with d := d, a := a, b := b }
  | .not g d a => some { base g 0x17 with d := d, a := a }
  | .shl g d a b => some { base g 0x18 with d := d, a := a, b := b }
  | .shli g d a n => some { base g 0x19 with d := d, a := a, low := n.setWidth 48 }
  | .shr g d a b => some { base g 0x1a with d := d, a := a, b := b }
  | .shri g d a n => some { base g 0x1b with d := d, a := a, low := n.setWidth 48 }
  | .sar g d a b => some { base g 0x1c with d := d, a := a, b := b }
  | .sari g d a n => some { base g 0x1d with d := d, a := a, low := n.setWidth 48 }
  | .rol g d a b => some { base g 0x1e with d := d, a := a, b := b }
  | .roli g d a n => some { base g 0x1f with d := d, a := a, low := n.setWidth 48 }
  | .cmp g c d a b => some { base g 0x20 with d := d.setWidth 6, a := a, b := b, mod := c.code }
  | .cmpi g c d a imm => some { base g 0x21 with d := d.setWidth 6, a := a, mod := c.code, low := imm }
  | .sel g d a b c => some { base g 0x22 with d := d, a := a, b := b, c := c.setWidth 6 }
  | .min g d a b => some { base g 0x23 with d := d, a := a, b := b }
  | .max g d a b => some { base g 0x24 with d := d, a := a, b := b }
  | .minn g d a b => some { base g 0x25 with d := d, a := a, b := b }
  | .maxn g d a b => some { base g 0x26 with d := d, a := a, b := b }
  | .clz g d a => some { base g 0x27 with d := d, a := a }
  | .ctz g d a => some { base g 0x28 with d := d, a := a }
  | .popc g d a => some { base g 0x29 with d := d, a := a }
  | .ext g t d a => some { base g 0x2a with d := d, a := a, mod := t.code }
  | .bfx g d a pos len sx => some { base g 0x2b with d := d, a := a, low := (BitVec.ofBool sx ++ len ++ pos).setWidth 48 }
  | .bfi g d a b pos len => some { base g 0x2c with d := d, a := a, b := b, low := (len ++ pos).setWidth 48 }
  | .lea g d m => some { base g 0x2d with d := d, a := m.base, b := m.index, mod := m.scale.setWidth 6, low := mLow m.disp 0 false }
  | .plog g d a b tt => some { base g 0x2e with d := d.setWidth 6, a := a.setWidth 6, b := b.setWidth 6, mod := tt.setWidth 6 }
  | .fadd g t rm d a b => some { base g 0x2f with d := d, a := a, b := b, mod := t.code, low := vLow rm.code none 0 }
  | .fsub g t rm d a b => some { base g 0x2f with min := 1, d := d, a := a, b := b, mod := t.code, low := vLow rm.code none 0 }
  | .fmul g t rm d a b => some { base g 0x2f with min := 2, d := d, a := a, b := b, mod := t.code, low := vLow rm.code none 0 }
  | .ffma g t rm d a b c => some { base g 0x2f with min := 3, d := d, a := a, b := b, c := c, mod := t.code, low := vLow rm.code none 0 }
  | .fdiv g t rm d a b => some { base g 0x2f with min := 4, d := d, a := a, b := b, mod := t.code, low := vLow rm.code none 0 }
  | .fsqrt g t rm d a => some { base g 0x2f with min := 5, d := d, a := a, mod := t.code, low := vLow rm.code none 0 }
  | .fmin g t d a b => some { base g 0x2f with min := 6, d := d, a := a, b := b, mod := t.code, low := vLow 0 none 0 }
  | .fmax g t d a b => some { base g 0x2f with min := 7, d := d, a := a, b := b, mod := t.code, low := vLow 0 none 0 }
  | .fcvt g t s rm d a => some { base g 0x2f with min := 8, d := d, a := a, mod := t.code, low := vLow rm.code none (s.code.setWidth 32) }
  | .fcvti g t s rm d a => some { base g 0x2f with min := 9, d := d, a := a, mod := t.code, low := vLow rm.code none (s.code.setWidth 32) }
  | .icvtf g t s rm d a => some { base g 0x2f with min := 10, d := d, a := a, mod := t.code, low := vLow rm.code none (s.code.setWidth 32) }
  | .fcmp g t c d a b => some { base g 0x2f with min := 11, d := d.setWidth 6, a := a, b := b, mod := t.code, low := vLow 0 none (c.code.setWidth 32) }
  | .br g off slot => some { base g 0x30 with low := off ++ slot }
  | .bri g a => some { base g 0x31 with a := a }
  | .call g d off slot => some { base g 0x32 with d := d, low := off ++ slot }
  | .calli g d a => some { base g 0x33 with d := d, a := a }
  | .loop g lvl off slot a => some { base g 0x34 with a := a, mod := lvl.setWidth 6, low := lLow off slot 0 }
  | .loopi g lvl off slot count => some { base g 0x35 with mod := lvl.setWidth 6, low := lLow off slot count }
  | .lbrk g lvl => some { base g 0x36 with mod := lvl.setWidth 6 }
  | .lsave g d lvl => some { base g 0x37 with d := d, mod := lvl.setWidth 6 }
  | .lrest g lvl a => some { base g 0x38 with a := a, mod := lvl.setWidth 6 }
  | .exit g => some (base g 0x39)
  | .spawn g d a off slot => some { base g 0x3a with d := d, a := a, low := off ++ slot }
  | .join g d a => some { base g 0x3b with d := d, a := a }
  | .cut g => some (base g 0x3c)
  | .msgsend g d a b => some { base g 0x3d with d := d, a := a, b := b }
  | .msgrecv g d a => some { base g 0x3e with d := d, a := a }
  | .ld g t h inv d m => some { base g 0x40 with min := t.code, d := d, a := m.base, b := m.index, mod := m.scale.setWidth 6, low := mLow m.disp h.code inv }
  | .st g t h d m => some { base g 0x41 with min := t.code, d := d, a := m.base, b := m.index, mod := m.scale.setWidth 6, low := mLow m.disp h.code false }
  | .ldv g w h inv d m c => some { base g 0x42 with min := w.code, d := d.setWidth 6, a := m.base, b := m.index, c := c, mod := m.scale.setWidth 6, low := mLow m.disp h.code inv }
  | .stv g w h d m c => some { base g 0x43 with min := w.code, d := d.setWidth 6, a := m.base, b := m.index, c := c, mod := m.scale.setWidth 6, low := mLow m.disp h.code false }
  | .ldvs g w h inv d a b disp c => some { base g 0x44 with min := w.code, d := d.setWidth 6, a := a, b := b, c := c, low := mLow disp h.code inv }
  | .stvs g w h d a b disp c => some { base g 0x45 with min := w.code, d := d.setWidth 6, a := a, b := b, c := c, low := mLow disp h.code false }
  | .ldvg g w h inv d a b scale disp c => some { base g 0x46 with min := w.code, d := d.setWidth 6, a := a, b := b.setWidth 6, c := c, mod := scale.setWidth 6, low := mLow disp h.code inv }
  | .stvg g w h d a b scale disp c => some { base g 0x47 with min := w.code, d := d.setWidth 6, a := a, b := b.setWidth 6, c := c, mod := scale.setWidth 6, low := mLow disp h.code false }
  | .ldt g h inv d m pw => some { base g 0x48 with d := d.setWidth 6, a := m.base, b := m.index, c := pw.setWidth 6, mod := m.scale.setWidth 6, low := mLow m.disp h.code inv }
  | .ldtCol g h inv d m pw => some { base g 0x48 with min := 1, d := d.setWidth 6, a := m.base, b := m.index, c := pw.setWidth 6, mod := m.scale.setWidth 6, low := mLow m.disp h.code inv }
  | .stt g h d m pw => some { base g 0x49 with d := d.setWidth 6, c := pw.setWidth 6, a := m.base, b := m.index, mod := m.scale.setWidth 6, low := mLow m.disp h.code false }
  | .sttCol g h d m pw => some { base g 0x49 with min := 1, d := d.setWidth 6, c := pw.setWidth 6, a := m.base, b := m.index, mod := m.scale.setWidth 6, low := mLow m.disp h.code false }
  | .pref g h m => some { base g 0x4a with a := m.base, b := m.index, mod := m.scale.setWidth 6, low := mLow m.disp h.code false }
  | .linewb g h m => some { base g 0x4b with a := m.base, b := m.index, mod := m.scale.setWidth 6, low := mLow m.disp h.code false }
  | .copy g col d a b c => some { base g 0x4d with d := d, a := a, b := b, c := c, low := eLow 0 col }
  | .copyDigest g col d a b c => some { base g 0x4d with min := 1, d := d, a := a, b := b, c := c, low := eLow 0 col }
  | .copy2 g col d a b c => some { base g 0x4e with d := d, a := a, b := b, c := c, low := eLow 0 col }
  | .copy3 g col d a b c => some { base g 0x4f with d := d, a := a, b := b, c := c, low := eLow 0 col }
  | .get g col d a b c => some { base g 0x50 with d := d, a := a, b := b, c := c, low := eLow 0 col }
  | .put g col d a b c => some { base g 0x51 with d := d, a := a, b := b, c := c, low := eLow 0 col }
  | .rpan g col m d a b c slot => some { base g 0x52 with d := d, a := a, b := b, c := c, mod := m.setWidth 6, low := eLow slot col }
  | .fenceE g d cols classes => some { base g 0x53 with d := d, low := (classes ++ cols).setWidth 48 }
  | .fenceX g d cols => some { base g 0x54 with d := d, low := cols.setWidth 48 }
  | .chk g d a => some { base g 0x5a with d := d.setWidth 6, a := a }
  | .bararr g d bg => some { base g 0x55 with d := d, low := bg.setWidth 48 }
  | .barwait g d a bg => some { base g 0x56 with d := d, a := a, low := bg.setWidth 48 }
  | .bartest g d a bg => some { base g 0x57 with d := d.setWidth 6, a := a, low := bg.setWidth 48 }
  | .waitz g wide d m => some { base g 0x58 with min := wideCode wide, d := d, a := m.base, b := m.index, mod := m.scale.setWidth 6, low := mLow m.disp 0 false }
  | .waitne g wide d m c => some { base g 0x59 with min := wideCode wide, d := d, a := m.base, b := m.index, c := c, mod := m.scale.setWidth 6, low := mLow m.disp 0 false }
  | .panr g col m d a b c slot => some { base g 0x60 with d := d, a := a, b := b, c := c, mod := m.setWidth 6, low := eLow slot col }
  | .panrv g col m d a b c slot => some { base g 0x61 with d := d.setWidth 6, a := a, b := b, c := c, mod := m.setWidth 6, low := eLow slot col }
  | .pann g col m d a b slot => some { base g 0x62 with d := d, a := a, b := b, mod := m.setWidth 6, low := eLow slot col }
  | .panv g col d a b c mask slot => some { base g 0x63 with d := d, a := a, b := b.setWidth 6, c := c.setWidth 6, mod := mask, low := eLow slot col }
  | .panvr g col d a b c mask slot => some { base g 0x64 with d := d.setWidth 6, a := a, b := b.setWidth 6, c := c.setWidth 6, mod := mask, low := eLow slot col }
  | .panld g a slot => some { base g 0x65 with a := a, low := eLow slot 0 }
  | .panq g d slot => some { base g 0x66 with d := d, low := eLow slot 0 }
  | .pandrop g slot => some { base g 0x67 with low := eLow slot 0 }
  | .vadd g t rm mk d a b => some { base g 0x80 with d := d.setWidth 6, a := a.setWidth 6, b := b.setWidth 6, mod := t.code, low := vLow rm.code mk 0 }
  | .vsub g t rm mk d a b => some { base g 0x81 with d := d.setWidth 6, a := a.setWidth 6, b := b.setWidth 6, mod := t.code, low := vLow rm.code mk 0 }
  | .vmul g t rm mk d a b => some { base g 0x82 with d := d.setWidth 6, a := a.setWidth 6, b := b.setWidth 6, mod := t.code, low := vLow rm.code mk 0 }
  | .vfma g t rm mk d a b c => some { base g 0x83 with d := d.setWidth 6, a := a.setWidth 6, b := b.setWidth 6, c := c.setWidth 6, mod := t.code, low := vLow rm.code mk 0 }
  | .vmin g t mk d a b => some { base g 0x84 with d := d.setWidth 6, a := a.setWidth 6, b := b.setWidth 6, mod := t.code, low := vLow 0 mk 0 }
  | .vmax g t mk d a b => some { base g 0x85 with d := d.setWidth 6, a := a.setWidth 6, b := b.setWidth 6, mod := t.code, low := vLow 0 mk 0 }
  | .vabs g t mk d a => some { base g 0x86 with d := d.setWidth 6, a := a.setWidth 6, mod := t.code, low := vLow 0 mk 0 }
  | .vneg g t mk d a => some { base g 0x87 with d := d.setWidth 6, a := a.setWidth 6, mod := t.code, low := vLow 0 mk 0 }
  | .vdiv g t rm mk d a b => some { base g 0x88 with d := d.setWidth 6, a := a.setWidth 6, b := b.setWidth 6, mod := t.code, low := vLow rm.code mk 0 }
  | .vsqrt g t rm mk d a => some { base g 0x89 with d := d.setWidth 6, a := a.setWidth 6, mod := t.code, low := vLow rm.code mk 0 }
  | .vrsq g t rm mk d a => some { base g 0x8a with d := d.setWidth 6, a := a.setWidth 6, mod := t.code, low := vLow rm.code mk 0 }
  | .vexp2 g t rm mk d a => some { base g 0x8b with d := d.setWidth 6, a := a.setWidth 6, mod := t.code, low := vLow rm.code mk 0 }
  | .vlog2 g t rm mk d a => some { base g 0x8c with d := d.setWidth 6, a := a.setWidth 6, mod := t.code, low := vLow rm.code mk 0 }
  | .vand g t mk d a b => some { base g 0x8d with d := d.setWidth 6, a := a.setWidth 6, b := b.setWidth 6, mod := t.code, low := vLow 0 mk 0 }
  | .vor g t mk d a b => some { base g 0x8e with d := d.setWidth 6, a := a.setWidth 6, b := b.setWidth 6, mod := t.code, low := vLow 0 mk 0 }
  | .vxor g t mk d a b => some { base g 0x8f with d := d.setWidth 6, a := a.setWidth 6, b := b.setWidth 6, mod := t.code, low := vLow 0 mk 0 }
  | .vshl g t mk d a b => some { base g 0x90 with d := d.setWidth 6, a := a.setWidth 6, b := b.regField, mod := t.code, low := vLow 0 mk b.immField }
  | .vshr g t mk d a b => some { base g 0x91 with d := d.setWidth 6, a := a.setWidth 6, b := b.regField, mod := t.code, low := vLow 0 mk b.immField }
  | .vsar g t mk d a b => some { base g 0x92 with d := d.setWidth 6, a := a.setWidth 6, b := b.regField, mod := t.code, low := vLow 0 mk b.immField }
  | .vcmp g t c mk d a b => some { base g 0x93 with d := d, a := a.setWidth 6, b := b.setWidth 6, mod := t.code, low := vLow 0 mk (c.code.setWidth 32) }
  | .vsel g mk d a b c => some { base g 0x94 with d := d.setWidth 6, a := a.setWidth 6, b := b.setWidth 6, c := c, low := vLow 0 mk 0 }
  | .vcvt g t s rm mk d a => some { base g 0x95 with d := d.setWidth 6, a := a.setWidth 6, mod := t.code, low := vLow rm.code mk (s.code.setWidth 32) }
  | .vpack g t p mk d a b => some { base g 0x96 with d := d.setWidth 6, a := a.setWidth 6, b := b.setWidth 6, mod := t.code, low := vLow 0 mk (p.setWidth 32) }
  | .vunpk g t p mk d a => some { base g 0x97 with d := d.setWidth 6, a := a.setWidth 6, mod := t.code, low := vLow 0 mk (p.setWidth 32) }
  | .vbcast g t mk d a => some { base g 0x98 with d := d.setWidth 6, a := a, mod := t.code, low := vLow 0 mk 0 }
  | .vmovs g t d a ix => some { base g 0x99 with d := d, a := a.setWidth 6, b := ix.regField, mod := t.code, low := vLow 0 none ix.immField }
  | .vperm g mk d a b => some { base g 0x9a with d := d.setWidth 6, a := a.setWidth 6, b := b.setWidth 6, low := vLow 0 mk 0 }
  | .vshuf g mk d a pat => some { base g 0x9b with d := d.setWidth 6, a := a.setWidth 6, b := pat.regField, low := vLow 0 mk pat.immField }
  | .vredsum g t rm mk d a => some { base g 0x9c with d := d, a := a.setWidth 6, mod := t.code, low := vLow rm.code mk 0 }
  | .vredmax g t mk d a => some { base g 0x9d with d := d, a := a.setWidth 6, mod := t.code, low := vLow 0 mk 0 }
  | .vredmin g t mk d a => some { base g 0x9e with d := d, a := a.setWidth 6, mod := t.code, low := vLow 0 mk 0 }
  | .vscan g t rm op mk d a => some { base g 0x9f with d := d.setWidth 6, a := a.setWidth 6, mod := t.code, low := vLow rm.code mk (op.code.setWidth 32) }
  | .vdot g t s rm mk d a b c => some { base g 0xa0 with d := d.setWidth 6, a := a.setWidth 6, b := b.setWidth 6, c := c.setWidth 6, mod := t.code, low := vLow rm.code mk (s.code.setWidth 32) }
  | .vclamp g t mk d a b c => some { base g 0xa1 with d := d.setWidth 6, a := a.setWidth 6, b := b.setWidth 6, c := c.setWidth 6, mod := t.code, low := vLow 0 mk 0 }
  | .vround g t rm mk d a => some { base g 0xa2 with d := d.setWidth 6, a := a.setWidth 6, mod := t.code, low := vLow rm.code mk 0 }
  | .vmov g mk d a => some { base g 0xa3 with d := d.setWidth 6, a := a.setWidth 6, low := vLow 0 mk 0 }
  | .vmovi g t mk d imm => some { base g 0xa4 with d := d.setWidth 6, mod := t.code, low := vLow 0 mk imm }
  | .vpopc g t mk d a => some { base g 0xa5 with d := d.setWidth 6, a := a.setWidth 6, mod := t.code, low := vLow 0 mk 0 }
  | .vcomp g mk d a => some { base g 0xa6 with d := d.setWidth 6, a := a.setWidth 6, low := vLow 0 mk 0 }
  | .vexpnd g mk d a => some { base g 0xa7 with d := d.setWidth 6, a := a.setWidth 6, low := vLow 0 mk 0 }
  | .bload g h fmt d m => some { base g 0xc0 with d := d.setWidth 6, a := m.base, b := m.index, c := fmt.setWidth 6, mod := m.scale.setWidth 6, low := mLow m.disp h.code false }
  | .bquery g d b => some { base g 0xc1 with d := d, a := b.setWidth 6 }
  | .mma g nmask af d a b => some { base g 0xc2 with d := d.setWidth 6, a := a.setWidth 6, b := b.setWidth 6, low := xLow nmask af 0 }
  | .mmax g nmask af d a b => some { base g 0xc3 with d := d.setWidth 6, a := a.setWidth 6, b := b.setWidth 6, low := xLow nmask af 1 }
  | .accz g d => some { base g 0xc4 with d := d.setWidth 6 }
  | .accanch g d imm => some { base g 0xc5 with d := d.setWidth 6, low := imm.signExtend 48 }
  | .accout g t rm mk d a row => some { base g 0xc6 with d := d.setWidth 6, a := a.setWidth 6, mod := t.code, low := vLow rm.code mk (row.setWidth 32) }
  | .accadd g d a => some { base g 0xc7 with d := d.setWidth 6, a := a.setWidth 6 }
  | .accst g h d m row => some { base g 0xc8 with d := d.setWidth 6, a := m.base, b := m.index, c := row.setWidth 6, mod := m.scale.setWidth 6, low := mLow m.disp h.code false }
  | .accld g h d m row => some { base g 0xc8 with min := 1, d := d.setWidth 6, a := m.base, b := m.index, c := row.setWidth 6, mod := m.scale.setWidth 6, low := mLow m.disp h.code false }
  | .tmov g d a => some { base g 0xc9 with d := d.setWidth 6, a := a.setWidth 6 }
  | .tmovTr g d a => some { base g 0xc9 with min := 1, d := d.setWidth 6, a := a.setWidth 6 }
  | .tcvt g t s rm d a => some { base g 0xca with d := d.setWidth 6, a := a.setWidth 6, mod := t.code, low := vLow rm.code none (s.code.setWidth 32) }
  | .tzero g d => some { base g 0xcb with d := d.setWidth 6 }
  | .tldv g d a row => some { base g 0xcc with d := d.setWidth 6, a := a.setWidth 6, c := row.setWidth 6 }
  | .tstv g d a row => some { base g 0xcd with d := d.setWidth 6, a := a.setWidth 6, c := row.setWidth 6 }
  | .tgetsc g d a row => some { base g 0xce with d := d, a := a.setWidth 6, c := row.setWidth 6 }
  | .tsetsc g d a row => some { base g 0xcf with d := d.setWidth 6, a := a, c := row.setWidth 6 }
  | .mfence g => some (base g 0xd0)
  | .mxstat g d a => some { base g 0xd1 with d := d, a := a.setWidth 6 }
  | .mxsend g col kind n d a b c => some { base g 0x68 with d := d, a := a, b := b, c := c, mod := 0#1 ++ n ++ kind.code, low := eLow 0 col }
  | .capmk g d a => some { base g 0x69 with d := d, a := a }
  | .caprev g a => some { base g 0x6a with a := a }
  | .trap g imm => some { base g 0xe0 with low := imm.setWidth 48 }
  | .eret g => some (base g 0xe1)
  | .sysrd g d r => some { base g 0xe2 with d := d, low := r.code.setWidth 48 }
  | .syswr g r a => some { base g 0xe3 with a := a, low := r.code.setWidth 48 }
  | .spurge g d a b c => some { base g 0xe4 with d := d, a := a, b := b, c := c }
  | .winset g d a b c => some { base g 0xe5 with d := d, a := a, b := b, c := c }
  | .fmtset g d a b => some { base g 0xe6 with d := d, a := a, b := b }
  | .cntrd g d a => some { base g 0xe7 with d := d, a := a }
  | .attest g d a b => some { base g 0xe7 with min := 1, d := d, a := a, b := b }
  | .dbgwp g d a b c => some { base g 0xe8 with d := d, a := a, b := b, c := c }
  | .dbgstep g d a b => some { base g 0xe9 with d := d, a := a, b := b }
  | .dbgstop g d a b => some { base g 0xea with d := d, a := a, b := b }
  | .snap g d => some { base g 0xeb with d := d }
  | .keywipe g a => some { base g 0xec with a := a }
  | .fuserd g d a => some { base g 0xed with d := d, a := a }
  | .unlock g d a => some { base g 0xee with d := d, a := a }
  | .dbgcapGrant g a b => some { base g 0xef with a := a, b := b }
  | .dbgcapRevoke g => some { base g 0xef with min := 1 }
  | .joinTimeout _ _ => none
  | .msgrecvTimeout _ _ => none
  | .fenceETimeout _ _ => none
  | .fenceXTimeout _ _ => none
  | .bararrTimeout _ _ => none
  | .barwaitTimeout _ _ => none
  | .barrierPhaseComplete _ => none
  | .waitRecheck _ _ => none
  | .waitTimeout _ _ => none
  | .bputCommand _ => none
  | .bdropCommand _ => none
  | .dbgstepTimeout _ _ => none
  | .stepEnd _ _ => none
  | .sluiceGrant _ _ => none
  | .commitComplete _ _ => none
  | .exclusiveGrant _ _ => none
  | .preemptionRequest _ => none
  | .taskResume _ => none
  | .messageDelivery _ => none
  | .messageUndeliverable _ => none
  | .engineCommit _ _ => none
  | .panApplication _ => none
  | .brineApplication _ => none
  | .brineSendHome _ _ => none
  | .crystallize _ _ => none
  | .remoteGet _ _ _ _ _ => none
  | .remotePut _ _ _ _ _ => none
  | .remoteRpan _ _ _ _ _ _ => none
  | .remoteAck _ _ _ _ => none
  | .remoteAckTimeout _ => none
  | .l1Eviction _ _ => none
  | .l2Eviction _ => none
  | .coreLoopTake _ => none
  | .gangMemberStart _ => none
  | .taskComplete _ => none
  | .entryTake _ => none
  | .queueSlotTake _ => none
  | .queueEvict _ => none
  | .arbiterVisit => none
  | .registerWrite _ _ _ _ => none
  | .hostMemoryAccess _ _ _ _ _ => none
  | .bridgeRelay _ _ _ => none
  | .queueEnable _ => none
  | .queueDisable _ => none
  | .stailWrite _ _ => none
  | .cheadWrite _ _ => none
  | .queueReset _ => none
  | .resetLinkEpoch _ => none
  | .cmdUnassigned _ _ => none
  | .mkspace _ => none
  | .setpeer _ => none
  | .setqos _ => none
  | .map _ => none
  | .unmap _ => none
  | .mapreg _ => none
  | .replay _ => none
  | .kill _ => none
  | .migrate _ => none
  | .migrationLineCopy _ _ => none
  | .fring _ => none
  | .rmspace _ => none
  | .hotpol _ => none
  | .rtwrite _ => none
  | .hotnessPeriod _ => none
  | .dring _ => none
  | .snaprd _ => none
  | .profbuf _ => none
  | .reclog _ => none
  | .rerun _ => none
  | .xtrig _ => none
  | .stopBroadcast _ _ => none
  | .stopRecord _ => none
  | .replayDivergence _ => none
  | .profilePeriod => none
  | .pwrset _ => none
  | .fwload _ => none
  | .fwswitch _ => none
  | .fwReady => none
  | .handoverTimeout => none
  | .rasring _ => none
  | .diereset _ => none
  | .mreset _ => none
  | .moduleReset _ => none
  | .dieError _ => none
  | .dieResetTimeout _ => none
  | .firmwareWatchdog => none
  | .powerArbiterTick _ _ => none
  | .thermalHold _ _ => none
  | .thermalRelease _ _ => none
  | .thermalTrip _ _ => none
  | .patrolScrub _ _ _ => none
  | .jobset _ => none
  | .jobclr _ => none
  | .engineInstructionCompleted _ _ => none
  | .attestRecordWritten _ => none
  | .laneRepair _ _ => none

/-- The word of an instruction. -/
def encode (i : Instr) : Option (BitVec 96) := i.fields.map Fields.word

/-- A row's instruction read from its word, in slot 0. The table gives no widths: an instruction is 96 bits, and
bit `i` of `w` is bit `i` of the word, so the lowest byte stands first (R7, R171). -/
def decodeTableWord (_nbits w : Nat) : Option Instr :=
  match decode 0 (BitVec.ofNat 96 w) with
  | .ok i => some i
  | .error _ => none

end Sys2Proof
end

