-- ==== Sys2Proof/Config.lean ====
section
/-! DEFINITION. What an implementation fixes or draws, and the free values: constants without a body, so that no
proof can lean on what they are. The numbers that spec/ states stand below them. -/

namespace Sys2Proof.Config

/-- Capability key of a core at its `n`-th draw (R319, R428). Log entry 3. -/
opaque capKey (core n : Nat) : BitVec 256
/-- UNONCE after the `n`-th module reset (R453). Log entry 3. -/
opaque nonce (n : Nat) : BitVec 384
/-- A byte of a cached line whose frame has two names (R4, R93). Log entry 4. -/
opaque aliasByte (addr n : Nat) : Byte
/-- Which of the values that a byte has held an invariant load returns after a broken promise (R103). Log entry 24. -/
opaque invChoice (va n : Nat) : Nat
/-- Which of the values that a byte has held a disorderly die reset leaves it (R438). Log entry 5. -/
opaque lostChoice (n : Nat) : Nat
/-- Cycle counts of a profile period, before they are bounded to their sum (R417). Log entry 6. -/
opaque profCycles (n : Nat) : Nat
/-- Public key, signed part, signature and version of a firmware image, whose layout is not given (R426). Log entry 7. -/
opaque imageKey (image : List Byte) : List Byte
opaque imageBody (image : List Byte) : List Byte
opaque imageSig (image : List Byte) : List Byte
opaque imageVersion (image : List Byte) : Nat

/-- Translation-cache misses of an MC, of a space or, for 0, of all: which translations an MC keeps is its own choice (R390, Table 18.3). Log entry 9. -/
opaque cacheMisses (mc space n : Nat) : Word

/-- REASON of the entry that reports lost RAS entries, whose layout Table 19.4 does not state. Log entry 8. -/
opaque rasLostReason : Nat → BitVec 8

/-- BLOCK of a RAS entry whose event Table 19.4 places in no block (reasons 0x06 to 0x09). Log entry 8. -/
opaque rasBlock (reason n : Nat) : BitVec 8
/-- Context slot and pc in the completion record of a task that a die reset ends: no context raised the cause (R437).
Log entry 10. -/
opaque dieEndSlot (core n : Nat) : Nat
opaque dieEndPc (core n : Nat) : Word
/-- Whether a die fails its self-test at the `n`-th module reset, where the event does not say (R428). Log entry 11. -/
opaque selfTestFails (n : Nat) : Bool

/-- Cores, context slots (R16, R19). -/
def cores : Nat := 512
def slots : Nat := 11
def helperSlots : Nat := 10

/-- Timeouts in PT cycles. -/
def joinTimeout : Nat := 2 ^ 24
def msgTimeout : Nat := 2 ^ 18
def fenceETimeout : Nat := 2 ^ 26
def fenceXTimeout : Nat := 2 ^ 30
def barTimeout : Nat := 2 ^ 24
def waitTimeout : Nat := 2 ^ 24
def waitRecheck : Nat := 256
def stepTimeout : Nat := 2 ^ 24
def ackTimeout : Nat := 2 ^ 30
def handoverTimeout : Nat := 2 ^ 30
def dieResetTimeout : Nat := 2 ^ 26
def powerPeriod : Nat := 3300000

/-- Package frames (R386, R387). -/
def nearFrames : Nat := 7864320
def farFrames : Nat := 2 ^ 24
def tableFrames : Nat := 4096

end Sys2Proof.Config
end

