-- ==== Sys2Proof/Machine/Bits.lean ====
section
/-! DEFINITION. Bit fields, byte order, sign extension, masks and small integer functions, shared by the meanings. -/

namespace Sys2Proof.Machine

/-- Field [hi:lo] of a number (R7). -/
def fld (x hi lo : Nat) : Nat := (x >>> lo) % 2 ^ (hi + 1 - lo)

/-- Two's-complement reading of an `n`-bit number (R191). -/
def signExt (x n : Nat) : Int :=
  let y := x % 2 ^ n
  if n = 0 then 0 else if y ≥ 2 ^ (n - 1) then (y : Int) - (2 ^ n : Nat) else y

/-- An integer modulo 2^64. -/
def toWord (i : Int) : Word := BitVec.ofInt 64 i

/-- Integer modulo 2^n, as a natural number. -/
def wrapN (i : Int) (n : Nat) : Nat := (i % ((2 ^ n : Nat) : Int)).toNat

/-- Bit width of a number: 0 for 0. -/
def bitLen (n : Nat) : Nat := if n = 0 then 0 else n.log2 + 1

def popFrom (x : Nat) : Nat → Nat
  | 0 => 0
  | n + 1 => (if x.testBit n then 1 else 0) + popFrom x n

/-- Set bits among the low `n`. -/
def popCount (x n : Nat) : Nat := popFrom x n

/-- Trailing zero bits of an `n`-bit number, `n` for zero. -/
def ctzFrom (x : Nat) : Nat → Nat
  | 0 => 0
  | n + 1 => if x % 2 = 1 then 0 else 1 + ctzFrom (x / 2) n

/-- Floor division by a power of two, for shifts of integers (rounds towards minus infinity). -/
def sarInt (i : Int) (n : Nat) : Int := i / ((2 ^ n : Nat) : Int)

/-- `x × 2^n` for a signed exponent, floored. -/
def shiftInt (x n : Int) : Int := if n ≥ 0 then x * ((2 ^ n.toNat : Nat) : Int) else sarInt x (-n).toNat

/-- Integer square root by bits: `n` result bits remain to be tried. -/
def isqrtGo (x : Nat) : Nat → Nat → Nat
  | 0, r => r
  | n + 1, r =>
    let t := r + 2 ^ n
    isqrtGo x n (if t * t ≤ x then t else r)

def isqrt (x : Nat) : Nat := isqrtGo x (bitLen x / 2 + 1) 0

/-- Little-endian number of a byte string. -/
def leNat : List Byte → Nat
  | [] => 0
  | b :: t => b.toNat + 256 * leNat t

/-- The `n` low bytes of a number, lowest first. -/
def leBytes (x : Nat) : Nat → List Byte
  | 0 => []
  | n + 1 => BitVec.ofNat 8 x :: leBytes (x / 256) n

/-- `n` bytes of a line from byte `off`, as a number. -/
def lineGet (l : Line) (off n : Nat) : Nat := fld l.toNat (8 * (off + n) - 1) (8 * off)

def lineByte (l : Line) (i : Nat) : Byte := l.extractLsb' (8 * i) 8

/-- Put the low `n` bytes of `v` at byte `off`. -/
def lineSet (l : Line) (off n v : Nat) : Line :=
  let m := (2 ^ (8 * n) - 1) <<< (8 * off)
  BitVec.ofNat 512 ((l.toNat &&& (2 ^ 512 - 1 - m)) ||| ((v % 2 ^ (8 * n)) <<< (8 * off)))

def lineBytes (l : Line) : List Byte := leBytes l.toNat 64

def lineOf (b : List Byte) : Line := BitVec.ofNat 512 (leNat b)

/-- Byte mask of `n` bytes from byte `off`. -/
def byteMask (off n : Nat) : BitVec 64 := BitVec.ofNat 64 ((2 ^ n - 1) <<< off)

def spreadGo (m : Nat) : Nat → Nat
  | 0 => 0
  | n + 1 => spreadGo m n + (if m.testBit n then 255 <<< (8 * n) else 0)

/-- The bit mask of a byte mask. -/
def spread (m : BitVec 64) : Line := BitVec.ofNat 512 (spreadGo m.toNat 64)

/-- `new` where the mask is set, `old` elsewhere. -/
def mergeLine (m : BitVec 64) (new old : Line) : Line := (new &&& spread m) ||| (old &&& ~~~spread m)

/-- Bytes of the two 32-byte sectors that hold a masked byte (R23, R80). -/
def sectorMask (m : BitVec 64) : BitVec 64 :=
  (if m &&& 0xFFFFFFFF#64 = 0 then 0 else 0xFFFFFFFF#64) |||
  (if m &&& 0xFFFFFFFF00000000#64 = 0 then 0 else 0xFFFFFFFF00000000#64)

/-- Insert into a list of distinct numbers kept in rising order. -/
def insertNat (n : Nat) : List Nat → List Nat
  | [] => [n]
  | m :: t => if n < m then n :: m :: t else if n = m then m :: t else m :: insertNat n t

/-- Replace the elements that satisfy `p`. -/
def updWhere {α : Type} (p : α → Bool) (f : α → α) (l : List α) : List α := l.map fun a => if p a then f a else a

end Sys2Proof.Machine
end

