-- ==== Sys2Proof/Machine/Fp.lean ====
section
/-! DEFINITION. Floating-point formats, one rounding, and the operations on codes: R119, R142 to R145, R213 to R217,
R279 to R282, R285, R330. -/

namespace Sys2Proof.Machine

/-- A decoded floating value: NaN, an infinity, or `(-1)^neg × m × 2^e`, zeros keeping their sign. -/
inductive Num where
  | nan
  | inf (neg : Bool)
  | fin (neg : Bool) (m : Nat) (e : Int)
  deriving DecidableEq, Repr

/-- A format of Table 5.1: fraction bits, exponent bits, exponent of a subnormal's unit. -/
structure Fmt where
  frac : Nat
  ebits : Nat
  e0 : Int
  deriving DecidableEq, Repr

def Fmt.of : Ty → Fmt
  | .e2m1 => ⟨1, 2, -1⟩
  | .e4m3 => ⟨3, 4, -9⟩
  | .e5m2 => ⟨2, 5, -16⟩
  | .bf16 => ⟨7, 8, -133⟩
  | .f16 => ⟨10, 5, -24⟩
  | .f64 => ⟨52, 11, -1074⟩
  | .f32 | .i8 | .i16 | .i32 | .i64 | .w8 | .w16 | .w32 | .w64 | .s4e => ⟨23, 8, -149⟩

def Fmt.signBit (f : Fmt) : Nat := f.frac + f.ebits

/-- A sign above a magnitude code. -/
def Fmt.signed (f : Fmt) (neg : Bool) (mag : Nat) : Nat := mag + if neg then 2 ^ f.signBit else 0

/-- Magnitude code of the largest finite value (Table 5.1). -/
def maxFinite (t : Ty) : Nat :=
  if t = .e2m1 then 7 else if t = .e4m3 then 0x7E
  else (2 ^ (Fmt.of t).ebits - 1) * 2 ^ (Fmt.of t).frac - 1

/-- Magnitude code of infinity; a format without one saturates (R142, Table 10.3). -/
def infCode (t : Ty) : Nat :=
  if t = .e2m1 ∨ t = .e4m3 then maxFinite t else (2 ^ (Fmt.of t).ebits - 1) * 2 ^ (Fmt.of t).frac

/-- Default NaN (Table 5.6, R214, Table 10.3). -/
def defaultNan (t : Ty) : Nat :=
  if t = .e2m1 then 0 else if t = .e4m3 ∨ t = .e5m2 then 0x7F
  else infCode t + 2 ^ ((Fmt.of t).frac - 1)

/-- OVF NaN of readout (Table 5.6). -/
def ovfNan (t : Ty) : Nat := if t = .e4m3 ∨ t = .e5m2 then 0x7F else defaultNan t + 15

/-- Value of a code (Table 5.1). -/
def unpack (t : Ty) (code : Nat) : Num :=
  let f := (Fmt.of t)
  let neg := code.testBit f.signBit
  let e := fld code (f.signBit - 1) f.frac
  let m := code % 2 ^ f.frac
  if e = 0 then .fin neg m f.e0
  else if t = .e4m3 then
    if e = 15 ∧ m = 7 then .nan else .fin neg (2 ^ f.frac + m) (f.e0 + e - 1)
  else if t ≠ .e2m1 ∧ e = 2 ^ f.ebits - 1 then
    if m = 0 then .inf neg else .nan
  else .fin neg (2 ^ f.frac + m) (f.e0 + e - 1)

/-- Whether a code is a nonzero subnormal. -/
def subnormal (t : Ty) (code : Nat) : Bool :=
  fld code ((Fmt.of t).signBit - 1) (Fmt.of t).frac == 0 && code % 2 ^ (Fmt.of t).frac != 0

/-- Flush a subnormal operand to a zero of its sign (R330). -/
def flushCode (t : Ty) (on : Bool) (code : Nat) : Nat :=
  if on && subnormal t code then (Fmt.of t).signed (code.testBit (Fmt.of t).signBit) 0 else code

/-- What a rounding reads beside the value: mode, SEED, linear index, result flushing (R145, R330). -/
structure Rnd where
  rm : RM
  seed : Nat
  idx : Nat
  ftz : Bool
  deriving DecidableEq, Repr

/-- RSH's 32-bit value (R145). -/
def rshHash (seed idx : Nat) : Nat :=
  let x := (seed + 0x9E3779B97F4A7C15 * (idx + 1)) % 2 ^ 64
  let x := ((x ^^^ (x >>> 30)) * 0xBF58476D1CE4E5B9) % 2 ^ 64
  let x := ((x ^^^ (x >>> 27)) * 0x94D049BB133111EB) % 2 ^ 64
  (x ^^^ (x >>> 31)) >>> 32

/-- Round the magnitude `(m + δ) / 2^k` to an integer, where `sticky` says `0 < δ < 1` and otherwise `δ = 0`
(R144, R145). A sticky magnitude is given with `k ≥ 32`. -/
def roundMag (r : Rnd) (neg : Bool) (m k : Nat) (sticky : Bool) : Nat :=
  let lo := m / 2 ^ k
  let rest := m % 2 ^ k
  if rest = 0 ∧ !sticky then lo
  else
    let up :=
      match r.rm with
      | .rne => decide (2 * rest > 2 ^ k) || (2 * rest == 2 ^ k && (sticky || lo % 2 == 1))
      | .rtz => false
      | .rdn => neg
      | .rup => !neg
      | .rsh => decide (rshHash r.seed r.idx < rest * 2 ^ 32 / 2 ^ k)
    if up then lo + 1 else lo

/-- Magnitude code of a value that overflows (R142). -/
def overflow (t : Ty) (rm : RM) (neg : Bool) : Nat :=
  match rm with
  | .rne | .rsh => infCode t
  | .rtz => maxFinite t
  | .rup => if neg then maxFinite t else infCode t
  | .rdn => if neg then infCode t else maxFinite t

/-- Round `(-1)^neg × (m + δ) × 2^e` once to a format (R142, R144, R214, R330). -/
def pack (t : Ty) (r : Rnd) (neg : Bool) (m : Nat) (e : Int) (sticky : Bool := false) : Nat :=
  let f := (Fmt.of t)
  if m = 0 ∧ !sticky then f.signed neg 0
  else
    let q := max f.e0 (e + bitLen m - (f.frac + 1))
    let n := if q ≤ e then m * 2 ^ (e - q).toNat else roundMag r neg m (q - e).toNat sticky
    let (n, q) := if n ≥ 2 ^ (f.frac + 1) then (n / 2, q + 1) else (n, q)
    if n < 2 ^ f.frac then f.signed neg (if r.ftz then 0 else n)
    else
      let code := ((q - f.e0).toNat + 1) * 2 ^ f.frac + (n - 2 ^ f.frac)
      if code > maxFinite t then f.signed neg (overflow t r.rm neg) else f.signed neg code

/-- A value to a code of the format, rounded once. -/
def packNum (t : Ty) (r : Rnd) : Num → Nat
  | .nan => defaultNan t
  | .inf neg => (Fmt.of t).signed neg (infCode t)
  | .fin neg m e => pack t r neg m e

/-- An operand as its operation reads it: subnormals flushed where FTZ selects it. -/
def operand (t : Ty) (ftz : Bool) (code : Nat) : Num := unpack t (flushCode t ftz (code % 2 ^ ((Fmt.of t).signBit + 1)))

def Num.isNan : Num → Bool
  | .nan => true
  | .inf _ | .fin _ _ _ => false

def Num.neg : Num → Num
  | .nan => .nan
  | .inf s => .inf !s
  | .fin s m e => .fin (!s) m e

def Num.isNeg : Num → Bool
  | .nan => false
  | .inf s => s
  | .fin s _ _ => s

/-- Exact product (R214). -/
def Num.mul : Num → Num → Num
  | .nan, _ | _, .nan => .nan
  | .inf s, .inf t => .inf (s != t)
  | .inf s, .fin t m _ => if m = 0 then .nan else .inf (s != t)
  | .fin s m _, .inf t => if m = 0 then .nan else .inf (s != t)
  | .fin s m e, .fin t n g => .fin (s != t) (m * n) (e + g)

/-- Signed integer of a finite value in units of `2^e`; `e` is at most its exponent. -/
def Num.scaled (e : Int) : Num → Int
  | .fin s m g => (if s then -1 else 1) * (m * 2 ^ (g - e).toNat : Nat)
  | .nan | .inf _ => 0

def Num.exp : Num → Int
  | .fin _ m e => if m = 0 then 100000 else e
  | .nan | .inf _ => 100000

/-- Sum of addends, exact, rounded once. An exact zero is +0, −0 under RDN or when every addend is −0
(R214, R295). DEDUCED, log entry 26. -/
def sumRound (t : Ty) (r : Rnd) (l : List Num) : Nat :=
  if l.any Num.isNan then defaultNan t
  else
    let pos := l.any fun x => x == .inf false
    let neg := l.any fun x => x == .inf true
    if pos && neg then defaultNan t
    else if pos || neg then (Fmt.of t).signed neg (infCode t)
    else
      let e := l.foldl (fun a x => min a x.exp) 100000
      let v : Int := l.foldl (fun (a : Int) x => a + (if x.exp = 100000 then 0 else x.scaled e)) 0
      if v = 0 then (Fmt.of t).signed (r.rm == .rdn || l.all Num.isNeg) 0
      else pack t r (decide (v < 0)) v.natAbs e

/-- Quotient (R214). -/
def divRound (t : Ty) (r : Rnd) : Num → Num → Nat
  | .nan, _ | _, .nan => defaultNan t
  | .inf _, .inf _ => defaultNan t
  | .inf s, .fin u _ _ => (Fmt.of t).signed (s != u) (infCode t)
  | .fin s _ _, .inf u => (Fmt.of t).signed (s != u) 0
  | .fin s m e, .fin u n g =>
    if n = 0 then if m = 0 then defaultNan t else (Fmt.of t).signed (s != u) (infCode t)
    else if m = 0 then (Fmt.of t).signed (s != u) 0
    else
      let k : Nat := 200
      let q := m * 2 ^ k / n
      pack t r (s != u) q (e - g - k) (decide (m * 2 ^ k % n ≠ 0))

/-- Square root (R214). -/
def sqrtRound (t : Ty) (r : Rnd) : Num → Nat
  | .nan => defaultNan t
  | .inf s => if s then defaultNan t else infCode t
  | .fin s m e =>
    if m = 0 then (Fmt.of t).signed s 0
    else if s then defaultNan t
    else
      let (m, e) := if e % 2 = 0 then (m, e) else (2 * m, e - 1)
      let k : Nat := 128
      let x := m * 2 ^ (2 * k)
      let q := isqrt x
      pack t r false q (e / 2 - k) (decide (q * q ≠ x))

/-- Reciprocal square root (R279, Table 10.2). -/
def rsqRound (t : Ty) (r : Rnd) : Num → Nat
  | .nan => defaultNan t
  | .inf s => if s then defaultNan t else 0
  | .fin s m e =>
    if m = 0 then (Fmt.of t).signed s (infCode t)
    else if s then defaultNan t
    else
      let (m, e) := if e % 2 = 0 then (m, e) else (2 * m, e - 1)
      let k : Nat := 160
      let q := isqrt (2 ^ (2 * k) / m)
      pack t r false q (-k - e / 2) (decide (q * q * m ≠ 2 ^ (2 * k)))

/-- floor(ln 2 × 2^320). -/
def ln2 : Nat :=
  1480553391661173448385607439722553250922680800745876974795605978609098082859138712941075737848984

/-- Taylor sum of e^y, `y` and the result in units of 2^-320. -/
def expGo (y : Nat) : Nat → Nat → Nat → Nat → Nat
  | 0, _, _, acc => acc
  | n + 1, k, term, acc =>
    let term := term * y / 2 ^ 320 / k
    expGo y n (k + 1) term (acc + term)

/-- 2^f in units of 2^-320, for `f` in units of 2^-320 below 1. -/
def exp2Frac (f : Nat) : Nat := expGo (f * ln2 / 2 ^ 320) 80 1 (2 ^ 320) (2 ^ 320)

/-- 2^a (R279, Table 10.2). The fraction is computed to 2^-300 and taken as inexact unless `a` is an integer.
DESIGN CHOICE, log entry 18. -/
def exp2Round (t : Ty) (r : Rnd) : Num → Nat
  | .nan => defaultNan t
  | .inf s => if s then 0 else infCode t
  | .fin s m e =>
    let v : Int := if s then -(m : Int) else m
    if m = 0 then pack t r false 1 0
    else if e ≥ 12 ∨ m * 2 ^ (e + 200).toNat > 2 ^ 213 then
      if s then pack t r false 1 (-5000) else pack t r false 1 5000
    else
      let x := shiftInt v (e + 320)
      let n := x / (2 ^ 320 : Nat)
      let f := (x % (2 ^ 320 : Nat)).toNat
      if f = 0 then pack t r false 1 n
      else pack t r false (exp2Frac f / 2 ^ 20) (n - 300) true

/-- Sum of z^(2i+1)/(2i+1), in units of 2^-320. -/
def atanhGo (z2 : Nat) : Nat → Nat → Nat → Nat → Nat
  | 0, _, _, acc => acc
  | n + 1, k, pw, acc => atanhGo z2 n (k + 2) (pw * z2 / 2 ^ 320) (acc + pw / k)

/-- log2 of `y` in [1, 2), both in units of 2^-320. -/
def log2Frac (y : Nat) : Nat :=
  let z := (y - 2 ^ 320) * 2 ^ 320 / (y + 2 ^ 320)
  2 * atanhGo (z * z / 2 ^ 320) 110 1 z 0 * 2 ^ 320 / ln2

/-- log2 a (R279, Table 10.2). -/
def log2Round (t : Ty) (r : Rnd) : Num → Nat
  | .nan => defaultNan t
  | .inf s => if s then defaultNan t else infCode t
  | .fin s m e =>
    if m = 0 then (Fmt.of t).signed true (infCode t)
    else if s then defaultNan t
    else
      let b := bitLen m - 1
      let k : Int := e + b
      if m = 2 ^ b then
        if k = 0 then 0 else pack t r (decide (k < 0)) k.natAbs 0
      else
        let l : Nat := log2Frac (m * 2 ^ (320 - b)) / 2 ^ 20
        let v : Int := k * (2 ^ 300 : Nat) + l
        if v ≥ 0 then pack t r false v.toNat (-300) true else pack t r true (-v - 1).toNat (-300) true

/-- Order of two values that are not NaN; +0 equals −0. -/
def Num.lt : Num → Num → Bool
  | .nan, _ | _, .nan => false
  | .inf s, .inf u => s && !u
  | .inf s, .fin _ _ _ => s
  | .fin _ _ _, .inf u => !u
  | .fin s m e, .fin u n g =>
    let x := min e g
    decide ((Num.fin s m e).scaled x < (Num.fin u n g).scaled x)

/-- As `lt`, with −0 below +0 (R215). -/
def Num.ltZ (a b : Num) : Bool :=
  match a, b with
  | .fin s 0 _, .fin u 0 _ => s && !u
  | _, _ => a.lt b

/-- Code of the smaller or larger operand (R215, R281). DEDUCED, log entry 27. -/
def minMax (t : Ty) (big : Bool) (a b : Nat) : Nat :=
  let x := unpack t a
  let y := unpack t b
  match x.isNan, y.isNan with
  | true, true => defaultNan t
  | true, false => b
  | false, true => a
  | false, false => if big then (if x.ltZ y then b else a) else if y.ltZ x then b else a

/-- Truth of a condition on floating values (R184, R217). -/
def condNum (c : Cond) (x y : Num) : Bool :=
  if x.isNan || y.isNan then c == .ne || c == .un
  else
    match c with
    | .eq => !x.lt y && !y.lt x
    | .ne => x.lt y || y.lt x
    | .lt | .ltu => x.lt y
    | .le | .leu => !y.lt x
    | .gt | .gtu => y.lt x
    | .ge | .geu => !x.lt y
    | .un => false

/-- Round to an integer (R216, R282). -/
def roundInt (r : Rnd) (neg : Bool) (m : Nat) (e : Int) : Int :=
  let n : Int := if e ≥ 0 then (m * 2 ^ e.toNat : Nat) else roundMag r neg m (-e).toNat false
  if neg then -n else n

/-- Least and greatest value of an integer type, with s4e as −7 to 7 (R285). -/
def intMin (t : Ty) : Int := if t = .s4e then -7 else if t.signed then -(2 ^ (t.width - 1) : Nat) else 0
def intMax (t : Ty) : Int :=
  if t = .s4e then 7 else if t.signed then (2 ^ (t.width - 1) : Nat) - 1 else (2 ^ t.width : Nat) - 1

def saturate (t : Ty) (v : Int) : Int := max (intMin t) (min (intMax t) v)

/-- Float to integer: rounded, saturated, NaN gives 0 (R216). -/
def numToInt (t : Ty) (r : Rnd) : Num → Int
  | .nan => 0
  | .inf s => if s then intMin t else intMax t
  | .fin s m e => saturate t (roundInt r s m e)

/-- Integer of a code: signed, unsigned, or an s4e code with 0b1000 read as 0 (R285). -/
def intOf (t : Ty) (code : Nat) : Int :=
  if t = .s4e then if code % 16 = 8 then 0 else signExt code 4
  else if t.signed then signExt code t.width else (code % 2 ^ t.width : Nat)

def intToNum (v : Int) : Num := .fin (decide (v < 0)) v.natAbs 0

/-- Round to an integral value of the own format (R282). -/
def roundIntegral (t : Ty) (r : Rnd) (code : Nat) : Nat :=
  match unpack t code with
  | .nan => defaultNan t
  | .inf _ => code
  | .fin s m e =>
    if e ≥ 0 ∨ m % 2 ^ (-e).toNat = 0 then code
    else
      let v := roundInt r s m e
      if v = 0 then (Fmt.of t).signed s 0 else pack t { r with rm := .rne, ftz := false } s v.natAbs 0

end Sys2Proof.Machine
end

