-- ==== Sys2Proof/Machine/Slice.lean ====
section
/-! DEFINITION. Slice routines (R148 to R153): the image checks of Table 6.6 and a run of a routine on a line. -/

namespace Sys2Proof.Machine

/-- Header fields (Table 6.1). -/
def hdrLen (h : Nat) : Nat := fld h 23 16
def hdrOpw (h : Nat) : Nat := fld h 9 8
def hdrRet (h : Nat) : Bool := h.testBit 2
def hdrI (h : Nat) : Bool := h.testBit 1
def hdrC (h : Nat) : Bool := h.testBit 0

/-- Operand width in bits. -/
def opwBits (h : Nat) : Nat := 64 * 2 ^ hdrOpw h

/-- Slice word fields (Table 6.2). -/
def swOpc (w : Nat) : Nat := fld w 31 26
def swLw (w : Nat) : Nat := fld w 25 23
def swDst (w : Nat) : Nat := fld w 22 20
def swSa (w : Nat) : Nat := fld w 19 17
def swSb (w : Nat) : Nat := fld w 16 14
def swSm (w : Nat) : Nat := fld w 13 11
def swImm (w : Nat) : Nat := fld w 10 0

/-- Which fields an operation uses: SA, SB, SM, IMM, DST (Table 6.4). -/
def usesSb (o : Nat) : Bool := (2 ≤ o && o ≤ 0x0B) || (0x0E ≤ o && o ≤ 0x13) || o == 0x15
def usesSm (o : Nat) : Bool := o == 0x11
def usesImm (o : Nat) : Bool := o == 0x0C || o == 0x0D || o == 0x14 || o == 0x16 || o == 0x17
def usesDst (o : Nat) : Bool := o != 0x17

/-- Lane widths an operation allows (Table 6.4). -/
def lwOk (o lw : Nat) : Bool :=
  if o == 0 || o == 0x17 then lw == 0
  else if o == 0x12 then lw == 1 || lw == 2
  else if o == 0x13 then lw == 2
  else decide (lw ≤ 4)

/-- IMM within its range (Table 6.4). -/
def immOk (o lw imm : Nat) : Bool :=
  let w := 8 * 2 ^ lw
  if o == 0x0C || o == 0x0D then decide (imm < w)
  else if o == 0x14 || o == 0x16 then decide (imm < 512 / w)
  else if o == 0x17 then decide (imm < 16)
  else true

/-- Reason that refuses an instruction word, in the order of Table 6.6. -/
def wordReason (h : Nat) (last : Bool) (w : Nat) : Option Nat :=
  let o := swOpc w
  if o > 0x17 then some 0x03
  else if !lwOk o (swLw w) then some 0x04
  else if o != 0 && o != 0x17 && !(2 ≤ swDst w && swDst w ≤ 6) then some 0x05
  else if (!usesDst o && swDst w != 0) || (!usesSb o && swSb w != 0) || (!usesSm o && swSm w != 0) ||
    (!usesImm o && swImm w != 0) then some 0x06
  else if !immOk o (swLw w) (swImm w) then some 0x07
  else if (o == 0) != last then some 0x08
  else if o == 0 && !hdrRet h && swSa w != 7 then some 0x09
  else none

/-- Reason that refuses a header (0x02). -/
def headerOk (h : Nat) : Bool :=
  1 ≤ hdrLen h && hdrLen h ≤ 32 && fld h 31 24 == 0 && fld h 15 10 == 0 && fld h 7 3 == 0

/-- First failed check of reasons 0x03 to 0x09 over the words, reason by reason in table order, with the word
index that TRAPINFO receives (R155). -/
def imageReason (h : Nat) (ws : List Nat) : Option (Nat × Nat) :=
  let l := ws.zipIdx.filterMap fun (w, j) =>
    (wordReason h (decide (j + 1 = ws.length)) w).map fun r => (r, j + 1)
  l.foldl (fun a x => match a with
    | none => some x
    | some y => if x.1 < y.1 then some x else some y) none

/-- Whether a routine holds FAILNZ (R165). -/
def holdsFail (ws : List Nat) : Bool := ws.any fun w => swOpc w == 0x17

/-- One lane's result. -/
def laneOp (o w imm : Nat) (a b m : Nat) : Nat :=
  let sa := signExt a w
  let sb := signExt b w
  let ones := 2 ^ w - 1
  if o == 0x01 then a
  else if o == 0x02 then (a + b) % 2 ^ w
  else if o == 0x03 then (a + (2 ^ w - b)) % 2 ^ w
  else if o == 0x04 then (if sb < sa then b else a)
  else if o == 0x05 then min a b
  else if o == 0x06 then (if sa < sb then b else a)
  else if o == 0x07 then max a b
  else if o == 0x08 then a &&& b
  else if o == 0x09 then a ||| b
  else if o == 0x0A then a ^^^ b
  else if o == 0x0B then a &&& (ones - b)
  else if o == 0x0C then (a <<< imm) % 2 ^ w
  else if o == 0x0D then a >>> imm
  else if o == 0x0E then (if a = b then ones else 0)
  else if o == 0x0F then (if sa < sb then ones else 0)
  else if o == 0x10 then (if a < b then ones else 0)
  else if o == 0x11 then (if m ≠ 0 then a else b)
  else
    let t : Ty := if w = 16 then .bf16 else .f32
    if o == 0x12 then sumRound t ⟨.rne, 0, 0, false⟩ [unpack t a, unpack t b]
    else minMax t true a b

def lane (x w i : Nat) : Nat := (x >>> (w * i)) % 2 ^ w

/-- Assemble lanes `n - 1` down to 0. -/
def lanes (w : Nat) (f : Nat → Nat) : Nat → Nat
  | 0 => 0
  | n + 1 => lanes w f n + (f n <<< (w * n))

/-- Registers L, O, T0 to T3, Q (Table 6.3); a code without an entry reads zero. -/
abbrev SliceRegs := Tab Nat

def sreg (r : SliceRegs) (c : Nat) : Nat := if c = 7 then 0 else r.get 0 c

/-- Effect of a word other than END and FAILNZ on its destination. -/
def sliceOp (r : SliceRegs) (x : Nat) : Nat :=
  let w := 8 * 2 ^ swLw x
  let nl := 512 / w
  let a := sreg r (swSa x)
  let b := sreg r (swSb x)
  let m := sreg r (swSm x)
  let o := swOpc x
  if o == 0x14 then lanes w (fun _ => lane a w (swImm x)) nl
  else if o == 0x15 then
    let i := lane b w 0 % nl
    lanes w (fun k => if k = i then lane b w 1 else lane a w k) nl
  else if o == 0x16 then lanes w (fun k => lane a w ((k + nl - swImm x) % nl)) nl
  else lanes w (fun k => laneOp o w (swImm x) (lane a w k) (lane b w k) (lane m w k)) nl

/-- How a run ends: the new line, if END names one, and the returned register; or a FAILNZ code (R153, R163). -/
inductive RunEnd where
  | done (line : Option Line) (ret : Line)
  | fail (code : Nat)
  deriving DecidableEq, Repr

def runWords : List Nat → SliceRegs → RunEnd
  | [], _ => .done none 0
  | x :: t, r =>
    if swOpc x = 0 then
      .done (if swDst x = 0 then none else some (BitVec.ofNat 512 (sreg r (swDst x)))) (BitVec.ofNat 512 (sreg r (swSa x)))
    else if swOpc x = 0x17 then
      if sreg r (swSa x) ≠ 0 then .fail (0x10 + swImm x) else runWords t r
    else runWords t (r.put (swDst x) (sliceOp r x))

/-- Run a routine (header and words) on a line (R150, R159). -/
def runRoutine (h : Nat) (ws : List Nat) (line operand : Line) : RunEnd :=
  runWords ws [(0, line.toNat), (1, operand.toNat % 2 ^ opwBits h)]

/-- Fields of a routine-table entry given as a 2,048-bit number (Table 6.5). -/
def entHdr (e : Nat) : Nat := fld e 31 0
def entWords (e : Nat) : List Nat := (List.range (hdrLen (entHdr e))).map fun j => fld e (32 * j + 63) (32 * j + 32)
def entState (e : Nat) : Nat := fld e 1057 1056
def entGen (e : Nat) : Nat := fld e 1087 1072

def mkEntry (h : Nat) (ws : List Nat) (state gen : Nat) : Nat :=
  h + ((ws.foldr (fun w acc => w + acc * 2 ^ 32) 0) <<< 32) + (state <<< 1056) + ((gen % 2 ^ 16) <<< 1072)

end Sys2Proof.Machine
end

