-- ==== Sys2Proof/Machine/State.lean ====
section
/-! DEFINITION. The state of one GY9 package as plain data: everything spec/ names, sparse tables for whatever
comes in numbers. `Pkg` is what a step may change; `State` adds what no step changes (fuses, provisioning). -/

namespace Sys2Proof.Machine

/-- A context: core number and slot (R48). -/
structure CtxRef where
  core : Nat
  slot : Nat
  deriving DecidableEq, Repr

/-- A task of a core, by the step in which it was launched there. -/
structure TaskRef where
  core : Nat
  step : Nat
  deriving DecidableEq, Repr

/-- The architectural registers of a context, whole: what a chunk checkpoints (R53, Table 2.4). -/
structure Regs where
  /-- s0 to s63, absent ones zero -/
  s : Tab Word
  /-- p0 to p7; bit 0 reads true (R180) -/
  p : BitVec 8
  /-- loop registers of levels 0 to 3 (R220) -/
  lb : Tab Word
  le : Tab Word
  lc : Tab Word
  /-- instruction address (R175) -/
  pc : Word
  /-- elements of a split vector store, or line pieces of a tile store, already made (R100) -/
  part : Nat
  /-- pending token registers and the operation each waits for (R234) -/
  pend : Tab Nat
  /-- lane `l` of v`r` at `64 r + l` (R20) -/
  v : Tab (BitVec 32)
  seed : Word
  ftz : Word
  chunklen : Word
  trapvec : Word
  trapcause : Word
  trappc : Word
  trapaddr : Word
  trapinfo : Word
  retired : Word
  deriving DecidableEq, Repr

/-- One element of a pan invocation: lane, line VA, 512-bit operand (R169). -/
structure PanEl where
  lane : Nat
  va : Word
  operand : Line
  deriving DecidableEq, Repr

/-- A job binding (R450). -/
structure Job where
  jobid : Word
  epoch : Nat
  list : List Nat
  mdigest : BitVec 384
  chain : BitVec 384
  reason : Nat
  base : List Word
  basePt : Nat
  deriving DecidableEq, Repr

/-- What an ATTEST captures at its place (R338, R339, R445, R447, R456); a nonzero code ends it without a record. -/
structure AttRec where
  request : BitVec 512
  code : Nat
  pt : Nat
  flags : Nat
  counters : List Word
  mfw : BitVec 384
  mpend : BitVec 384
  mdbg : BitVec 384
  fwver : Nat
  job : Option Job
  deriving DecidableEq, Repr

/-- What a deferred or handed-over operation does (R57, R246 to R256, R268, R322, R338). -/
inductive EKind where
  | copy (dst src : Word) (n0 n1 n2 : Nat) (ss1 ds1 ss2 ds2 : Word) (manifest : Option Word)
  | get (loc rem : Word) (n peer : Nat)
  | put (loc rem : Word) (n peer : Nat)
  | rpan (rem : Word) (peer slot : Nat) (operand : Line)
  | pan (slot : Nat) (els : List PanEl)
  | msg (dst : Word) (payload : Line)
  | bput (cap base pitch : Word) (kind : MxKind) (n : Nat)
  | bdrop (cap : Word) (n : Nat)
  | attest (out : Word) (a : AttRec)
  deriving DecidableEq, Repr

/-- An entry of a chunk's deferred-effect list (R57): operation, colour, token register. -/
structure Deferred where
  kind : EKind
  col : Nat
  tok : Option Nat
  /-- RETIRED before the instruction (R341) -/
  ret : Word
  deriving DecidableEq, Repr

/-- A released engine operation (R104, R105). -/
structure Op where
  /-- handle by which the agenda names it -/
  id : Nat
  who : CtxRef
  gen : BitVec 16
  /-- step in which the task of its context was launched (R408) -/
  task : Nat
  space : Nat
  chunk : Nat
  lidx : Nat
  ret : Word
  queue : Nat
  col : Nat
  tok : Option Nat
  kind : EKind
  /-- transfers, elements or commands that have taken their place -/
  done : List Nat
  /-- those that wait at an MC, each with its line (R252, R394) -/
  held : List (Nat × Nat)
  bytes : Nat
  code : Nat
  lane : Nat
  released : Nat
  /-- peer entry read at release, and link epoch (R257, R371) -/
  peer : Word
  epoch : Nat
  /-- bytes by offset: those that a digest is taken over, that an answer brought, or, by access, that the command of an
  MXSEND has read; an answer's code and count (R115, R250, R253, R323) -/
  pieces : Tab (List Byte)
  /-- sidecars of the lines of the MXSEND command that has been accepted, by address (R323) -/
  sides : Tab Word
  ack : Option (Nat × Nat)
  /-- everything the operation sends to its peer has been sent, in issue order (R115) -/
  sent : Bool
  deriving DecidableEq, Repr

/-- A message: sender's name, payload, and, while in flight, its way (R72, R230). -/
structure Msg where
  sender : Word
  payload : Line
  deriving DecidableEq, Repr

structure Flight where
  msg : Msg
  dst : Word
  space : Nat
  who : CtxRef
  gen : BitVec 16
  queue : Nat
  tok : Nat
  op : Nat
  released : Nat
  deriving DecidableEq, Repr

/-- A change of a routine-table slot made in a chunk (R156). -/
inductive TabOp where
  | load (slot : Nat) (image : List (BitVec 32))
  | drop (slot : Nat)
  deriving DecidableEq, Repr

/-- A change of a capability slot made in a chunk (R320). -/
inductive CapOp where
  | mk (slot rights : Nat)
  | rev (slot : Nat)
  deriving DecidableEq, Repr

/-- A watchpoint hit (R341, Table 18.2). -/
structure Hit where
  space : Nat
  wp : Nat
  va : Word
  kind : Nat
  count : Word
  chunk : Nat
  gcid : Nat
  gen : BitVec 16
  /-- step in which the task of the origin context was launched (R408) -/
  task : Nat
  lidx : Nat
  lane : Nat
  tool : Nat
  dom : Nat
  deriving DecidableEq, Repr

/-- State of one tile register (Table 11.2). -/
structure Tile where
  /-- code of element (r, c) at 128 r + c -/
  codes : Tab Nat
  fmt : Nat
  pw : Nat
  k : Nat
  /-- of row r, group g at 8 r + g: scale codes (0x7F absent), escape bytes, escapes before, invalid flags -/
  sc : Tab Nat
  eb : Tab Nat
  ep : Tab Nat
  inv : Tab Bool
  /-- block-start flags, true where absent -/
  bs : Tab Bool
  deriving DecidableEq, Repr

/-- An uncommitted chunk of a core: its context's slot and its number (R58). -/
structure ChunkId where
  slot : Nat
  seq : Nat
  deriving DecidableEq, Repr

/-- A tile register with the shadow of its first write in an uncommitted chunk, and that chunk (R53, R298). -/
structure TileReg where
  cur : Tile
  shadow : Option (ChunkId × Tile)
  deriving DecidableEq, Repr

/-- One bank of an accumulator: element (r, c) at 64 r + c, anchor, CLAMPED (R136). -/
structure AccBank where
  x : Tab (BitVec 128)
  anchor : BitVec 16
  clamped : Bool
  deriving DecidableEq, Repr

/-- An accumulator register: two banks, committed-bank selector, and the uncommitted chunk that wrote it (R62). -/
structure AccReg where
  bank0 : AccBank
  bank1 : AccBank
  c : Bool
  w : Option ChunkId
  deriving DecidableEq, Repr

/-- State of a B slot (R307). -/
inductive BState where
  | empty | loaded | partly
  deriving DecidableEq, Repr

/-- A B slot: aligned cells of (k, n) at 256 k + n, and per group g and column n at 256 g + n the exponent QB,
invalid flag, scale code, escape byte and escapes before (R129, R133, R307). -/
structure BSlot where
  st : BState
  fmt : Nat
  k : Nat
  cells : Tab Int
  qb : Tab Int
  inv : Tab Bool
  /-- scale codes, 0x7F absent -/
  sc : Tab Nat
  eb : Tab Nat
  ep : Tab Nat
  stamp : BitVec 32
  ldcore : Nat
  /-- the operation whose BPUT is in progress (R323) -/
  busy : Option Nat
  deriving DecidableEq, Repr

/-- A capability slot (R320). -/
structure CapSlot where
  valid : Bool
  gen : BitVec 20
  rights : Nat
  deriving DecidableEq, Repr

/-- Commit levels and domains (R61). -/
inductive Level where
  | cluster | die | package
  deriving DecidableEq, Repr

/-- A time-dependent outcome of a chunk: code of Table 18.7, value, and how many instructions of the chunk stand before its own,
modulo 256 (R420). DESIGN CHOICE, log entry 118. -/
structure Timed where
  out : Nat
  value : Word
  place : Nat
  deriving DecidableEq, Repr

/-- An open chunk (R53 to R62). Signatures are held as the lines that entered them; `Pkg.sigOf` gives the bits. -/
structure Chunk where
  start : Regs
  /-- step number of its start (R461) -/
  began : Nat
  count : Nat
  rlines : List Nat
  wlines : List Nat
  /-- lines of its invariant loads, which enter no signature (R59) -/
  ilines : List Nat
  /-- lines that its instructions have been fetched from through a SHARED window (R88) -/
  flines : List Nat
  /-- uncommitted versions of lines: written-byte mask and data (R80) -/
  ulines : Tab (BitVec 64 × Line)
  /-- undo log, newest first: 32-byte granule of the own local store and its old bytes (R54) -/
  undo : List (Nat × BitVec 256)
  deferred : List Deferred
  /-- lines LINEWB will write back at the commit (R245) -/
  wbs : List Nat
  /-- provisionally removed messages, oldest first (R73) -/
  taken : List Msg
  tabOps : List TabOp
  capOps : List CapOp
  /-- counter advances to be made at the commit (R441) -/
  adv : Tab Nat
  hits : List Hit
  /-- time-dependent outcomes, oldest first (R420) -/
  outs : List Timed
  deriving DecidableEq, Repr

/-- Context states (Table 2.3). -/
inductive CState where
  | free | running | waiting | held | halted
  deriving DecidableEq, Repr

/-- What a WAITING context waits for (Table 2.3). -/
inductive WaitKind where
  | join | bararr | barwait | waitz | waitne | msgrecv | fenceE | fenceX | scoreboard | engine | exit | mfence
  | exclusive | ops | step | slot
  deriving DecidableEq, Repr

/-- Whether the running chunk still issues, or has been cut while it may not yet ask the sluice for its commit: the
chunk before it still asks for its own, or is in flight (R61). -/
inductive Phase where
  | open | requested
  deriving DecidableEq, Repr

/-- A held access: VA of its first byte, key and bytes of the line whose fill waits (R394), and the line for which it was made: the
same, or the one whose sidecar needs scale or escape bytes (R127, R466). -/
structure HeldAt where
  va : Word
  key : Nat
  mask : BitVec 64
  line : Nat
  deriving DecidableEq, Repr

/-- A context being stepped (R343): issuer and its result register, count of instructions, RETIRED at the start, and the REASON that has
ended it, which STEP_END reports. -/
structure Stepping where
  issuer : CtxRef
  reg : Nat
  left : Nat
  from_ : Word
  reason : Option Nat
  deriving DecidableEq, Repr

/-- One context slot. -/
structure Ctx where
  st : CState
  gen : BitVec 16
  regs : Regs
  /-- the chunk that runs -/
  ch : Chunk
  /-- the chunk before it, cut, while it asks the sluice for its commit (R61) -/
  req : Option Chunk
  phase : Phase
  /-- a cut instruction has begun and waits (R56, R70) -/
  inCut : Bool
  /-- the B slot whose BLOAD is in progress (R70) -/
  load : Option Nat
  /-- a precise fault to be taken once the prefix has committed: cause, address, information (R74) -/
  due : Option (Nat × Word × Nat)
  /-- a granted commit still in flight: written lines and level (R61) -/
  inflight : Option (List Nat × Level)
  /-- lines whose write-back step 4 of that commit still waits for (R245, R397) -/
  owed : List Nat
  chunkseq : BitVec 48
  wait : Option (WaitKind × Nat)
  inbox : List Msg
  /-- squashes in succession of the oldest uncommitted chunk, and of the one that follows it (R65) -/
  sqRow : Nat
  sqNext : Nat
  /-- squashes not yet counted, and since live (R442, Table 18.4) -/
  sqUncounted : Nat
  sqLive : Nat
  /-- level at which the running chunk wants an exclusive reservation, and at which the chunk that is to follow it will (R65) -/
  exclWant : Option Level
  nextWant : Option Level
  /-- level of the reservation held, and the number of the chunk that it is for (R65) -/
  excl : Option Level
  exclNo : Nat
  held : Option HeldAt
  /-- the held access that a KILL has doomed, and RETIRED at it (R394) -/
  killed : Option (HeldAt × Word)
  stepping : Option Stepping
  /-- sequence number of the debug stop that holds the context (R409) -/
  stop : Option Nat
  /-- elements a PANVR has applied, with first failure (R169) -/
  panDone : Nat
  panCode : Nat
  panLane : Nat
  panCount : Nat
  /-- what the granted commit in flight has advanced: a die error takes it back (R444) -/
  counted : Tab Nat
  deriving DecidableEq, Repr

/-- Provenance of a task: queue, submission index, record address, the 64-byte record (R37), its gang's key; an inbox
record whose gang has ended, or whose die has been reset, carries the cause, GCID and pc of its own end. -/
structure TaskInfo where
  queue : Nat
  seq : BitVec 32
  recva : Word
  rcd : BitVec 512
  gang : Option Nat
  doomed : Option (Nat × Nat × Word)
  deriving DecidableEq, Repr

/-- The resident task of a core (R44 to R47). -/
structure Task where
  info : TaskInfo
  space : Nat
  /-- PT at step 1 of R44 or at its resume -/
  start : Nat
  /-- the step in which it was launched (R103) -/
  launched : Nat
  /-- step 7 of R44 done: context 0 is live -/
  live : Bool
  /-- the control context has executed EXIT -/
  exited : Bool
  /-- ended by a cause: cause, global context ID and pc of the context that raised it (R332) -/
  ended : Option (Nat × Nat × Word)
  /-- ended by a queue reset, which writes no record (R382) -/
  silent : Bool
  deriving DecidableEq, Repr

/-- An entry of an engine's command queue: issuing chunk, scalar and vector registers it writes, the B slot it reads, and whether
the engine has taken it (R22, R274, R358). -/
structure QEntry where
  owner : ChunkId
  sdst : List Nat
  vdst : List Nat
  matrix : Bool
  bslot : Option Nat
  taken : Bool
  deriving DecidableEq, Repr

/-- An engine whose command queue an instruction goes through at its issue (Table 1.1, R22). The copy engine takes no command before
a commit (R57). -/
inductive Engine where
  | vector | matrix
  deriving DecidableEq, Repr

/-- An L1 copy marked invariant (R102): bytes present, data, sidecar (R23). -/
structure InvCopy where
  have_ : BitVec 64
  data : Line
  side : Word
  deriving DecidableEq, Repr

/-- One core (Table 1.1). -/
structure Core where
  ctxs : Tab Ctx
  /-- by slot: generation of its latest life, and PT at which it last became live (R49) -/
  lastGen : Tab (BitVec 16)
  liveAt : Tab Nat
  task : Option Task
  inbox : List TaskInfo
  /-- L1 lines by key: the way each sits in (R76, R384) -/
  l1 : Tab Nat
  /-- L1 copies marked invariant (R102) -/
  invs : Tab InvCopy
  /-- L1 instruction cache, 64 KiB (R19, R178) -/
  icache : Tab Line
  /-- local store by offset, sidecars by line, poisoned lines (R82, R433) -/
  ls : Tab Byte
  lsSide : Tab Word
  lsPoison : List Nat
  /-- local-store extent: populated size and space (R35) -/
  extSize : Nat
  extSpace : Nat
  lsw : Nat
  tiles : Tab TileReg
  accs : Tab AccReg
  bslots : Tab BSlot
  caps : Tab CapSlot
  /-- how often the capability key has been redrawn for this core alone (R319) -/
  capDraw : Nat
  /-- vector and matrix engine command queues, oldest first (R22) -/
  vq : List QEntry
  mq : List QEntry
  dropped : Nat
  squashes : Nat
  /-- squashes in the present profile period (Table 18.5) -/
  sqPeriod : Nat
  /-- a pre-emption is being served (R69) -/
  preempt : Bool
  deriving DecidableEq, Repr

/-- An attribution of dirty bytes (R395). -/
structure Attr where
  space : Nat
  gcid : Nat
  gen : BitVec 16
  chunk : Nat
  mask : BitVec 64
  engine : Bool
  deriving DecidableEq, Repr

/-- A line at its home (R77): bytes present, dirty bytes with their attributions oldest first, sidecar, poison,
cores that hold it in L1, and the core whose L1 holds the dirty sectors (R79). -/
structure L2Line where
  data : Line
  /-- home slice under which it was allocated (R94) -/
  home : Nat
  have_ : BitVec 64
  dirty : BitVec 64
  side : Word
  poison : Bool
  holders : List Nat
  dirtyAt : Option Nat
  attrs : List Attr
  deriving DecidableEq, Repr

/-- Pan part of a bittern record (R396). -/
structure PanRec where
  slot : Nat
  rgen : BitVec 16
  lidx : Nat
  lane : Nat
  operand : Line
  deriving DecidableEq, Repr

/-- A bittern record (R396), in the list's parking order. -/
structure Rec where
  mc : Nat
  key : Nat
  attr : Attr
  cause : Nat
  data : Line
  pan : Option PanRec
  deriving DecidableEq, Repr

/-- A brine copy (R165); `bad`: its partial value has met an error that cannot be corrected (R167). -/
structure Brine where
  die : Nat
  key : Nat
  space : Nat
  slot : Nat
  rgen : BitVec 16
  value : Line
  bad : Bool
  deriving DecidableEq, Repr

/-- A routine-table entry that a slice caches (R158). -/
structure SliceEntry where
  slice : Nat
  space : Nat
  slot : Nat
  entry : Nat
  deriving DecidableEq, Repr

/-- A leaf entry (Table 17.1). -/
structure Leaf where
  bucket : Nat
  size : Nat
  far : Bool
  mig : Bool
  space : Nat
  vpn : Nat
  frame : Nat
  deriving DecidableEq, Repr

/-- A migration in progress (R401): the interface whose command it is and whether that still runs, the page, new frame, lines (by
offset) copied. -/
structure Mig where
  vi : Nat
  live : Bool
  space : Nat
  vpn : Nat
  size : Nat
  frame : Nat
  far : Bool
  done : List Nat
  deriving DecidableEq, Repr

/-- A ring written by the module (R397): header VA, its space, log2 entries, notify address, NTAIL, entries lost. -/
structure Ring where
  va : Word
  space : Nat
  log2 : Nat
  notify : Word
  tail : Nat
  lost : Nat
  /-- entries posted and not yet written, oldest first -/
  queue : List (List Byte)
  deriving DecidableEq, Repr

/-- A watchpoint (R341). -/
structure Wp where
  va : Word
  ctl : Word
  tool : Nat
  deriving DecidableEq, Repr

/-- Recording of a space (R419). -/
structure RecLog where
  ring : Ring
  size : Nat
  truncated : Bool
  /-- entries written (Table 18.1) -/
  entries : Nat
  /-- in force; what is kept afterwards says whether a RERUN may take the log -/
  live : Bool
  deriving DecidableEq, Repr

/-- An armed replay (R421, R422): log address, its entries, the next one, stop. -/
structure Replay where
  va : Word
  space : Nat
  log : List (BitVec 256)
  next : Nat
  stopCtx : Word
  stopChunk : Nat
  stopCount : Word
  /-- index of the entry of the chunk that the stop names, whether the stop has been raised, and whether it split the
  chunk (R422); deferred effects, outcomes and instructions of its first part -/
  stopAt : Nat
  stopped : Bool
  split : Bool
  lidxBase : Nat
  outBase : Nat
  countBase : Nat
  /-- GCID, recorded generation and present one of the contexts matched so far (R421) -/
  names : List (Nat × Nat × Nat)
  deriving DecidableEq, Repr

/-- A space (R369, R464). -/
structure Space where
  priv : Nat
  owner : Nat
  /-- near frame of its routine table (R387) -/
  frame : Nat
  windows : Tab (BitVec 256)
  peers : Tab Word
  tool : Nat
  rights : BitVec 8
  /-- what each counter has advanced by: software sees it saturate (R439) -/
  totals : Tab Nat
  wps : Tab Wp
  fring : Option Ring
  dring : Option Ring
  job : Option Job
  hotpol : Bool
  quarantined : Bool
  recording : Option RecLog
  replay : Option Replay
  deriving DecidableEq, Repr

/-- A wired barrier group while a gang holds it (R41, R261). -/
structure Bar where
  gang : Nat
  members : List Nat
  phase : Bool
  flags : List Nat
  deriving DecidableEq, Repr

/-- Queue states (Table 16.3). -/
inductive QState where
  | disabled | idle | active | resetting | refused
  deriving DecidableEq, Repr

/-- A graph in progress (R374, R379, R381). -/
structure Graph where
  recva : Word
  nrec : Nat
  tag : Word
  seq : BitVec 32
  /-- ready records in the order they became ready, as they then stood -/
  ready : List (Word × BitVec 512)
  /-- successor lists of completed tasks: VA of the next entry, entries left (R38) -/
  succ : List (Nat × Nat)
  /-- gangs that have been rejected (R379) -/
  badGangs : List Nat
  running : Nat
  completed : Nat
  rejected : Nat
  caused : Nat
  depErr : Bool
  invalid : Bool
  deriving DecidableEq, Repr

/-- A hardware work queue (Table 16.3, R378). -/
structure Queue where
  rptva : Word
  rptn : BitVec 32
  chead : BitVec 32
  ctail : BitVec 32
  stail : BitVec 32
  shead : BitVec 32
  notify : Word
  cmpva : Word
  subva : Word
  space : BitVec 16
  clog2 : BitVec 8
  slog2 : BitVec 8
  /-- reserved bits of doubleword 0 as written -/
  resv : Word
  nmode : BitVec 2
  st : QState
  weight : Nat
  graph : Option Graph
  /-- completion records not yet written, in order (R375) -/
  waiting : List (BitVec 256)
  /-- context names whose records a reset discards, kept by the front end (R382) -/
  names : List (Nat × BitVec 16)
  resetAt : Nat
  /-- TAG of the entry whose graph a reset has discarded -/
  resetTag : Word
  /-- line key of a front-end read that waits for its page (R375) -/
  held : Option Nat
  deriving DecidableEq, Repr

/-- A block of eight doublewords of a register page (R370). -/
structure BlockRegs where
  dw : Tab Word
  running : Bool
  deriving DecidableEq, Repr

/-- A virtual interface (R369). -/
structure Vi where
  cmd : BlockRegs
  job : BlockRegs
  debug : BlockRegs
  platform : BlockRegs
  ras : Option Ring
  deriving DecidableEq, Repr

/-- A queue slot (R376, R378). -/
structure QSlot where
  queue : Option Nat
  deficit : Int
  deriving DecidableEq, Repr

/-- A debug stop (R408 to R412). -/
structure Stop where
  /-- SEQ of its entries -/
  seq : Nat
  cause : Nat
  tool : Nat
  target : Nat
  dom : Nat
  /-- its stop set, and the tasks of it whose cores have received the broadcast -/
  tasks : List TaskRef
  halted : List TaskRef
  hits : List Hit
  /-- by GCID: chunks committed since its place and instructions retired in them (R409) -/
  skids : Tab (Nat × Nat)
  /-- by GCID: the NOTE 0x12 entry of a halted context -/
  notes : Tab Nat
  recorded : Bool
  /-- released before its entries were written -/
  rel : Bool
  /-- the model's own: number of the step that raised it -/
  raised : Nat
  /-- a replay that has diverged raised it: its NOTE 0x11 entry has COUNT zero (R423) -/
  strayed : Bool
  deriving DecidableEq, Repr

structure SnapCtx where
  x : CtxRef
  pc : Word
  chunkseq : BitVec 48
  gen : BitVec 16
  retired : Word
  squash : Nat
  space : Nat
  st : CState
  deriving DecidableEq, Repr

structure SnapCore where
  core : Nat
  space : Option Nat
  dropped : Nat
  squashes : Nat
  stamp0 : BitVec 32
  stamp1 : BitVec 32
  inbox : Nat
  deriving DecidableEq, Repr

/-- A latched snapshot (R415, R416); the tables are keyed by unit × 2^16 + space. -/
structure Snapshot where
  seq : Nat
  pt : Nat
  trig : Nat
  ctxs : List SnapCtx
  cores : List SnapCore
  misses : Tab Nat
  pans : Tab Nat
  depths : Tab Nat
  brine : Tab Nat
  recs : Tab Nat
  helds : Tab Nat
  trans : Tab Nat
  deriving DecidableEq, Repr

/-- Firmware complex (R426, R445, R447). -/
structure Fw where
  version : Nat
  mfw : BitVec 384
  pend : Option (Nat × BitVec 384)
  switching : Option Nat
  rseq : Nat
  qshift : Nat
  deriving DecidableEq, Repr

/-- Power limits, island ceilings (0 parked) and frequencies, HBM byte budgets (R429, R430). -/
structure Power where
  limit : Nat
  hbmMin : Nat
  hbmMax : Nat
  ceil : Tab Nat
  freq : Tab Nat
  budget : Tab Nat
  deriving DecidableEq, Repr

/-- A profile buffer (R418). -/
structure Prof where
  ring : Ring
  cap : Nat
  sample : Nat
  deriving DecidableEq, Repr

/-- A hotness entry (R403): home, space, window, counts by island. -/
structure Hot where
  home : Nat
  space : Nat
  win : Nat
  counts : Tab Nat
  deriving DecidableEq, Repr

/-- Who asks from outside the package: a host's connection to an interface, or another module's. -/
inductive Asker where
  | host (vi : Nat)
  | peer (src : Nat)
  deriving DecidableEq, Repr

/-- What is asked: bytes, a write, an RPAN's application, or a doorbell that waits for the accesses sent before it (R368). -/
inductive Asked where
  | read (n : Nat)
  | write (data : List Byte)
  | rpan (slot : Nat) (operand : Line)
  | stail (queue : Nat) (value : BitVec 32)
  deriving DecidableEq, Repr

/-- An inbound request: `limit` bytes from `va` are admitted, `done` of them performed, and `got` read. -/
structure Inbound where
  who : Asker
  epoch : Nat
  space : Nat
  va : Nat
  what : Asked
  limit : Nat
  done : Nat
  got : List Byte
  deriving DecidableEq, Repr

/-- What the module sends out: notify writes, host replies, register values, requests and answers to other modules. -/
inductive Out where
  | notify (addr value : Word)
  | hostReply (vi : Nat) (ok : Bool) (data : List Byte)
  | regValue (vi off : Nat) (value : Word)
  | relay (modid vi : Nat) (m : Relay)
  | get (op epoch : Nat) (peer va : Word) (n : Nat)
  | put (op epoch : Nat) (peer va : Word) (data : List Byte)
  | rpan (op epoch : Nat) (peer va : Word) (slot : Nat) (operand : Line)
  | answer (src code count : Nat) (data : List Byte)
  deriving DecidableEq, Repr

/-- A die reset in progress (R436): PT at which it began; orderly or not; a thermal trip's, which lasts until the die falls
below 100 °C; one that a DIERESET waits for. -/
structure DieReset where
  since : Nat
  orderly : Bool
  trip : Bool
  cmd : Bool
  deriving DecidableEq, Repr

/-- Corrected errors of one unit and line, merged for a millisecond from the first (R432). -/
structure Corrected where
  die : Nat
  block : Nat
  va : Nat
  space : Nat
  gcid : Nat
  pt : Nat
  count : Nat
  deriving DecidableEq, Repr

/-- Physical writes the MCs accept within one step, in order. -/
inductive PhysOp where
  | byte (a : Nat) (b : Byte)
  | zero (a n : Nat)
  | clear
  deriving DecidableEq, Repr

/-- Bytes that a line held until a step wrote it (R103, R438). -/
structure Past where
  key : Nat
  step : Nat
  mask : BitVec 64
  data : Line
  deriving DecidableEq, Repr

/-- Where check bits find an error outside the patrol scrub (R432 to R434). -/
inductive Upset where
  /-- corrected, in a block of a die, or as a line is read: the line's VA and space, or zero, and the context concerned -/
  | corrected (die block va space gcid : Nat)
  /-- not correctable, in what a squash of the context restores: an L1 line, by its key, or the undo log, deferred list, checkpoint
  copies, uncommitted bank or shadow -/
  | undone (core slot : Nat) (line : Option Nat)
  /-- not correctable, in the context's checkpoint, or its core's committed banks or B slots -/
  | kept (core slot : Nat)
  /-- not correctable, in a line at its home slice, or in one of a core's local store -/
  | line (key : Nat)
  | localLine (core n : Nat)
  /-- not correctable, in the partial value of a brine copy (R167) -/
  | copy (die key : Nat)
  deriving DecidableEq, Repr

/-- What moves next. Ordering between agents is not fixed by the manual, so the state carries the choice. -/
inductive Choice where
  /-- context `slot` of `core` issues -/
  | run (core slot : Nat)
  /-- another agent's event -/
  | event (i : Instr)
  /-- a write that the module owes -/
  | owed
  /-- time passes -/
  | tick (n : Nat)
  /-- a free unit of a core's vector or matrix engine takes the oldest command that waits (R22) -/
  | accept (core : Nat) (matrix : Bool)
  /-- the firmware sets QSHIFT (R378, R424) -/
  | qshift (n : Nat)
  /-- a unit's check bits find an error (R432, R434) -/
  | upset (u : Upset)
  deriving DecidableEq, Repr

/-- The package: everything that a step may change. -/
structure Pkg where
  /-- package tick (R414) -/
  pt : Nat
  /-- HBM and LPDDR by physical byte; unlisted bytes read zero (R428) -/
  mem : List Host.Cell
  /-- writes accepted in the present step; empty between steps -/
  log : List PhysOp
  /-- poisoned physical lines (R433); keys of poisoned lines whose page is not mapped (R437) -/
  poison : List Nat
  vpoison : List Nat
  cur : CtxRef
  agenda : List Choice
  /-- the model's own: number of steps made, which indexes the free values -/
  free : Nat
  spaces : Tab Space
  cores : Tab Core
  /-- lines at their homes, by line key -/
  l2 : Tab L2Line
  /-- what lines have held since their space was created, newest first (R103, R438) -/
  past : List Past
  l2miss : Tab Nat
  /-- lines with a held miss that has been counted and whose fill is still to come (R403) -/
  missed : List Nat
  panApps : Tab Nat
  transl : Tab Nat
  leaves : List Leaf
  regions : Tab (BitVec 512)
  migs : List Mig
  fmtw : Tab (BitVec 256)
  /-- scale caches: (MC, line key), the line and its poison (R127, R433) -/
  scale : List (Nat × Nat × Line × Bool)
  recs : List Rec
  /-- lines of held writes that the module makes on its own account and of held inbound requests (R394, R466) -/
  modHeld : List Nat
  brine : List Brine
  /-- what the slices cache of the routine tables, least recently used first (R158) -/
  entries : List SliceEntry
  /-- space and slot of DRAINING slots that no copy and no record names any more (R157) -/
  drains : List (Nat × Nat)
  /-- requests of hosts and other modules that have arrived and are not yet performed, in order of arrival (R115, R368) -/
  inbound : List Inbound
  ops : List Op
  nextOp : Nat
  flights : List Flight
  bars : Tab Bar
  queues : Tab Queue
  vis : Tab Vi
  qslots : Tab QSlot
  arbPos : Nat
  slotPos : Nat
  gangs : Nat
  profk : Word
  profPend : Option Word
  /-- PT at which the last profile period was closed -/
  profAt : Nat
  prof : Option Prof
  snaps : List Snapshot
  snapSeq : Nat
  stops : List Stop
  stopSeq : Nat
  /-- header VA and space of logs in which something from outside took part (R419) -/
  openLogs : List (Nat × Nat)
  exclQ : List (CtxRef × Level)
  fw : Fw
  power : Power
  /-- dies under thermal hold; dies in reset -/
  hot : List Nat
  resetting : Tab DieReset
  corrected : List Corrected
  failed : Bool
  /-- link epochs of the sixteen gateway ports (R257) -/
  epochs : Tab Nat
  lanes : Tab Nat
  /-- module resets so far, which index the drawn nonce (R453); package-wide redraws of the capability keys -/
  resets : Nat
  keyDraw : Nat
  unlk : Bool
  mdbg : BitVec 384
  sealWiped : Bool
  linkWiped : Bool
  saved : List (Nat × Core)
  hotness : List Hot
  /-- the model's own: the core on whose behalf the present step's accesses are made; none between steps -/
  req : Option Nat
  out : List Out
  deriving DecidableEq, Repr

/-- The fuse words (Table 21.2) by index; no step burns a fuse. Word 0 is the lifecycle fuse's own pattern, a thermometer code
(R452). -/
structure Fuses where
  words : Tab Word
  deriving DecidableEq, Repr

/-- What is set at provisioning: MODID, group bridge, page-table shape, boot measurement. -/
structure Prov where
  modid : Nat
  bridge : Bool
  /-- frames of the page-table shards (R387) and log2 of buckets per shard (R388) -/
  shf : Nat
  nbLog2 : Nat
  mrom : BitVec 384
  deriving DecidableEq, Repr

structure State where
  fuses : Fuses
  prov : Prov
  pkg : Pkg
  deriving DecidableEq, Repr

/-- Why a run stops. -/
inductive Fault where
  /-- Raised by `step` alone: the agenda lists an instruction word as another agent's event. Safe: the hardware
  never does so. -/
  | notAnEvent
  deriving DecidableEq, Repr

/-- Why an instruction has no meaning. -/
inductive Refusal where
  /-- Raised by `exec` for an arm without a meaning. Safe. -/
  | notModelled (mnemonic : String)
  deriving DecidableEq, Repr

/-! ### Values at reset -/

def Regs.zero : Regs :=
  { s := [], p := 1, lb := [], le := [], lc := [], pc := 0, part := 0, pend := [], v := [], seed := 0, ftz := 0,
    chunklen := 4096, trapvec := 0, trapcause := 0, trappc := 0, trapaddr := 0, trapinfo := 0, retired := 0 }

def Chunk.new (r : Regs) : Chunk :=
  { start := r, began := 0, count := 0, rlines := [], wlines := [], ilines := [], flines := [], ulines := [], undo := [], deferred := [], wbs := [],
    taken := [], tabOps := [], capOps := [], adv := [], hits := [], outs := [] }

/-- A slot after module reset: FREE with generation 0 (R49). -/
def Ctx.reset : Ctx :=
  { st := .free, gen := 0, regs := .zero, ch := .new .zero, req := none, phase := .open, inCut := false, load := none, due := none, inflight := none, owed := [], chunkseq := 0,
    wait := none, inbox := [], sqRow := 0, sqNext := 0, sqUncounted := 0, sqLive := 0, exclWant := none, nextWant := none, excl := none, exclNo := 0,
    held := none, killed := none, stepping := none, stop := none,
    panDone := 0, panCode := 0, panLane := 0, panCount := 0, counted := [] }

/-- A tile register at launch (R296). -/
def Tile.zero : Tile :=
  { codes := [], fmt := 0, pw := 3, k := 0, sc := [], eb := [], ep := [], inv := [], bs := [] }

def TileReg.zero : TileReg := { cur := .zero, shadow := none }

def AccBank.zero : AccBank := { x := [], anchor := 0, clamped := false }

/-- A reserved accumulator at launch (R44). -/
def AccReg.zero : AccReg := { bank0 := .zero, bank1 := .zero, c := false, w := none }

def BSlot.zero : BSlot :=
  { st := .empty, fmt := 0, k := 0, cells := [], qb := [], inv := [], sc := [], eb := [], ep := [], stamp := 0,
    ldcore := 0, busy := none }

def CapSlot.zero : CapSlot := { valid := false, gen := 0, rights := 0 }

def Core.reset : Core :=
  { ctxs := [], lastGen := [], liveAt := [], task := none, inbox := [], l1 := [], invs := [], icache := [], ls := [], lsSide := [],
    lsPoison := [], extSize := 0, extSpace := 0, lsw := 0, tiles := [], accs := [], bslots := [], caps := [],
    capDraw := 0, vq := [], mq := [], dropped := 0, squashes := 0, sqPeriod := 0, preempt := false }

/-- A space as MKSPACE makes it (R83, R370, R439). -/
def Space.new (priv owner frame : Nat) : Space :=
  { priv, owner, frame, windows := [], peers := [], tool := 0, rights := 0, totals := [], wps := [],
    fring := none, dring := none, job := none, hotpol := false, quarantined := false, recording := none,
    replay := none }

def Queue.reset : Queue :=
  { rptva := 0, rptn := 0, chead := 0, ctail := 0, stail := 0, shead := 0, notify := 0, cmpva := 0, subva := 0,
    space := 0, clog2 := 0, slog2 := 0, resv := 0, nmode := 0, st := .disabled, weight := 16, graph := none,
    waiting := [], names := [], resetAt := 0, resetTag := 0, held := none }

def BlockRegs.reset : BlockRegs := { dw := [], running := false }

def Vi.reset : Vi := { cmd := .reset, job := .reset, debug := .reset, platform := .reset, ras := none }

def QSlot.reset : QSlot := { queue := none, deficit := 0 }

/-- The package right after module reset (R428, R464): space 0 alone, memory zero, PT zero. -/
def Pkg.reset : Pkg :=
  { pt := 0, mem := [], log := [], poison := [], vpoison := [], cur := ⟨0, 0⟩, agenda := [], free := 0,
    spaces := [(0, Space.new 1 0 0)], cores := [], l2 := [], past := [], l2miss := [], missed := [], panApps := [], transl := [],
    leaves := [], regions := [], migs := [], fmtw := [], scale := [], recs := [], modHeld := [], brine := [], entries := [], drains := [], inbound := [], ops := [],
    nextOp := 0, flights := [], bars := [], queues := [], vis := [], qslots := [], arbPos := 0, slotPos := 0,
    gangs := 0, profk := 0, profPend := none, profAt := 0, prof := none, snaps := [], snapSeq := 0, stops := [],
    stopSeq := 0, openLogs := [], exclQ := [],
    fw := { version := 0, mfw := 0, pend := none, switching := none, rseq := 0, qshift := 10 },
    power := { limit := 3000, hbmMin := 0, hbmMax := 3000, ceil := [], freq := [], budget := [] },
    hot := [], resetting := [], corrected := [], failed := false, epochs := [], lanes := [], resets := 0, keyDraw := 0, unlk := false,
    mdbg := 0, sealWiped := false, linkWiped := false, saved := [], hotness := [], req := none, out := [] }

/-- Right after reset. Fuses and provisioning are not reset; the values named here are the log's (DESIGN CHOICE, log entry 1):
lifecycle DEPLOYED (Table 21.1), everything else zero. -/
def State.reset : State :=
  { fuses := { words := [(0, 3)] }, prov := { modid := 0, bridge := false, shf := 1, nbLog2 := 16, mrom := 0 },
    pkg := .reset }

end Sys2Proof.Machine
end

