-- ==== Sys2Proof/Machine/Mem.lean ====
section
/-! DEFINITION. Addresses, windows, homes, translation, memory, the lines at their homes, parking, brine copies and
the notices that these post: R33 to R36, R76 to R96, R127, R165 to R167, R385 to R397, R433. -/

namespace Sys2Proof.Machine

/-! ### Reading and writing the parts of the package -/

def Pkg.core (p : Pkg) (c : Nat) : Core := p.cores.get .reset c
def Pkg.setCore (p : Pkg) (c : Nat) (k : Core) : Pkg := { p with cores := p.cores.set .reset c k }
def Pkg.modCore (p : Pkg) (c : Nat) (f : Core → Core) : Pkg := p.setCore c (f (p.core c))

def Core.ctx (k : Core) (n : Nat) : Ctx := k.ctxs.get .reset n
def Core.setCtx (k : Core) (n : Nat) (x : Ctx) : Core := { k with ctxs := k.ctxs.set .reset n x }

def Pkg.ctx (p : Pkg) (x : CtxRef) : Ctx := (p.core x.core).ctx x.slot
def Pkg.setCtx (p : Pkg) (x : CtxRef) (c : Ctx) : Pkg := p.modCore x.core fun k => k.setCtx x.slot c
def Pkg.modCtx (p : Pkg) (x : CtxRef) (f : Ctx → Ctx) : Pkg := p.setCtx x (f (p.ctx x))

/-- A context's uncommitted chunks, the running one first (R61). -/
def Ctx.chunks (c : Ctx) : List Chunk := c.ch :: c.req.toList

/-- The number of the running chunk (R58): it follows the one that still asks for its commit. -/
def Ctx.seq (c : Ctx) : Nat := (if c.req.isSome then c.chunkseq + 1 else c.chunkseq).toNat

/-- The running chunk's name in its core. -/
def Ctx.chunkId (c : Ctx) (slot : Nat) : ChunkId := { slot, seq := c.seq }

/-- A context's uncommitted version of a line: no two of its chunks have one (log entry 97). -/
def Ctx.uline? (c : Ctx) (key : Nat) : Option (BitVec 64 × Line) := c.chunks.findSome? fun h => Tab.find? h.ulines key

/-- Contexts of the core that hold an uncommitted version of the line. -/
def Core.uncommittedBy (k : Core) (key : Nat) : List Nat :=
  k.ctxs.filterMap fun (s, c) => if (c.uline? key).isSome then some s else none

/-- A core's L1 gives up its committed copy of a line; an uncommitted version never leaves (R79). -/
def Core.loseLine (k : Core) (key : Nat) : Core :=
  if (k.uncommittedBy key).isEmpty then { k with l1 := k.l1.drop key } else k

def Pkg.space? (p : Pkg) (s : Nat) : Option Space := Tab.find? p.spaces s
def Pkg.modSpace (p : Pkg) (s : Nat) (f : Space → Space) : Pkg :=
  match p.space? s with
  | some x => { p with spaces := p.spaces.put s (f x) }
  | none => p

/-- Space of the task resident on a core. -/
def Pkg.spaceOf (p : Pkg) (c : Nat) : Nat := ((p.core c).task.map Task.space).getD 0

/-- Global context ID (R48). -/
def CtxRef.gcid (x : CtxRef) : Nat := x.core * 16 + x.slot

def ctxOfGcid (g : Nat) : CtxRef := ⟨g / 16 % 512, g % 16⟩

/-- Every context slot of the package that the state lists. -/
def Pkg.allCtxs (p : Pkg) : List CtxRef :=
  p.cores.flatMap fun (c, k) => k.ctxs.map fun (s, _) => ⟨c, s⟩

/-! ### Address space (R33 to R36) -/

def lsBase : Nat := 0x00FF000000000000
def reservedBase : Nat := 0x00FF000020000000
def vaTop : Nat := 2 ^ 56

/-- VA of byte `off` of a core's local store (R34). -/
def lsVa (core off : Nat) : Nat := lsBase + core * 2 ^ 20 + off

def inLocal (va : Nat) : Bool := decide (lsBase ≤ va) && decide (va < reservedBase)
def inReserved (va : Nat) : Bool := decide (reservedBase ≤ va)
def lsCore (va : Nat) : Nat := (va - lsBase) / 2 ^ 20 % 512
def lsOff (va : Nat) : Nat := (va - lsBase) % 2 ^ 20

/-- A line's key: its space, 0 for space-0 memory, above VA[55:6]. -/
def lineKey (s va : Nat) : Nat := s * 2 ^ 50 + va / 64 % 2 ^ 50
def keySpace (k : Nat) : Nat := k / 2 ^ 50
def keyVa (k : Nat) : Nat := k % 2 ^ 50 * 64

/-- VA of a matrix register's or capability slot's register line (R297). -/
def regLineVa (core r : Nat) : Nat := 0x00FFFFFFFF000000 + core * 0x800 + 64 * r

/-- VA of a routine-table slot's line (R156). -/
def tableLineVa (slot : Nat) : Nat := 0x00FFFFFFFFFFC000 + 64 * slot

/-! ### Rights and windows (R83 to R89) -/

def rRD : Nat := 2
def rWR : Nat := 4
def rEXEC : Nat := 8
def rPAN : Nat := 16
def rENG : Nat := 32
def rINV : Nat := 64

def inWindow (w : BitVec 256) (va : Nat) : Bool :=
  w.getLsbD 0 && decide (fld w.toNat 63 24 ≤ va / 2 ^ 16) && decide (va / 2 ^ 16 ≤ fld w.toNat 127 88)

/-- The window of a space that covers a VA, with its index. -/
def Pkg.window? (p : Pkg) (s va : Nat) : Option (Nat × BitVec 256) :=
  match p.space? s with
  | some x => List.find? (fun w => inWindow w.2 va) x.windows
  | none => none

/-- Cores of the clusters of a GROUP mask, ascending (R78). -/
def groupCores (g : Nat) : List Nat :=
  (List.range 64).flatMap fun c => if g.testBit c then (List.range 8).map (c * 8 + ·) else []

/-- The group hash of a line (R78). -/
def lineHash (va : Nat) : Nat :=
  let x := va / 64 % 2 ^ 50
  fld x 15 0 ^^^ fld x 31 16 ^^^ fld x 47 32 ^^^ fld x 49 48

/-- Home slice by a window that is not SHARED (R78). -/
def homeBy (w : BitVec 256) (va : Nat) : Nat :=
  if fld w.toNat 15 14 = 0 then fld w.toNat 136 128
  else
    let l := groupCores (fld w.toNat 255 192)
    (l[lineHash va % (max 1 l.length)]?).getD 0

/-- Where an access goes: a line at its home, or a byte of a core's local store. -/
inductive Place where
  | line (home win : Nat)
  | lstore (core off : Nat)
  deriving DecidableEq, Repr

structure Route where
  key : Nat
  rights : Nat
  place : Place
  deriving DecidableEq, Repr

/-- The rights and the way of an access of space `s` at a byte, or none where nothing covers it
(R33, R35, R36, R86, R89). -/
def Pkg.route? (p : Pkg) (s va : Nat) : Option Route :=
  if va ≥ vaTop || inReserved va then none
  else if inLocal va then
    let k := p.core (lsCore va)
    if lsOff va < k.extSize && k.extSpace == s then
      some ⟨lineKey s va, rRD + rWR + rENG + rINV, .lstore (lsCore va) (lsOff va)⟩
    else none
  else
    match p.window? s va with
    | none => none
    | some (i, w) =>
      let own := fld w.toNat 6 1 * 2
      if w.getLsbD 13 then
        match p.window? 0 va with
        | none => none
        | some (_, w0) => some ⟨lineKey 0 va, own &&& (fld w0.toNat 6 1 * 2), .line (homeBy w0 va) i⟩
      else some ⟨lineKey s va, own, .line (homeBy w va) i⟩

/-- As `route?`, with the rights needed (Table 3.2). -/
def Pkg.route (p : Pkg) (s va need : Nat) : Option Route :=
  match p.route? s va with
  | some r => if r.rights &&& need = need then some r else none
  | none => none

/-- Home of a line by its key: the core of a local-store or register line, else by the window (R78, R91, R297). -/
def Pkg.homeOf (p : Pkg) (key : Nat) : Nat :=
  let va := keyVa key
  if inLocal va then lsCore va
  else if inReserved va then (va - 0x00FFFFFFFF000000) / 0x800 % 512
  else
    match p.window? (keySpace key) va with
    | some (_, w) => homeBy w va
    | none => 0

/-! ### Translation (R385 to R390, R401) -/

def mcOf (v : Nat) : Nat := fld v 15 11 ^^^ fld v 20 16 ^^^ fld v 25 21 ^^^ fld v 27 26

/-- Linear address of byte `v` in a frame: near frames, then far frames (R386). -/
def physOf (far : Bool) (frame v : Nat) : Nat :=
  ((if far then Config.nearFrames else 0) + frame) * 65536 + 2048 * mcOf v + v % 2048

/-- Granules of 64 KiB in a page of a size. -/
def sizeUnits (size : Nat) : Nat := if size = 0 then 1 else if size = 1 then 32 else 16384

def Leaf.covers (l : Leaf) (s v : Nat) : Bool :=
  l.space == s && decide (l.vpn ≤ v / 2 ^ 16) && decide (v / 2 ^ 16 < l.vpn + sizeUnits l.size)

/-- Frame of a region for a VA (R389). -/
def regionFrame (d : BitVec 512) (s v : Nat) : Option (Bool × Nat) :=
  let x := d.toNat
  let u := v / 2 ^ 16
  let b := fld x 255 216
  if !x.testBit 0 || fld x 271 256 != s || decide (u < b) then none
  else
    let n0 := fld x 351 336
    let n1 := fld x 367 352
    let n2 := fld x 383 368
    let i2 := if n2 > 1 then (u - b) / max 1 (fld x 447 416) else 0
    let r2 := u - b - i2 * fld x 447 416
    let i1 := if n1 > 1 then r2 / max 1 (fld x 415 384) else 0
    let j := r2 - i1 * fld x 415 384
    if i2 < n2 && i1 < n1 && j < n0 then some (x.testBit 320, fld x 319 296 + (i2 * n1 + i1) * n0 + j) else none

/-- Frame that holds byte `v` of space `s`, by region list, then by shard; a migrated line's new frame. -/
def Pkg.frame? (p : Pkg) (s v : Nat) : Option (Bool × Nat) :=
  match List.findSome? (fun r => regionFrame r.2 s v) p.regions with
  | some f => some f
  | none =>
    match List.find? (fun l => l.covers s v) p.leaves with
    | none => none
    | some l =>
      let u := v / 2 ^ 16 - l.vpn
      match List.find? (fun m => m.space == s && m.vpn == l.vpn) p.migs with
      | some m => if m.done.contains ((v - l.vpn * 65536) / 64) then some (m.far, m.frame + u) else some (l.far, l.frame + u)
      | none => some (l.far, l.frame + u)

def Pkg.phys? (p : Pkg) (s v : Nat) : Option Nat := (p.frame? s v).map fun (far, f) => physOf far f v

/-- Names under which a frame is mapped (R93). -/
def Pkg.names (p : Pkg) (far : Bool) (f : Nat) : Nat :=
  (p.leaves.filter fun l => l.far == far && decide (l.frame ≤ f) && decide (f < l.frame + sizeUnits l.size)).length +
  (p.regions.filter fun r =>
    let x := r.2.toNat
    x.testBit 0 && x.testBit 320 == far && decide (fld x 319 296 ≤ f) &&
      decide (f < fld x 319 296 + fld x 351 336 * fld x 367 352 * fld x 383 368)).length

/-- Whether a line's frame breaks the synonym prohibition, or the line is cached under a home that a WINSET without SPURGE has
changed (R93, R94). -/
def Pkg.aliased (p : Pkg) (key : Nat) : Bool :=
  (match p.frame? (keySpace key) (keyVa key) with
  | some (far, f) => decide (p.names far f > 1)
  | none => false) || ((Tab.find? p.l2 key).map fun l => l.home != p.homeOf key).getD false

/-! ### Physical memory -/

/-- A byte as the MCs read it: the writes accepted in this step, newest first, over the memory. DEDUCED, log entry 2. -/
def physGet : List PhysOp → List Host.Cell → Nat → Byte
  | [], m, a => Tab.get 0 m a
  | .byte b v :: t, m, a => if a = b then v else physGet t m a
  | .zero b n :: t, m, a => if b ≤ a ∧ a < b + n then 0 else physGet t m a
  | .clear :: _, _, _ => 0

def Pkg.physByte (p : Pkg) (a : Nat) : Byte := physGet p.log p.mem a

def Pkg.physBytes (p : Pkg) (a : Nat) : Nat → List Byte
  | 0 => []
  | n + 1 => p.physByte a :: p.physBytes (a + 1) n

def Pkg.physLine (p : Pkg) (a : Nat) : Line := lineOf (p.physBytes (a / 64 * 64) 64)

def Pkg.physPut (p : Pkg) (a : Nat) (b : Byte) : Pkg := { p with log := .byte a b :: p.log }

def physPutMask (l : Line) (mask : BitVec 64) (a : Nat) (log : List PhysOp) : Nat → List PhysOp
  | 0 => log
  | n + 1 =>
    let rest := physPutMask l mask a log n
    if mask.getLsbD n then .byte (a + n) (lineByte l n) :: rest else rest

/-- Write the masked bytes of a line; a whole line clears poison, a poisoned line carries it (R433). -/
def Pkg.physWrite (p : Pkg) (a : Nat) (mask : BitVec 64) (l : Line) (poison : Bool) : Pkg :=
  let a := a / 64 * 64
  let p := { p with log := physPutMask l mask a p.log 64 }
  if poison then { p with poison := insertNat a p.poison }
  else if mask = BitVec.allOnes 64 then { p with poison := p.poison.filter (· != a) }
  else p

/-- A routine-table entry of a space (R387). -/
def Pkg.tableEntry (p : Pkg) (s slot : Nat) : Nat :=
  match p.space? s with
  | some x => leNat (p.physBytes (x.frame * 65536 + 256 * slot) 256)
  | none => 0

def Pkg.tableUnreadable (p : Pkg) (s slot : Nat) : Bool :=
  match p.space? s with
  | some x => p.poison.any fun a => decide (x.frame * 65536 + 256 * slot ≤ a) && decide (a < x.frame * 65536 + 256 * slot + 256)
  | none => false

def physPutBytes (a : Nat) (log : List PhysOp) : List Byte → List PhysOp
  | [] => log
  | b :: t => physPutBytes (a + 1) (.byte a b :: log) t

/-- A slot's entry changes, and every slice's cached copy of it becomes invalid (R156). -/
def Pkg.setTableEntry (p : Pkg) (s slot e : Nat) : Pkg :=
  match p.space? s with
  | some x => { p with log := physPutBytes (x.frame * 65536 + 256 * slot) p.log (leBytes e 256),
                       entries := p.entries.filter fun c => !(c.space == s && c.slot == slot) }
  | none => p

/-- A slot's entry is written whole, which clears the poison of its lines (R156, R393, R433). -/
def Pkg.newTableEntry (p : Pkg) (s slot e : Nat) : Pkg :=
  match p.space? s with
  | some x =>
    let a := x.frame * 65536 + 256 * slot
    { p.setTableEntry s slot e with poison := p.poison.filter fun b => !(decide (a ≤ b) && decide (b < a + 256)) }
  | none => p

/-- A slice's cached copy of an entry. -/
def Pkg.cached? (p : Pkg) (slice s slot : Nat) : Option Nat :=
  (p.entries.find? fun c => c.slice == slice && c.space == s && c.slot == slot).map SliceEntry.entry

/-- A slice uses an entry: it is the most recent of its 64, the last in the list (R158). DESIGN CHOICE, log entry 16. -/
def Pkg.useEntry (p : Pkg) (slice s slot e : Nat) : Pkg :=
  let l := p.entries.filter fun c => !(c.slice == slice && c.space == s && c.slot == slot)
  let mine := l.filter fun c => c.slice == slice
  { p with entries := (if mine.length < 64 then l else (mine.head?.map l.erase).getD l) ++ [{ slice, space := s, slot, entry := e }] }

/-! ### Rings (R397, R435) -/

def Ring.post (r : Ring) (e : Nat) (n : Nat := 64) : Ring := { r with queue := r.queue ++ [leBytes e n] }

def Pkg.modFring (p : Pkg) (s : Nat) (f : Ring → Ring) : Pkg := p.modSpace s fun x => { x with fring := x.fring.map f }

/-- Fields of a fault notice (Table 17.4). -/
structure Notice where
  key : Nat
  mask : BitVec 64
  attr : Attr
  cause : Nat
  note : Nat
  lane : Nat
  slot : Nat
  rgen : Nat
  lidx : Nat

def Notice.word (n : Notice) : Nat :=
  let va := keyVa n.key
  let shared := keySpace n.key = 0
  va <<< 448 + n.mask.toNat <<< 384 + (n.attr.chunk % 2 ^ 48) <<< 336 + n.attr.gen.toNat <<< 320 +
    n.attr.space <<< 304 + (n.attr.gcid % 2 ^ 13) <<< 291 + (if shared then 1 <<< 290 else 0) + mcOf va <<< 280 +
    n.cause <<< 272 + n.note <<< 264 + n.lane <<< 256 + n.slot <<< 248 + n.rgen <<< 232 + n.lidx <<< 224

/-- Post a notice to the space concerned and, for a line of space 0, also to space 0 (R397). -/
def Pkg.notice (p : Pkg) (n : Notice) : Pkg :=
  let p := p.modFring n.attr.space (·.post n.word)
  if keySpace n.key = 0 ∧ n.attr.space ≠ 0 then p.modFring 0 (·.post n.word) else p

/-- A RAS entry (Table 19.4) of a tick, to VI 0's ring and to that of the interface that owns the space (R435). -/
def Pkg.rasAt (p : Pkg) (pt va space gcid die block reason count : Nat) : Pkg :=
  let e := va <<< 448 + (pt % 2 ^ 64) <<< 384 + count <<< 352 + space <<< 336 + gcid <<< 323 + die <<< 312 +
    block <<< 304 + reason <<< 296
  let post (p : Pkg) (vi : Nat) : Pkg :=
    match Tab.find? p.vis vi with
    | some v => { p with vis := p.vis.put vi { v with ras := v.ras.map (·.post e) } }
    | none => p
  let p := post p 0
  let owner := ((p.space? space).map Space.owner).getD 0
  if space ≠ 0 ∧ owner ≠ 0 then post p owner else p

/-- Whether a block of a die is one of each core: its errors are of one unit only where they are of one core (Table 19.4). -/
def coreBlock (block : Nat) : Bool := block == 4 || block == 5

/-- An error of a line is reported. A corrected one joins those of its unit and line within a millisecond of the first (R432). -/
def Pkg.ras (p : Pkg) (va space gcid die block reason count : Nat) : Pkg :=
  let same (c : Corrected) : Bool := c.die == die && c.block == block && c.va == va && c.space == space &&
    decide (p.pt - c.pt < Config.powerPeriod) && (!coreBlock block || c.gcid / 16 == gcid / 16)
  if reason ≠ 1 then p.rasAt p.pt va space gcid die block reason count
  else if p.corrected.any same then
    { p with corrected := updWhere same (fun c : Corrected => { c with count := c.count + count }) p.corrected }
  else { p with corrected := p.corrected ++ [{ die, block, va, space, gcid, pt := p.pt, count }] }

/-- Corrected errors whose millisecond is over: their entry is due. DEDUCED, log entry 88. -/
def Pkg.correctedDue (p : Pkg) : Option Pkg :=
  match List.find? (fun c => decide (Config.powerPeriod ≤ p.pt - c.pt)) p.corrected with
  | none => none
  | some c => some ({ p with corrected := p.corrected.erase c }.rasAt c.pt c.va c.space c.gcid c.die c.block 1 c.count)

/-! ### Poison (R433) -/

/-- Whether a line is poisoned beyond the caches. -/
def Pkg.keyPoison (p : Pkg) (key : Nat) : Bool :=
  p.vpoison.contains key || match p.phys? (keySpace key) (keyVa key) with
    | some a => p.poison.contains (a / 64 * 64)
    | none => false

/-- A write of all 64 bytes clears a line's poison. -/
def Pkg.unpoison (p : Pkg) (key : Nat) : Pkg :=
  let p : Pkg := { p with vpoison := p.vpoison.filter (· != key) }
  match p.phys? (keySpace key) (keyVa key) with
  | some a => { p with poison := p.poison.filter (· != a / 64 * 64) }
  | none => p

/-- Poison a line wherever it is: at its MC, or with its name while no page holds it; and at its home. -/
def Pkg.poisonLine (p : Pkg) (key : Nat) : Pkg :=
  let p : Pkg := match p.phys? (keySpace key) (keyVa key) with
    | some a => { p with poison := insertNat (a / 64 * 64) p.poison }
    | none => { p with vpoison := insertNat key p.vpoison }
  match Tab.find? p.l2 key with
  | some l => { p with l2 := p.l2.put key { l with poison := true } }
  | none => p

/-- Where a line's MC keeps it (Table 19.4): HBM, or LPDDR. -/
def Pkg.mcBlock (p : Pkg) (key : Nat) : Nat :=
  match p.frame? (keySpace key) (keyVa key) with
  | some (true, _) => 2
  | _ => 1

/-- Poison a line that is not yet poisoned, with its RAS entry. DEDUCED, log entry 87. -/
def Pkg.poisonWith (p : Pkg) (key space gcid die block : Nat) : Pkg :=
  (if p.keyPoison key then p else p.ras (keyVa key) space gcid die block 2 1).poisonLine key

/-- Poisoned lines whose page has been mapped are poisoned at their MC. DEDUCED, log entry 86. -/
def Pkg.landPoison (p : Pkg) : Pkg :=
  p.vpoison.foldl (fun p key => match p.phys? (keySpace key) (keyVa key) with
    | some a => { p with poison := insertNat (a / 64 * 64) p.poison, vpoison := p.vpoison.filter (· != key) }
    | none => p) p

/-! ### Records (R395, R396) -/

def Pkg.hasRec (p : Pkg) (key : Nat) : Bool := p.recs.any fun r => r.key == key

def Pkg.recCount (p : Pkg) (mc : Nat) : Nat := (p.recs.filter fun r => r.mc == mc).length

/-- Park one record and post its notices (R397). DESIGN CHOICE, log entry 84. -/
def Pkg.parkRec (p : Pkg) (r : Rec) : Pkg :=
  let p : Pkg := { p with recs := p.recs ++ [r] }
  let pan := r.pan
  let n : Notice :=
    { key := r.key, mask := if pan.isSome then BitVec.allOnes 64 else r.attr.mask, attr := r.attr, cause := r.cause,
      note := 2, lane := (pan.map PanRec.lane).getD 0, slot := (pan.map PanRec.slot).getD 0,
      rgen := (pan.map fun x => x.rgen.toNat).getD 0, lidx := (pan.map PanRec.lidx).getD 0 }
  let p := p.notice n
  if p.recCount r.mc = 256 then p.notice { n with note := 3 } else p

/-- Contexts with an uncommitted version of a line. -/
def Pkg.uncommitted (p : Pkg) (key : Nat) : Bool := p.cores.any fun e => !(e.2.uncommittedBy key).isEmpty

/-- The line leaves the caches (R95): its home, every L1. While an uncommitted version stands, the line has not left every
cache, and its home keeps the sidecar that the store found (R79, R82, R466). -/
def Pkg.dropLine (p : Pkg) (key : Nat) : Pkg :=
  match Tab.find? p.l2 key with
  | none => p
  | some l =>
    let kept : L2Line := { l with have_ := 0, dirty := 0, dirtyAt := none, attrs := [] }
    let q := { p with l2 := if p.uncommitted key then p.l2.put key kept else p.l2.drop key }
    l.holders.foldl (fun p c => p.modCore c (·.loseLine key)) q

/-- Lines that ended chunks held uncommitted, and that no cache keeps a byte of now, have left every cache: their sidecars go with
them (R82). -/
def Pkg.shed (p : Pkg) (keys : List Nat) : Pkg :=
  keys.foldl (fun p key => match Tab.find? p.l2 key with
    | some l => if l.have_ = 0 ∧ l.dirty = 0 ∧ !p.uncommitted key then p.dropLine key else p
    | none => p) p

/-- An MC that holds 256 records refuses every further one (R397). -/
def Pkg.mcFull (p : Pkg) (key : Nat) : Bool := decide (256 ≤ p.recCount (mcOf (keyVa key)))

/-- Park attributions, oldest first, as long as the MC takes them; those that it refuses are left. -/
def parkAll (key cause : Nat) (data : Line) : List Attr → Pkg → Pkg × List Attr
  | [], p => (p, [])
  | a :: t, p =>
    if p.mcFull key then (p, a :: t)
    else
      let r : Rec :=
        { mc := mcOf (keyVa key), key := key, attr := a, cause := if a.engine then 0x23 else cause, data := data,
          pan := none }
      parkAll key cause data t (p.parkRec r)

/-- Write a line's dirty bytes back to its MC, or park them, one record per attribution, oldest first, with the line's
poison; what a full MC refuses stays cached (R79, R395, R396, R397, R433). The bytes are those stored, also of a line whose cached
contents are undefined (R4). DESIGN CHOICE, log entry 4. -/
def Pkg.writeBack (p : Pkg) (key cause : Nat) : Pkg :=
  match Tab.find? p.l2 key with
  | none => p
  | some l =>
    if l.dirty = 0 then p
    else
      match p.phys? (keySpace key) (keyVa key), p.hasRec key with
      | some a, false =>
        let p := p.physWrite a l.dirty l.data l.poison
        { p with l2 := p.l2.put key { l with dirty := 0, attrs := [], dirtyAt := none } }
      | _, _ =>
        if p.mcFull key then p
        else
          let p := if l.poison then p.poisonLine key else p
          match parkAll key cause l.data l.attrs p with
          | (p, []) => p.dropLine key
          | (p, left) => { p with l2 := p.l2.put key { l with dirty := left.foldl (fun m a => m ||| a.mask) 0, attrs := left } }

/-- Add an attribution for the bytes of a new writer (R395). -/
def addAttr (l : List Attr) (a : Attr) : List Attr :=
  (l.filterMap fun b =>
    let m := b.mask &&& ~~~a.mask
    if m = 0 then none else some { b with mask := m }) ++ [a]

/-- A write by a new writer that would leave a third attribution whose oldest bytes a full MC refuses (R395, R397). -/
def Pkg.attrRefused (p : Pkg) (key : Nat) (mask : BitVec 64) : Bool :=
  match Tab.find? p.l2 key with
  | none => false
  | some l =>
    decide (3 ≤ (addAttr l.attrs { space := 0, gcid := 0, gen := 0, chunk := 0, mask, engine := false }).length) && p.mcFull key &&
      ((p.phys? (keySpace key) (keyVa key)).isNone || p.hasRec key)

/-- A third attribution sends the oldest one's bytes to the MC (R395). -/
def Pkg.thirdAttr (p : Pkg) (key : Nat) : Pkg :=
  match Tab.find? p.l2 key with
  | none => p
  | some l =>
    match l.attrs with
    | a :: b :: c :: t =>
      match p.phys? (keySpace key) (keyVa key), p.hasRec key with
      | some x, false =>
        let p := p.physWrite x a.mask l.data l.poison
        { p with l2 := p.l2.put key { l with dirty := l.dirty &&& ~~~a.mask, attrs := b :: c :: t } }
      | _, _ => p.writeBack key 0x21
    | [] | [_] | [_, _] => p

/-! ### Lines at their homes (R77 to R82, R127, R466) -/

def L2Line.new (side : Word) (poison : Bool) (home : Nat := 0) : L2Line :=
  { data := 0, home, have_ := 0, dirty := 0, side, poison, holders := [], dirtyAt := none, attrs := [] }

/-- A byte of a scale or escape array as the MC of line `va` reads it: from its scale cache, else from memory
through translation, keeping the line with its poison (R127, R433). None where translation fails. A cache keeps 32 lines,
and the one inserted first gives way. DEDUCED, log entry 25. -/
def Pkg.scaleByte (p : Pkg) (mc s va : Nat) : Option (Byte × Bool × Pkg) :=
  let key := lineKey s va
  match List.find? (fun e => e.1 == mc && e.2.1 == key) p.scale with
  | some e => some (lineByte e.2.2.1 (va % 64), e.2.2.2, p)
  | none =>
    if p.hasRec key then none
    else
      match p.phys? s va with
      | none => none
      | some a =>
        let l := p.physLine a
        let mine := p.scale.filter fun e => e.1 == mc
        let keep := if mine.length < 32 then p.scale else p.scale.filter fun e => some e.2.1 != (mine.head?.map (·.2.1)) || e.1 != mc
        let bad := p.poison.contains (a / 64 * 64)
        some (lineByte l (va % 64), bad, { p with scale := keep ++ [(mc, key, l, bad)] })

/-- Read `n` bytes of a scale or escape array. A hold names every byte needed of the line that cannot be read. -/
def Pkg.scaleBytes (p : Pkg) (mc s : Nat) : Nat → Nat → Except HeldAt (List Byte × Bool × Pkg)
  | _, 0 => .ok ([], false, p)
  | va, n + 1 =>
    match p.scaleByte mc s va with
    | none => .error ⟨BitVec.ofNat 64 va, lineKey s va, byteMask (va % 64) (min (n + 1) (64 - va % 64)), lineKey s va⟩
    | some (b, bad, q) =>
      match q.scaleBytes mc s (va + 1) n with
      | .error h => .error h
      | .ok (l, bad', q') => .ok (b :: l, bad || bad', q')

def fmtWidth (f : Nat) : Nat := if f = 1 ∨ f = 2 then 4 else if f = 6 then 16 else 8

def packBytes (w : Nat) : List Byte → Nat
  | [] => 0
  | b :: t => b.toNat % 2 ^ w + 2 ^ w * packBytes w t

/-- What the format window over a line says of it: element code, block code, blocks of the line, and where their scale and
escape bytes lie (Table 5.2). -/
structure FmtOf where
  f : Nat
  k : Nat
  n : Nat
  scale : Option Nat
  esc : Option Nat
  deriving DecidableEq, Repr

def Pkg.fmtOf? (p : Pkg) (key : Nat) : Option FmtOf :=
  match List.find? (fun e => e.2.getLsbD 0 && fld e.2.toNat 23 8 == keySpace key && inWindow e.2 (keyVa key)) p.fmtw with
  | none => none
  | some (_, d) =>
    let x := d.toNat
    let f := fld x 79 76
    let k := fld x 75 72
    let w := fmtWidth f
    let b0 := (keyVa key - fld x 63 24 * 65536) * 8 / w / (32 * 2 ^ k)
    let sva := fld x 183 128
    some { f, k, n := max 1 (512 / w / (32 * 2 ^ k)), scale := if sva = 0 then none else some (sva + b0),
           esc := if f = 1 then some (fld x 247 192 + b0) else none }

/-- The sidecar of a line at its allocation (R127, Table 5.3), and whether a poisoned scale poisons the line. -/
def Pkg.sidecar (p : Pkg) (key : Nat) : Except HeldAt (Word × Bool × Pkg) :=
  match p.fmtOf? key with
  | none => .ok (0, false, p)
  | some d =>
    let read (p : Pkg) (dflt : List Byte) : Option Nat → Except HeldAt (List Byte × Bool × Pkg)
      | none => .ok (dflt, false, p)
      | some va => p.scaleBytes (mcOf (keyVa key)) (keySpace key) va d.n
    match read p (List.replicate d.n 0x7F#8) d.scale with
    | .error h => .error { h with line := key }
    | .ok (sc, bad, p) =>
      match read p [] d.esc with
      | .error h => .error { h with line := key }
      | .ok (es, bad', p) =>
        let esc := if d.k = 0 then packBytes 4 es else packBytes 8 es
        .ok (BitVec.ofNat 64 (d.f <<< 60 + d.k <<< 56 + esc <<< 32 + packBytes 8 sc), bad || bad', p)

/-- MCs from which the allocation of a line would read scale or escape bytes (R466). -/
def Pkg.scaleMcs (p : Pkg) (key : Nat) : List Nat :=
  match Tab.find? p.l2 key, p.fmtOf? key with
  | none, some d => (d.scale.toList ++ d.esc.toList).flatMap fun va => [mcOf va, mcOf (va + d.n - 1)]
  | _, _ => []

/-- Allocate a line at its home (R127, R466); poison beyond the caches comes with it, and a poisoned scale poisons it. -/
def Pkg.alloc (p : Pkg) (key : Nat) : Except HeldAt Pkg :=
  match Tab.find? p.l2 key with
  | some _ => .ok p
  | none =>
    match p.sidecar key with
    | .error h => .error h
    | .ok (side, bad, p) =>
      let old := p.keyPoison key
      let p := if bad && !old then p.ras (keyVa key) (keySpace key) 0 (mcOf (keyVa key) / 4) (p.mcBlock key) 2 1 else p
      .ok { p with l2 := p.l2.put key (.new side (bad || old) (p.homeOf key)) }

/-- First byte of a mask. -/
def firstByte (m : BitVec 64) : Nat := ctzFrom m.toNat 64

/-- Island of a core (R18). -/
def islandOf (core : Nat) : Nat := core / 16

def hotAdd (c : Tab Nat) (i : Nat) : Tab Nat := c.put i (min 65535 (c.get 0 i + 1))

/-- An L2 miss counts for the window that covers the line, at the requesting core's island; a home slice keeps eight
entries, and one with counts is not replaced (R403). DESIGN CHOICE, log entry 51. -/
def Pkg.countHot (p : Pkg) (key : Nat) : Pkg :=
  match p.req, p.window? (keySpace key) (keyVa key) with
  | some c, some (w, _) =>
    let home := p.homeOf key
    let mine (h : Hot) : Bool := h.home == home && h.space == keySpace key && h.win == w
    if p.hotness.any mine then
      { p with hotness := updWhere mine (fun h : Hot => { h with counts := hotAdd h.counts (islandOf c) }) p.hotness }
    else if (p.hotness.filter fun h => h.home == home).length < 8 then
      { p with hotness := p.hotness ++ [{ home, space := keySpace key, win := w, counts := [(islandOf c, 1)] }] }
    else p
  | _, _ => p

/-- One L2 miss at the home (Table 18.3, R403). -/
def Pkg.addMiss (p : Pkg) (key : Nat) : Pkg :=
  let a := p.homeOf key * 2 ^ 16 + keySpace key
  ({ p with l2miss := p.l2miss.put a (p.l2miss.get 0 a + 1) }).countHot key

/-- A miss is served: it counts now, unless it was counted as it was held. -/
def Pkg.countMiss (p : Pkg) (key : Nat) : Pkg :=
  if p.missed.contains key then { p with missed := p.missed.filter (· != key) } else p.addMiss key

/-- A miss is held: it counts, and its fill will not (R403). DESIGN CHOICE, log entry 51. -/
def Pkg.countHeld (p : Pkg) (key : Nat) : Pkg :=
  let q := p.addMiss key
  { q with missed := insertNat key q.missed }

/-- An MC translates a line (Table 18.3). -/
def Pkg.countTransl (p : Pkg) (key : Nat) : Pkg :=
  let b := mcOf (keyVa key) * 2 ^ 16 + keySpace key
  { p with transl := p.transl.put b (p.transl.get 0 b + 1) }

/-- Bring the sectors of the masked bytes into the line at its home (R80): held where translation fails or records
are parked (R394, R95). -/
def Pkg.fill (p : Pkg) (key : Nat) (mask : BitVec 64) : Except HeldAt Pkg :=
  match p.alloc key with
  | .error h => .error h
  | .ok p =>
    let l := (Tab.find? p.l2 key).getD (.new 0 false)
    let need := sectorMask (mask &&& ~~~l.have_)
    if need = 0 then .ok p
    else
      let h : HeldAt := ⟨BitVec.ofNat 64 (keyVa key + firstByte mask), key, mask, key⟩
      match p.phys? (keySpace key) (keyVa key), p.hasRec key with
      | some a, false =>
        let got := need &&& ~~~l.have_
        let l := { l with data := mergeLine got (p.physLine a) l.data, have_ := l.have_ ||| need,
                          poison := l.poison || p.poison.contains (a / 64 * 64) }
        .ok (({ p with l2 := p.l2.put key l }.countMiss key).countTransl key)
      | _, _ => .error h

/-- Keep what a line held before a write (R103, R438). -/
def Pkg.remember (p : Pkg) (key : Nat) (mask : BitVec 64) (data : Line) : Pkg :=
  { p with past := { key, step := p.free, mask, data } :: p.past }

/-- A line's bytes before a write: those in the caches, and the others from memory where its page is mapped. -/
def Pkg.lineBefore (p : Pkg) (key : Nat) : BitVec 64 × Line :=
  let l := (Tab.find? p.l2 key).getD (.new 0 false)
  match p.phys? (keySpace key) (keyVa key) with
  | some a => (BitVec.allOnes 64, mergeLine l.have_ l.data (p.physLine a))
  | none => (l.have_, l.data)

/-- Write bytes of a line at its home (R79 to R81): the other holders lose their copies, an attribution is added, a whole
line clears poison (R433). -/
def Pkg.homeWrite (p : Pkg) (key : Nat) (mask : BitVec 64) (data : Line) (attr : Attr) (keep : Option Nat) : Pkg :=
  let p := p.remember key (p.lineBefore key).1 (p.lineBefore key).2
  let l := (Tab.find? p.l2 key).getD (.new 0 false (p.homeOf key))
  let p := if mask = BitVec.allOnes 64 then p.unpoison key else p
  let others := l.holders.filter fun c => some c != keep
  let p := others.foldl (fun p c => p.modCore c (·.loseLine key)) p
  let l' : L2Line :=
    { l with data := mergeLine mask data l.data, have_ := l.have_ ||| mask, dirty := l.dirty ||| mask,
             poison := l.poison && mask != BitVec.allOnes 64, holders := keep.toList,
             dirtyAt := match keep with
               | some c => if c / 64 = p.homeOf key / 64 then some c else none
               | none => none,
             attrs := addAttr l.attrs { attr with mask := mask } }
  ({ p with l2 := p.l2.put key l' }).thirdAttr key

/-- Bytes of a line as the caches hold them: undefined for synonyms (R93, R94). DESIGN CHOICE, log entry 4. -/
def aliasLine (va n : Nat) : Nat → Nat
  | 0 => 0
  | k + 1 => aliasLine va n k + (Config.aliasByte (va + k) n).toNat <<< (8 * k)

def Pkg.lineData (p : Pkg) (key : Nat) : Line :=
  let l := (Tab.find? p.l2 key).getD (.new 0 false)
  if p.aliased key then BitVec.ofNat 512 (aliasLine (keyVa key) p.free 64) else l.data

def Pkg.linePoison (p : Pkg) (key : Nat) : Bool := ((Tab.find? p.l2 key).map L2Line.poison).getD false

/-! ### Brine copies (R165 to R167) -/

/-- Attribution of a write that no context makes (R395). -/
def Attr.module_ (s : Nat) : Attr := { space := s, gcid := 0x1FFF, gen := 0, chunk := 0, mask := 0, engine := true }

/-- Whether a slot may leave DRAINING: no copy and no record names it (R157). -/
def Pkg.drained (p : Pkg) (s slot : Nat) : Bool :=
  entState (p.tableEntry s slot) == 2 && !(p.brine.any fun b => b.space == s && b.slot == slot) &&
    !(p.recs.any fun r => r.attr.space == s && (match r.pan with
      | some x => x.slot == slot
      | none => false))

/-- A copy or a record of a slot is gone: if it was the last of a DRAINING slot, the slot's end is owed (R156, R157). -/
def Pkg.drainDone (p : Pkg) (s slot : Nat) : Pkg := if p.drained s slot then { p with drains := p.drains ++ [(s, slot)] } else p

/-- What a miss of the masked bytes leaves at the MC where its fill fails: where a sector to be filled has been written, the line is
parked, and leaves the caches (R95, R396 cause 0x20). Nothing else of it comes to the MC. DESIGN CHOICE, log entry 114. -/
def Pkg.missPark (p : Pkg) (key : Nat) (mask : BitVec 64) : Pkg :=
  match Tab.find? p.l2 key with
  | none => p
  | some l =>
    match p.phys? (keySpace key) (keyVa key), p.hasRec key with
    | some _, false => p
    | _, _ => if sectorMask (mask &&& ~~~l.have_) &&& l.dirty = 0 then p else p.writeBack key 0x20

/-- A line gives way to a pan record: its dirty bytes are parked before it, and it leaves the caches (R164, R396). What a full MC
refuses stays. DESIGN CHOICE, log entry 114. -/
def Pkg.parkLine (p : Pkg) (key : Nat) : Pkg :=
  let p := p.writeBack key 0x20
  match Tab.find? p.l2 key with
  | some l => if l.dirty = 0 then (if l.poison then p.poisonLine key else p).dropLine key else p
  | none => p

/-- Whether every byte of a line is cached at its home. -/
def Pkg.cachedWhole (p : Pkg) (key : Nat) : Bool := ((Tab.find? p.l2 key).map fun l => l.have_ == BitVec.allOnes 64).getD false

/-- An element whose fill fails has missed. -/
def Pkg.failMiss (p : Pkg) (key : Nat) : Pkg := if p.cachedWhole key then p else p.addMiss key

/-- A copy whose partial value is lost: the line is poisoned at its home (R167, R438). -/
def Pkg.lostCopy (p : Pkg) (b : Brine) : Pkg :=
  (p.poisonWith b.key b.space 0 (p.homeOf b.key / 64) 3).ras (keyVa b.key) b.space 0 (p.homeOf b.key / 64) 3 0x04 1

/-- Crystallize a brine copy at its home and delete it: the routine runs once on the line; a failed fill parks the
contribution, and waits where the MC is full; a poisoned line, or an error in the copy, loses it (R167, R397). An entry that stands in
poisoned memory is used as it is stored: code 0x05 is an invocation's alone (R158). DESIGN CHOICE, log entry 115. -/
def Pkg.crystallize (p : Pkg) (b : Brine) : Pkg :=
  let old := p
  let p := { p with brine := p.brine.filter fun c => !(c.die == b.die && c.key == b.key) }
  let e := p.tableEntry b.space b.slot
  let op := BitVec.ofNat 512 (b.value.toNat % 2 ^ opwBits (entHdr e))
  let p :=
    if b.bad then p.lostCopy b else
    match p.fill b.key (BitVec.allOnes 64) with
    | .error h =>
      let p := (p.failMiss b.key).parkLine b.key
      if h.key ≠ b.key ∨ p.recCount (mcOf (keyVa b.key)) ≥ 256 then old
      else
        p.parkRec { mc := mcOf (keyVa b.key), key := b.key, attr := .module_ b.space, cause := 0x22, data := 0,
                    pan := some { slot := b.slot, rgen := b.rgen, lidx := 0, lane := 0, operand := op } }
    | .ok p =>
      if p.linePoison b.key then p.ras (keyVa b.key) b.space 0 (p.homeOf b.key / 64) 3 0x04 1
      else
        match runRoutine (entHdr e) (entWords e) (p.lineData b.key) op with
        | .done (some l) _ => p.homeWrite b.key (BitVec.allOnes 64) l (.module_ b.space) none
        | .done none _ | .fail _ => p
  p.drainDone b.space b.slot

/-- Recall every brine copy of a line (R112): they arrive, and are crystallized, in the order of their creation. DESIGN CHOICE, log
entry 106. -/
def Pkg.recall (p : Pkg) (key : Nat) : Pkg := (p.brine.filter fun b => b.key == key).foldl Pkg.crystallize p

/-- A copy of the line that a full MC has kept from being crystallized. -/
def Pkg.copied (p : Pkg) (key : Nat) : Bool := p.brine.any fun b => b.key == key

/-- Why a copy that an access recalls cannot be crystallized: the scale bytes of its line, or a full MC. -/
def Pkg.copyHold (p : Pkg) (key : Nat) (mask : BitVec 64) : HeldAt :=
  match p.alloc key with
  | .error h => h
  | .ok _ => ⟨BitVec.ofNat 64 (keyVa key + firstByte mask), key, mask, key⟩

/-- Serve an access at the home that needs the masked bytes: recall, then fill. -/
def Pkg.serve (p : Pkg) (key : Nat) (mask : BitVec 64) : Except HeldAt Pkg :=
  let q := p.recall key
  if q.copied key then .error (q.copyHold key mask) else q.fill key mask

/-- Serve a store miss at the home: recall, then allocate without a fill (R80). -/
def Pkg.serveWrite (p : Pkg) (key : Nat) : Except HeldAt Pkg :=
  let q := p.recall key
  if q.copied key then .error (q.copyHold key (BitVec.allOnes 64))
  else if (Tab.find? q.l2 key).isSome then .ok q
  else (q.alloc key).map (·.countMiss key)

/-- What a miss that ends held leaves at the MC: recalled copies too. A hold at a scale or escape byte touches no other line of the
caches (R466). -/
def Pkg.missHeld (p : Pkg) (h : HeldAt) : Pkg :=
  let q := p.recall h.line
  if h.key = h.line then q.missPark h.key h.mask else q

/-- Post the held notice of a context and line (R394). DEDUCED, log entry 91. -/
def Pkg.heldNotice (p : Pkg) (space gcid : Nat) (gen : BitVec 16) (chunk : Nat) (h : HeldAt) : Pkg :=
  p.notice { key := h.key, mask := h.mask,
             attr := { space, gcid, gen, chunk, mask := 0, engine := false }, cause := 0x10, note := 1, lane := 0,
             slot := 0, rgen := 0, lidx := 0 }

/-- A line leaves its home (R77): write back, then drop if clean; its poison goes with it (R433). -/
def Pkg.evict (p : Pkg) (key : Nat) : Pkg :=
  let p := (p.recall key).writeBack key 0x21
  match Tab.find? p.l2 key with
  | some l => if l.dirty = 0 then (if l.poison then p.poisonLine key else p).dropLine key else p
  | none => p

end Sys2Proof.Machine
end

