-- ==== Sys2Proof/Machine/Replay.lean ====
section
/-! DEFINITION. What a recording and a replay say of a space's events: log entries, the gate of a replay, the end of a chunk, the
outcomes of timed results (R419 to R422). -/

namespace Sys2Proof.Machine

/-- Log entry of Table 18.6. -/
def logEntry (value : Word) (chunk gen gcid kind lidx out : Nat) : BitVec 256 :=
  BitVec.ofNat 256 (value.toNat <<< 192 + (chunk % 2 ^ 48) <<< 144 + (gen % 2 ^ 16) <<< 128 + gcid <<< 115 + kind <<< 104 +
    (lidx % 256) <<< 96 + out <<< 88)

def leKind (e : BitVec 256) : Nat := fld e.toNat 111 104
def leGcid (e : BitVec 256) : Nat := fld e.toNat 127 115
def leChunk (e : BitVec 256) : Nat := fld e.toNat 191 144
def leGen (e : BitVec 256) : Nat := fld e.toNat 143 128
def leLidx (e : BitVec 256) : Nat := fld e.toNat 103 96
def leOut (e : BitVec 256) : Nat := fld e.toNat 95 88
def leValue (e : BitVec 256) : Word := BitVec.ofNat 64 (fld e.toNat 255 192)

/-- Log an event of a space that is being recorded. -/
def Pkg.record (p : Pkg) (s : Nat) (e : BitVec 256) : Pkg :=
  p.modSpace s fun x => { x with recording := x.recording.map fun (r : RecLog) =>
    if r.truncated || !r.live then r else { r with ring := r.ring.post e.toNat 32 } }

/-- Mark a recording open: an inbound operation or a host write touched the space (R419). -/
def Pkg.openLog (p : Pkg) (s : Nat) : Pkg :=
  match (p.space? s).bind Space.recording with
  | some r =>
    let log := (r.ring.va.toNat, r.ring.space)
    if r.live && !p.openLogs.contains log then { p with openLogs := log :: p.openLogs } else p
  | none => p

def Pkg.replayOf (p : Pkg) (s : Nat) : Option Replay := (p.space? s).bind Space.replay

/-- Outcomes of a chunk stand before its own entry; they gate nothing. -/
def chunkOutcome (e : BitVec 256) : Bool := leKind e == 5 && leOut e != 4

/-- Index of the next entry that gates an event. -/
def nextGate : List (BitVec 256) → Nat → Nat
  | [], n => n
  | e :: t, n => if chunkOutcome e then nextGate t (n + 1) else n

/-- DEDUCED, log entry 38. -/
def Replay.gate (r : Replay) : Nat := nextGate (r.log.drop r.next) r.next

/-- Number by which the log knows a context's chunk: the remainder of a split chunk keeps the chunk's own. -/
def Replay.chunkNo (r : Replay) (gcid chunk : Nat) : Nat :=
  if r.split && decide (gcid = fld r.stopCtx.toNat 28 16) && decide (r.stopChunk < chunk) then chunk - 1 else chunk

/-- Whether a chunk is the remainder of the one that a RERUN's stop has split. -/
def Replay.remainder (r : Replay) (gcid chunk : Nat) : Bool :=
  r.split && decide (gcid = fld r.stopCtx.toNat 28 16) && decide (chunk = r.stopChunk + 1)

/-- Index by which the log knows a chunk's deferred effect. -/
def Replay.lidx (r : Replay) (gcid chunk lidx : Nat) : Nat := if r.remainder gcid chunk then lidx + r.lidxBase else lidx

/-- The present name of a context that the log names (R421). -/
def Replay.present (r : Replay) (v : Word) : Word :=
  match r.names.find? fun e => e.1 == fld v.toNat 28 16 && e.2.1 == fld v.toNat 15 0 with
  | some e => BitVec.ofNat 64 (e.1 <<< 16 + e.2.2)
  | none => v

/-- In replay an event of the space may take its place only as the log's next (R421). -/
def Pkg.replayAllows (p : Pkg) (s kind gcid chunk lidx : Nat) : Bool :=
  match p.replayOf s with
  | none => true
  | some r =>
    match r.log[r.gate]? with
    | none => true
    | some e => leKind e == kind && leGcid e == gcid && leChunk e == r.chunkNo gcid chunk && leLidx e == r.lidx gcid chunk lidx % 256

/-- An entry of a context's own event gives the generation by which the log knows the present life of its slot (R421). -/
def Replay.learn (r : Replay) (gen : Nat → BitVec 16) (e : BitVec 256) : Replay :=
  let own := leKind e == 1 || leKind e == 2 || leKind e == 7
  if own && !(r.names.any fun n => n.1 == leGcid e && n.2.1 == leGen e) then
    { r with names := r.names ++ [(leGcid e, leGen e, (gen (leGcid e)).toNat)] }
  else r

/-- The log's next entry has been produced; at its end the replay ends. -/
def Replay.advance (gen : Nat → BitVec 16) (r : Replay) : Option Replay :=
  if r.gate + 1 ≥ r.log.length then none
  else some { ((r.log[r.gate]?).map (r.learn gen)).getD r with next := r.gate + 1 }

def Pkg.replayStep (p : Pkg) (s : Nat) : Pkg :=
  p.modSpace s fun x => { x with replay := x.replay.bind (Replay.advance fun g => (p.ctx (ctxOfGcid g)).gen) }

/-- RETIRED at which the log, or a RERUN's stop, cuts the current chunk of a context (R421, R422). -/
def Pkg.replayEnd (p : Pkg) (s gcid chunk : Nat) : Option Word :=
  match p.replayOf s with
  | none => none
  | some r =>
    match (r.log.zipIdx.drop r.next).find? fun e => leKind e.1 == 1 && leGcid e.1 == gcid && leChunk e.1 == r.chunkNo gcid chunk with
    | none => none
    | some (e, i) => some (if !r.stopped && i == r.stopAt then r.stopCount else leValue e)

/-- The outcome that the log gives for the timed result of a context's present instruction: the next of its chunk, where it was logged
at this place; a message's sender by its present name (R420, R421). -/
def Pkg.replayOutcome (p : Pkg) (x : CtxRef) : Option (Nat × Word) :=
  match p.replayOf (p.spaceOf x.core) with
  | none => none
  | some r =>
    let c := p.ctx x
    let mine (e : BitVec 256) : Bool := leGcid e == x.gcid && leChunk e == r.chunkNo x.gcid c.seq
    let before := (r.log.drop r.next).takeWhile fun e => !(mine e && (leKind e == 1 || leKind e == 2))
    let (outs, count) := if r.remainder x.gcid c.seq then (r.outBase, r.countBase) else (0, 0)
    let next := (before.filter fun e => mine e && chunkOutcome e)[outs + c.ch.outs.length]?
    (next.filter fun e => leLidx e == (count + c.ch.count) % 256).map fun e =>
      (leOut e, if leOut e = 3 then r.present (leValue e) else leValue e)

/-- Whether the space is recorded or replayed (R420). -/
def Pkg.logged (p : Pkg) (s : Nat) : Bool :=
  match p.space? s with
  | some x => (x.recording.map RecLog.live) == some true || x.replay.isSome
  | none => false

end Sys2Proof.Machine
end

