-- ==== Sys2Proof/Machine/Chunk.lean ====
section
/-! DEFINITION. Inside a chunk: signatures and levels (R59 to R61), squash (R53, R54, R63 to R65), L1 ways (R75,
R461), counters (R439 to R442), tokens, the checks and the accesses of an instruction (R235, R90 to R92, R98,
R102), and the deferred-effect list (R57). -/

namespace Sys2Proof.Machine

/-! ### Signatures and levels -/

/-- The 50-bit value that a line enters a signature by (R59). -/
def sigX (key : Nat) : Nat := (key % 2 ^ 50) ^^^ ((keySpace key <<< 34) % 2 ^ 50)

/-- DEDUCED, log entry 92. -/
def sigBit (key j : Nat) : Nat :=
  let x := sigX key
  let y := (x >>> (7 * j) ||| x <<< (50 - 7 * j)) % 2 ^ 50
  fld y 7 0 ^^^ fld y 15 8 ^^^ fld y 23 16 ^^^ fld y 31 24 ^^^ fld y 39 32 ^^^ fld y 47 40 ^^^ fld y 49 48

/-- One bank of a signature, 256 bits. -/
def sigBank (keys : List Nat) (j : Nat) : Nat := keys.foldl (fun a k => a ||| 2 ^ sigBit k j) 0

/-- R60. -/
def intersects (a b : List Nat) : Bool := [0, 1, 2, 3].all fun j => sigBank a j &&& sigBank b j != 0

/-- More than 80 of 256 bits set in a bank (R55). -/
def overThreshold (keys : List Nat) : Bool := [0, 1, 2, 3].any fun j => decide (popCount (sigBank keys j) 256 > 80)

def inDomain (l : Level) (o c : Nat) : Bool :=
  match l with
  | .cluster => o / 8 == c / 8
  | .die => o / 64 == c / 64
  | .package => true

/-- Smallest domain around `o` that contains the cores. -/
def levelOver (o : Nat) (cs : List Nat) : Level :=
  if cs.all (inDomain .cluster o) then .cluster else if cs.all (inDomain .die o) then .die else .package

def overlaps (a : Level) (o : Nat) (b : Level) (c : Nat) : Bool := inDomain a o c || inDomain b c o

/-- Whether a level exceeds one held. -/
def Level.above (held l : Level) : Bool :=
  match held, l with
  | .package, _ | _, .cluster | .die, .die => false
  | .cluster, .die | .cluster, .package | .die, .package => true

def Chunk.lines (c : Chunk) : List Nat := c.rlines ++ c.wlines

/-- Whether either signature of a chunk meets a write signature (R60, R63). -/
def Chunk.meets (h : Chunk) (w : List Nat) : Bool := intersects h.rlines w || intersects h.wlines w

/-- The lines that a context's uncommitted chunks have touched. -/
def Ctx.lines (c : Ctx) : List Nat := c.chunks.flatMap Chunk.lines

/-- Whether the home records a core as holding a line: its L1 holds it, or a chunk that has not yet committed has
accessed it there, for its L1 may have given it up since. DESIGN CHOICE, log entry 98. -/
def Core.holds (k : Core) (key : Nat) : Bool :=
  (Tab.find? k.l1 key).isSome || (k.ctxs.map Prod.fst).any fun n => (k.ctx n).lines.contains key

def Pkg.recorded (p : Pkg) (key : Nat) : List Nat := (List.range Config.cores).filter fun c => (p.core c).holds key

/-- Commit level (R61, R91, R156). -/
def Pkg.levelOf (p : Pkg) (core : Nat) (rl wl : List Nat) : Level :=
  if (rl ++ wl).any fun k => decide (tableLineVa 0 ≤ keyVa k) then .package
  else levelOver core ((rl ++ wl).map p.homeOf ++ wl.flatMap p.recorded)

/-! ### Counters (R439) -/

/-- A counter as software sees it: once its advances pass 2^63 - 1 it stays at all ones. -/
def saturated (n : Nat) : Word := if n > 2 ^ 63 - 1 then BitVec.allOnes 64 else BitVec.ofNat 64 n

def Space.counter (s : Space) (i : Nat) : Word := saturated (s.totals.get 0 i)

def Pkg.advance (p : Pkg) (s ix n : Nat) : Pkg :=
  if n = 0 then p else p.modSpace s fun x => { x with totals := x.totals.put ix (x.totals.get 0 ix + n) }

/-- Counter indices (R337). -/
def cVecInt : Nat := 8
def cPanInv : Nat := 9
def cCopyBytes : Nat := 10
def cMemBytes : Nat := 11
def cActive : Nat := 12
def cCommitted : Nat := 13
def cSquashed : Nat := 14
def cRoundings : Nat := 15

/-- Counter of an element type's class (R275). -/
def vecClass (t : Ty) : Nat :=
  match t with
  | .f32 => 5
  | .bf16 => 6
  | .f16 => 7
  | .i8 | .i16 | .i32 | .i64 | .w8 | .w16 | .w32 | .w64 | .f64 | .e2m1 | .e4m3 | .e5m2 | .s4e => 8

/-! ### Squash (R53, R65) -/

/-- The 32 bytes of a local-store granule. -/
def Core.granule (k : Core) (g : Nat) : BitVec 256 :=
  BitVec.ofNat 256 (leNat ((List.range 32).map fun i => k.ls.get 0 (32 * g + i)))

def Core.setLs (k : Core) (off : Nat) : List Byte → Core
  | [] => k
  | b :: t => ({ k with ls := k.ls.set 0 off b }).setLs (off + 1) t

def applyUndo (k : Core) : List (Nat × BitVec 256) → Core
  | [] => k
  | (g, v) :: t => applyUndo (k.setLs (32 * g) (leBytes v.toNat 32)) t

/-- A tile register and an accumulator without the writes of squashed chunks (R53, R62). -/
def restoreTile (gone : ChunkId → Bool) (t : TileReg) : TileReg :=
  match t.shadow with
  | some (n, x) => if gone n then { cur := x, shadow := none } else t
  | none => t

def clearAcc (gone : ChunkId → Bool) (a : AccReg) : AccReg := if (a.w.map gone).getD false then { a with w := none } else a

/-- A line of another core's local store (R90). -/
def remoteLocal (core key : Nat) : Bool := inLocal (keyVa key) && lsCore (keyVa key) != core

/-- The core's share of ending chunks, which its contexts no longer hold: queues, and lines of other cores' local stores, but those
of which another chunk has an uncommitted version (R79, R90). -/
def Core.endChunk (k : Core) (core : Nat) (gone : ChunkId → Bool) (keys : List Nat) : Core :=
  { k with l1 := k.l1.filter fun e => !(remoteLocal core e.1 && keys.contains e.1 && (k.uncommittedBy e.1).isEmpty),
           vq := k.vq.filter fun q => !gone q.owner, mq := k.mq.filter fun q => !gone q.owner }

/-- The chunks that a squash of a context ends: all, or the running one alone. -/
def Ctx.squashed (c : Ctx) (whole : Bool) : List Chunk := if whole then c.chunks else [c.ch]

/-- The running chunk is exclusive (R65). -/
def Ctx.exclRuns (c : Ctx) : Bool := c.excl.isSome && c.exclNo == c.seq

/-- A context's chunks that no other event squashes: an exclusive one, and the one before it, on which it rests (R65). -/
def Ctx.guarded (c : Ctx) : List Chunk :=
  if c.excl.isNone then [] else if c.exclRuns then c.chunks else c.req.toList

/-- Level at which chunk `n` of a context wants a reservation once it has been squashed `row` times in succession, its last attempt
having needed `lvl`: it keeps a wish that it had, and an exclusive one that needed more than it held asks for the package (R65). -/
def Ctx.wantAfter (c : Ctx) (n : Nat) (had : Option Level) (row : Nat) (lvl : Level) : Option Level :=
  if c.excl.isSome && c.exclNo == n then c.excl.map fun e => if e.above lvl then .package else lvl
  else
    match had with
    | some l => some l
    | none => if row ≥ 4 then some lvl else none

/-- Squash a context's running chunk, and with `whole` the one that asks for its commit too, on which the running one
rests: the checkpoint returns (Table 2.4). Each chunk has its own count, and a fourth squash in succession asks for exclusive
mode at the level the attempt needed (R65). `counted` is false for R434. -/
def Pkg.squashFrom (p : Pkg) (x : CtxRef) (whole counted : Bool) : Pkg :=
  let c := p.ctx x
  let first := if whole then c.req.getD c.ch else c.ch
  let both := whole && c.req.isSome
  let oldest := whole || c.req.isNone
  let n := if both then 2 else 1
  let gone (o : ChunkId) : Bool := o.slot == x.slot && (whole || o.seq == c.seq)
  let lvl (h : Chunk) : Level := p.levelOf x.core h.rlines h.wlines
  let row := if oldest then c.sqRow + counted.toNat else c.sqRow
  let next := if both || !oldest then c.sqNext + counted.toNat else c.sqNext
  let want :=
    if both then c.wantAfter c.chunkseq.toNat none row (lvl first)
    else c.wantAfter c.seq c.exclWant (if oldest then row else next) (lvl first)
  let c' : Ctx :=
    { c with regs := first.start, ch := { Chunk.new first.start with began := p.free },
             req := if whole then none else c.req, phase := .open, inCut := false, due := none,
             inbox := (c.squashed whole).reverse.flatMap Chunk.taken ++ c.inbox, held := none,
             wait := if want.isSome then some (.exclusive, p.pt) else none,
             st := match c.st with
               | .free => .free
               | .halted => .halted
               | .running | .waiting | .held => if want.isSome then .waiting else .running,
             stepping := c.stepping.map fun (s : Stepping) => { s with reason := none },
             sqRow := row, sqNext := next, sqUncounted := c.sqUncounted + n, sqLive := c.sqLive + n, exclWant := want,
             nextWant := if both then c.wantAfter c.seq c.exclWant next (lvl c.ch) else c.nextWant,
             excl := if whole || c.exclRuns then none else c.excl }
  let p := p.modCore x.core fun k =>
    let k := applyUndo k ((c.squashed whole).flatMap Chunk.undo)
    let k := { k with tiles := k.tiles.map fun (t : Nat × TileReg) => (t.1, restoreTile gone t.2),
                      accs := k.accs.map fun (a : Nat × AccReg) => (a.1, clearAcc gone a.2), squashes := k.squashes + n,
                      sqPeriod := k.sqPeriod + n }
    (k.setCtx x.slot c').endChunk x.core gone ((c.squashed whole).flatMap Chunk.lines)
  let q := p.exclQ.filter fun e => e.1 != x
  Pkg.shed { p with exclQ := match want with
      | some l => q ++ [(x, l)]
      | none => q } ((c.squashed whole).flatMap fun h => h.ulines.map Prod.fst)

/-- Squash every uncommitted chunk of a context. -/
def Pkg.squash (p : Pkg) (x : CtxRef) (counted : Bool := true) : Pkg := p.squashFrom x true counted

/-- Squash the chunks of a context from the oldest one that meets a condition, but no guarded one (R65); with `own` the one that asks
for its commit is left out. -/
def Pkg.strike (p : Pkg) (x : CtxRef) (own : Bool) (hit : Chunk → Bool) : Pkg :=
  let c := p.ctx x
  if c.exclRuns then p
  else if !own && c.excl.isNone && (c.req.map hit).getD false then p.squash x
  else if hit c.ch then p.squashFrom x false true
  else p

def Pkg.squashIf (p : Pkg) (x : CtxRef) (hit : Chunk → Bool) : Pkg := p.strike x false hit

/-- Whether a context runs a chunk that a broadcast may squash. -/
def Ctx.live (c : Ctx) : Bool := c.st != .free

/-- Squash every chunk of the domain that intersects a write signature, but exclusive ones and the one that `committer` commits (R63).
DEDUCED, log entry 93. -/
def Pkg.broadcast (p : Pkg) (l : Level) (o : Nat) (w : List Nat) (committer : Option CtxRef) : Pkg :=
  p.allCtxs.foldl (fun p x =>
    if (p.ctx x).live && inDomain l o x.core then p.strike x (some x == committer) (·.meets w) else p) p

/-- A guarded chunk of an overlapping domain that the write signature intersects (R65, R105): the event waits for it. -/
def Pkg.exclusiveHolds (p : Pkg) (l : Level) (o : Nat) (keys : List Nat) (except : Option CtxRef) : Bool :=
  p.allCtxs.any fun x =>
    let c := p.ctx x
    match c.excl with
    | some m => c.live && some x != except && overlaps l o m x.core && c.guarded.any (·.meets keys)
    | none => false

/-- The end of a DRAINING slot that nothing names: a change of its entry, which squashes the chunks that hold its line, and waits
for an exclusive one (R156, R157). DESIGN CHOICE, log entry 108. -/
def Pkg.drainEnd (p : Pkg) (e : Nat × Nat) : Option Pkg :=
  let key := lineKey e.1 (tableLineVa e.2)
  let q : Pkg := { p with drains := p.drains.filter (· != e) }
  if !p.drained e.1 e.2 then some q
  else if p.exclusiveHolds .package 0 [key] none then none
  else some ((q.broadcast .package 0 [key] none).setTableEntry e.1 e.2 (entGen (p.tableEntry e.1 e.2) <<< 1072))

/-! ### Why an instruction does not complete -/

inductive Stop_ where
  /-- a precise fault: cause, TRAPADDR, TRAPINFO -/
  | fault (cause addr info : Nat)
  /-- an access held at an MC -/
  | held (h : HeldAt)
  /-- the chunk is cut before the instruction (Table 2.5) -/
  | cut
  /-- the context's own chunk is squashed (R64, R92, R298) -/
  | squash
  | wait (k : WaitKind)
  /-- poison consumed at the line (Table 19.3) -/
  | poison (key : Nat)
  deriving DecidableEq, Repr

abbrev M := StateT Pkg (Except Stop_)

def M.fault {α : Type} (cause addr info : Nat) : M α := throw (.fault cause addr info)

/-- Invocation fault with a reason of Table 12.5. -/
def M.invocation {α : Type} (reason : Nat) : M α := M.fault 8 0 reason

def M.check (b : Bool) (s : Stop_) : M Unit := if b then pure () else throw s

/-- An operation of `Except HeldAt` at a home. -/
def M.home (f : Pkg → Except HeldAt Pkg) : M Unit := do
  match f (← get) with
  | .ok p => set p
  | .error h => throw (.held h)

/-! ### The issuing context's own state -/

def M.ctx (x : CtxRef) : M Ctx := do return (← get).ctx x
def M.modCtx (x : CtxRef) (f : Ctx → Ctx) : M Unit := modify fun p => p.modCtx x f
def M.modChunk (x : CtxRef) (f : Chunk → Chunk) : M Unit := M.modCtx x fun c => { c with ch := f c.ch }

def M.enterRead (x : CtxRef) (key : Nat) : M Unit := M.modChunk x fun h => { h with rlines := insertNat key h.rlines }
/-- A line that the chunk asking for its commit has written: the core keeps one uncommitted version of it (R62, R64). -/
def Ctx.reqWrote (c : Ctx) (key : Nat) : Bool := (c.req.map fun h => h.wlines.contains key).getD false

/-- The running chunk waits before it writes what the chunk before it still holds uncommitted. DESIGN CHOICE, log entry 97. -/
def M.enterWrite (x : CtxRef) (key : Nat) : M Unit := do
  if (← M.ctx x).reqWrote key then throw (.wait .ops)
  M.modChunk x fun h => { h with wlines := insertNat key h.wlines }

/-- Count at the chunk's commit (R441). -/
def M.count (x : CtxRef) (ix n : Nat) : M Unit :=
  if n = 0 then pure () else M.modChunk x fun h => { h with adv := h.adv.put ix (h.adv.get 0 ix + n) }

/-! ### L1 ways (R75, R461) -/

def Core.inSet (k : Core) (set : Nat) : List (Nat × Nat) := k.l1.filter fun e => e.1 % 128 == set

/-- DESIGN CHOICE, log entry 17. -/
def Core.freeWay (k : Core) (set : Nat) : Option Nat :=
  List.find? (fun w => !((k.inSet set).any fun e => e.2 == w)) ((List.range (40 - k.lsw)).map (· + k.lsw))

def Pkg.addHolder (p : Pkg) (key core : Nat) : Pkg :=
  match Tab.find? p.l2 key with
  | some l => { p with l2 := p.l2.put key { l with holders := insertNat core l.holders } }
  | none => p

def Pkg.dropHolder (p : Pkg) (key core : Nat) : Pkg :=
  match Tab.find? p.l2 key with
  | some l =>
    { p with l2 := p.l2.put key { l with holders := l.holders.filter (· != core),
                                         dirtyAt := if l.dirtyAt = some core then none else l.dirtyAt } }
  | none => p

/-- Evict a committed line from an L1 to its home (R79). -/
def Pkg.l1Drop (p : Pkg) (core key : Nat) : Pkg :=
  (p.modCore core fun k => { k with l1 := k.l1.drop key }).dropHolder key core

/-- Give a line a way in a core's L1 where one is free or held by a committed line (R75). -/
def Pkg.takeWay (p : Pkg) (core key : Nat) : Option Pkg :=
  let k := p.core core
  let put (p : Pkg) (w : Nat) : Pkg := (p.modCore core fun k => { k with l1 := k.l1.put key w }).addHolder key core
  if (Tab.find? k.l1 key).isSome then some (p.addHolder key core)
  else
    match k.freeWay (key % 128), List.find? (fun e => (k.uncommittedBy e.1).isEmpty) (k.inSet (key % 128)) with
    | some w, _ => some (put p w)
    | none, some (o, w) => some (put (p.l1Drop core o) w)
    | none, none => none

/-- Whether a cut before the instruction may end the running chunk: not where the chunk holds only that instruction, nor, in replay,
before the end that the log gives it (R55, R421). -/
def Pkg.cutHelps (p : Pkg) (x : CtxRef) : Bool :=
  let c := p.ctx x
  c.ch.count != 0 && (p.replayEnd (p.spaceOf x.core) x.gcid c.seq).all (· == c.regs.retired)

/-- Give the line a way in the accessing core's L1 (R55, R75, R461): the chunk is cut where it holds a line of a full set. Where a cut
cannot help, or it holds none, another context's chunk gives up its own, or the access waits, for an exclusive chunk or for the
context's own chunk that asks for its commit. DESIGN CHOICE, log entry 112. -/
def M.touch (x : CtxRef) (key : Nat) : M Unit := do
  let p ← get
  match p.takeWay x.core key with
  | some q => set q
  | none =>
    let k := p.core x.core
    let lines := k.inSet (key % 128)
    let holders := lines.flatMap fun e => (k.uncommittedBy e.1).map fun s => (s, e)
    let c := k.ctx x.slot
    if (lines.any fun e => (Tab.find? c.ch.ulines e.1).isSome) && p.cutHelps x then throw .cut
    else
      let cands := holders.filter fun h => h.1 != x.slot && !(k.ctx h.1).guarded.any fun u => (Tab.find? u.ulines h.2.1).isSome
      let began (h : Nat × Nat × Nat) : Nat :=
        (((k.ctx h.1).chunks.find? fun u => (Tab.find? u.ulines h.2.1).isSome).map Chunk.began).getD 0
      match cands.foldl (fun (a : Option (Nat × Nat × Nat)) h => match a with
        | none => some h
        | some b => if began b < began h then some h else a) none with
      | none =>
        if lines.any fun e => (c.req.bind fun h => Tab.find? h.ulines e.1).isSome then throw (.wait .ops)
        else if holders.any fun h => h.1 != x.slot then throw (.wait .exclusive)
        else throw .cut
      | some (s, o, w) =>
        let holds (h : Chunk) : Bool := (Tab.find? h.ulines o).isSome
        let p := (p.squashIf ⟨x.core, s⟩ holds).l1Drop x.core o
        set ((p.modCore x.core fun k => { k with l1 := k.l1.put key w }).addHolder key x.core)

/-! ### Watchpoint marks (R341) -/

/-- Step in which the task now on a core was launched. -/
def Pkg.launchOf (p : Pkg) (core : Nat) : Nat := ((p.core core).task.map Task.launched).getD 0

def wpMatches (w : Wp) (va n : Nat) (bit : Nat) : Bool :=
  let len := 2 ^ fld w.ctl.toNat 4 2
  w.ctl.getLsbD 11 && w.ctl.getLsbD bit && decide (va < w.va.toNat + len) && decide (w.va.toNat < va + n)

/-- Mark the chunk with the watchpoints that an access of `n` bytes meets; `bit` is RD (5) or WR (6). -/
def M.watch (x : CtxRef) (va n bit : Nat) : M Unit := do
  let p ← get
  let s := p.spaceOf x.core
  let task := p.launchOf x.core
  match p.space? s with
  | none => pure ()
  | some sp =>
    let c := p.ctx x
    let new := sp.wps.filterMap fun (i, w) =>
      if wpMatches w va n bit && !(c.ch.hits.any fun h => h.wp == i) then
        some ({ space := s, wp := i, va := BitVec.ofNat 64 (max va w.va.toNat), kind := if bit = 5 then 0 else 1,
                count := c.regs.retired, chunk := c.seq, gcid := x.gcid, gen := c.gen, task, lidx := 0, lane := 0,
                tool := w.tool, dom := fld w.ctl.toNat 10 9 } : Hit)
      else none
    if new.isEmpty then pure () else M.modChunk x fun h => { h with hits := h.hits ++ new }

/-! ### Checks of an element (R235) -/

/-- Address, alignment and rights of the element at `va`; `lane` goes to TRAPINFO. -/
def M.checkEl (x : CtxRef) (need va align lane : Nat) : M Unit := do
  let p ← get
  let info := (lane % 256) <<< 16
  if va ≥ vaTop then throw (.fault 2 va info)
  else if va % align ≠ 0 then throw (.fault 6 va info)
  else
    match p.route (p.spaceOf x.core) va need with
    | some _ => pure ()
    | none => throw (.fault 2 va info)

/-- Check the bytes of `[va, va + n)` in order, the engine's way: no alignment. A granule is decided by its first
byte, so the first byte and every granule start are tried. -/
def firstBad (p : Pkg) (s need : Nat) : Nat → Nat → Nat → Option Nat
  | 0, _, _ => none
  | fuel + 1, va, n =>
    if n = 0 then none
    else if va ≥ 2 ^ 64 then firstBad p s need fuel (va - 2 ^ 64) n
    else
      match p.route s va need with
      | none => some va
      | some _ =>
        let step := if inLocal va then 8192 - va % 8192 else 65536 - va % 65536
        if n ≤ step then none else firstBad p s need fuel (va + step) (n - step)

def Pkg.badByte (p : Pkg) (s need va n : Nat) : Option Nat := firstBad p s need (n / 8192 + 4) va n

/-- Check a byte range for an access, at issue. -/
def M.checkRange (x : CtxRef) (need va n : Nat) : M Unit := do
  let p ← get
  match p.badByte (p.spaceOf x.core) need va n with
  | some a => throw (.fault 2 a 0)
  | none => pure ()

/-! ### Reading inside a chunk (R98) -/

/-- A granule of a core's local store as others see it: the old bytes of an uncommitted write (R92). -/
def Core.committedGranule (k : Core) (g : Nat) (except : Option Nat) : BitVec 256 :=
  match List.findSome? (fun e => if some e.1 = except then none else
      List.findSome? (fun u => if u.1 = g then some u.2 else none) (e.2.chunks.flatMap Chunk.undo)) k.ctxs with
  | some v => v
  | none => k.granule g

def Core.lsByteFor (k : Core) (off : Nat) (reader : Option Nat) : Byte :=
  (k.committedGranule (off / 32) reader).extractLsb' (8 * (off % 32)) 8

def Core.lsLine (k : Core) (off : Nat) (reader : Option Nat) : Line :=
  let o := off / 64 * 64
  lineOf ((List.range 64).map fun i => k.lsByteFor (o + i) reader)

/-- Whether a KILL has doomed the access that a context now makes to a line: the one that was held, at its RETIRED, or the
fetch that follows a transfer to a held line (R219, R394). -/
def Ctx.doomed (c : Ctx) (key : Nat) : Option Word :=
  match c.killed with
  | some (h, r) => if h.line = key ∧ (c.regs.retired = r ∨ c.regs.retired = r + 1) then some h.va else none
  | none => none

/-- Whether an access to a line needs a slice or an MC of a die in reset: its scales' MC, and the slice of a copy that it would
recall, among them (R436, R466). -/
def Pkg.down (p : Pkg) (key : Nat) : Bool :=
  let down (d : Nat) : Bool := (Tab.find? p.resetting d).isSome
  !p.resetting.isEmpty &&
    (down (p.homeOf key / 64) || (p.brine.any fun b => b.key == key && down b.die) ||
      (!inLocal (keyVa key) && (down (mcOf (keyVa key) / 4) || (p.scaleMcs key).any fun m => down (m / 4))))

/-- An access whose first byte is at `va`, not where its line's missing bytes begin (R394). -/
def M.firstAt {α : Type} (key va : Nat) (m : M α) : M α := fun p =>
  match m.run p with
  | .error (.held h) => .error (.held (if h.key = key then { h with va := BitVec.ofNat 64 va } else h))
  | r => r

/-- Before an access to a line: a doomed one faults (R394), and one that a die reset keeps away waits (R436). -/
def M.up (key : Nat) : M Unit := do
  let p ← get
  match (p.ctx p.cur).doomed key with
  | some va => throw (.fault 9 va.toNat 0)
  | none => pure ()
  if p.down key then throw (.wait .ops)

/-- The chunk's view of a line, with the masked bytes valid, under the read rules of the place it comes from. A poisoned line is
consumed by a load of any of its bytes, unless the chunk has written them all (R433). -/
def M.viewLine (x : CtxRef) (r : Route) (mask : BitVec 64) (noalloc : Bool) : M Line := do
  M.up r.key
  let p ← get
  let (um, ud) := ((p.ctx x).uline? r.key).getD (0, 0)
  let whole := um == BitVec.allOnes 64
  match r.place with
  | .lstore c off =>
    if (p.core c).lsPoison.contains (off / 64) && !whole then throw (.poison r.key)
    if c = x.core then return (p.core c).lsLine off (some x.slot)
    else
      M.touch x r.key
      return mergeLine um ud ((p.core c).lsLine off none)
  | .line _ _ =>
    let missing := mask &&& ~~~um
    if missing = 0 then
      if p.linePoison r.key && !whole then throw (.poison r.key)
      return ud
    M.home fun p => p.serve r.key missing
    let p ← get
    if p.linePoison r.key then throw (.poison r.key)
    let l := p.lineData r.key
    if noalloc then pure () else M.touch x r.key
    return mergeLine um ud l

/-- The committed bytes of a line. -/
def Pkg.lineNow (p : Pkg) (r : Route) : Line :=
  match r.place with
  | .lstore c o => (p.core c).lsLine o none
  | .line _ _ => p.lineData r.key

def Pkg.linePoisoned (p : Pkg) (r : Route) : Bool :=
  match r.place with
  | .lstore c o => (p.core c).lsPoison.contains (o / 64)
  | .line _ _ => p.linePoison r.key

def Pkg.sideNow (p : Pkg) (r : Route) : Word :=
  match r.place with
  | .lstore c off => (p.core c).lsSide.get 0 (off / 64)
  | .line _ _ => ((Tab.find? p.l2 r.key).map L2Line.side).getD 0

/-- Values that byte `off` of a line may give to an invariant load: the copy's, the one it now holds, in a cache, in a parked record
or in memory, and every one it has lost since the task's launch (R103). -/
def Pkg.invValues (p : Pkg) (x : CtxRef) (r : Route) (copy : Line) (off : Nat) : List Byte :=
  let since := ((p.core x.core).task.map Task.launched).getD 0
  let now : List Byte := match r.place with
    | .lstore .. => [lineByte (p.lineNow r) off]
    | .line .. =>
      let (m, l) := p.lineBefore r.key
      (if m.getLsbD off then [lineByte l off] else []) ++
        (p.recs.filter fun q => q.key == r.key && q.pan.isNone && q.attr.mask.getLsbD off).map fun q => lineByte q.data off
  lineByte copy off :: now ++
    (p.past.filter fun q => q.key == r.key && decide (since ≤ q.step) && q.mask.getLsbD off).map fun q => lineByte q.data off

/-- The value where they agree, and any of them where they do not. -/
def Pkg.invByte (p : Pkg) (x : CtxRef) (r : Route) (copy : Line) (off : Nat) : Byte :=
  let l := p.invValues x r copy off
  let v := l.headD 0
  if l.all (· == v) then v else (l[Config.invChoice (keyVa r.key + off) p.free % l.length]?).getD v

/-- An invariant load: from the core's copy marked invariant, which takes what it lacks from the home without a holder's
record (R102, R103). DEDUCED, log entry 24. -/
def M.loadInv (x : CtxRef) (r : Route) (off n : Nat) : M Nat := do
  let p ← get
  let old := Tab.find? (p.core x.core).invs r.key
  let lack := byteMask off n &&& ~~~((old.map InvCopy.have_).getD 0)
  if lack ≠ 0 then
    M.up r.key
    match r.place with
    | .lstore .. => pure ()
    | .line .. => M.home fun p => p.serve r.key lack
    let p ← get
    if p.linePoisoned r then throw (.poison r.key)
    let new : InvCopy := match old with
      | some c => { c with have_ := c.have_ ||| lack, data := mergeLine lack (p.lineNow r) c.data }
      | none => { have_ := lack, data := p.lineNow r, side := p.sideNow r }
    set (p.modCore x.core fun k => { k with invs := k.invs.put r.key new })
  M.modChunk x fun h => { h with ilines := insertNat r.key h.ilines }
  let p ← get
  let copy := ((Tab.find? (p.core x.core).invs r.key).map InvCopy.data).getD 0
  return leNat ((List.range n).map fun i => p.invByte x r copy (off + i))

/-- Load `n` bytes at a checked VA within one line: little-endian. -/
def M.load (x : CtxRef) (need va n : Nat) (inv noalloc : Bool) : M Nat := do
  let p ← get
  match p.route (p.spaceOf x.core) va need with
  | none => throw (.fault 2 va 0)
  | some r =>
    let off := va % 64
    M.watch x va n 5
    M.count x cMemBytes n
    if inv && r.rights &&& rINV != 0 then M.firstAt r.key va (M.loadInv x r off n)
    else
      let l ← M.firstAt r.key va (M.viewLine x r (byteMask off n) noalloc)
      M.enterRead x r.key
      return lineGet l off n

/-- The sidecar of a line that a load reads: an invariant copy has its own (R23, R82). -/
def M.side (x : CtxRef) (va : Nat) (inv : Bool) : M Word := do
  let p ← get
  match p.route? (p.spaceOf x.core) va with
  | none => return 0
  | some r =>
    match (if inv && r.rights &&& rINV != 0 then Tab.find? (p.core x.core).invs r.key else none), r.place with
    | some c, _ => return c.side
    | none, .lstore .. => return p.sideNow r
    | none, .line .. =>
      M.home fun p => p.serveWrite r.key
      return (← get).sideNow r

/-- Load `n` bytes at any alignment, line by line. -/
def M.loadBytes (x : CtxRef) (need : Nat) (inv noalloc : Bool) : Nat → Nat → Nat → M (List Byte)
  | 0, _, _ => return []
  | fuel + 1, va, n => do
    if n = 0 then return []
    let k := min n (64 - va % 64)
    let v ← M.load x need va k inv noalloc
    let t ← M.loadBytes x need inv noalloc fuel (va + k) (n - k)
    return leBytes v k ++ t

/-! ### Writing inside a chunk -/

/-- An uncommitted write of the same core's other context stands where this one writes (R64, R92): the writer is
squashed, unless it is exclusive; then the other's chunk that holds it is. -/
def M.claim (x : CtxRef) (others : List Nat) (holds : Chunk → Bool) : M Unit := do
  match others.filter (· != x.slot) with
  | [] => pure ()
  | l =>
    if ((← get).ctx x).exclRuns then modify fun p => l.foldl (fun p s => p.squashIf ⟨x.core, s⟩ holds) p
    else throw .squash

/-- As `claim`, for granules of another core's local store (R92). -/
def M.claimRemote (x : CtxRef) (core g0 g1 : Nat) : M Unit := do
  let p ← get
  let k := p.core core
  let holds (h : Chunk) : Bool := h.undo.any fun u => g0 ≤ u.1 && u.1 ≤ g1
  match k.ctxs.filterMap fun (s, c) => if c.chunks.any holds then some s else none with
  | [] => pure ()
  | l =>
    if (p.ctx x).exclRuns then modify fun p => l.foldl (fun p s => p.squashIf ⟨core, s⟩ holds) p
    else throw .squash

/-- Log a granule's old bytes before its first write in the chunk (R54). -/
def M.logGranule (x : CtxRef) (g : Nat) : M Unit := do
  let p ← get
  let k := p.core x.core
  let holds (h : Chunk) : Bool := h.undo.any fun u => u.1 == g
  M.claim x (k.ctxs.filterMap fun (s, c) => if c.chunks.any holds then some s else none) holds
  let p ← get
  let c := p.ctx x
  if c.ch.undo.any fun u => u.1 == g then pure ()
  else if c.ch.undo.length ≥ 204 then throw .cut
  else M.modChunk x fun h => { h with undo := (g, (p.core x.core).granule g) :: h.undo }

/-- Store the low `n` bytes of `v` at a checked VA within one line. -/
def M.store (x : CtxRef) (va n v : Nat) : M Unit := do
  let p ← get
  match p.route (p.spaceOf x.core) va rWR with
  | none => throw (.fault 2 va 0)
  | some r =>
    let off := va % 64
    M.up r.key
    M.watch x va n 6
    M.count x cMemBytes n
    let own := match r.place with
      | .lstore c _ => c == x.core
      | .line _ _ => false
    if own then
      M.logGranule x (lsOff va / 32)
      M.logGranule x ((lsOff va + n - 1) / 32)
      modify fun p => p.modCore x.core fun k => k.setLs (lsOff va) (leBytes v n)
      M.modChunk x fun h =>
        let (m, d) := (Tab.find? h.ulines r.key).getD (0, 0)
        { h with ulines := h.ulines.put r.key (m ||| byteMask off n, d) }
    else
      M.claim x ((p.core x.core).uncommittedBy r.key) fun h => (Tab.find? h.ulines r.key).isSome
      match r.place with
      | .line _ _ => M.firstAt r.key va (M.home fun p => p.serveWrite r.key)
      | .lstore c o => M.claimRemote x c (o / 32) ((o + n - 1) / 32)
      M.touch x r.key
      M.modChunk x fun h =>
        let (m, d) := (Tab.find? h.ulines r.key).getD (0, 0)
        { h with ulines := h.ulines.put r.key (m ||| byteMask off n, lineSet d off n v) }
    M.enterWrite x r.key

/-- Store bytes at any alignment, line by line. -/
def M.storeBytes (x : CtxRef) : Nat → Nat → List Byte → M Unit
  | 0, _, _ => pure ()
  | fuel + 1, va, b => do
    if b.isEmpty then pure ()
    else
      let k := min b.length (64 - va % 64)
      M.store x va k (leNat (b.take k))
      M.storeBytes x fuel (va + k) (b.drop k)

/-! ### Deferred effects and tokens (R57, R234) -/

/-- Tag of the operation with list index `i` in the current chunk: what its token register waits for. -/
def Ctx.tag (c : Ctx) (i : Nat) : Nat := c.seq * 64 + i

/-- Append to the deferred-effect list; the token becomes pending. -/
def M.defer (x : CtxRef) (kind : EKind) (col : Nat) (tok : SReg) : M Unit := do
  let c ← M.ctx x
  if c.ch.deferred.length ≥ 32 then throw .cut
  M.modCtx x fun c =>
    { c with ch := { c.ch with deferred := c.ch.deferred ++ [{ kind, col, tok := some tok.toNat, ret := c.regs.retired }] },
             regs := { c.regs with pend := c.regs.pend.put tok.toNat (c.tag c.ch.deferred.length) } }

/-- The token is written: only the life and the operation that made it pending receive it (R72). -/
def Regs.tokenDone (r : Regs) (reg tag : Nat) (v : Word) : Regs :=
  if Tab.find? r.pend reg = some tag then { r with s := r.s.set 0 reg v, pend := r.pend.drop reg } else r

def Ctx.tokenDone (c : Ctx) (gen : BitVec 16) (reg tag : Nat) (v : Word) : Ctx :=
  if c.gen = gen ∧ c.st ≠ .free then
    let f (h : Chunk) : Chunk := { h with start := h.start.tokenDone reg tag v }
    { c with regs := c.regs.tokenDone reg tag v, ch := f c.ch, req := c.req.map f }
  else c

/-- Write a token register, in the context or in its saved image (R70). -/
def Pkg.tokenDone (p : Pkg) (x : CtxRef) (gen : BitVec 16) (reg tag : Nat) (v : Word) : Pkg :=
  let p := p.modCtx x fun c => c.tokenDone gen reg tag v
  { p with saved := p.saved.map fun (c, k) =>
      if c = x.core then (c, k.setCtx x.slot ((k.ctx x.slot).tokenDone gen reg tag v)) else (c, k) }

end Sys2Proof.Machine
end

