-- ==== Sys2Proof/Machine/Flags.lean ====
section
/-! DEFINITION. The conditions of Table 7.5 on integers and the predicate computations (R184, R211, R212, R283). The
GY9 keeps no arithmetic flags: a comparison's one result is a predicate or a mask bit. -/

namespace Sys2Proof.Machine

/-- Truth of a condition on two `w`-bit integers (R184). -/
def condInt (c : Cond) (w a b : Nat) : Bool :=
  let a := a % 2 ^ w
  let b := b % 2 ^ w
  match c with
  | .eq => decide (a = b)
  | .ne => decide (a ≠ b)
  | .lt => decide (signExt a w < signExt b w)
  | .le => decide (signExt a w ≤ signExt b w)
  | .gt => decide (signExt b w < signExt a w)
  | .ge => decide (signExt b w ≤ signExt a w)
  | .ltu => decide (a < b)
  | .leu => decide (a ≤ b)
  | .gtu => decide (b < a)
  | .geu => decide (b ≤ a)
  | .un => false

/-- Condition on 64-bit registers (R211). -/
def condWord (c : Cond) (a b : Word) : Bool :=
  match c with
  | .eq => a == b
  | .ne => a != b
  | .lt => a.slt b
  | .le => a.sle b
  | .gt => b.slt a
  | .ge => b.sle a
  | .ltu => a.ult b
  | .leu => a.ule b
  | .gtu => b.ult a
  | .geu => b.ule a
  | .un => false

/-- Entry of a truth table: bit 2 × pa + pb (R212). -/
def plogBit (tt : BitVec 4) (pa pb : Bool) : Bool := tt.getLsbD (2 * pa.toNat + pb.toNat)

end Sys2Proof.Machine
end

