-- ==== Sys2Proof/Machine/Operands.lean ====
section
/-! DEFINITION. The operand forms: scalar, predicate, loop and vector registers, immediates, memory operands, element
addresses, lane masks and packed fields (R180, R195, R204, R220, R235, R239, R271, R273, R286). -/

namespace Sys2Proof.Machine

/-! ### Scalar registers, predicates, loop registers -/

/-- S[a]. -/
def Regs.sr (r : Regs) (a : SReg) : Word := r.s.get 0 a.toNat
/-- S[n], for a register of a range. -/
def Regs.sn (r : Regs) (n : Nat) : Word := r.s.get 0 n
def Regs.setSn (r : Regs) (n : Nat) (v : Word) : Regs := { r with s := r.s.set 0 n v }
def Regs.setS (r : Regs) (d : SReg) (v : Word) : Regs := r.setSn d.toNat v

/-- P[a]; p0 always reads true (R180). -/
def Regs.pr (r : Regs) (a : PReg) : Bool := a == 0 || r.p.getLsbD a.toNat
/-- A write to p0 is discarded (R180). -/
def Regs.setP (r : Regs) (d : PReg) (b : Bool) : Regs :=
  if d = 0 then r
  else { r with p := if b then r.p ||| (1#8 <<< d.toNat) else r.p &&& ~~~(1#8 <<< d.toNat) }

/-- R181. -/
def guardHolds (g : Guard) (r : Regs) : Bool := r.pr g.reg != g.neg

/-- Registers `n`, `n + 1`, … , `n + k - 1`. -/
def regRange (n : Nat) : Nat → List Nat
  | 0 => []
  | k + 1 => n :: regRange (n + 1) k

/-- S[n + k - 1] … S[n] as one number, S[n] lowest. -/
def Regs.gather (r : Regs) (n : Nat) : Nat → Nat
  | 0 => 0
  | k + 1 => (r.sn n).toNat + 2 ^ 64 * r.gather (n + 1) k

/-- Write a number over `k` registers, the lowest doubleword first. -/
def Regs.scatter (r : Regs) (n v : Nat) : Nat → Regs
  | 0 => r
  | k + 1 => (r.setSn n (BitVec.ofNat 64 v)).scatter (n + 1) (v / 2 ^ 64) k

/-- Loop registers of a level (R220); a level is active while its count is not zero (R221). -/
def Regs.lbOf (r : Regs) (v : Nat) : Word := r.lb.get 0 v
def Regs.leOf (r : Regs) (v : Nat) : Word := r.le.get 0 v
def Regs.lcOf (r : Regs) (v : Nat) : Word := r.lc.get 0 v
def Regs.setLc (r : Regs) (v : Nat) (c : Word) : Regs := { r with lc := r.lc.set 0 v c }
def Regs.setLoop (r : Regs) (v : Nat) (b e c : Word) : Regs :=
  { r with lb := r.lb.set 0 v b, le := r.le.set 0 v e, lc := r.lc.set 0 v c }

/-! ### Immediates and instruction addresses -/

/-- IMM48, sign-extended (R206). -/
def imm48 (i : BitVec 48) : Word := i.signExtend 64

/-- Line VA of an instruction address, and its slot (R175). -/
def lineOfPc (pc : Word) : Nat := pc.toNat / 64 * 64
def slotOfPc (pc : Word) : Nat := pc.toNat % 8

/-- The instruction address after `pc` in slot order (R175). -/
def seqPc (pc : Word) : Word := if slotOfPc pc = 4 then pc + 60 else pc + 1

/-- Target of format C: the line VA plus 64 × OFF plus SLOT (Table 7.3). -/
def targetC (pc : Word) (off : BitVec 45) (slot : BitVec 3) : Word :=
  BitVec.ofNat 64 (lineOfPc pc) + off.signExtend 64 <<< 6 + slot.setWidth 64

/-- Body end of format L. -/
def targetL (pc : Word) (off : BitVec 24) (slot : BitVec 3) : Word :=
  BitVec.ofNat 64 (lineOfPc pc) + off.signExtend 64 <<< 6 + slot.setWidth 64

/-- Whether a register value has the form of an instruction address (R176, R219, R223). -/
def addressForm (a : Word) : Bool := fld a.toNat 63 56 == 0 && fld a.toNat 5 3 == 0 && decide (fld a.toNat 2 0 ≤ 4)

/-! ### Retirement (R221) -/

/-- Where an instruction that completes goes on. -/
inductive Flow where
  /-- the next instruction, subject to a back edge -/
  | next
  /-- another next instruction, subject to a back edge -/
  | skip (t : Word)
  /-- a taken transfer, which takes precedence over a back edge (R221) -/
  | jump (t : Word)
  /-- a part of a split store: the instruction goes on with this element in the next chunk (R100) -/
  | part (n : Nat)
  deriving DecidableEq, Repr

/-- The back edge of R221, from level `v - 1` down. -/
def backEdge (r : Regs) (next : Word) : Nat → Regs × Word
  | 0 => (r, next)
  | v + 1 =>
    if r.lcOf v ≠ 0 ∧ r.leOf v = r.pc then
      if r.lcOf v = 1 then backEdge (r.setLc v 0) next v
      else (r.setLc v (r.lcOf v - 1), r.lbOf v)
    else backEdge r next v

/-- The registers after an instruction retires. -/
def Regs.retire (r : Regs) (f : Flow) : Regs :=
  match f with
  | .next => let (q, n) := backEdge r (seqPc r.pc) 4; { q with pc := n, retired := q.retired + 1, part := 0 }
  | .skip t => let (q, n) := backEdge r t 4; { q with pc := n, retired := q.retired + 1, part := 0 }
  | .jump t => { r with pc := t, retired := r.retired + 1, part := 0 }
  | .part n => { r with part := n }

/-! ### Memory operands (R235) -/

/-- Scalar sources of a memory operand; index 0 names none. -/
def memSrcs (m : MemOp) : List Nat := m.base.toNat :: (if m.index = 0 then [] else [m.index.toNat])

/-- S[A] + S[B] × 2^MOD + sign_extend(DISP, 32), modulo 2^64. -/
def memAddr (r : Regs) (m : MemOp) : Word :=
  r.sr m.base + (if m.index = 0 then 0 else r.sr m.index <<< m.scale.toNat) + m.disp.signExtend 64

/-- Row pitch of a tile port: S[B] × 2^MOD (R241). -/
def memPitch (r : Regs) (m : MemOp) : Word := if m.index = 0 then 0 else r.sr m.index <<< m.scale.toNat

/-- Base of a tile port: S[A] + sign_extend(DISP, 32) (R241). -/
def memBase (r : Regs) (m : MemOp) : Word := r.sr m.base + m.disp.signExtend 64

def vwBytes : VW → Nat
  | .b8 => 1
  | .b16 => 2
  | .b32 => 4

/-! ### Vector registers (R20, R239, R271, R273) -/

/-- Lane j of v`r`. -/
def Regs.lane (r : Regs) (v j : Nat) : BitVec 32 := r.v.get 0 (64 * v + j)
def Regs.setLane (r : Regs) (v j : Nat) (x : BitVec 32) : Regs := { r with v := r.v.set 0 (64 * v + j) x }

def setLanesGo (f : Nat → Option (BitVec 32)) (v : Nat) (r : Regs) : Nat → Regs
  | 0 => r
  | n + 1 =>
    let r := setLanesGo f v r n
    match f n with
    | some x => r.setLane v n x
    | none => r

/-- Write the lanes for which `f` gives a value; the others keep theirs. -/
def Regs.setLanes (r : Regs) (v : Nat) (f : Nat → Option (BitVec 32)) : Regs := setLanesGo f v r 64

/-- Whether lane j is active under the mask field (R273). -/
def laneOn (r : Regs) (mk : Option SReg) (j : Nat) : Bool :=
  match mk with
  | none => true
  | some m => (r.sr m).getLsbD j

/-- Lane mask of a vector access: C = 0 makes every lane active (R239). -/
def accessOn (r : Regs) (c : SReg) (j : Nat) : Bool := c == 0 || (r.sr c).getLsbD j

/-- Whether element j of a pan vector form is active: bit j of S[MOD] (R268). -/
def panOn (r : Regs) (mask : SReg) (j : Nat) : Bool := (r.sr mask).getLsbD j

def maskSrcs (mk : Option SReg) : List Nat :=
  match mk with
  | none => []
  | some m => [m.toNat]

def accessSrcs (c : SReg) : List Nat := if c = 0 then [] else [c.toNat]

/-- The w-bit element of a lane. -/
def elem (t : Ty) (x : BitVec 32) : Nat := x.toNat % 2 ^ t.width

/-- A result lane (R271): integers are extended from their low bits, codes zero-extended. -/
def laneInt (t : Ty) (v : Int) : BitVec 32 :=
  if t.signed then BitVec.ofInt 32 (signExt (wrapN v t.width) t.width) else BitVec.ofNat 32 (wrapN v t.width)

def laneCode (c : Nat) : BitVec 32 := BitVec.ofNat 32 c

/-- Field f of a packed vector of fields of width w (R286). -/
def Regs.field (r : Regs) (v w f : Nat) : Nat := ((r.lane v (f / (32 / w))).toNat >>> (f % (32 / w) * w)) % 2 ^ w

/-- Lane of a packed vector whose fields are `g f`. -/
def packLane (w l : Nat) (g : Nat → Nat) : Nat → Nat
  | 0 => 0
  | n + 1 => packLane w l g n + (g (l * (32 / w) + n) % 2 ^ w) <<< (n * w)

/-- Address of element j (Table 9.2). -/
def ldvAddr (r : Regs) (m : MemOp) (w j : Nat) : Word := memAddr r m + BitVec.ofNat 64 (j * w)
/-- DEDUCED, log entry 28. -/
def ldvsAddr (r : Regs) (a b : SReg) (disp : BitVec 32) (j : Nat) : Word :=
  r.sr a + disp.signExtend 64 + BitVec.ofNat 64 j * r.sr b
def ldvgAddr (r : Regs) (a : SReg) (b : VReg) (scale : BitVec 4) (disp : BitVec 32) (j : Nat) : Word :=
  r.sr a + (r.lane b.toNat j).signExtend 64 <<< scale.toNat + disp.signExtend 64

end Sys2Proof.Machine
end

