-- ==== Sys2Proof/Machine/Tasks.lean ====
section
/-! DEFINITION. Debug stops (R408 to R412), the end and the halt of a task (R69, R332), the commit of a chunk
(R61, R62, R57, R156, R320). -/

namespace Sys2Proof.Machine

/-! ### Gangs and stop sets -/

def Pkg.gangOf (p : Pkg) (core : Nat) : Option Nat := ((p.core core).task.map fun t => t.info.gang).getD none

/-- The core and every core of its task's gang. -/
def Pkg.gangCores (p : Pkg) (core : Nat) : List Nat :=
  match p.gangOf core with
  | none => [core]
  | some g => p.cores.filterMap fun (c, k) =>
      match k.task with
      | some t => if t.info.gang = some g then some c else none
      | none => none

/-- Tasks that have not ended, on their cores or in saved images: which they are, and whether they are resident. -/
def Pkg.tasks (p : Pkg) : List (TaskRef × Task × Bool) :=
  let ref (here : Bool) (e : Nat × Core) : Option (TaskRef × Task × Bool) :=
    e.2.task.bind fun t => if t.ended.isSome then none else some (⟨e.1, t.launched⟩, t, here)
  p.cores.filterMap (ref true) ++ p.saved.filterMap (ref false)

/-- Stop set of R408, from the origin's task. DEDUCED, log entry 78: a gang member that has been saved belongs to it. -/
def Pkg.stopSet (p : Pkg) (target dom : Nat) (o : TaskRef) : List TaskRef :=
  let base := p.tasks.filter fun e =>
    if dom = 0 then e.1 == o
    else e.2.2 && e.2.1.space == target &&
      inDomain (if dom = 1 then .cluster else if dom = 2 then .die else .package) o.core e.1.core
  let joined (e : TaskRef × Task × Bool) : Bool := base.any fun b =>
    b.1 == e.1 || (e.2.1.info.gang.isSome && e.2.1.info.gang == b.2.1.info.gang)
  (p.tasks.filter joined).map Prod.fst

/-- A stop takes its place. -/
def Pkg.newStop (p : Pkg) (cause tool target dom : Nat) (tasks : List TaskRef) (hits : List Hit) : Pkg :=
  { p with stopSeq := p.stopSeq + 1,
           stops := p.stops ++ [{ seq := p.stopSeq + 1, cause, tool, target, dom, tasks, halted := [], hits, skids := [], notes := [],
                                  recorded := false, rel := false, raised := p.free, strayed := false }] }

/-- The broadcast of a stop has not yet reached a task of its set. -/
def Stop.reaching (s : Stop) (r : TaskRef) : Bool := s.tasks.contains r && !s.halted.contains r

/-- A stop without tasks that are gone; none where that leaves it nothing to hold (R411). -/
def Stop.without (gone : TaskRef → Bool) (s : Stop) : Option Stop :=
  let l := s.tasks.filter fun r => !gone r
  if l.isEmpty && !s.tasks.isEmpty then none else some { s with tasks := l, halted := s.halted.filter fun r => !gone r }

def Hit.entry (h : Hit) (seq : Nat) : Nat :=
  h.va.toNat <<< 448 + h.count.toNat <<< 384 + (h.chunk % 2 ^ 48) <<< 336 + h.gen.toNat <<< 320 + h.space <<< 304 +
    h.gcid <<< 291 + (h.kind + 1) <<< 280 + 0x10 <<< 272 + h.lidx <<< 264 + (h.lane % 256) <<< 256 + seq <<< 192 + h.wp <<< 136

def Pkg.modDring (p : Pkg) (s : Nat) (f : Ring → Ring) : Pkg := p.modSpace s fun x => { x with dring := x.dring.map f }

/-- The task of a hit's origin. -/
def Hit.ref (h : Hit) : TaskRef := ⟨(ctxOfGcid h.gcid).core, h.task⟩

/-- A hit takes its place: it is only recorded during a step, joins a stop that has not yet reached its task, or raises a
stop of its own (R341, R408, R411). -/
def Pkg.hit (p : Pkg) (h : Hit) : Pkg :=
  let c := p.ctx (ctxOfGcid h.gcid)
  if c.stepping.isSome && c.st != .free && c.gen == h.gen then
    let p := { p with stopSeq := p.stopSeq + 1 }
    p.modDring h.tool (·.post (h.entry p.stopSeq))
  else if p.stops.any (·.reaching h.ref) then
    { p with stops := updWhere (fun s : Stop => s.reaching h.ref) (fun s : Stop => { s with hits := s.hits ++ [h] }) p.stops }
  else p.newStop 0x32 h.tool h.space h.dom (p.stopSet h.space h.dom h.ref) [h]

/-- The hit of a chunk's mark, where its watchpoint still stands as the chunk commits (R341). -/
def Pkg.hitIfSet (p : Pkg) (h : Hit) : Pkg :=
  match (p.space? h.space).bind fun s => Tab.find? s.wps h.wp with
  | some w => if w.tool = h.tool && wpMatches w h.va.toNat 1 (5 + h.kind) then p.hit h else p
  | none => p

/-- Watchpoint hits on bytes of a line of space `s`, from the event's own fields (R341). DEDUCED, log entry 37. -/
def Pkg.watchFor (p : Pkg) (s va n bit : Nat) (h : Hit) : Pkg :=
  match p.space? s with
  | none => p
  | some sp =>
    sp.wps.foldl (fun p e =>
      if wpMatches e.2 va n bit then
        p.hit { h with space := s, wp := e.1, va := BitVec.ofNat 64 (max va e.2.va.toNat), tool := e.2.tool,
                       dom := fld e.2.ctl.toNat 10 9 }
      else p) p

/-- What a hit takes from a context's event: kind, RETIRED, chunk, list index, lane. -/
def hitOf (kind : Nat) (count : Word) (chunk gcid : Nat) (gen : BitVec 16) (task lidx lane : Nat) : Hit :=
  { space := 0, wp := 0, va := 0, kind, count, chunk, gcid, gen, task, lidx, lane, tool := 0, dom := 0 }

/-- Watchpoint hits of an engine commit (bit 8, kind 2) or a pan application (bit 7, kind 3). -/
def Pkg.watchEvent (p : Pkg) (s va n bit kind : Nat) (o : Op) (lane : Nat) : Pkg :=
  p.watchFor s va n bit (hitOf kind o.ret o.chunk o.who.gcid o.gen o.task o.lidx lane)

/-! ### Squash counts -/

/-- Add a context's squashes not yet counted (R442). -/
def Pkg.countSquashes (p : Pkg) (x : CtxRef) : Pkg :=
  let n := (p.ctx x).sqUncounted
  (p.modCtx x fun c => { c with sqUncounted := 0 }).advance (p.spaceOf x.core) cSquashed n

/-- Whether a context runs a chunk, which a halt squashes (R69): always, but while it is halted, or while a cut instruction is
in progress, which runs between two chunks (R56, R70). -/
def Ctx.hasChunk (c : Ctx) : Bool := c.st != .free && c.st != .halted && !c.inCut

/-- Every instruction that has retired has committed, and its commit is complete: where a cut instruction may begin and a
precise fault be taken (R56, R74). -/
def Ctx.idle (c : Ctx) : Bool := c.ch.count == 0 && c.req.isNone && c.inflight.isNone

/-! ### Commit (R61) -/

def putLs (core : Nat) (off : Nat) (m : BitVec 64) (d : Line) (k : Core) : Nat → Core
  | 0 => if m = BitVec.allOnes 64 then { k with lsPoison := k.lsPoison.filter (· != off / 64) } else k
  | n + 1 =>
    let k := putLs core off m d k n
    if m.getLsbD n then { k with ls := k.ls.set 0 (off + n) (lineByte d n) } else k

/-- A written line becomes visible (step 2 of R61). -/
def Pkg.publish (p : Pkg) (x : CtxRef) (e : Nat × BitVec 64 × Line) : Pkg :=
  let (key, m, d) := e
  let va := keyVa key
  if inLocal va then
    if lsCore va = x.core then
      if m = BitVec.allOnes 64 then p.modCore x.core fun k => { k with lsPoison := k.lsPoison.filter (· != lsOff va / 64) } else p
    else
      (p.remember key (BitVec.allOnes 64) ((p.core (lsCore va)).lsLine (lsOff va) none)).modCore (lsCore va) fun k =>
        putLs (lsCore va) (lsOff va) m d k 64
  else
    let c := p.ctx x
    p.homeWrite key m d
      { space := p.spaceOf x.core, gcid := x.gcid, gen := c.gen, chunk := c.chunkseq.toNat, mask := m, engine := false }
      (some x.core)

/-- What a granule of a core's own local store held before the chunk (R103). -/
def Pkg.rememberGranule (s core : Nat) (p : Pkg) (u : Nat × BitVec 256) : Pkg :=
  let at_ := 32 * u.1 % 64
  p.remember (lineKey s (lsVa core (32 * u.1))) (byteMask at_ 32) (u.2.setWidth 512 <<< (8 * at_))

/-- PANLD and PANDROP at commit (R156, R157). -/
def Pkg.tabCommit (s : Nat) (p : Pkg) (o : TabOp) : Pkg :=
  match o with
  | .load slot image =>
    let ws := image.map BitVec.toNat
    let h := (ws.head?).getD 0
    p.newTableEntry s slot (mkEntry h ws.tail 1 (entGen (p.tableEntry s slot) + 1))
  | .drop slot =>
    let e := p.tableEntry s slot
    if entState e = 1 then
      let p := p.setTableEntry s slot (e + (1 <<< 1056))
      let p := (p.brine.filter fun b => b.space == s && b.slot == slot).foldl Pkg.crystallize p
      p.drainDone s slot
    else p

/-- CAPMK and CAPREV at commit (R320). -/
def capCommit (k : Core) (o : CapOp) : Core :=
  match o with
  | .mk slot rights =>
    let c := k.caps.get .zero slot
    { k with caps := k.caps.set .zero slot { valid := true, gen := if c.valid then c.gen + 1 else c.gen, rights } }
  | .rev slot =>
    let c := k.caps.get .zero slot
    if c.valid then { k with caps := k.caps.set .zero slot { c with valid := false, gen := c.gen + 1 } } else k

/-- Bank toggling and shadows at commit (R53, R62). -/
def commitTile (mine : ChunkId → Bool) (t : TileReg) : TileReg :=
  if (t.shadow.map fun e => mine e.1).getD false then { t with shadow := none } else t

def commitAcc (mine : ChunkId → Bool) (a : AccReg) : AccReg :=
  if (a.w.map mine).getD false then { a with w := none, c := !a.c } else a

/-- Engine queue of an operation (Table 4.2): class bit, 4 for messages. -/
def EKind.cls : EKind → Nat
  | .copy .. => 0
  | .bput .. | .bdrop .. => 1
  | .get .. | .put .. | .rpan .. => 2
  | .pan .. => 3
  | .msg .. | .attest .. => 4

/-- Code 0x10: a remote address outside the mapped spaces (Table 9.6). -/
def remoteBad (va n : Nat) : Bool := decide (va + max 1 n > lsBase) || decide (va ≥ vaTop)

/-- Status word of Table 9.5. -/
def engineStatus (state code bytes : Nat) : Word := BitVec.ofNat 64 (state <<< 62 + code <<< 56 + bytes % 2 ^ 40)

/-- Status word of Table 6.9. -/
def panStatus (state code lane count : Nat) : Word := BitVec.ofNat 64 (state <<< 62 + code <<< 56 + lane <<< 48 + count)

/-- The code that stops an inter-package operation at its release (R255, R256), and the peer entry. -/
def Pkg.releaseCheck (p : Pkg) (s : Nat) (k : EKind) : Option Nat × Word :=
  match k with
  | .get _ rem n peer | .put _ rem n peer =>
    let e := ((p.space? s).map fun x => x.peers.get 0 peer).getD 0
    (if remoteBad rem.toNat n then some 0x10 else if !e.getLsbD 63 then some 0x11 else none, e)
  | .rpan rem peer _ _ =>
    let e := ((p.space? s).map fun x => x.peers.get 0 peer).getD 0
    (if remoteBad rem.toNat 64 then some 0x10 else if !e.getLsbD 63 then some 0x11 else none, e)
  | .copy .. | .pan .. | .msg .. | .bput .. | .bdrop .. | .attest .. => (none, 0)

/-- Gateway port that carries operations to a module. PRESUMED, log entry 23. -/
def portOf (peer : Word) : Nat := fld peer.toNat 47 24 % 16

/-- A released operation joins those to be performed. -/
def Pkg.addOp (p : Pkg) (x : CtxRef) (chunk lidx : Nat) (d : Deferred) (queue : Nat) (peer : Word) : Pkg :=
  let o : Op := { id := p.nextOp, who := x, gen := (p.ctx x).gen, task := p.launchOf x.core, space := p.spaceOf x.core, chunk, lidx, ret := d.ret, queue,
                  col := d.col, tok := d.tok, kind := d.kind, done := [], held := [], bytes := 0, code := 0, lane := 0,
                  released := p.pt, peer, epoch := p.epochs.get 0 (portOf peer), pieces := [], sides := [], ack := none, sent := false }
  { p with ops := p.ops ++ [o], nextOp := p.nextOp + 1 }

/-- Release the deferred effect at `ix` of a chunk's list (step 3 of R61, R57). -/
def Pkg.release (p : Pkg) (x : CtxRef) (chunk ix : Nat) (d : Deferred) : Pkg :=
  let c := p.ctx x
  let s := p.spaceOf x.core
  let queue := ((p.core x.core).task.map fun t => t.info.queue).getD 0
  let tag := chunk * 64 + ix
  let lidx := ix
  let done (v : Word) : Pkg :=
    match d.tok with
    | some r => p.tokenDone x c.gen r tag v
    | none => p
  let (bad, peer) := p.releaseCheck s d.kind
  match d.kind, bad with
  | .rpan .., some code => done (panStatus 2 (code + 0x10) 0 0)
  | _, some code => done (engineStatus 2 code 0)
  | .msg dst payload, none =>
    let f : Flight := { msg := { sender := BitVec.ofNat 64 (x.gcid <<< 16 + c.gen.toNat), payload }, dst, space := s,
                        who := x, gen := c.gen, queue, tok := (d.tok.getD 0), op := tag, released := p.pt }
    { p with flights := p.flights ++ [f] }
  | .copy _ _ n0 n1 n2 .., none => if n0 * n1 * n2 = 0 then done (engineStatus 1 0 0) else p.addOp x chunk lidx d queue peer
  | .pan _ els, none => if els.isEmpty then done (panStatus 1 0 0 0) else p.addOp x chunk lidx d queue peer
  | _, none => p.addOp x chunk lidx d queue peer

/-- Whether a stop without hits has been raised in the present step: what commits in that step stands at its place, not after it. -/
def Stop.justRaised (s : Stop) (step : Nat) : Bool := s.hits.isEmpty && s.raised == step

/-- Chunks committed after the place of a stop that has not yet reached their task are its skid (R409). DEDUCED, log entry 52. -/
def Pkg.skid (p : Pkg) (x : CtxRef) (n : Nat) : Pkg :=
  let add (s : Stop) : Stop :=
    let (a, b) := s.skids.get (0, 0) x.gcid
    { s with skids := s.skids.put x.gcid (a + 1, b + n) }
  { p with stops := updWhere (fun s : Stop => s.reaching ⟨x.core, p.launchOf x.core⟩ && !s.justRaised p.free) add p.stops }

/-! ### What a commit leaves in logs and caches -/

/-- The space that a replay's stop belongs to: the tool that the target's grant names, else space 0, whose contexts hold every right.
DESIGN CHOICE, log entry 116. -/
def Pkg.replayTool (p : Pkg) (s : Nat) : Nat := ((p.space? s).map Space.tool).getD 0

/-- Log a chunk's outcomes and its own entry, and move a replay on; a RERUN's stop is raised instead where the
chunk is the first part of the one it names (R419, R422). -/
def Pkg.logChunk (p : Pkg) (x : CtxRef) (kind : Nat) (h : Chunk) (retired : Word) : Pkg :=
  let c := p.ctx x
  let s := p.spaceOf x.core
  let seq := c.chunkseq.toNat
  let p := h.outs.foldl (fun p o => p.record s (logEntry o.value seq c.gen.toNat x.gcid 5 o.place o.out)) p
  let p := p.record s (logEntry retired seq c.gen.toNat x.gcid kind 0 0)
  match p.replayOf s with
  | none => p
  | some r =>
    if !r.stopped && r.gate == r.stopAt && retired = r.stopCount then
      let split := ((r.log[r.gate]?).map leValue) != some r.stopCount
      let p := p.modSpace s fun sp =>
        { sp with replay := some { r with stopped := true, split, lidxBase := h.deferred.length, outBase := h.outs.length,
                                              countBase := h.count } }
      let p := if split then p else p.replayStep s
      p.newStop 0x31 (p.replayTool s) s 0 (p.stopSet s 3 ⟨x.core, p.launchOf x.core⟩) []
    else p.replayStep s

/-- What a commit in flight still has to write to the MCs: the lines of LINEWB, and the oldest bytes of a written line with a
third attribution (R245, R395). A full MC refuses them until a record frees (R397), and a die in reset takes none (R436). -/
def Pkg.retryBackBut (p : Pkg) (x : CtxRef) (away : Pkg → Nat → Bool) : Pkg :=
  let c := p.ctx x
  let p := c.owed.foldl (fun p key => if away p key then p else (p.recall key).writeBack key 0x21) p
  ((c.inflight.map Prod.fst).getD []).foldl (fun p key => if away p key then p else p.thirdAttr key) p

def Pkg.retryBack (p : Pkg) (x : CtxRef) : Pkg := p.retryBackBut x Pkg.down

/-- Whether a commit in flight may complete. -/
def Pkg.backDone (p : Pkg) (x : CtxRef) : Bool :=
  let c := p.ctx x
  let attrs (key : Nat) : Nat := ((Tab.find? p.l2 key).map fun l => l.attrs.length).getD 0
  c.owed.all (fun key => ((Tab.find? p.l2 key).map fun l => l.dirty == 0).getD true) &&
    ((c.inflight.map Prod.fst).getD []).all fun key => decide (attrs key < 3)

/-- A context's chunk leaves it at its commit, with the reservation held for it. Its next chunk goes on, and keeps its own state, its
count of squashes among it (R65). -/
def Ctx.committed (c : Ctx) (h : Chunk) (lvl : Level) : Ctx :=
  { c with chunkseq := c.chunkseq + 1, req := none, inflight := some (h.wlines, lvl), owed := h.wbs,
           counted := h.adv.set 0 cCommitted 1, sqRow := c.sqNext, sqNext := 0,
           excl := if c.exclNo = c.chunkseq.toNat then none else c.excl }

/-- Everything a granted commit does (steps 1 to 4 of R61). -/
def Pkg.commit (p : Pkg) (x : CtxRef) : Pkg :=
  let c := p.ctx x
  match c.req with
  | none => p
  | some h =>
    let s := p.spaceOf x.core
    let lvl := p.levelOf x.core h.rlines h.wlines
    let seq := c.chunkseq.toNat
    let mine (o : ChunkId) : Bool := o == ⟨x.slot, seq⟩
    let p := p.broadcast lvl x.core h.wlines (some x)
    let p := h.undo.foldl (Pkg.rememberGranule s x.core) p
    let p := h.ulines.foldl (fun p e => p.publish x e) p
    let p := h.tabOps.foldl (Pkg.tabCommit s) p
    let p := p.modCore x.core fun k => h.capOps.foldl capCommit k
    let p := p.modCore x.core fun k =>
      { k with tiles := k.tiles.map fun (t : Nat × TileReg) => (t.1, commitTile mine t.2),
                accs := k.accs.map fun (a : Nat × AccReg) => (a.1, commitAcc mine a.2) }
    let p := h.hits.foldl Pkg.hitIfSet p
    let p := p.skid x h.count
    let p := p.logChunk x 1 h c.ch.start.retired
    let p := (p.modCtx x fun c => c.committed h lvl).modCore x.core fun k => k.endChunk x.core mine h.lines
    let p := (p.shed (h.ulines.map Prod.fst)).retryBack x
    let p := h.deferred.zipIdx.foldl (fun p e => p.release x seq e.2 e.1) p
    let p := h.adv.foldl (fun p e => p.advance s e.1 e.2) p
    (p.advance s cCommitted 1).countSquashes x

/-! ### Cut instructions -/

/-- A cut instruction completes: it is one event and one chunk (R56, R442). -/
def Pkg.finishCut (p : Pkg) (x : CtxRef) (f : Flow) : Pkg :=
  let h := (p.ctx x).ch
  let s := p.spaceOf x.core
  let p := p.modCtx x fun c => { c with regs := c.regs.retire f }
  let p := (h.adv.foldl (fun p e => p.advance s e.1 e.2) p).advance s cCommitted 1
  let p := h.hits.foldl Pkg.hitIfSet (p.countSquashes x)
  let p := (p.skid x 1).logChunk x 2 h (p.ctx x).regs.retired
  p.modCtx x fun c =>
    { c with chunkseq := c.chunkseq + 1, ch := { Chunk.new c.regs with began := p.free }, wait := none, held := none,
             inCut := false, load := none, excl := none, exclWant := none, nextWant := none, killed := none, st := .running, sqRow := 0,
             sqNext := 0, panDone := 0, panCode := 0, panLane := 0,
             panCount := 0 }

/-! ### Halt and end (R69, R332, R442) -/

/-- Whether an operation is the remote command that a context's current MXSEND waits for. -/
def Op.sentBy (o : Op) (x : CtxRef) (c : Ctx) : Bool :=
  o.who == x && o.gen == c.gen && o.kind.cls == 1 && o.chunk == c.chunkseq.toNat

/-- An MXSEND under a halt (R70, R324): abandoned before its first command is accepted, else saved past with its token
pending. -/
def Pkg.leaveMx (p : Pkg) (x : CtxRef) : Pkg :=
  match List.find? (fun o => o.sentBy x (p.ctx x)) p.ops with
  | none => p
  | some o =>
    if o.done.isEmpty && o.sides.isEmpty then { p with ops := p.ops.filter fun (a : Op) => a.id != o.id }
    else
      let reg := o.tok.getD 0
      (p.modCtx x fun c => { c with regs := { c.regs with pend := c.regs.pend.put reg (c.tag 0) } }).finishCut x .next

/-- Result of DBGSTEP (R343). -/
def stepWord (reason n : Nat) : Word := BitVec.ofNat 64 (reason <<< 62 + n)

/-- Report a step to its issuer, whose DBGSTEP completes, and halt the target again unless its stop has been released
(R343); at the halt its squashes count (R442). -/
def Pkg.reportStep (p : Pkg) (x : CtxRef) (reason : Nat) : Pkg :=
  let c := p.ctx x
  match c.stepping with
  | none => p
  | some s =>
    let n := ((c.req.getD c.ch).start.retired - s.from_).toNat
    let p := p.modCtx x fun c =>
      { c with stepping := none, wait := none, held := none, st := if c.st = .free then .free else if c.stop.isSome then .halted else .running }
    let p := if (p.ctx x).st = .halted then p.countSquashes x else p
    let i := p.ctx s.issuer
    if i.st = .waiting ∧ (i.wait.map Prod.fst) = some .step then
      (p.modCtx s.issuer fun i => { i with regs := i.regs.setSn s.reg (stepWord reason n) }).finishCut s.issuer .next
    else p

/-- Contexts that a context steps: at most one. -/
def Pkg.steppedBy (p : Pkg) (x : CtxRef) : Option CtxRef :=
  List.find? (fun y => ((p.ctx y).stepping.map Stepping.issuer) == some x) p.allCtxs

/-- A step ends at its target's last committed boundary: the target's uncommitted chunks are squashed. -/
def Pkg.breakStep (p : Pkg) (x : CtxRef) (reason : Nat) : Pkg :=
  if (p.ctx x).stepping.isNone then p else (if (p.ctx x).hasChunk then p.squash x else p).reportStep x reason

/-- A DBGSTEP whose issuer is halted or has waited its time completes with REASON 3, and its target's open chunk is
discarded (R343, Table 12.1). -/
def Pkg.leaveStep (p : Pkg) (x : CtxRef) : Pkg :=
  match p.steppedBy x with
  | none => p
  | some y => p.breakStep y 3

/-- A halted context, whose granted commit is not dropped: where a full MC has kept it from finishing, it stays in flight (R69). -/
def Ctx.halt (c : Ctx) (done : Bool) : Ctx :=
  { c with st := .halted, wait := none, held := none, due := none, inCut := false, load := none,
           inflight := if done then none else c.inflight, owed := if done then [] else c.owed,
           counted := if done then [] else c.counted }

/-- Halt one context: its uncommitted chunks are squashed, exclusive ones included, a granted commit finishes, waits are
abandoned (R69, R70). DESIGN CHOICE, log entry 54. -/
def Pkg.haltCtx (p : Pkg) (x : CtxRef) : Pkg :=
  let c := p.ctx x
  if c.st = .free ∨ c.st = .halted then p
  else
    let p := p.leaveStep x
    let p := if (p.ctx x).hasChunk then p.squash x else p.leaveMx x
    let p := p.reportStep x 3
    let p := p.retryBack x
    (p.modCtx x (·.halt (p.backDone x))).countSquashes x

/-- Slots of a core, all eleven. -/
def coreCtxs (core : Nat) : List CtxRef := (List.range Config.slots).map fun s => ⟨core, s⟩

def Pkg.haltCore (p : Pkg) (core : Nat) : Pkg := (coreCtxs core).foldl Pkg.haltCtx p

/-- A debug stop holds the task, which is then charged for no cycle (R69, R378). -/
def Pkg.stopped (p : Pkg) (r : TaskRef) : Bool := p.stops.any (·.halted.contains r)

/-- Charge a task's core-cycles to its space and its queue's slot (R378, R441). -/
def Pkg.charge (p : Pkg) (core : Nat) : Pkg :=
  match (p.core core).task with
  | none => p
  | some t =>
    if p.stopped ⟨core, t.launched⟩ then p else
    let c := p.pt - t.start
    let p := p.advance t.space cActive c
    let chargeSlot (e : Nat × QSlot) : Nat × QSlot :=
      if e.2.queue = some t.info.queue then (e.1, { e.2 with deficit := max (-(2 ^ 63 : Nat)) (e.2.deficit - c) }) else e
    let p := { p with qslots := p.qslots.map chargeSlot }
    p.modCore core fun k => { k with task := some { t with start := p.pt } }

/-- Discard a context: FREE, messages dropped, generation kept (R228, R332), and a granted commit that is not yet complete (R69). DESIGN CHOICE, log entry 99: the control context's
messages count as dropped, as a helper's do. -/
def Pkg.freeCtx (p : Pkg) (x : CtxRef) : Pkg :=
  let c := p.ctx x
  let p := { p with exclQ := p.exclQ.filter fun e => e.1 != x }
  p.modCore x.core fun k =>
    { k.setCtx x.slot { Ctx.reset with gen := c.gen, inflight := c.inflight, owed := c.owed, counted := c.counted } with dropped := k.dropped + c.inbox.length }

/-- A generation that a bittern record or the front end names together with the slot (R49). DESIGN CHOICE, log entry 81. -/
def Pkg.genNamed (p : Pkg) (gcid : Nat) (g : BitVec 16) : Bool :=
  (p.recs.any fun r => r.attr.gcid == gcid && r.attr.gen == g) || p.queues.any fun q => q.2.names.any fun n => n.1 == gcid && n.2 == g

def nextGenGo (p : Pkg) (gcid : Nat) : Nat → BitVec 16 → BitVec 16
  | 0, g => g
  | n + 1, g => if p.genNamed gcid g then nextGenGo p gcid n (g + 1) else g

/-- The generation of a slot's next life (R49). -/
def Pkg.nextGen (p : Pkg) (gcid : Nat) (g : BitVec 16) : BitVec 16 := nextGenGo p gcid 65535 (g + 1)

/-- Whether a commit that a context of a core was granted is still to be completed. -/
def Core.landing (k : Core) : Bool := k.ctxs.any fun e => e.2.inflight.isSome

/-- A slot has not become live within 16 cycles (R49), and no commit of its core's earlier lives is in flight. -/
def Pkg.slotReady (p : Pkg) (x : CtxRef) : Bool :=
  (p.ctx x).inflight.isNone && match Tab.find? (p.core x.core).liveAt x.slot with
  | none => true
  | some t => decide (16 ≤ p.pt - t)

/-- Whether a bittern record of a context's life may exist or come to exist. -/
def Pkg.nameLives (p : Pkg) (gcid : Nat) (g : BitVec 16) : Bool :=
  let x := ctxOfGcid gcid
  ((p.ctx x).st != .free && (p.ctx x).gen == g) ||
    (p.saved.any fun e => e.1 == x.core && (e.2.ctx x.slot).st != .free && (e.2.ctx x.slot).gen == g) ||
    (p.recs.any fun r => r.attr.gcid == gcid && r.attr.gen == g) ||
    (p.ops.any fun o => o.who == x && o.gen == g) ||
    p.l2.any fun l => l.2.attrs.any fun a => a.gcid == gcid && a.gen == g

/-- The front end keeps the context names of a queue's tasks for as long as records may name them (R382). -/
def Pkg.keepName (p : Pkg) (x : CtxRef) (g : BitVec 16) : Pkg :=
  let own := (p.core x.core).task.map fun t => t.info.queue
  let f (e : Nat × Queue) : Nat × Queue :=
    let l := e.2.names.filter fun n => n.1 != x.gcid || p.nameLives n.1 n.2
    (e.1, { e.2 with names := if some e.1 = own then l ++ [(x.gcid, g)] else l })
  { p with queues := p.queues.map f }

/-- A slot becomes live with these registers (R44 step 7, R45, R226). -/
def Pkg.goLive (p : Pkg) (x : CtxRef) (r : Regs) : Pkg :=
  let g := p.nextGen x.gcid ((p.core x.core).lastGen.get 0 x.slot)
  let whole (r : Replay) : Replay := { r with split := r.split && fld r.stopCtx.toNat 28 16 != x.gcid }
  let p := p.modSpace (p.spaceOf x.core) fun sp => { sp with replay := sp.replay.map whole }
  (p.keepName x g).modCore x.core fun k =>
    { k.setCtx x.slot { Ctx.reset with st := .running, gen := g, regs := r, ch := { Chunk.new r with began := p.free } } with
      lastGen := k.lastGen.set 0 x.slot g, liveAt := k.liveAt.put x.slot p.pt }

/-- End the task of one core by a cause. -/
def Pkg.endOne (p : Pkg) (cause gcid : Nat) (pc : Word) (silent : Bool) (core : Nat) : Pkg :=
  match (p.core core).task with
  | none => p
  | some t =>
    if t.ended.isSome then p
    else
      let p := (coreCtxs core).foldl (Pkg.breakStep · · 2) p
      let p := if (p.core core).preempt then p.haltCore core else (p.haltCore core).charge core
      let p := (coreCtxs core).foldl Pkg.freeCtx p
      p.modCore core fun k =>
        { k with task := k.task.map fun t => { t with ended := some (cause, gcid, pc), silent }, vq := [], mq := [], preempt := false }

/-- A saved task ends with its gang. -/
def endSaved (g cause gcid : Nat) (pc : Word) (silent : Bool) (e : Nat × Core) : Nat × Core :=
  match e.2.task with
  | none => e
  | some t =>
    if t.info.gang = some g ∧ t.ended.isNone then
      (e.1, { e.2 with task := some { t with ended := some (cause, gcid, pc), silent },
                       ctxs := e.2.ctxs.map fun (x : Nat × Ctx) => (x.1, { Ctx.reset with gen := x.2.gen }) })
    else e

/-- An inbox record ends with its gang before it has been taken. DEDUCED, log entry 79. -/
def doomInbox (g cause gcid : Nat) (pc : Word) (e : Nat × Core) : Nat × Core :=
  (e.1, { e.2 with inbox := e.2.inbox.map fun (i : TaskInfo) =>
            if i.gang = some g ∧ i.doomed.isNone then { i with doomed := some (cause, gcid, pc) } else i })

/-- A task has ended by a cause, and awaits its report. -/
def Pkg.hasEnded (p : Pkg) (r : TaskRef) : Bool :=
  (p.cores ++ p.saved).any fun e => e.1 == r.core && match e.2.task with
    | some t => t.launched == r.step && t.ended.isSome
    | none => false

/-- end_task of R332: the task and every other member of its gang; the gang's barrier groups are released. -/
def Pkg.endTask (p : Pkg) (core cause gcid : Nat) (pc : Word) (silent : Bool := false) : Pkg :=
  let g := p.gangOf core
  let p := (p.gangCores core).foldl (Pkg.endOne · cause gcid pc silent) p
  let p := match g with
    | some g => { p with saved := p.saved.map (endSaved g cause gcid pc silent), cores := p.cores.map (doomInbox g cause gcid pc) }
    | none => p
  { p with bars := p.bars.filter fun b => some b.2.gang != g,
           stops := p.stops.filterMap (Stop.without p.hasEnded) }

end Sys2Proof.Machine
end

