-- ==== Sys2Proof/Machine/Ops.lean ====
section
/-! DEFINITION. What every instruction shares: the end of a step, instruction fetch (R174, R178), taking a precise
fault and returning from a handler (R74, R332, R334), issue with its checks (R55, R56, R186, R187, R204, R462),
retirement with back edges (R221), and what an instruction that does not complete leaves behind (R394, R433). -/

namespace Sys2Proof.Machine

/-! ### The end of a step -/

/-- The cells of memory outside `[a, a + n)`. -/
def zeroCells (a n : Nat) (m : List Host.Cell) : List Host.Cell := m.filter fun c => !(a ≤ c.1 && c.1 < a + n)

/-- Apply the physical writes of a step, newest first, keeping the canonical form (R428: unlisted bytes are zero). -/
def applyLog : List PhysOp → List Host.Cell → List Host.Cell
  | [], m => m
  | .byte a b :: t, m => Tab.set 0 (applyLog t m) a b
  | .zero a n :: t, m => zeroCells a n (applyLog t m)
  | .clear :: _, _ => []

/-- The step's physical writes reach memory; the counter that indexes free values moves on. -/
def Pkg.seal (p : Pkg) : Pkg := { p with mem := applyLog p.log p.mem, log := [], free := p.free + 1, req := none }

/-- A step that does `f` to the package. No step changes fuses or provisioning. -/
def State.run (s : State) (f : Pkg → Pkg) : Host.Outcome State Fault Refusal := .next { s with pkg := (f s.pkg).seal }

/-! ### Stepping and faults -/

/-- Waits of Table 2.3: these end a step (R413). DEDUCED, log entry 36. -/
def WaitKind.waiting (k : WaitKind) : Bool :=
  match k with
  | .join | .barwait | .waitz | .waitne | .msgrecv | .fenceE | .fenceX | .scoreboard | .engine | .exit | .mfence
  | .bararr => true
  | .exclusive | .ops | .step | .slot => false

/-- Waits that time out, whose count a delay of their recheck does not begin anew (R264, R436). -/
def WaitKind.timed (k : WaitKind) : Bool :=
  match k with
  | .join | .bararr | .barwait | .waitz | .waitne | .msgrecv | .fenceE | .fenceX | .step => true
  | .scoreboard | .engine | .exit | .mfence | .exclusive | .ops | .slot => false

/-- A step of a stepped context has been ended by a reason; STEP_END reports it (R343, R413). -/
def Ctx.endStepBy (c : Ctx) (reason : Nat) : Ctx :=
  { c with stepping := c.stepping.map fun (s : Stepping) => if s.reason.isSome then s else { s with reason := some reason } }

/-- Whether a stepped context may go on. -/
def Ctx.stepOpen (c : Ctx) : Bool :=
  match c.stepping with
  | none => true
  | some s => s.reason.isNone && decide ((c.regs.retired - s.from_).toNat < s.left)

/-- Take a precise fault, or a TRAP, between two chunks (R332): into the handler, or the task ends. -/
def Pkg.takeFault (p : Pkg) (x : CtxRef) (cause : Nat) (addr : Word) (info : Nat) : Pkg :=
  let c := p.ctx x
  let p := p.modCtx x (Ctx.endStepBy · 2)
  if c.regs.trapcause.getLsbD 31 || c.regs.trapvec = 0 then
    (p.breakStep x 2).endTask x.core cause x.gcid c.regs.pc
  else
    let r := { c.regs with trappc := c.regs.pc, trapcause := BitVec.ofNat 64 (2 ^ 31 + cause), trapaddr := addr,
                           trapinfo := BitVec.ofNat 64 info, pc := c.regs.trapvec, part := 0 }
    p.modCtx x fun c =>
      { c with regs := r, ch := { Chunk.new r with began := p.free }, due := none, killed := none, wait := none, held := none,
               inCut := false, load := none, panDone := 0, panCode := 0, panLane := 0, panCount := 0,
               st := if c.st = .waiting ∨ c.st = .held then .running else c.st }

/-- Return from a handler (R334): ACTIVE clears and the address is TRAPPC, unchecked. -/
def Regs.trapReturn (r : Regs) : Regs := { r with trapcause := r.trapcause &&& ~~~(1#64 <<< 31), pc := r.trappc }

/-- The running chunk asks the sluice for its commit, and the next one begins (R61); one that has been squashed four times in
succession waits for its reservation (R65). -/
def Ctx.ask (c : Ctx) (step pt : Nat) : Ctx :=
  { c with req := some c.ch, ch := { Chunk.new c.regs with began := step }, phase := .open, exclWant := c.nextWant, nextWant := none,
           wait := if c.nextWant.isSome then some (.exclusive, pt) else c.wait,
           st := if c.nextWant.isSome then .waiting else c.st }

def Pkg.ask (p : Pkg) (x : CtxRef) : Pkg :=
  let q := match (p.ctx x).nextWant with
    | some l => p.exclQ ++ [(x, l)]
    | none => p.exclQ
  { p.modCtx x (·.ask p.free p.pt) with exclQ := q }

/-- Cut the running chunk (R55, R61): it asks the sluice for its commit and the next one begins; while the chunk before it has
not yet committed, or is in flight, it waits. -/
def Pkg.requestCut (p : Pkg) (x : CtxRef) : Pkg :=
  let c := p.ctx x
  if c.ch.count = 0 then p
  else if c.req.isNone && c.inflight.isNone then p.ask x
  else p.modCtx x fun c => { c with phase := .requested }

/-- Hold the context at an MC, with one notice for each line (R394, R413). -/
def Pkg.hold (p : Pkg) (x : CtxRef) (h : HeldAt) : Pkg :=
  let c := p.ctx x
  if c.stepping.isSome then
    (p.requestCut x).modCtx x (Ctx.endStepBy · 1)
  else
    let p := p.missHeld h
    let p := if (c.held.map HeldAt.key) = some h.key then p
      else (p.countHeld h.line).heldNotice (p.spaceOf x.core) x.gcid c.gen c.seq h
    p.modCtx x fun c => { c with st := .held, held := some h }

/-- A precise fault of the instruction at PC: the prefix commits first, and the fault waits for it (R74).
DEDUCED, log entry 31. -/
def Pkg.fault (p : Pkg) (x : CtxRef) (cause : Nat) (addr : Word) (info : Nat) : Pkg :=
  let c := p.ctx x
  if c.idle then p.takeFault x cause addr info
  else (p.modCtx x fun c => { c with due := some (cause, addr, info) }).requestCut x

/-- What an instruction that does not complete leaves of the package in which it was issued. -/
def Pkg.settle (p : Pkg) (x : CtxRef) (s : Stop_) : Pkg :=
  match s with
  | .fault cause addr info => p.fault x cause (BitVec.ofNat 64 addr) info
  | .held h =>
    match (p.ctx x).doomed h.line with
    | some va => p.fault x 9 va 0
    | none => p.hold x h
  | .cut => p.requestCut x
  | .squash => p.squashFrom x false true
  | .wait k =>
    let c := p.ctx x
    if c.stepping.isSome && k.waiting then (p.requestCut x).modCtx x (Ctx.endStepBy · 1)
    else
      p.modCtx x fun c =>
        { c with st := .waiting, held := none,
                 wait := match c.wait with
                   | some (j, t) => if j = k ∨ (k = .ops ∧ j.timed) then some (j, t) else some (k, p.pt)
                   | none => some (k, p.pt) }
  | .poison key =>
    let c := p.ctx x
    let p := p.ras (keyVa key) (p.spaceOf x.core) x.gcid (p.homeOf key / 64) (if inLocal (keyVa key) then 4 else 3) 3 1
    let p := if c.hasChunk then p.squash x else p
    p.endTask x.core 0x33 x.gcid (p.ctx x).regs.pc

/-! ### Instruction fetch (R171 to R178) -/

def slotWord (l : Line) (k : Nat) : BitVec 96 := l.extractLsb' (96 * k) 96
def lineWord (l : Line) : Nat := fld l.toNat 511 480

def parity (x : Nat) (n : Nat) : Bool := popCount x n % 2 == 1

/-- R173. -/
def parityOk (l : Line) : Bool :=
  ((List.range 8).all fun j => (lineWord l).testBit (16 + j) == parity (fld l.toNat (60 * j + 59) (60 * j)) 60) &&
    ((lineWord l).testBit 24 == parity (lineWord l) 16)

def zeroBitsOk (l : Line) : Bool := fld (lineWord l) 15 9 == 0 && fld (lineWord l) 31 25 == 0

def targetBit (l : Line) (k : Nat) : Bool := (lineWord l).testBit k

/-- Why a fetch line cannot be used: a fault of R174 with its cause and address. -/
def lineFault (l : Line) : Bool := !zeroBitsOk l

/-- Read a line whole from its home (R174). -/
def M.fetchHome (key : Nat) : M Line := do
  M.up key
  M.home fun p => p.serve key (BitVec.allOnes 64)
  let p ← get
  if p.linePoison key then throw (.poison key)
  return p.lineData key

/-- The L1 instruction cache takes a line; it has room for 1,024, and the first listed gives way (R19). DESIGN CHOICE, log
entry 33. -/
def Core.cacheInstr (k : Core) (key : Nat) (l : Line) : Core :=
  { k with icache := (if (Tab.find? k.icache key).isSome || k.icache.length < 1024 then k.icache else k.icache.tail).put key l }

/-- A fetch of a line that a KILL has doomed faults, wherever the line now is (R219, R394). -/
def M.fetchable (x : CtxRef) (key : Nat) : M Unit := do
  match (← M.ctx x).doomed key with
  | some va => throw (.fault 9 va.toNat 0)
  | none => pure ()

/-- The running chunk notes a line of space 0 that it fetches from (R88). -/
def Pkg.noteFetch (p : Pkg) (x : CtxRef) (key : Nat) : Pkg :=
  if keySpace key = 0 then p.modCtx x fun c => { c with ch := { c.ch with flines := insertNat key c.ch.flines } } else p

/-- The checked fetch line of an instruction address, through the L1 instruction cache (R174, R178). -/
def M.fetchLine (x : CtxRef) (pc : Word) : M Line := do
  let p ← get
  let va := lineOfPc pc
  match p.route (p.spaceOf x.core) va rEXEC with
  | none => throw (.fault 2 va 0)
  | some r =>
    M.fetchable x r.key
    modify (·.noteFetch x r.key)
    let keep (l : Line) : M Unit := modify fun p => p.modCore x.core (·.cacheInstr r.key l)
    let l ← match Tab.find? (p.core x.core).icache r.key with
      | some l => pure l
      | none => M.fetchHome r.key
    if !zeroBitsOk l then throw (.fault 4 va 0)
    if parityOk l then
      keep l
      return l
    else
      let l ← M.fetchHome r.key
      if !parityOk l then throw (.fault 4 va 0)
      if !zeroBitsOk l then throw (.fault 4 va 0)
      keep l
      modify fun p => p.ras va (p.spaceOf x.core) x.gcid (x.core / 64) 4 1 1
      return l

/-- Fetch and decode the instruction at PC (steps 1 and 2 of Table 7.11). -/
def M.fetch (x : CtxRef) : M Instr := do
  let c ← M.ctx x
  let l ← M.fetchLine x c.regs.pc
  match decode (slotOfPc c.regs.pc) (slotWord l (slotOfPc c.regs.pc)) with
  | .ok i => return i
  | .error _ => throw (.fault 3 0 0)

/-- A checked transfer (R176, R219): none where the target line's own check fails, which the next fetch raises after
the transfer has retired; the target otherwise. `indirect` is a register target. -/
def M.transfer (x : CtxRef) (t : Word) (indirect : Bool) : M Word := do
  if indirect && !addressForm t then throw (.fault 5 t.toNat 0)
  let p ← get
  match (M.fetchLine x t).run p with
  | .ok (l, q) =>
    set q
    if targetBit l (slotOfPc t) then return t else throw (.fault 5 t.toNat 0)
  | .error (.fault _ _ _) => return t
  | .error (.held h) =>
    match (p.ctx x).doomed h.line with
    | some _ => return t
    | none => throw (.held { h with va := t })
  | .error e => throw e

/-! ### Issue -/

/-- An instruction as issue sees it. -/
structure Ins where
  guard : Guard
  /-- a cut instruction (R56) -/
  cut : Bool := false
  /-- hands over work whose events precede its own completion (R324) -/
  early : Bool := false
  /-- scalar registers read, and scalar destinations and tokens -/
  srcs : List Nat := []
  dsts : List Nat := []
  /-- vector registers read and written (R272) -/
  vsrcs : List Nat := []
  vdsts : List Nat := []
  /-- the engine whose command queue the instruction goes through (R22), and the B slot it reads there (R358) -/
  engine : Option Engine := none
  bslot : Option Nat := none
  /-- the privilege and debug-right check (R325) -/
  priv : Pkg → Bool := fun _ => true
  /-- own checks and effect -/
  body : M Flow
  /-- what follows once the instruction has retired -/
  after : Pkg → Pkg := id
  /-- what an instruction that does not complete leaves beside what every such one leaves -/
  stopped : Stop_ → Pkg → Pkg := fun _ p => p

/-- Vector registers allotted to each context of the resident task (R20). -/
def Pkg.allotment (p : Pkg) (core : Nat) : Nat :=
  match (p.core core).task with
  | some t => 8 * (fld t.info.rcd.toNat 263 262 + 1)
  | none => 0

/-- Whether a queued engine instruction of the context still has to write a register read here (R274, R299). -/
def Core.owes (k : Core) (slot : Nat) (srcs vsrcs : List Nat) : Bool :=
  (k.vq ++ k.mq).any fun q =>
    q.owner.slot == slot && (q.sdst.any (srcs.contains ·) || q.vdst.any (vsrcs.contains ·))

/-- Whether a register waits for a token of the context's own open chunk. -/
def Ctx.pendsHere (c : Ctx) (r : Nat) : Bool :=
  match Tab.find? c.regs.pend r with
  | some t => t / 64 == c.seq
  | none => false

/-- A source register whose token is pending: cut if this chunk made it so, else the scoreboard (R55, R204). -/
def M.sources (x : CtxRef) (srcs : List Nat) : M Unit := do
  let c ← M.ctx x
  if srcs.any c.pendsHere then throw .cut
  if srcs.any fun r => (Tab.find? c.regs.pend r).isSome then throw (.wait .scoreboard)

/-- Commands that an engine has not accepted: its oldest it takes at once, a later one when its unit is free for it, which is a choice
of the agenda. DESIGN CHOICE, log entry 100. -/
def waitingCmds (l : List QEntry) : Nat := (l.tail.filter fun q => !q.taken).length

def Core.commands (k : Core) (e : Engine) : Nat :=
  match e with
  | .vector => waitingCmds k.vq
  | .matrix => waitingCmds k.mq

/-- The oldest command that waits is taken. -/
def takeCmd : List QEntry → List QEntry
  | [] => []
  | q :: t => if q.taken then q :: takeCmd t else { q with taken := true } :: t

/-- An engine takes its next command (R22, R353). -/
def Core.accept (k : Core) (matrix : Bool) : Core :=
  if matrix then { k with mq := k.mq.take 1 ++ takeCmd k.mq.tail } else { k with vq := k.vq.take 1 ++ takeCmd k.vq.tail }

/-- Whether an MMA that uses a B slot is in progress: the matrix engine has taken it (R358). -/
def Core.slotInUse (k : Core) (n : Nat) : Bool := (k.mq.take 1 ++ k.mq.tail.filter QEntry.taken).any fun q => q.bslot == some n

/-- The checks that come before an instruction's own (R204, R272, R325, R462), and the engine's queue, which is full with two
commands that the engine has not accepted (R22). DEDUCED, log entry 35. -/
def M.checks (x : CtxRef) (i : Ins) : M Unit := do
  let p ← get
  if (i.vsrcs ++ i.vdsts).any fun v => decide (p.allotment x.core ≤ v) then throw (.fault 8 0 0x26)
  M.sources x i.srcs
  if (p.core x.core).owes x.slot i.srcs i.vsrcs then throw (.wait .engine)
  if !i.priv p then throw (.fault 8 0 0x29)
  if i.dsts.any fun r => (Tab.find? (p.ctx x).regs.pend r).isSome then throw (.fault 7 0 0)
  match i.engine with
  | none => pure ()
  | some e => if (p.core x.core).commands e ≥ 2 then throw (.wait .engine)

/-- Queue an engine instruction (R22, R274). -/
def M.enqueue (x : CtxRef) (i : Ins) : M Unit :=
  let entry (p : Pkg) (matrix : Bool) : QEntry := { owner := (p.ctx x).chunkId x.slot, sdst := i.dsts, vdst := i.vdsts, matrix, bslot := i.bslot, taken := false }
  match i.engine with
  | none => pure ()
  | some .vector => modify fun p => p.modCore x.core fun k => { k with vq := k.vq ++ [entry p false] }
  | some .matrix => modify fun p => p.modCore x.core fun k => { k with mq := k.mq ++ [entry p true] }

def Ins.run (i : Ins) (x : CtxRef) : M Flow := do
  M.checks x i
  let f ← i.body
  M.enqueue x i
  return f

/-- Whether a cut falls after the instruction just retired: at CHUNKLEN, after a part of a split store, after an instruction
that passes the signature threshold by itself, at a step's or a replay's count (R55, R100, R101, R413, R421). -/
def Pkg.cutAfter (p : Pkg) (x : CtxRef) (parted : Bool) : Bool :=
  let c := p.ctx x
  decide (c.regs.chunklen.toNat ≤ c.ch.count) || parted || c.regs.part != 0 || !c.stepOpen ||
    overThreshold c.ch.rlines || overThreshold c.ch.wlines || p.replayEnd (p.spaceOf x.core) x.gcid c.seq == some c.regs.retired

/-- An instruction of a chunk retires. -/
def Pkg.finishIn (p : Pkg) (x : CtxRef) (f : Flow) : Pkg :=
  let parted := (p.ctx x).regs.part != 0
  let p := p.modCtx x fun c =>
    { c with regs := c.regs.retire f, ch := { c.ch with count := c.ch.count + 1 }, wait := none, held := none, st := .running }
  if p.cutAfter x parted then p.requestCut x else p

def Pkg.finish (p : Pkg) (x : CtxRef) (i : Ins) (f : Flow) : Pkg := if i.cut then p.finishCut x f else p.finishIn x f

/-- Whether the context may issue: not while its running chunk wants a reservation (R65). -/
def Ctx.mayIssue (c : Ctx) : Bool :=
  (c.st == .running || c.st == .waiting || c.st == .held) && c.phase == .open && c.due.isNone && c.exclWant.isNone && c.stepOpen

/-- Whether chunk `n` of a context, which is `h`, is exclusive and needs a higher level than it holds (R65). -/
def Pkg.escalates (p : Pkg) (x : CtxRef) (n : Nat) (h : Chunk) : Bool :=
  match (p.ctx x).excl with
  | some e => (p.ctx x).exclNo == n && e.above (p.levelOf x.core h.rlines h.wlines)
  | none => false

/-- The running chunk does. -/
def Pkg.overreaches (p : Pkg) (x : CtxRef) : Bool := p.escalates x (p.ctx x).seq (p.ctx x).ch

/-- A cut instruction is in progress (R70); a reservation that its context holds or wants is for a chunk, and lapses. -/
def Ctx.enterCut (c : Ctx) : Ctx := { c with inCut := true, excl := none, exclWant := none, nextWant := none }

/-- Issue an instruction for the current context (R52 to R56, Table 7.11 from step 3). -/
def Pkg.issue (p : Pkg) (i : Ins) : Pkg :=
  let x := p.cur
  let c := p.ctx x
  if !c.mayIssue then p
  else if i.cut && c.ch.count != 0 then p.requestCut x
  else if i.cut && !c.idle then p
  else if i.cut && !i.early && !p.replayAllows (p.spaceOf x.core) 2 x.gcid c.chunkseq.toNat 0 then p
  else if !guardHolds i.guard c.regs then p.finish x i .next
  else
    match (i.run x).run p with
    | .error e => (if i.cut then (i.stopped e p).modCtx x Ctx.enterCut else i.stopped e p).settle x e
    | .ok (f, q) =>
      if !i.cut && q.overreaches x then q.squashFrom x false true
      else if c.ch.count != 0 && !i.cut && (overThreshold (q.ctx x).ch.rlines || overThreshold (q.ctx x).ch.wlines) then p.requestCut x
      else i.after (q.finish x i f)

/-- Issue as a step. -/
def State.issue (s : State) (i : Ins) : Host.Outcome State Fault Refusal := s.run (·.issue i)

/-- An effect on the issuing context's registers alone. -/
def M.regs (f : Regs → Regs) : M Flow := do
  modify fun p => p.modCtx p.cur fun c => { c with regs := f c.regs }
  return .next

/-- An instruction inside a chunk whose only effect is on its context's registers. -/
def Ins.regOp (g : Guard) (srcs dsts : List Nat) (f : Regs → Regs) : Ins :=
  { guard := g, srcs, dsts, body := M.regs f }

/-! ### Accessors for the issuing context inside a meaning -/

def M.me : M CtxRef := do return (← get).cur
def M.r : M Regs := do
  let p ← get
  return (p.ctx p.cur).regs
def M.setRegs (f : Regs → Regs) : M Unit := modify fun p => p.modCtx p.cur fun c => { c with regs := f c.regs }
def M.setS (d : SReg) (v : Word) : M Unit := M.setRegs (·.setS d v)
def M.space : M Nat := do
  let p ← get
  return p.spaceOf p.cur.core

/-- A time-dependent result: logged, and in replay taken from the log (R420). -/
def M.outcome (out : Nat) (v : Word) : M Word := do
  let p ← get
  let x := p.cur
  let w := match p.replayOutcome x with
    | some (o, w) => if o = out then w else v
    | none => v
  M.modChunk x fun h => { h with outs := h.outs ++ [{ out, value := w, place := h.count % 256 }] }
  return w

/-- The instruction at a context's PC, as its instruction cache holds it: what a waiting context waits in. -/
def Pkg.instrAt (p : Pkg) (x : CtxRef) : Option Instr :=
  let c := p.ctx x
  match p.route? (p.spaceOf x.core) (lineOfPc c.regs.pc) with
  | none => none
  | some r =>
    match Tab.find? (p.core x.core).icache r.key with
    | none => none
    | some l => (decode (slotOfPc c.regs.pc) (slotWord l (slotOfPc c.regs.pc))).toOption

/-- A wait of a kind has lasted `limit` cycles. -/
def Pkg.expired (p : Pkg) (x : CtxRef) (k : WaitKind) (limit : Nat) : Bool :=
  let c := p.ctx x
  c.st == .waiting && c.mayIssue && (p.replayOf (p.spaceOf x.core)).isNone &&
    match c.wait with
    | some (j, t) => j == k && decide (limit ≤ p.pt - t)
    | none => false

/-- A waiting instruction times out: its result is written and it retires (R420). -/
def Pkg.timeOut (p : Pkg) (x : CtxRef) (cut : Bool) (f : Word → Regs → Regs) (v : Word) : Pkg :=
  let p := { p with cur := x }
  let body : M Flow := do
    let w ← M.outcome 2 v
    M.setRegs (f w)
    return .next
  match body.run p with
  | .ok (fl, q) => if cut then q.finishCut x fl else q.finishIn x fl
  | .error _ => p

/-- An instruction that may time out: where the replayed log says that it did, with its value `out`, that is its outcome; else it
completes where it can, and waits where it cannot (R420). DEDUCED, log entry 38. -/
def M.orWait (k : WaitKind) (out : Word) (ready : Option (M Flow)) (put : Word → M Flow) : M Flow := do
  let p ← get
  if p.replayOutcome p.cur = some (2, out) then
    let w ← M.outcome 2 out
    put w
  else
    match ready with
    | some m => m
    | none => throw (.wait k)

/-- Wake a waiting context: it issues its instruction again. -/
def Ctx.wake (c : Ctx) : Ctx := if c.st = .waiting ∨ c.st = .held then { c with st := .running } else c

end Sys2Proof.Machine
end

