-- ==== Sys2Proof/Machine/Control.lean ====
section
/-! DEFINITION. Transfers, hardware loops, helpers, the explicit cut and messages: R218 to R232. -/

namespace Sys2Proof.Machine

/-! ### Branches and calls (R218, R219) -/

/-- A checked transfer, with the link written once it is certain to retire. -/
def M.branch (t : Regs → Word) (indirect : Bool) (link : Option SReg) : M Flow := do
  let x ← M.me
  let r ← M.r
  let dest ← M.transfer x (t r) indirect
  match link with
  | some d => M.setS d (seqPc r.pc)
  | none => pure ()
  return .jump dest

def execBr (g : Guard) (off : BitVec 45) (slot : BitVec 3) (s : State) : Host.Outcome State Fault Refusal :=
  s.issue { guard := g, body := M.branch (fun r => targetC r.pc off slot) false none }

def execBri (g : Guard) (a : SReg) (s : State) : Host.Outcome State Fault Refusal :=
  s.issue { guard := g, srcs := [a.toNat], body := M.branch (·.sr a) true none }

def execCall (g : Guard) (d : SReg) (off : BitVec 45) (slot : BitVec 3) (s : State) : Host.Outcome State Fault Refusal :=
  s.issue { guard := g, dsts := [d.toNat], body := M.branch (fun r => targetC r.pc off slot) false (some d) }

def execCalli (g : Guard) (d a : SReg) (s : State) : Host.Outcome State Fault Refusal :=
  s.issue { guard := g, srcs := [a.toNat], dsts := [d.toNat], body := M.branch (·.sr a) true (some d) }

/-! ### Hardware loops (R220 to R223) -/

/-- Set a level; a count of zero skips the body (R220). -/
def M.loop (lvl : BitVec 2) (off : BitVec 24) (slot : BitVec 3) (count : Regs → Word) : M Flow := do
  let r ← M.r
  let e := targetL r.pc off slot
  M.setRegs (·.setLoop lvl.toNat (seqPc r.pc) e (count r))
  return if count r = 0 then .skip (seqPc e) else .next

def execLoop (g : Guard) (lvl : BitVec 2) (off : BitVec 24) (slot : BitVec 3) (a : SReg) (s : State) :
    Host.Outcome State Fault Refusal :=
  s.issue { guard := g, srcs := [a.toNat], body := M.loop lvl off slot (·.sr a) }

def execLoopi (g : Guard) (lvl : BitVec 2) (off : BitVec 24) (slot : BitVec 3) (count : BitVec 20) (s : State) :
    Host.Outcome State Fault Refusal :=
  s.issue { guard := g, body := M.loop lvl off slot fun _ => count.setWidth 64 }

/-- R222. -/
def execLbrk (g : Guard) (lvl : BitVec 2) (s : State) : Host.Outcome State Fault Refusal :=
  s.issue
    { guard := g,
      body := do
        let r ← M.r
        if r.lcOf lvl.toNat = 0 then return .next
        M.setRegs (·.setLc lvl.toNat 0)
        return .jump (seqPc (r.leOf lvl.toNat)) }

/-- R223. -/
def execLsave (g : Guard) (d : SReg) (lvl : BitVec 2) (s : State) : Host.Outcome State Fault Refusal :=
  s.issue (.regOp g [] (regRange d.toNat 3) fun r =>
    ((r.setSn d.toNat (r.lbOf lvl.toNat)).setSn (d.toNat + 1) (r.leOf lvl.toNat)).setSn (d.toNat + 2) (r.lcOf lvl.toNat))

/-- Where both restored addresses are malformed, TRAPADDR is the body's start, S[A]: Table 12.4 says only 'target'. DESIGN CHOICE, log
entry 117. -/
def execLrest (g : Guard) (lvl : BitVec 2) (a : SReg) (s : State) : Host.Outcome State Fault Refusal :=
  s.issue
    { guard := g, srcs := regRange a.toNat 3,
      body := do
        let r ← M.r
        let b := r.sn a.toNat
        let e := r.sn (a.toNat + 1)
        if !addressForm b then throw (.fault 5 b.toNat 0)
        if !addressForm e then throw (.fault 5 e.toNat 0)
        M.setRegs (·.setLoop lvl.toNat b e (r.sn (a.toNat + 2)))
        return .next }

/-! ### Helpers (R224 to R229) -/

/-- Context name (Table 8.5). -/
def ctxName (x : CtxRef) (gen : BitVec 16) : Word := BitVec.ofNat 64 (x.gcid <<< 16 + gen.toNat)

def nameCtx (n : Word) : CtxRef := ctxOfGcid (fld n.toNat 28 16)
def nameGen (n : Word) : BitVec 16 := n.setWidth 16
def nameZero (n : Word) : Bool := fld n.toNat 63 29 == 0

/-- Live helpers of a core. -/
def Core.helpers (k : Core) : Nat := (k.ctxs.filter fun c => decide (1 ≤ c.1) && c.2.st != .free).length

/-- Helper limit of the resident task (R46). -/
def Pkg.helperLimit (p : Pkg) (core : Nat) : Nat :=
  match (p.core core).task with
  | some t => fld t.info.rcd.toNat 267 264
  | none => 0

def Core.freeSlot (k : Core) : Option Nat := List.find? (fun n => (k.ctx (n + 1)).st == .free) (List.range Config.helperSlots)

/-- The registers a helper starts with (R226). -/
def helperRegs (r : Regs) (pc arg : Word) (name : Word) : Regs :=
  { ((Regs.zero.setSn 1 arg).setSn 2 name) with pc := pc, seed := r.seed, ftz := r.ftz, chunklen := r.chunklen, trapvec := r.trapvec }

/-- R225. A target line that fails its check, or whose held fetch a KILL ends, faults at the SPAWN itself, with the line's address.
DESIGN CHOICE, log entry 111. A helper of a stepped context is born HALTED (R413). -/
def execSpawn (g : Guard) (d a : SReg) (off : BitVec 45) (slot : BitVec 3) (s : State) : Host.Outcome State Fault Refusal :=
  s.issue
    { guard := g, cut := true, srcs := [a.toNat], dsts := [d.toNat],
      body := do
        let x ← M.me
        let r ← M.r
        if x.slot ≠ 0 then throw (.fault 8 0 0x27)
        let t := targetC r.pc off slot
        let l ← M.fetchLine x t
        if !targetBit l (slotOfPc t) then throw (.fault 5 t.toNat 0)
        let p ← get
        let k := p.core x.core
        match k.freeSlot with
        | some n =>
          if k.helpers ≥ p.helperLimit x.core then M.setS d (BitVec.allOnes 64)
          else
            let h : CtxRef := ⟨x.core, n + 1⟩
            if !p.slotReady h then throw (.wait .slot)
            let c := p.ctx x
            let p := p.goLive h (helperRegs r t (r.sr a) (ctxName x c.gen))
            set (if c.stepping.isSome then p.modCtx h fun k => { k with st := .halted, stop := c.stop } else p)
            M.setS d (ctxName h (p.ctx h).gen)
        | none => M.setS d (BitVec.allOnes 64)
        return .next }

/-- The slot becomes FREE as EXIT completes; a task whose control context exits goes on to its completion (R228, R47). -/
def Pkg.exitCtx (p : Pkg) (x : CtxRef) : Pkg :=
  let p := (p.modCtx x (Ctx.endStepBy · 2)).reportStep x 2
  let p := p.freeCtx x
  if x.slot = 0 then p.modCore x.core fun k => { k with task := k.task.map fun (t : Task) => { t with exited := true } } else p

/-- DEDUCED, log entry 34. -/
def execExit (g : Guard) (s : State) : Host.Outcome State Fault Refusal :=
  s.issue
    { guard := g, cut := true,
      body := do
        let x ← M.me
        let p ← get
        if x.slot = 0 ∧ (p.core x.core).helpers ≠ 0 then throw (.wait .exit)
        return .next,
      after := fun p => p.exitCtx p.cur }

/-- R227: what JOIN returns at once, or none where it waits. -/
def Pkg.joinCode (p : Pkg) (core : Nat) (n : Word) : Option Word :=
  let h := nameCtx n
  if !nameZero n || h.core != core || h.slot == 0 || decide (h.slot > 10) then some 1
  else if (p.ctx h).st ≠ .free ∧ (p.ctx h).gen = nameGen n then none
  else some 0

def execJoin (g : Guard) (d a : SReg) (s : State) : Host.Outcome State Fault Refusal :=
  s.issue
    { guard := g, srcs := [a.toNat], dsts := [d.toNat],
      body := do
        let x ← M.me
        let r ← M.r
        if x.slot ≠ 0 then throw (.fault 8 0 0x27)
        let put (v : Word) : M Flow := do
          M.setS d v
          return .next
        M.orWait .join 2 (((← get).joinCode x.core (r.sr a)).map put) put }

/-- A JOIN that has waited 2^24 cycles returns 2, unless its helper has exited. -/
def execJoinTimeout (core slot : Nat) (s : State) : Host.Outcome State Fault Refusal :=
  s.run fun p =>
    let x : CtxRef := ⟨core, slot⟩
    match p.expired x .join Config.joinTimeout, p.instrAt x with
    | true, some (.join _ d a) =>
      if (p.joinCode core ((p.ctx x).regs.sr a)).isSome then p else p.timeOut x false (fun w r => r.setS d w) 2
    | _, _ => p

/-- R229. -/
def execCut (g : Guard) (s : State) : Host.Outcome State Fault Refusal :=
  s.issue { guard := g, cut := true, body := return .next }

/-! ### Messages (R72, R73, R230 to R232) -/

def execMsgsend (g : Guard) (d a b : SReg) (s : State) : Host.Outcome State Fault Refusal :=
  s.issue
    { guard := g, srcs := a.toNat :: regRange b.toNat 8, dsts := [d.toNat],
      body := do
        let x ← M.me
        let r ← M.r
        let n := r.sr a
        if !nameZero n || decide ((nameCtx n).slot > 10) then throw (.fault 8 0 0x2B)
        M.defer x (.msg n (BitVec.ofNat 512 (r.gather b.toNat 8))) 0 d
        return .next }

def execMsgrecv (g : Guard) (d a : SReg) (s : State) : Host.Outcome State Fault Refusal :=
  s.issue
    { guard := g, dsts := a.toNat :: regRange d.toNat 8,
      body := do
        let x ← M.me
        let p ← get
        let c := p.ctx x
        let wanted (m : Msg) : Bool := match p.replayOutcome x with
          | some (3, v) => m.sender == v
          | some _ => false
          | none => true
        let take (m : Msg) : M Flow := do
          M.modCtx x fun c => { c with inbox := c.inbox.tail, ch := { c.ch with taken := c.ch.taken ++ [m] } }
          let w ← M.outcome 3 m.sender
          M.setRegs fun r => (r.scatter d.toNat m.payload.toNat 8).setS a w
          return .next
        M.orWait .msgrecv (BitVec.allOnes 64) ((c.inbox.head?.filter wanted).map take) fun w => do
          M.setS a w
          return .next }

/-- A MSGRECV that has waited 2^18 cycles writes all ones, unless a message has arrived. -/
def execMsgrecvTimeout (core slot : Nat) (s : State) : Host.Outcome State Fault Refusal :=
  s.run fun p =>
    let x : CtxRef := ⟨core, slot⟩
    match p.expired x .msgrecv Config.msgTimeout, p.instrAt x with
    | true, some (.msgrecv _ _ a) => if !(p.ctx x).inbox.isEmpty then p else p.timeOut x false (fun w r => r.setS a w) (BitVec.allOnes 64)
    | _, _ => p

end Sys2Proof.Machine
end

