-- ==== Sys2Proof/Machine/Engine.lean ====
section
/-! DEFINITION. Engine commits (R105, R106), the transfers of an operation (R247, R251 to R255), the writes that the
module makes on its own account (R465), its rings (R397), completion records (R375), and the end of an operation. -/

namespace Sys2Proof.Machine

/-- Why an engine access does not take its place now. -/
inductive EngStop where
  /-- the windows do not admit the byte -/
  | refused (va : Nat)
  /-- an exclusive chunk, or a die in reset -/
  | wait
  | held (h : HeldAt)
  deriving DecidableEq, Repr

abbrev Eng (α : Type) := Except EngStop α

/-- What an engine reads of one line. -/
structure Piece where
  bytes : List Byte
  poison : Bool
  side : Word
  deriving DecidableEq, Repr

/-- Committed bytes within one line, at the engine's own place (R98, R105). -/
def Pkg.readPiece (p : Pkg) (s need va n : Nat) : Eng (Piece × Pkg) :=
  match p.route s va need with
  | none => .error (.refused va)
  | some r =>
    if p.down r.key then .error .wait
    else
      match r.place with
      | .lstore c off =>
        let k := p.core c
        .ok (⟨(List.range n).map fun i => k.lsByteFor (off + i) none, k.lsPoison.contains (off / 64), k.lsSide.get 0 (off / 64)⟩, p)
      | .line _ _ =>
        match p.serve r.key (byteMask (va % 64) n) with
        | .error h => .error (.held (if h.key = r.key then { h with va := BitVec.ofNat 64 va } else h))
        | .ok p =>
          let l := p.lineData r.key
          .ok (⟨(List.range n).map fun i => lineByte l (va % 64 + i), p.linePoison r.key,
            ((Tab.find? p.l2 r.key).map L2Line.side).getD 0⟩, p)

/-- Bytes over any lines. -/
def Pkg.readBytes (p : Pkg) (s need : Nat) : Nat → Nat → Nat → Eng (List Byte × Bool × Pkg)
  | 0, _, _ => .ok ([], false, p)
  | fuel + 1, va, n =>
    if n = 0 then .ok ([], false, p)
    else
      let k := min n (64 - va % 64)
      match p.readPiece s need va k with
      | .error e => .error e
      | .ok (x, p) =>
        match p.readBytes s need fuel (va + k) (n - k) with
        | .error e => .error e
        | .ok (t, bad, p) => .ok (x.bytes ++ t, x.poison || bad, p)

def Pkg.readAll (p : Pkg) (s need va n : Nat) : Eng (List Byte × Bool × Pkg) := p.readBytes s need (n / 64 + 2) va n

/-- Write bytes of a local store: granules with an uncommitted write have been cleared by the broadcast (R105). -/
def Pkg.lsWrite (p : Pkg) (c off : Nat) (b : List Byte) (side : Word) : Pkg :=
  p.modCore c fun k =>
    let k := k.setLs off b
    { k with lsSide := k.lsSide.set 0 (off / 64) side,
             lsPoison := if b.length = 64 then k.lsPoison.filter (· != off / 64) else k.lsPoison }

/-- The write of one line at its place: the broadcast of its one-line signature at its level, the squashes, the
bytes (R105, R61, R65). `o` is the core at the origin of the event. -/
def Pkg.writePiece (p : Pkg) (o : Option Nat) (s need va : Nat) (b : List Byte) (attr : Attr) (side : Word := 0) : Eng Pkg :=
  match p.route s va need with
  | none => .error (.refused va)
  | some r =>
    let o := o.getD (p.homeOf r.key)
    let lvl := p.levelOf o [] [r.key]
    if p.down r.key || p.exclusiveHolds lvl o [r.key] none then .error .wait
    else
      match r.place with
      | .lstore c off =>
        let p := p.broadcast lvl o [r.key] none
        .ok ((p.remember r.key (BitVec.allOnes 64) (p.lineNow r)).lsWrite c off b side)
      | .line _ _ =>
        match p.serveWrite r.key with
        | .error h => .error (.held (if h.key = r.key then { h with va := BitVec.ofNat 64 va, mask := byteMask (va % 64) b.length } else h))
        | .ok p =>
          if p.attrRefused r.key (byteMask (va % 64) b.length) then .error .wait
          else
          let p := p.broadcast lvl o [r.key] none
          .ok (p.homeWrite r.key (byteMask (va % 64) b.length) (lineSet 0 (va % 64) b.length (leNat b)) attr none)

def Pkg.writeBytes (p : Pkg) (o : Option Nat) (s need : Nat) (attr : Attr) : Nat → Nat → List Byte → Eng Pkg
  | 0, _, _ => .ok p
  | fuel + 1, va, b =>
    if b.isEmpty then .ok p
    else
      let k := min b.length (64 - va % 64)
      match p.writePiece o s need va (b.take k) attr with
      | .error e => .error e
      | .ok p => p.writeBytes o s need attr fuel (va + k) (b.drop k)

/-! ### The module's own writes (R465) -/

/-- A held access of the module's own, or of an inbound request: its notice is posted once for each line (R394, R466). -/
def Pkg.holdModule (p : Pkg) (s : Nat) (h : HeldAt) : Option Pkg :=
  if p.modHeld.contains h.key then none
  else some { ((p.missHeld h).countHeld h.line).heldNotice s 0x1FFF 0 0 h with modHeld := insertNat h.key p.modHeld }

/-- Holds whose page has been mapped and whose records have been replayed are over. -/
def Pkg.endHolds (p : Pkg) : Pkg :=
  { p with modHeld := p.modHeld.filter fun k => (p.phys? (keySpace k) (keyVa k)).isNone || p.hasRec k }

/-- Every held access whose page a MAP has mapped, or whose records a REPLAY has applied, retries (R392, R394, R398). -/
def Pkg.retryHeld (p : Pkg) : Pkg :=
  let freed (key : Nat) : Bool := (p.phys? (keySpace key) (keyVa key)).isSome && !p.hasRec key
  let wake (c : Ctx) : Ctx := match c.held with
    | some h => if c.st = .held ∧ freed h.key then { c with st := .running, held := none } else c
    | none => c
  let q := p.allCtxs.foldl (fun q x => q.modCtx x wake) p
  Pkg.endHolds { q with ops := q.ops.map fun (o : Op) => { o with held := o.held.filter fun e => !freed e.2 } }

/-- DEDUCED, log entry 68. -/
def Pkg.moduleWrite (p : Pkg) (s va : Nat) (b : List Byte) : Eng Pkg :=
  (p.writeBytes none s (rENG + rWR) (.module_ s) (b.length / 64 + 2) va b).map Pkg.endHolds

def Pkg.moduleRead (p : Pkg) (s va n : Nat) : Eng (List Byte × Bool × Pkg) := p.readAll s (rENG + rRD) va n

/-! ### Rings (R397) -/

/-- Room in a ring: its header's NHEAD against the entries written. The window rights of a ring are ENG and WR, and its owner
need grant no more (R406, R465). DEDUCED, log entry 68. -/
def Pkg.ringFull (p : Pkg) (r : Ring) (cap : Nat) : Eng (Bool × Pkg) :=
  match p.readAll r.space (rENG + rWR) (r.va.toNat + 8) 8 with
  | .ok (b, _, p) => .ok (decide (cap ≤ (r.tail + 2 ^ 64 - leNat b) % 2 ^ 64), p)
  | .error e => .error e

/-- Write one entry, then NTAIL, then the notify write. -/
def Pkg.ringPut (p : Pkg) (r : Ring) (size cap : Nat) (e : List Byte) (notify : Bool) : Eng (Ring × Pkg) :=
  match p.moduleWrite r.space (r.va.toNat + 64 + size * (r.tail % max 1 cap)) e with
  | .error x => .error x
  | .ok p =>
    match p.moduleWrite r.space r.va.toNat (leBytes (r.tail + 1) 8) with
    | .error x => .error x
    | .ok p =>
      let v := BitVec.ofNat 64 ((r.tail + 1) % 2 ^ 32 + 0xFFFFFFFF00000000)
      .ok ({ r with tail := r.tail + 1 }, if notify then { p with out := p.out ++ [.notify r.notify v] } else p)

/-- The oldest posted entry is lost. -/
def Ring.drop (r : Ring) : Option Ring :=
  match r.queue with
  | [] => none
  | _ :: t => some { r with queue := t, lost := r.lost + 1 }

/-- Move a ring on by one entry: a lost-entry entry when room appears, else the oldest posted one, which is lost
where the ring is full or the windows refuse it. None where nothing can move. -/
def Pkg.ringStep (p : Pkg) (r : Ring) (size cap : Nat) (lost : Nat → List Byte) (notify : Bool) : Option (Ring × Pkg) :=
  if r.queue.isEmpty && r.lost = 0 then none
  else
    match p.ringFull r cap with
    | .ok (full, p) =>
      if r.lost ≠ 0 ∧ !full then
        match p.ringPut r size cap (lost r.lost) notify with
        | .ok (r, p) => some ({ r with lost := 0 }, p)
        | .error (.refused _) => r.drop.map fun r => (r, p)
        | .error (.held h) => (p.holdModule r.space h).map fun p => (r, p)
        | .error .wait => none
      else
        match r.queue with
        | [] => none
        | e :: t =>
          if full then some ({ r with queue := t, lost := r.lost + 1 }, p)
          else
            match p.ringPut r size cap e notify with
            | .ok (r, p) => some ({ r with queue := t }, p)
            | .error (.refused _) => some ({ r with queue := t, lost := r.lost + 1 }, p)
            | .error (.held h) => (p.holdModule r.space h).map fun p => (r, p)
            | .error .wait => none
    | .error (.refused _) => r.drop.map fun r => (r, p)
    | .error (.held h) => (p.holdModule r.space h).map fun p => (r, p)
    | .error .wait => none

def faultLost (n : Nat) : List Byte := leBytes (n <<< 384 + 4 <<< 264) 64
def debugLost (s n : Nat) : List Byte := leBytes (n <<< 384 + s <<< 304 + 0x15 <<< 272) 64
def rasLost (k n : Nat) : List Byte := leBytes (n <<< 352 + (Config.rasLostReason k).toNat <<< 296) 64

/-- Entries of a log of 2^size bytes. -/
def logCap (size : Nat) : Nat := (2 ^ size - 64) / 32

/-- A posted entry of some ring of a space moves. -/
def Pkg.spaceRings (p : Pkg) (s : Nat) (x : Space) : Option Pkg :=
  match x.fring.bind fun r => p.ringStep r 64 (2 ^ r.log2) faultLost true with
  | some (r, p) => some (p.modSpace s fun (x : Space) => { x with fring := some r })
  | none =>
    match x.dring.bind fun r => p.ringStep r 64 (2 ^ r.log2) (debugLost s) true with
    | some (r, p) => some (p.modSpace s fun (x : Space) => { x with dring := some r })
    | none =>
      match x.recording with
      | none => none
      | some g =>
        match p.ringStep g.ring 32 (logCap g.size) (fun _ => []) false with
        | none => none
        | some (r, p) =>
          let g' : RecLog := if r.lost = 0 then { g with ring := r, entries := g.entries + (r.tail - g.ring.tail) }
            else { g with ring := { r with queue := [], lost := 0 }, truncated := true }
          some (p.modSpace s fun (x : Space) => { x with recording := some g' })

def Pkg.viRing (p : Pkg) (n : Nat) (v : Vi) : Option Pkg :=
  match v.ras.bind fun r => p.ringStep r 64 (2 ^ r.log2) (rasLost p.free) true with
  | some (r, p) =>
    -- entries that the write itself has posted to this ring stand behind those it began with
    let posted := (((Tab.find? p.vis n).bind Vi.ras).map Ring.queue).getD []
    let new := posted.drop ((v.ras.map fun r => r.queue.length).getD 0)
    some { p with vis := p.vis.put n { v with ras := some { r with queue := r.queue ++ new } } }
  | none => none

/-- A profile sample is 16,448 bytes; its third doubleword holds the samples lost since the last written (R418). -/
def Pkg.profRing (p : Pkg) : Option Pkg :=
  match p.prof with
  | none => none
  | some f =>
    match f.ring.queue with
    | [] => none
    | e :: t =>
      match p.ringFull f.ring f.cap with
      | .ok (false, q) =>
        match q.ringPut f.ring 16448 f.cap (e.take 16 ++ leBytes f.ring.lost 8 ++ e.drop 24) false with
        | .ok (r, q) => some { q with prof := some { f with ring := { r with queue := t, lost := 0 } } }
        | .error (.refused _) => some { p with prof := some { f with ring := { f.ring with queue := t, lost := f.ring.lost + 1 } } }
        | .error (.held h) => p.holdModule f.ring.space h
        | .error .wait => none
      | .ok (true, _) | .error (.refused _) =>
        some { p with prof := some { f with ring := { f.ring with queue := t, lost := f.ring.lost + 1 } } }
      | .error (.held h) => p.holdModule f.ring.space h
      | .error .wait => none

/-! ### Completion records (R375, R382) -/

def Queue.room (q : Queue) : Bool := decide ((q.ctail - q.chead).toNat < 2 ^ q.clog2.toNat)

/-- A task of a queue is on a core, saved, or waits in an inbox. -/
def Pkg.hasTask (p : Pkg) (n : Nat) : Bool :=
  ((p.cores ++ p.saved).any fun e => (e.2.task.map fun t => t.info.queue) == some n) ||
    p.cores.any fun e => e.2.inbox.any fun i => i.queue == n

/-- Whether a queue holds nothing: no entry, no graph and no task (R376). -/
def Pkg.queueEmpty (p : Pkg) (n : Nat) (q : Queue) : Bool :=
  match q.st with
  | .idle | .disabled | .refused => true
  | .active => false
  | .resetting => q.graph.isNone && q.stail == q.shead && !p.hasTask n

/-- Store a queue. Its slot frees at once when it holds nothing (R376). -/
def Pkg.putQueue (p : Pkg) (n : Nat) (q : Queue) : Pkg :=
  let free := p.queueEmpty n q
  let slot (e : Nat × QSlot) : Nat × QSlot := if free && e.2.queue == some n then (e.1, .reset) else e
  { p with queues := p.queues.put n q, qslots := p.qslots.map slot }

/-- The oldest waiting record is written as room and the windows allow; a graph-end record frees the walk, a reset's
record disables the queue. -/
def Pkg.recordWrite (p : Pkg) (n : Nat) (q : Queue) : Option Pkg :=
  match q.waiting with
  | [] => none
  | e :: t =>
    if !q.room then none
    else
      match p.moduleWrite q.space.toNat (q.cmpva.toNat + 32 * (q.ctail.toNat % 2 ^ q.clog2.toNat)) (leBytes e.toNat 32) with
      | .error (.held h) => p.holdModule q.space.toNat h
      | .error .wait | .error (.refused _) => none
      | .ok p =>
        let kind := fld e.toNat 63 56
        let q := { q with waiting := t, ctail := q.ctail + 1, graph := if kind = 3 then none else q.graph,
                          st := if kind = 5 then .disabled else q.st }
        let q := { q with st := if q.st = .active ∧ q.graph.isNone ∧ q.waiting.isEmpty ∧ q.stail = q.shead then .idle else q.st }
        let p := p.putQueue n q
        let v := BitVec.ofNat 64 (q.ctail.toNat + n <<< 32)
        some (if q.nmode = 1 ∨ (q.nmode = 2 ∧ (kind = 3 ∨ kind = 5)) then { p with out := p.out ++ [.notify q.notify v] } else p)

/-! ### Operations (R105 to R108, R115) -/

def Pkg.op? (p : Pkg) (id : Nat) : Option Op := List.find? (fun o => o.id == id) p.ops
def Pkg.setOp (p : Pkg) (o : Op) : Pkg := { p with ops := p.ops.map fun (a : Op) => if a.id = o.id then o else a }
def Pkg.dropOp (p : Pkg) (id : Nat) : Pkg := { p with ops := p.ops.filter fun (a : Op) => a.id != id }

/-- The operation ends and its token receives its status word (R108, R250). -/
def Pkg.endOp (p : Pkg) (o : Op) (v : Word) : Pkg :=
  let p := p.dropOp o.id
  match o.tok with
  | some r => p.tokenDone o.who o.gen r (o.chunk * 64 + o.lidx) v
  | none => p

/-- DEDUCED, log entry 42. -/
def Op.attr (o : Op) : Attr :=
  { space := o.space, gcid := o.who.gcid, gen := o.gen, chunk := o.chunk, mask := 0, engine := true }

/-- The module an operation goes to. -/
def peerModule (e : Word) : Nat := fld e.toNat 47 24
def peerSpace (e : Word) : Nat := fld e.toNat 15 0

/-- Whether something the same context sends to the same module earlier is still to be sent (R115). -/
def Pkg.sendBlocked (p : Pkg) (o : Op) : Bool :=
  p.ops.any fun a => decide (a.id < o.id) && a.who == o.who && !a.sent && a.kind.cls == 2 && peerModule a.peer == peerModule o.peer

/-- Send a GET's or RPAN's request, or an empty PUT, once nothing of the context to that module waits before it. -/
def Pkg.sendOne (p : Pkg) (o : Op) : Option Pkg :=
  if o.sent || p.sendBlocked o then none
  else
    let go (m : Out) : Option Pkg := some ({ p with out := p.out ++ [m] }.setOp { o with sent := true })
    match o.kind with
    | .get _ rem n _ => go (.get o.id o.epoch o.peer rem n)
    | .put _ rem n _ => if n = 0 then go (.put o.id o.epoch o.peer rem []) else none
    | .rpan rem _ slot operand => go (.rpan o.id o.epoch o.peer rem slot operand)
    | .copy .. | .pan .. | .msg .. | .bput .. | .bdrop .. | .attest .. => none

/-- Shape of an operation's transfers: rows of `n0` bytes at local addresses. -/
structure Shape where
  dst : Word
  src : Word
  n0 : Nat
  n1 : Nat
  n2 : Nat
  ss1 : Word
  ds1 : Word
  ss2 : Word
  ds2 : Word
  deriving DecidableEq, Repr

/-- Transfers are cut by destination line (R247, R255): `dst` is the address whose lines cut. -/
def EKind.shape : EKind → Option Shape
  | .copy dst src n0 n1 n2 ss1 ds1 ss2 ds2 _ => some ⟨dst, src, n0, n1, n2, ss1, ds1, ss2, ds2⟩
  | .get loc rem n _ => some ⟨loc, rem, n, 1, 1, 0, 0, 0, 0⟩
  | .put loc rem n _ => some ⟨rem, loc, n, 1, 1, 0, 0, 0, 0⟩
  | .rpan .. | .pan .. | .msg .. | .bput .. | .bdrop .. | .attest .. => none

def Shape.total (x : Shape) : Nat := x.n0 * x.n1 * x.n2

/-- Addresses of the byte at a copy-order offset (R247). -/
def Shape.at_ (x : Shape) (f : Nat) : Word × Word :=
  let i0 := f % x.n0
  let i1 := f / x.n0 % x.n1
  let i2 := f / x.n0 / x.n1
  (x.dst + BitVec.ofNat 64 i2 * x.ds2 + BitVec.ofNat 64 i1 * x.ds1 + BitVec.ofNat 64 i0,
   x.src + BitVec.ofNat 64 i2 * x.ss2 + BitVec.ofNat 64 i1 * x.ss1 + BitVec.ofNat 64 i0)

/-- Whether a transfer starts at an offset, and its length. -/
def Shape.starts (x : Shape) (f : Nat) : Bool :=
  decide (f < x.total) && (f % x.n0 == 0 || (x.at_ f).1.toNat % 64 == 0)
def Shape.len (x : Shape) (f : Nat) : Nat := min (x.n0 - f % x.n0) (64 - (x.at_ f).1.toNat % 64)

/-- Offset of the transfer of row `w` that writes the line at `line`, if one does. -/
def Shape.inRow (x : Shape) (w line : Nat) : Option Nat :=
  let d := (x.at_ (w * x.n0)).1.toNat
  if d < line + 64 ∧ line < d + x.n0 then some (w * x.n0 + (line - d)) else none

/-- Shard of a COPY.digest whose manifest entry lies in a line (R253). -/
def EKind.shardAt (k : EKind) (line : Nat) : Option Nat :=
  match k with
  | .copy _ _ n0 n1 n2 _ _ _ _ (some va) =>
    let e := (line - va.toNat) / 64
    if va.toNat ≤ line ∧ e * 2 ^ 20 < n0 * n1 * n2 then some e else none
  | .copy _ _ _ _ _ _ _ _ _ none | .get .. | .put .. | .rpan .. | .pan .. | .msg .. | .bput .. | .bdrop .. | .attest .. => none

/-- Whether an undone transfer of an operation, or a manifest entry still to be made, writes a line (R106). -/
def Op.willWrite (o : Op) (line : Nat) : Bool :=
  match o.kind, o.kind.shape with
  | .put .., _ => false
  | k, some x =>
    ((List.range (x.n1 * x.n2)).any fun w =>
      match x.inRow w line with
      | some f => !o.done.contains f
      | none => false) || ((k.shardAt line).map fun e => !o.done.contains (x.total + e)).getD false
  | _, none => false

/-- An earlier operation of the context in the same class and colour still has to write one of the lines (R106). -/
def Pkg.behind (p : Pkg) (o : Op) (lines : List Nat) : Bool :=
  p.ops.any fun a => decide (a.id < o.id) && a.who == o.who && a.gen == o.gen && a.kind.cls == o.kind.cls && a.col == o.col &&
    lines.any a.willWrite

/-- Some line of the package is poisoned, or will be as it is read: by a lost copy's recall, or by a scale line's poison; or a die is in
reset, which may yet poison lines. -/
def Pkg.anyPoison (p : Pkg) : Bool :=
  !p.resetting.isEmpty || !p.poison.isEmpty || !p.vpoison.isEmpty || (p.l2.any fun l => l.2.poison) || (p.cores.any fun k => !k.2.lsPoison.isEmpty) ||
    p.brine.any Brine.bad || p.scale.any fun e => e.2.2.2

/-- Whether every transfer before an offset has taken its place. DESIGN CHOICE, log entry 21. -/
def Op.inOrder (o : Op) (x : Shape) (f : Nat) : Bool := (List.range f).all fun g => !x.starts g || o.done.contains g

/-- Whether a later transfer of an operation has taken its place before an earlier one. While one has, no line of the package
turns poisoned: the earlier transfer could not then stop the operation before it (R251). DESIGN CHOICE, log entry 21. -/
def Op.outOfOrder (o : Op) : Bool :=
  match o.kind.shape with
  | none => false
  | some x => o.done.any fun f => decide (f < x.total) && !o.inOrder x f

/-- Codes by which an operation stops short: 1 an unreadable source line (R251), 3 a COPY.digest cancelled with whole shards whose
entries are still to be written (R252, R253). -/
def Op.stopped (o : Op) : Bool := o.code == 1 || o.code == 3

/-- Bytes that lie before the place at which the operation stopped. -/
def Op.limit (o : Op) (x : Shape) : Nat := if o.stopped then o.lane else x.total

/-- Number of the transfer at an offset (Table 18.6). -/
def Shape.index (x : Shape) (f : Nat) : Nat := ((List.range f).filter x.starts).length

def shardBytes : Nat := 2 ^ 20

/-- Manifest entry of a shard (Table 9.7). -/
def Op.shard (o : Op) (total e : Nat) : List Byte :=
  let all := (o.pieces.map Prod.snd).flatten
  let b := (all.drop (e * shardBytes)).take (min shardBytes (total - e * shardBytes))
  sha384 b ++ leBytes (e * shardBytes) 8 ++ leBytes b.length 8

/-- Whole shards before the limit: each has a manifest entry to be written. -/
def Op.shards (o : Op) (x : Shape) : Nat :=
  match o.kind with
  | .copy _ _ _ _ _ _ _ _ _ (some _) =>
    if o.limit x = x.total then (x.total + shardBytes - 1) / shardBytes else o.limit x / shardBytes
  | .copy _ _ _ _ _ _ _ _ _ none | .get .. | .put .. | .rpan .. | .pan .. | .msg .. | .bput .. | .bdrop .. | .attest .. => 0

def sumLens (x : Shape) : List Nat → Nat
  | [] => 0
  | f :: t => x.len f + sumLens x t

/-- Bytes of the transfers done before the limit. -/
def Op.moved (o : Op) (x : Shape) : Nat := sumLens x (o.done.filter (· < o.limit x))

/-- Status of a COPY that is over: BYTES of a cancelled one counts every performed transfer (R252). -/
def Op.copyStatus (o : Op) (x : Shape) : Word :=
  if o.code = 3 then engineStatus 3 0 (sumLens x (o.done.filter (· < x.total)))
  else engineStatus (if o.code = 0 then 1 else 2) o.code (o.limit x)

/-- A COPY ends once its transfers up to the limit, and their manifest entries, have taken their places. -/
def Pkg.copyEnd (p : Pkg) (o : Op) (x : Shape) : Pkg :=
  if o.moved x = o.limit x ∧ (o.done.filter (x.total ≤ ·)).length = o.shards x then p.endOp o (o.copyStatus x)
  else p.setOp o

/-- A transfer that was held takes its place. -/
def Op.unheld (o : Op) (f : Nat) : Op :=
  { o with held := o.held.filter fun e => e.1 != f }

/-- A held engine access: its notice is posted once for each line (R252, R394). -/
def Pkg.holdOp (p : Pkg) (o : Op) (f : Nat) (h : HeldAt) : Pkg :=
  if o.held.contains (f, h.key) then p
  else
    let c := p.ctx o.who
    let seen := (p.ops.any fun a => a.who == o.who && a.gen == o.gen && a.held.any fun e => e.2 == h.key) ||
      (c.gen == o.gen && (c.held.map HeldAt.key) == some h.key)
    let p := (p.missHeld h).countHeld h.line
    (if seen then p else p.heldNotice o.space o.who.gcid o.gen o.chunk h).setOp
      { o.unheld f with held := (f, h.key) :: (o.unheld f).held }

/-- In replay, an engine event or pan application is the log's next, with its index. -/
def Pkg.opAllowed (p : Pkg) (o : Op) (kind value : Nat) : Bool :=
  match p.replayOf o.space with
  | none => true
  | some r =>
    match r.log[r.gate]? with
    | none => true
    | some e => leKind e == kind && leGcid e == o.who.gcid && leChunk e == r.chunkNo o.who.gcid o.chunk &&
        leLidx e == r.lidx o.who.gcid o.chunk o.lidx && (leValue e).toNat == value

def Pkg.logOp (p : Pkg) (o : Op) (kind value : Nat) : Pkg :=
  ((p.record o.space (logEntry (BitVec.ofNat 64 value) o.chunk o.gen.toNat o.who.gcid kind o.lidx 0))).replayStep o.space

/-- A transfer of a COPY takes its place (R105, R249, R251, R252). DEDUCED, log entry 22. -/
def Pkg.copyTransfer (p : Pkg) (o : Op) (x : Shape) (f : Nat) : Pkg :=
  let (d, s) := x.at_ f
  let n := x.len f
  let dl := d.toNat / 64 * 64
  let sl := s.toNat / 64 * 64
  if !x.starts f || decide (o.limit x ≤ f) || o.done.contains f || p.behind o [dl, sl, (s.toNat + n - 1) / 64 * 64] ||
      (p.anyPoison && !o.inOrder x f) || !p.opAllowed o 3 (x.index f) then p
  else
    match p.readAll o.space (rENG + rRD) s.toNat n with
    | .error (.held h) => p.holdOp o f h
    | .error .wait => p
    | .error (.refused _) => p
    | .ok (b, bad, q) =>
      if bad then (q.ras sl o.space o.who.gcid (o.who.core / 64) 3 3 1).copyEnd { o with code := 1, lane := f } x
      else
        let side := match q.readPiece o.space (rENG + rRD) s.toNat n with
          | .ok (y, _) => if n = 64 ∧ s.toNat % 64 = 0 then y.side else 0
          | .error _ => 0
        match q.writePiece (some o.who.core) o.space (rENG + rWR) d.toNat b o.attr side with
        | .error (.held h) => p.holdOp o f h
        | .error .wait => p
        | .error (.refused _) => p
        | .ok q =>
          let q := (q.watchEvent o.space d.toNat n 8 2 o (x.index f % 256)).advance o.space cCopyBytes n
          let digest := match o.kind with
            | .copy _ _ _ _ _ _ _ _ _ (some _) => true
            | _ => false
          (q.logOp o 3 (x.index f)).copyEnd
            { o.unheld f with done := insertNat f o.done,
                              pieces := if digest then o.pieces.put f b else o.pieces } x

/-- A manifest entry of a COPY.digest, named by the total plus the shard's number (R253). -/
def Pkg.manifestEntry (p : Pkg) (o : Op) (x : Shape) (e : Nat) (va : Word) : Pkg :=
  let last := min ((e + 1) * shardBytes) x.total
  let whole := (List.range last).all fun f => !x.starts f || o.done.contains f
  if e ≥ o.shards x || o.done.contains (x.total + e) || !whole || p.behind o [va.toNat + 64 * e] ||
      !p.opAllowed o 3 (x.index x.total + e) then p
  else
    match p.writePiece (some o.who.core) o.space (rENG + rWR) (va.toNat + 64 * e) (o.shard x.total e) o.attr with
    | .error (.held h) => p.holdOp o (x.total + e) h
    | .error .wait | .error (.refused _) => p
    | .ok q =>
      let q := q.watchEvent o.space (va.toNat + 64 * e) 64 8 2 o ((x.index x.total + e) % 256)
      (q.logOp o 3 (x.index x.total + e)).copyEnd { o.unheld (x.total + e) with done := insertNat (x.total + e) o.done } x

/-- A GET or PUT ends once acknowledged, with its local side performed (R108, R255). -/
def Pkg.remoteEnd (p : Pkg) (o : Op) (x : Shape) : Pkg :=
  match o.ack with
  | none => p.setOp o
  | some (code, n) =>
    match o.kind with
    | .get .. =>
      if o.moved x ≥ n then p.endOp o (engineStatus (if code = 0 then 1 else 2) code (min n (o.moved x))) else p.setOp o
    | .put .. => p.endOp o (if o.code = 1 then engineStatus 2 1 (min n (o.moved x)) else engineStatus (if code = 0 then 1 else 2) code n)
    | .copy .. | .rpan .. | .pan .. | .msg .. | .bput .. | .bdrop .. | .attest .. => p.setOp o

/-- The local side of a GET: a line of the answer is written (R115). -/
def Pkg.getTransfer (p : Pkg) (o : Op) (x : Shape) (f : Nat) : Pkg :=
  let d := (x.at_ f).1
  let have_ := (o.ack.map Prod.snd).getD 0
  let n := min (x.len f) (have_ - f)
  if !x.starts f || decide (have_ ≤ f) || o.done.contains f || p.behind o [d.toNat / 64 * 64] || !p.opAllowed o 3 (x.index f) then p
  else
    match p.writePiece (some o.who.core) o.space (rENG + rWR) d.toNat (((Tab.get [] o.pieces 0).drop f).take n) o.attr with
    | .error (.held h) => p.holdOp o f h
    | .error .wait | .error (.refused _) => p
    | .ok q =>
      let q := (q.watchEvent o.space d.toNat n 8 2 o (x.index f % 256)).advance o.space cCopyBytes n
      (q.logOp o 3 (x.index f)).remoteEnd { o.unheld f with done := insertNat f o.done } x

/-- The local side of a PUT: a line's worth is read and sent, in offset order to its peer (R115, R251, R255). One that meets an
unreadable line sends no more, and ends once what it has sent has been acknowledged (R116). -/
def Pkg.putTransfer (p : Pkg) (o : Op) (x : Shape) (f : Nat) : Pkg :=
  let (r, s) := x.at_ f
  let n := x.len f
  if !x.starts f || o.sent || o.done.contains f || p.sendBlocked o || !o.inOrder x f ||
      p.behind o [s.toNat / 64 * 64, (s.toNat + n - 1) / 64 * 64] || !p.opAllowed o 3 (x.index f) then p
  else
    match p.readAll o.space (rENG + rRD) s.toNat n with
    | .error (.held h) => p.holdOp o f h
    | .error .wait | .error (.refused _) => p
    | .ok (b, bad, q) =>
      if bad then
        let q := q.ras (s.toNat / 64 * 64) o.space o.who.gcid (o.who.core / 64) 3 3 1
        if o.done.isEmpty then q.endOp o (engineStatus 2 1 0) else q.setOp { o with code := 1, sent := true }
      else
        let q := q.advance o.space cCopyBytes n
        let q : Pkg := { q with out := q.out ++ [.put o.id o.epoch o.peer r b] }
        (q.logOp o 3 (x.index f)).remoteEnd
          { o.unheld f with done := insertNat f o.done, sent := decide (x.total ≤ f + n) } x

/-- An engine commit: the transfer at an offset of an operation, or a manifest entry. -/
def Pkg.transfer (p : Pkg) (o : Op) (f : Nat) : Pkg :=
  match o.kind.shape with
  | none => p
  | some x =>
    match o.kind with
    | .copy _ _ _ _ _ _ _ _ _ manifest =>
      if f < x.total then p.copyTransfer o x f
      else
        match manifest with
        | some va => p.manifestEntry o x (f - x.total) va
        | none => p
    | .get .. => p.getTransfer o x f
    | .put .. => p.putTransfer o x f
    | .rpan .. | .pan .. | .msg .. | .bput .. | .bdrop .. | .attest .. => p

/-! ### What the module owes -/

/-- Whether an entry of a list can move the package. -/
def firstSome {α : Type} (f : α → Option Pkg) : List α → Option Pkg
  | [] => none
  | a :: t =>
    match f a with
    | some p => some p
    | none => firstSome f t

/-- The next write that the module owes and can make: ring entries, completion records, requests to peers. -/
def Pkg.owedWrite (p : Pkg) : Option Pkg :=
  match firstSome (fun e : Nat × Space => p.spaceRings e.1 e.2) p.spaces with
  | some q => some q
  | none =>
    match firstSome (fun e : Nat × Vi => p.viRing e.1 e.2) p.vis with
    | some q => some q
    | none =>
      match p.profRing with
      | some q => some q
      | none =>
        match firstSome (fun e : Nat × Queue => p.recordWrite e.1 e.2) p.queues with
        | some q => some q
        | none => firstSome p.sendOne p.ops

end Sys2Proof.Machine
end

