-- ==== Sys2Proof/Machine/Scalar.lean ====
section
/-! DEFINITION. Integer, logical, bit, comparison and predicate instructions: Table 8.2, R206 to R212. -/

namespace Sys2Proof.Machine

/-- An instruction of one or two scalar sources whose only effect is S[d]. -/
def Ins.un (g : Guard) (d a : SReg) (f : Word → Word) : Ins := .regOp g [a.toNat] [d.toNat] fun r => r.setS d (f (r.sr a))
def Ins.bin (g : Guard) (d a b : SReg) (f : Word → Word → Word) : Ins :=
  .regOp g [a.toNat, b.toNat] [d.toNat] fun r => r.setS d (f (r.sr a) (r.sr b))

/-- R208. -/
def divS (a b : Word) : Word := if b = 0 then BitVec.allOnes 64 else a.sdiv b
def divU (a b : Word) : Word := if b = 0 then BitVec.allOnes 64 else a / b
def remS (a b : Word) : Word := if b = 0 then a else a.srem b
def remU (a b : Word) : Word := if b = 0 then a else a % b

/-- floor(a × b / 2^64), signed and unsigned. -/
def mulHigh (a b : Word) : Word := BitVec.ofInt 64 (a.toInt * b.toInt / (2 ^ 64 : Int))
def mulHighU (a b : Word) : Word := BitVec.ofNat 64 (a.toNat * b.toNat / 2 ^ 64)

def minS (a b : Word) : Word := if b.slt a then b else a
def maxS (a b : Word) : Word := if a.slt b then b else a
def minU (a b : Word) : Word := if b.ult a then b else a
def maxU (a b : Word) : Word := if a.ult b then b else a

/-- The low bits of a register, extended by type (R209). -/
def extend (t : Ty) (a : Word) : Word :=
  if t.signed then BitVec.ofInt 64 (signExt a.toNat t.width) else BitVec.ofNat 64 (a.toNat % 2 ^ t.width)

/-- a[pos+len−1:pos], zero- or sign-extended (R209). -/
def bitField (a : Word) (pos len : Nat) (sx : Bool) : Word :=
  if sx then BitVec.ofInt 64 (signExt (a.toNat >>> pos) len) else BitVec.ofNat 64 ((a.toNat >>> pos) % 2 ^ len)

/-- a with bits [pos+len−1:pos] replaced by b[len−1:0] (R209). -/
def insertField (a b : Word) (pos len : Nat) : Word :=
  let m : Word := BitVec.ofNat 64 ((2 ^ len - 1) <<< pos)
  (a &&& ~~~m) ||| ((b <<< pos) &&& m)

def execNop (g : Guard) (s : State) : Host.Outcome State Fault Refusal :=
  s.issue (.regOp g [] [] fun r => r)

def execMov (g : Guard) (d a : SReg) (s : State) : Host.Outcome State Fault Refusal :=
  s.issue (.un g d a fun x => x)

def execMovi (g : Guard) (d : SReg) (imm : BitVec 48) (s : State) : Host.Outcome State Fault Refusal :=
  s.issue (.regOp g [] [d.toNat] fun r => r.setS d (imm48 imm))

def execMovhi (g : Guard) (d a : SReg) (imm : BitVec 16) (s : State) : Host.Outcome State Fault Refusal :=
  s.issue (.un g d a fun x => imm ++ x.setWidth 48)

def execAdd (g : Guard) (d a b : SReg) (s : State) : Host.Outcome State Fault Refusal :=
  s.issue (.bin g d a b fun x y => x + y)

def execAddi (g : Guard) (d a : SReg) (imm : BitVec 48) (s : State) : Host.Outcome State Fault Refusal :=
  s.issue (.un g d a fun x => x + imm48 imm)

def execSub (g : Guard) (d a b : SReg) (s : State) : Host.Outcome State Fault Refusal :=
  s.issue (.bin g d a b fun x y => x - y)

def execNeg (g : Guard) (d a : SReg) (s : State) : Host.Outcome State Fault Refusal :=
  s.issue (.un g d a fun x => 0 - x)

def execMul (g : Guard) (d a b : SReg) (s : State) : Host.Outcome State Fault Refusal :=
  s.issue (.bin g d a b fun x y => x * y)

def execMulh (g : Guard) (d a b : SReg) (s : State) : Host.Outcome State Fault Refusal :=
  s.issue (.bin g d a b mulHigh)

def execMulhn (g : Guard) (d a b : SReg) (s : State) : Host.Outcome State Fault Refusal :=
  s.issue (.bin g d a b mulHighU)

def execDiv (g : Guard) (d a b : SReg) (s : State) : Host.Outcome State Fault Refusal :=
  s.issue (.bin g d a b divS)

def execDivn (g : Guard) (d a b : SReg) (s : State) : Host.Outcome State Fault Refusal :=
  s.issue (.bin g d a b divU)

def execRem (g : Guard) (d a b : SReg) (s : State) : Host.Outcome State Fault Refusal :=
  s.issue (.bin g d a b remS)

def execRemn (g : Guard) (d a b : SReg) (s : State) : Host.Outcome State Fault Refusal :=
  s.issue (.bin g d a b remU)

def execMadd (g : Guard) (d a b c : SReg) (s : State) : Host.Outcome State Fault Refusal :=
  s.issue (.regOp g [a.toNat, b.toNat, c.toNat] [d.toNat] fun r => r.setS d (r.sr a * r.sr b + r.sr c))

def execAnd (g : Guard) (d a b : SReg) (s : State) : Host.Outcome State Fault Refusal :=
  s.issue (.bin g d a b fun x y => x &&& y)

def execAndi (g : Guard) (d a : SReg) (imm : BitVec 48) (s : State) : Host.Outcome State Fault Refusal :=
  s.issue (.un g d a fun x => x &&& imm48 imm)

def execOr (g : Guard) (d a b : SReg) (s : State) : Host.Outcome State Fault Refusal :=
  s.issue (.bin g d a b fun x y => x ||| y)

def execOri (g : Guard) (d a : SReg) (imm : BitVec 48) (s : State) : Host.Outcome State Fault Refusal :=
  s.issue (.un g d a fun x => x ||| imm48 imm)

def execXor (g : Guard) (d a b : SReg) (s : State) : Host.Outcome State Fault Refusal :=
  s.issue (.bin g d a b fun x y => x ^^^ y)

def execXori (g : Guard) (d a : SReg) (imm : BitVec 48) (s : State) : Host.Outcome State Fault Refusal :=
  s.issue (.un g d a fun x => x ^^^ imm48 imm)

def execAndn (g : Guard) (d a b : SReg) (s : State) : Host.Outcome State Fault Refusal :=
  s.issue (.bin g d a b fun x y => x &&& ~~~y)

def execNot (g : Guard) (d a : SReg) (s : State) : Host.Outcome State Fault Refusal :=
  s.issue (.un g d a fun x => ~~~x)

def execShl (g : Guard) (d a b : SReg) (s : State) : Host.Outcome State Fault Refusal :=
  s.issue (.bin g d a b fun x y => x <<< (y.toNat % 64))

def execShli (g : Guard) (d a : SReg) (n : BitVec 6) (s : State) : Host.Outcome State Fault Refusal :=
  s.issue (.un g d a fun x => x <<< n.toNat)

def execShr (g : Guard) (d a b : SReg) (s : State) : Host.Outcome State Fault Refusal :=
  s.issue (.bin g d a b fun x y => x >>> (y.toNat % 64))

def execShri (g : Guard) (d a : SReg) (n : BitVec 6) (s : State) : Host.Outcome State Fault Refusal :=
  s.issue (.un g d a fun x => x >>> n.toNat)

def execSar (g : Guard) (d a b : SReg) (s : State) : Host.Outcome State Fault Refusal :=
  s.issue (.bin g d a b fun x y => x.sshiftRight (y.toNat % 64))

def execSari (g : Guard) (d a : SReg) (n : BitVec 6) (s : State) : Host.Outcome State Fault Refusal :=
  s.issue (.un g d a fun x => x.sshiftRight n.toNat)

def execRol (g : Guard) (d a b : SReg) (s : State) : Host.Outcome State Fault Refusal :=
  s.issue (.bin g d a b fun x y => x.rotateLeft (y.toNat % 64))

def execRoli (g : Guard) (d a : SReg) (n : BitVec 6) (s : State) : Host.Outcome State Fault Refusal :=
  s.issue (.un g d a fun x => x.rotateLeft n.toNat)

/-- The predicate result of a comparison (R211). -/
def execCmp (g : Guard) (c : Cond) (d : PReg) (a b : SReg) (s : State) : Host.Outcome State Fault Refusal :=
  s.issue (.regOp g [a.toNat, b.toNat] [] fun r => r.setP d (condWord c (r.sr a) (r.sr b)))

def execCmpi (g : Guard) (c : Cond) (d : PReg) (a : SReg) (imm : BitVec 48) (s : State) : Host.Outcome State Fault Refusal :=
  s.issue (.regOp g [a.toNat] [] fun r => r.setP d (condWord c (r.sr a) (imm48 imm)))

def execSel (g : Guard) (d a b : SReg) (c : PReg) (s : State) : Host.Outcome State Fault Refusal :=
  s.issue (.regOp g [a.toNat, b.toNat] [d.toNat] fun r => r.setS d (if r.pr c then r.sr a else r.sr b))

def execMin (g : Guard) (d a b : SReg) (s : State) : Host.Outcome State Fault Refusal :=
  s.issue (.bin g d a b minS)

def execMax (g : Guard) (d a b : SReg) (s : State) : Host.Outcome State Fault Refusal :=
  s.issue (.bin g d a b maxS)

def execMinn (g : Guard) (d a b : SReg) (s : State) : Host.Outcome State Fault Refusal :=
  s.issue (.bin g d a b minU)

def execMaxn (g : Guard) (d a b : SReg) (s : State) : Host.Outcome State Fault Refusal :=
  s.issue (.bin g d a b maxU)

def execClz (g : Guard) (d a : SReg) (s : State) : Host.Outcome State Fault Refusal :=
  s.issue (.un g d a fun x => BitVec.ofNat 64 (64 - bitLen x.toNat))

def execCtz (g : Guard) (d a : SReg) (s : State) : Host.Outcome State Fault Refusal :=
  s.issue (.un g d a fun x => BitVec.ofNat 64 (ctzFrom x.toNat 64))

def execPopc (g : Guard) (d a : SReg) (s : State) : Host.Outcome State Fault Refusal :=
  s.issue (.un g d a fun x => BitVec.ofNat 64 (popCount x.toNat 64))

def execExt (g : Guard) (t : Ty) (d a : SReg) (s : State) : Host.Outcome State Fault Refusal :=
  s.issue (.un g d a (extend t))

def execBfx (g : Guard) (d a : SReg) (pos : BitVec 6) (len : BitVec 7) (sx : Bool) (s : State) : Host.Outcome State Fault Refusal :=
  s.issue (.un g d a fun x => bitField x pos.toNat len.toNat sx)

def execBfi (g : Guard) (d a b : SReg) (pos : BitVec 6) (len : BitVec 7) (s : State) : Host.Outcome State Fault Refusal :=
  s.issue (.bin g d a b fun x y => insertField x y pos.toNat len.toNat)

/-- R210. -/
def execLea (g : Guard) (d : SReg) (m : MemOp) (s : State) : Host.Outcome State Fault Refusal :=
  s.issue (.regOp g (memSrcs m) [d.toNat] fun r => r.setS d (memAddr r m))

def execPlog (g : Guard) (d a b : PReg) (tt : BitVec 4) (s : State) : Host.Outcome State Fault Refusal :=
  s.issue (.regOp g [] [] fun r => r.setP d (plogBit tt (r.pr a) (r.pr b)))

end Sys2Proof.Machine
end

