-- ==== Sys2Proof/Machine/Copy.lean ====
section
/-! DEFINITION. Issue of the copy and of the inter-package operations: R246 to R257. -/

namespace Sys2Proof.Machine

/-- First bad byte of one row: the source byte before the destination byte of the same offset (R248). -/
def Pkg.badRow (p : Pkg) (s : Nat) (x : Shape) (w : Nat) : Option Nat :=
  let (d, a) := x.at_ (w * x.n0)
  let off (base bad : Nat) : Nat := (bad + 2 ^ 64 - base) % 2 ^ 64
  match p.badByte s (rENG + rRD) a.toNat x.n0, p.badByte s (rENG + rWR) d.toNat x.n0 with
  | some b, some e => some (if off a.toNat b ≤ off d.toNat e then b else e)
  | some b, none => some b
  | none, some e => some e
  | none, none => none

/-- The checks of R248 in copy order. -/
def M.checkCopy (x : CtxRef) (h : Shape) : M Unit := do
  if h.total > 2 ^ 40 - 1 then M.invocation 0x28
  if h.total = 0 then return ()
  let p ← get
  match List.findSome? (p.badRow (p.spaceOf x.core) h) (List.range (h.n1 * h.n2)) with
  | some va => throw (.fault 2 va 0)
  | none => pure ()

/-- The manifest is aligned, and every byte of it may be written (R253). DEDUCED, log entry 47. -/
def M.checkManifest (x : CtxRef) (h : Shape) (va : Word) : M Unit := do
  if va.toNat ≥ vaTop then throw (.fault 2 va.toNat 0)
  if va.toNat % 64 ≠ 0 then throw (.fault 6 va.toNat 0)
  M.checkRange x (rENG + rWR) va.toNat (64 * ((h.total + shardBytes - 1) / shardBytes))

/-- Check a copy and append it to the deferred-effect list. -/
def M.copy (col : BitVec 3) (d : SReg) (h : Shape) (manifest : Option Word) : M Flow := do
  let x ← M.me
  M.checkCopy x h
  match manifest with
  | some va => M.checkManifest x h va
  | none => pure ()
  M.defer x (.copy h.dst h.src h.n0 h.n1 h.n2 h.ss1 h.ds1 h.ss2 h.ds2 manifest) col.toNat d
  return .next

/-- The shapes of Table 9.4. -/
def copyShape1 (r : Regs) (a b c : SReg) : Shape :=
  ⟨r.sr a, r.sr b, (r.sr c).toNat, 1, 1, 0, 0, 0, 0⟩

def copyShape2 (r : Regs) (a b c : SReg) : Shape :=
  let f (i : Nat) : Word := r.sn (c.toNat + i)
  ⟨r.sr a, r.sr b, (f 0).toNat, (f 1).toNat, 1, f 2, f 3, 0, 0⟩

def copyShape3 (r : Regs) (a b c : SReg) : Shape :=
  let f (i : Nat) : Word := r.sn (c.toNat + i)
  ⟨r.sr a, r.sr b, (f 0).toNat, (f 1).toNat, (f 2).toNat, f 3, f 4, f 5, f 6⟩

def execCopy (g : Guard) (col : BitVec 3) (d a b c : SReg) (s : State) : Host.Outcome State Fault Refusal :=
  s.issue
    { guard := g, srcs := [a.toNat, b.toNat, c.toNat], dsts := [d.toNat],
      body := do M.copy col d (copyShape1 (← M.r) a b c) none }

def execCopyDigest (g : Guard) (col : BitVec 3) (d a b c : SReg) (s : State) : Host.Outcome State Fault Refusal :=
  s.issue
    { guard := g, srcs := [a.toNat, b.toNat, c.toNat, c.toNat + 1], dsts := [d.toNat],
      body := do
        let r ← M.r
        M.copy col d (copyShape1 r a b c) (some (r.sn (c.toNat + 1))) }

def execCopy2 (g : Guard) (col : BitVec 3) (d a b c : SReg) (s : State) : Host.Outcome State Fault Refusal :=
  s.issue
    { guard := g, srcs := a.toNat :: b.toNat :: regRange c.toNat 4, dsts := [d.toNat],
      body := do M.copy col d (copyShape2 (← M.r) a b c) none }

def execCopy3 (g : Guard) (col : BitVec 3) (d a b c : SReg) (s : State) : Host.Outcome State Fault Refusal :=
  s.issue
    { guard := g, srcs := a.toNat :: b.toNat :: regRange c.toNat 7, dsts := [d.toNat],
      body := do M.copy col d (copyShape3 (← M.r) a b c) none }

/-! ### Operations between packages (R255, R256) -/

/-- The peer index of a register. -/
def M.peerIndex (w : Word) : M Nat := do
  if w.toNat ≥ 2 ^ 12 then M.invocation 0x28
  return w.toNat

/-- The issue of a GET or PUT, checked in the order of R255's text: its local side, its length, its peer (R462). -/
def M.remote (need : Nat) (a c : SReg) : M (Nat × Nat) := do
  let x ← M.me
  let r ← M.r
  let n := (r.sr c).toNat
  M.checkRange x need (r.sr a).toNat n
  if n > 2 ^ 32 then M.invocation 0x28
  let peer ← M.peerIndex (r.sn (c.toNat + 1))
  return (n, peer)

def execGet (g : Guard) (col : BitVec 3) (d a b c : SReg) (s : State) : Host.Outcome State Fault Refusal :=
  s.issue
    { guard := g, srcs := a.toNat :: b.toNat :: regRange c.toNat 2, dsts := [d.toNat],
      body := do
        let (n, peer) ← M.remote (rENG + rWR) a c
        let r ← M.r
        M.defer (← M.me) (.get (r.sr a) (r.sr b) n peer) col.toNat d
        return .next }

def execPut (g : Guard) (col : BitVec 3) (d a b c : SReg) (s : State) : Host.Outcome State Fault Refusal :=
  s.issue
    { guard := g, srcs := a.toNat :: b.toNat :: regRange c.toNat 2, dsts := [d.toNat],
      body := do
        let (n, peer) ← M.remote (rENG + rRD) a c
        let r ← M.r
        M.defer (← M.me) (.put (r.sr a) (r.sr b) n peer) col.toNat d
        return .next }

/-- The operand of a scalar pan form (R267). -/
def panOperand (r : Regs) (b : SReg) (m : BitVec 2) : Line := BitVec.ofNat 512 (r.gather b.toNat (2 ^ m.toNat))

def execRpan (g : Guard) (col : BitVec 3) (m : BitVec 2) (d a b c : SReg) (slot : BitVec 8) (s : State) :
    Host.Outcome State Fault Refusal :=
  s.issue
    { guard := g, srcs := a.toNat :: c.toNat :: regRange b.toNat (2 ^ m.toNat), dsts := [d.toNat],
      body := do
        let r ← M.r
        if (r.sr a).toNat % 64 ≠ 0 then throw (.fault 6 (r.sr a).toNat 0)
        let peer ← M.peerIndex (r.sr c)
        M.defer (← M.me) (.rpan (r.sr a) peer slot.toNat (panOperand r b m)) col.toNat d
        return .next }

end Sys2Proof.Machine
end

