-- ==== Sys2Proof/Machine/PanOps.lean ====
section
/-! DEFINITION. Applications of slice routines: at a home (R157 to R164), at a brine copy (R165, R166), and of the
elements of a released invocation (R169). -/

namespace Sys2Proof.Machine

/-- The entry that a slice uses, its own copy or the table's, or the code that ends the application before the line is locked
(R158, R161). -/
def Pkg.panCheck (p : Pkg) (slice s slot : Nat) (returning : Bool) : Except Nat Nat :=
  let e := (p.cached? slice s slot).getD (p.tableEntry s slot)
  if (p.cached? slice s slot).isNone && p.tableUnreadable s slot then .error 5
  else if entState e = 2 then .error 2
  else if entState e ≠ 1 then .error 1
  else if returning && !hdrRet (entHdr e) then .error 3
  else .ok e

/-- How an application ends. -/
inductive PanEnd where
  /-- an exclusive chunk, a die in reset, or a full MC -/
  | wait
  | held (h : HeldAt)
  /-- code, whether PAN_INV counts it, whether the routine ran on the line, the value returned -/
  | done (p : Pkg) (code : Nat) (counted ran : Bool) (ret : Line)

/-- One application: the issuer's space and attribution, the core it comes from, slot, line VA and operand. -/
structure PanCall where
  attr : Attr
  origin : Nat
  slot : Nat
  lidx : Nat
  lane : Nat
  va : Nat
  operand : Line
  returning : Bool
  /-- an inbound RPAN: it comes from no die of the package (R112) -/
  outside : Bool := false
  deriving DecidableEq, Repr

/-- Copies of the line that an application of this call recalls: all but those of its own routine, where a
non-returning invocation comes from the home's own die (R112). -/
def PanCall.recalls (c : PanCall) (home : Nat) (b : Brine) : Bool :=
  c.returning || c.outside || c.origin / 64 != home / 64 || b.space != c.attr.space || b.slot != c.slot

/-- Park a non-returning element at its MC: it takes its place now, so it waits for an exclusive chunk and squashes the chunks that hold
the line, which no chunk reads again before its records are replayed (R98, R105, R110, R164, R396). -/
def Pkg.panPark (p : Pkg) (c : PanCall) (key e : Nat) : PanEnd :=
  let lvl := p.levelOf c.origin [] [key]
  if p.exclusiveHolds lvl c.origin [key] none then .wait else
  let p := ((p.broadcast lvl c.origin [key] none).failMiss key).parkLine key
  if p.recCount (mcOf c.va) ≥ 256 then .wait
  else
    .done (p.parkRec { mc := mcOf c.va, key, attr := { c.attr with mask := 0 }, cause := 0x22, data := 0,
                       pan := some { slot := c.slot, rgen := BitVec.ofNat 16 (entGen e), lidx := c.lidx, lane := c.lane,
                                     operand := c.operand } }) 0 true false 0

/-- DEDUCED, log entry 43. -/
def Pkg.countPan (p : Pkg) (home s : Nat) : Pkg :=
  { p with panApps := p.panApps.put (home * 2 ^ 16 + s) (p.panApps.get 0 (home * 2 ^ 16 + s) + 1) }

/-- An application at the home (R105, R110, R158 to R164, R433). -/
def Pkg.panHome (p : Pkg) (c : PanCall) : PanEnd :=
  match p.route? c.attr.space c.va with
  | none => .wait
  | some r =>
    let home := p.homeOf r.key
    match p.panCheck home c.attr.space c.slot c.returning with
    | .error code => .done p code false false 0
    | .ok e =>
      let p := p.useEntry home c.attr.space c.slot e
      let q := (p.brine.filter fun b => b.key == r.key && c.recalls home b).foldl Pkg.crystallize p
      if p.down r.key then .wait
      else if q.brine.any fun b => b.key == r.key && c.recalls home b then .wait
      else if !c.returning && q.hasRec r.key then q.panPark c r.key e
      else
        match q.fill r.key (BitVec.allOnes 64) with
        | .error h =>
          if h.key ≠ r.key then .held h
          else if c.returning then .held { h with va := BitVec.ofNat 64 c.va } else q.panPark c r.key e
        | .ok q =>
          let q := q.countPan home c.attr.space
          if q.linePoison r.key then .done q 4 true true 0
          else
            match runRoutine (entHdr e) (entWords e) (q.lineData r.key) c.operand with
            | .fail code => .done q code true true 0
            | .done none ret => .done q 0 true true ret
            | .done (some l) ret =>
              let lvl := q.levelOf c.origin [] [r.key]
              if q.exclusiveHolds lvl c.origin [r.key] none then .wait
              else .done ((q.broadcast lvl c.origin [r.key] none).homeWrite r.key (BitVec.allOnes 64) l c.attr none) 0 true true ret

/-! ### Brine copies (R165, R166) -/

/-- Slice that holds a die's brine copy of a line. -/
def brineSlice (die key : Nat) : Nat := die * 64 + lineHash (keyVa key) % 64

/-- The slice of a call's own die that would hold a copy of its line. -/
def Pkg.copySlice (p : Pkg) (c : PanCall) : Nat :=
  brineSlice (c.origin / 64) (((p.route? c.attr.space c.va).map Route.key).getD 0)

/-- Whether a non-returning element is applied to a brine copy. The entry is the one that the copy's own slice would use; an element
for which that slice has none goes to the home, whose slice decides. DESIGN CHOICE, log entry 119. -/
def Pkg.brineFits (p : Pkg) (c : PanCall) : Bool :=
  match p.panCheck (p.copySlice c) c.attr.space c.slot c.returning, p.route? c.attr.space c.va with
  | .ok e, some r =>
    hdrC (entHdr e) && hdrI (entHdr e) && !holdsFail (entWords e) && !c.returning && p.homeOf r.key / 64 != c.origin / 64
  | _, _ => false

/-- The line leaves every L1 (R112). -/
def Pkg.dropHolders (p : Pkg) (key : Nat) : Pkg :=
  match Tab.find? p.l2 key with
  | none => p
  | some l =>
    let p := l.holders.foldl (fun p c => p.modCore c (·.loseLine key)) p
    { p with l2 := p.l2.put key { l with holders := [], dirtyAt := none } }

/-- Create and register a copy: room is made at the slice, by the copy that was created first, copies of other keys are recalled,
running chunks that hold the line are squashed (R166, R112). None where it must wait. DESIGN CHOICE, log entry 105. -/
def Pkg.brineNew (p : Pkg) (c : PanCall) (key e : Nat) : Option Pkg :=
  let die := c.origin / 64
  let other (b : Brine) : Bool := b.key == key && (b.die == die || b.space != c.attr.space || b.slot != c.slot)
  if p.down key || p.exclusiveHolds .package c.origin [key] none then none
  else
    let p := (p.brine.filter other).foldl Pkg.crystallize p
    let here (b : Brine) : Bool := b.die == die && brineSlice die b.key == brineSlice die key
    let p := if (p.brine.filter here).length < 256 then p
      else match List.find? here p.brine with
        | some b => if p.down b.key then p else p.crystallize b
        | none => p
    if p.brine.any other || (p.brine.filter here).length ≥ 256 then none
    else
      let p := (p.broadcast .package c.origin [key] none).dropHolders key
      some { p with brine := p.brine ++ [{ die, key, space := c.attr.space, slot := c.slot,
                                           rgen := BitVec.ofNat 16 (entGen e), value := 0, bad := false }] }

def Brine.sameCopy (b : Brine) (die key : Nat) : Bool := b.die == die && b.key == key

/-- Run the routine on the partial value: a copy keeps END's value. -/
def Brine.apply (b : Brine) (e : Nat) (operand : Line) : Brine :=
  match runRoutine (entHdr e) (entWords e) b.value operand with
  | .done (some l) _ => { b with value := l }
  | .done none _ | .fail _ => b

/-- An application to the die's brine copy. -/
def Pkg.panBrine (p : Pkg) (c : PanCall) : PanEnd :=
  match p.panCheck (p.copySlice c) c.attr.space c.slot false, p.route? c.attr.space c.va with
  | .ok e, some r =>
    let die := c.origin / 64
    if (Tab.find? p.resetting die).isSome then .wait else
    let p := p.useEntry (p.copySlice c) c.attr.space c.slot e
    let q := match List.find? (fun b => b.sameCopy die r.key) p.brine with
      | some b => if b.space == c.attr.space && b.slot == c.slot then some p else p.brineNew c r.key e
      | none => p.brineNew c r.key e
    match q with
    | none => .wait
    | some q =>
      let q := q.countPan (brineSlice die r.key) c.attr.space
      .done { q with brine := updWhere (fun b => b.sameCopy die r.key) (fun b : Brine => b.apply e c.operand) q.brine }
        0 true true 0
  | .error code, _ => .done p code false false 0
  | _, none => .wait

/-! ### The elements of a released invocation (R110, R169, R397) -/

/-- The next element of a PANN or PANV, as a call. -/
def Op.panNext (o : Op) : Option PanCall :=
  match o.kind with
  | .pan slot els =>
    (els[o.done.length]?).map fun e =>
      { attr := o.attr, origin := o.who.core, slot, lidx := o.lidx, lane := e.lane, va := e.va.toNat, operand := e.operand,
        returning := false }
  | .copy .. | .get .. | .put .. | .rpan .. | .msg .. | .bput .. | .bdrop .. | .attest .. => none

/-- Whether an operation still has to apply an element to a line. -/
def Op.owesLine (o : Op) (line : Nat) : Bool :=
  match o.kind with
  | .pan _ els => (els.drop o.done.length).any fun e => e.va.toNat / 64 == line
  | .copy .. | .get .. | .put .. | .rpan .. | .msg .. | .bput .. | .bdrop .. | .attest .. => false

/-- An invocation of the same context, released before operation `id`, still has to be applied to the line (R110). -/
def Pkg.panBehind (p : Pkg) (who : CtxRef) (gen : BitVec 16) (id va : Nat) : Bool :=
  p.ops.any fun a => decide (a.id < id) && a.who == who && a.gen == gen && a.owesLine (va / 64)

/-- The invocation's status word, once its last element has ended (R162). -/
def Op.panWord (o : Op) : Word := panStatus (if o.code = 0 then 1 else 2) o.code o.lane o.bytes

/-- The next element of an operation takes its place, by `f`. -/
def Pkg.panElement (p : Pkg) (o : Op) (c : PanCall) (f : PanEnd) : Pkg :=
  if p.panBehind o.who o.gen o.id c.va || !p.opAllowed o 4 c.lane then p
  else
    match f with
    | .wait => p
    | .held h => p.holdOp o o.done.length h
    | .done q code counted ran _ =>
      let q := if counted then q.advance o.space cPanInv 1 else q
      let q := if ran then q.watchEvent o.space (c.va / 64 * 64) 64 7 3 o c.lane else q
      let q := q.logOp o 4 c.lane
      let first := o.code = 0 ∧ code ≠ 0
      let o := { o with done := o.done ++ [o.done.length], bytes := o.bytes + counted.toNat, held := [],
                        code := if first then code else o.code, lane := if first then c.lane else o.lane }
      if o.panNext.isSome then q.setOp o else q.endOp o o.panWord

end Sys2Proof.Machine
end

