-- ==== Sys2Proof/Machine/DebugOps.lean ====
section
/-! DEFINITION. What debug instructions, debug events and hosts share: privilege and rights (R325, R340, R406), the release
and the records of a stop (R408 to R412), snapshots (R415, R416), and what an operation of a window's range is (R88). -/

namespace Sys2Proof.Machine

/-! ### Privilege and rights -/

def Pkg.privOf (p : Pkg) (core : Nat) : Nat := ((p.space? (p.spaceOf core)).map Space.priv).getD 0

/-- The lifecycle state that the fuse's thermometer pattern holds: its number of ones, from bit 0 up; any other pattern reads as
SCRAPPED (R452). DEDUCED, log entry 120. -/
def Fuses.lcs (f : Fuses) : Nat :=
  let pattern := fld (f.words.get 0 0).toNat 7 0
  (List.find? (fun n => pattern == 2 ^ n - 1) [1, 2, 3, 4]).getD 4

/-- Whether every debug right is held without a grant (Table 21.1). DEDUCED, log entry 48. -/
def Pkg.allRights (p : Pkg) (f : Fuses) : Bool := p.unlk || f.lcs == 1 || f.lcs == 3

/-- Bits of RIGHTS (R340). -/
def rightWatch : Nat := 0
def rightStop : Nat := 1
def rightStep : Nat := 2
def rightTrace : Nat := 3
def rightReplay : Nat := 4

/-- Whether a target's grant gives a tool space a right. -/
def Pkg.granted (p : Pkg) (target tool bit : Nat) : Bool :=
  match p.space? target with
  | some s => s.tool == tool && s.rights.getLsbD bit
  | none => false

/-- R340, for an instruction that a context of `core` issues. -/
def Pkg.mayDebug (p : Pkg) (f : Fuses) (core target bit : Nat) : Bool :=
  target == p.spaceOf core || decide (1 ≤ p.privOf core) || p.granted target (p.spaceOf core) bit || p.allRights f

/-! ### Stops -/

/-- A halted context goes on: it issues, or still waits for the reservation it has asked for. -/
def Ctx.resume (pt : Nat) (c : Ctx) : Ctx :=
  if c.st = .halted then
    if c.exclWant.isSome then { c with st := .waiting, wait := some (.exclusive, pt) } else { c with st := .running, wait := none }
  else c

/-- The stop that goes on holding a task once one is released. -/
def Pkg.otherStop (p : Pkg) (seq : Nat) (r : TaskRef) : Option Nat :=
  (List.find? (fun (s : Stop) => s.seq != seq && s.halted.contains r) p.stops).map Stop.seq

/-- An image of a core is that of a task. -/
def Core.runs (k : Core) (r : TaskRef) : Bool := (k.task.map Task.launched) == some r.step

/-- The image of a task: on its core, or saved. -/
def Pkg.image (p : Pkg) (r : TaskRef) : Option Core :=
  if (p.core r.core).runs r then some (p.core r.core)
  else (List.find? (fun e => e.1 == r.core && e.2.runs r) p.saved).map Prod.snd

/-- A change of a task's image. -/
def Pkg.modImage (p : Pkg) (r : TaskRef) (f : Core → Core) : Pkg :=
  if (p.core r.core).runs r then p.modCore r.core f
  else { p with saved := p.saved.map fun (e : Nat × Core) => if e.1 == r.core && e.2.runs r then (e.1, f e.2) else e }

/-- Release a stop in a task's image: contexts that it alone holds resume at their saved PCs, and the task's cycles count again,
unless it is pre-empted (R378, R412). -/
def Core.release (seq : Nat) (other : Option Nat) (pt : Nat) (here : Bool) (k : Core) : Core :=
  let goes := other.isNone && here && !k.preempt
  { k with task := k.task.map fun (t : Task) => if goes then { t with start := pt } else t,
           ctxs := k.ctxs.map fun (e : Nat × Ctx) =>
      if e.2.stop = some seq then
        let c : Ctx := { e.2 with stop := other }
        (e.1, if !goes || c.stepping.isSome then c else c.resume pt)
      else e }

def Pkg.doRelease (p : Pkg) (s : Stop) : Pkg :=
  let p := s.halted.foldl (fun p r => p.modImage r (Core.release s.seq (p.otherStop s.seq r) p.pt ((p.core r.core).runs r))) p
  { p with stops := p.stops.filter fun (a : Stop) => a.seq != s.seq }

/-- Release a stop: at once where its entries are written, else when they have been (R410, R412).
DESIGN CHOICE, log entry 49. -/
def Pkg.releaseStop (p : Pkg) (s : Stop) : Pkg :=
  if s.recorded then p.doRelease s
  else { p with stops := updWhere (fun (a : Stop) => a.seq == s.seq) (fun a : Stop => { a with rel := true }) p.stops }

/-- NOTE 0x12 entry of a halted context (Table 18.2). -/
def haltedEntry (s : Stop) (x : CtxRef) (c : Ctx) : Nat :=
  let (skid, rskid) := s.skids.get (0, 0) x.gcid
  c.regs.pc.toNat <<< 448 + c.regs.retired.toNat <<< 384 + c.chunkseq.toNat <<< 336 + c.gen.toNat <<< 320 + s.target <<< 304 +
    x.gcid <<< 291 + 0x12 <<< 272 + s.seq <<< 192 + min 65535 skid <<< 176 + min (2 ^ 32 - 1) rskid <<< 144

/-- A core has received the broadcast for a task: its halted contexts are held, and their entries stand as they are at the halt;
a FREE one has none (R410). -/
def Pkg.stopTask (p : Pkg) (s : Stop) (r : TaskRef) : Pkg :=
  let hold (k : Core) : Core :=
    { k with ctxs := k.ctxs.map fun (e : Nat × Ctx) =>
        if e.2.st = .halted ∧ e.2.stop.isNone then (e.1, { e.2 with stop := some s.seq }) else e }
  let p := p.modImage r hold
  let held := ((p.image r).map Core.ctxs).getD [] |>.filter fun e => e.2.st != .free
  let note (a : Stop) : Stop :=
    { a with halted := a.halted ++ [r],
             notes := held.foldl (fun t e => t.put (CtxRef.gcid ⟨r.core, e.1⟩) (haltedEntry a ⟨r.core, e.1⟩ e.2)) a.notes }
  { p with stops := updWhere (fun (a : Stop) => a.seq == s.seq) note p.stops }

/-- A core receives the stop broadcast (R409): the task on it halts, and is charged. DEDUCED, log entry 78. -/
def Pkg.stopCore (p : Pkg) (s : Stop) (r : TaskRef) : Pkg :=
  let q := p.haltCore r.core
  (if (p.core r.core).preempt then q else q.charge r.core).stopTask s r

/-- NOTE 0x11 entry, which closes a stop. -/
def stopEntry (s : Stop) (n : Nat) : Nat :=
  n <<< 384 + s.target <<< 304 + s.cause <<< 280 + 0x11 <<< 272 + s.seq <<< 192 + s.dom <<< 136

/-- Write a stop's entries (R410), and release it if that has been asked for. -/
def Pkg.recordStop (p : Pkg) (s : Stop) : Pkg :=
  let p := s.hits.foldl (fun p h => p.modDring s.tool (·.post (h.entry s.seq))) p
  let p := s.notes.foldl (fun p e => p.modDring s.tool (·.post e.2)) p
  let p := p.modDring s.tool (·.post (stopEntry s (if s.strayed then 0 else s.notes.length)))
  let p := { p with stops := updWhere (fun (a : Stop) => a.seq == s.seq) (fun a : Stop => { a with recorded := true }) p.stops }
  if s.rel then p.doRelease s else p

/-- Raise a stop of cause 0x31 with DOM 0 in its entry (R342, R422, R423). -/
def Pkg.raiseStop (p : Pkg) (tool target : Nat) (tasks : List TaskRef) : Pkg := p.newStop 0x31 tool target 0 tasks []

/-! ### Snapshots (R415, R416) -/

/-- Add one at a unit and a space. -/
def bump (t : Tab Nat) (unit space : Nat) : Tab Nat := t.put (unit * 2 ^ 16 + space) (t.get 0 (unit * 2 ^ 16 + space) + 1)

/-- Contexts as their last commit left them: what asks for its commit, or runs, has not committed (R68, R415). DEDUCED, log
entry 64. -/
def Pkg.snapCtxs (p : Pkg) : List SnapCtx :=
  p.allCtxs.map fun x =>
    let c := p.ctx x
    let free := c.st = .free
    let last := (c.req.getD c.ch).start
    { x, pc := last.pc, chunkseq := c.chunkseq, gen := c.gen, retired := last.retired, squash := c.sqLive,
      space := if free then 0 else p.spaceOf x.core, st := c.st }

def Pkg.snapCores (p : Pkg) : List SnapCore :=
  p.cores.map fun (c, k) =>
    { core := c, space := k.task.map Task.space, dropped := k.dropped, squashes := k.squashes,
      stamp0 := (k.bslots.get .zero 0).stamp, stamp1 := (k.bslots.get .zero 1).stamp, inbox := k.inbox.length }

def EKind.panEls : EKind → List PanEl
  | .pan _ els => els
  | .copy .. | .get .. | .put .. | .rpan .. | .msg .. | .bput .. | .bdrop .. | .attest .. => []

/-- Accesses held at the MCs: of contexts, of operations and of queues, of their own spaces, and of the module and of inbound requests,
of their lines' (Table 18.3). DEDUCED, log entry 64. -/
def Pkg.heldCounts (p : Pkg) : Tab Nat :=
  let t := p.allCtxs.foldl (fun t x =>
    match (p.ctx x).st, (p.ctx x).held with
    | .held, some h => bump t (mcOf (keyVa h.key)) (p.spaceOf x.core)
    | _, _ => t) []
  let t := p.ops.foldl (fun t o => o.held.foldl (fun t e => bump t (mcOf (keyVa e.2)) o.space) t) t
  let t := p.queues.foldl (fun t e => e.2.held.toList.foldl (fun t k => bump t (mcOf (keyVa k)) e.2.space.toNat) t) t
  p.modHeld.foldl (fun t k => bump t (mcOf (keyVa k)) (keySpace k)) t

/-- Pan applications that wait at each slice (Table 18.3): elements neither applied nor held. DEDUCED, log entry 57. -/
def Pkg.panDepths (p : Pkg) : Tab Nat :=
  p.ops.foldl (fun t o =>
    let waits := ((o.kind.panEls).zipIdx).filter fun e => !o.done.contains e.2 && !o.held.any fun h => h.1 == e.2
    waits.foldl (fun t e => match p.route? o.space e.1.va.toNat with
      | some r => bump t (p.homeOf r.key) o.space
      | none => t) t) []

/-- Latch every snapshot register (R344). DESIGN CHOICE, log entry 57. -/
def Pkg.latch (p : Pkg) (trig : Nat) : Pkg :=
  let n := p.snapSeq + 1
  let s : Snapshot :=
    { seq := n, pt := p.pt, trig, ctxs := p.snapCtxs, cores := p.snapCores, misses := p.l2miss, pans := p.panApps, depths := p.panDepths,
      brine := p.brine.foldl (fun t b => bump t (brineSlice b.die b.key) b.space) [],
      recs := p.recs.foldl (fun t r => bump t r.mc r.attr.space) [], helds := p.heldCounts, trans := p.transl }
  { p with snapSeq := n, snaps := (s :: p.snaps).take 8 }

/-! ### Operations that use a range (R88) -/

/-- Local byte ranges of an operation: start and length. -/
def EKind.ranges (k : EKind) : List (Nat × Nat) :=
  match k with
  | .copy dst src n0 n1 n2 ss1 ds1 ss2 ds2 m =>
    let x : Shape := ⟨dst, src, n0, n1, n2, ss1, ds1, ss2, ds2⟩
    let rows := (List.range (n1 * n2)).flatMap fun w =>
      let (d, s) := x.at_ (w * n0)
      [(d.toNat, n0), (s.toNat, n0)]
    match m with
    | some va => (va.toNat, 64 * ((x.total + shardBytes - 1) / shardBytes)) :: rows
    | none => rows
  | .get a _ n _ | .put a _ n _ => [(a.toNat, n)]
  | .pan _ els => els.map fun e => (e.va.toNat, 64)
  | .bput _ base pitch kind _ =>
    let (rows, n) := match kind with
      | .bput4 => (256, 64)
      | .bput8 => (256, 128)
      | .bput16 => (128, 256)
      | .bdrop => (0, 0)
    (List.range rows).map fun i => ((base + BitVec.ofNat 64 i * pitch).toNat, n)
  | .attest out _ => [(out.toNat, 4096)]
  | .rpan .. | .msg .. | .bdrop .. => []

/-- Whether an operation uses a byte of `[lo, hi)`. -/
def Op.uses (o : Op) (lo hi : Nat) : Bool := o.kind.ranges.any fun r => decide (r.1 < hi) && decide (lo < r.1 + r.2)

end Sys2Proof.Machine
end

