-- ==== Sys2Proof/Machine/P384.lean ====
section
/-! DEFINITION. ECDSA over P-384 with the deterministic nonce of RFC 6979 (R445, R447, R454). The curve's constants are the
published standard's. Points are Jacobian triples; Z = 0 is the point at infinity. -/

namespace Sys2Proof.Machine

def p384p : Nat := 0xFFFFFFFFFFFFFFFFFFFFFFFFFFFFFFFFFFFFFFFFFFFFFFFFFFFFFFFFFFFFFFFEFFFFFFFF0000000000000000FFFFFFFF
def p384n : Nat := 0xFFFFFFFFFFFFFFFFFFFFFFFFFFFFFFFFFFFFFFFFFFFFFFFFC7634D81F4372DDF581A0DB248B0A77AECEC196ACCC52973
def p384b : Nat := 0xB3312FA7E23EE7E4988E056BE3F82D19181D9C6EFE8141120314088F5013875AC656398D8A2ED19D2A85C8EDD3EC2AEF
def p384gx : Nat := 0xAA87CA22BE8B05378EB1C71EF320AD746E1D3B628BA79B9859F741E082542A385502F25DBF55296C3A545E3872760AB7
def p384gy : Nat := 0x3617DE4A96262C6F5D9E98BF9292DC29F8F41DBD289A147CE9DA3113B5F0B8C00A60B1CE1D7E819D7A431D7C90EA0E5F

structure JPoint where
  x : Nat
  y : Nat
  z : Nat
  deriving DecidableEq, Repr

/-- `b^e mod m` over the low `k` bits of `e`, from the highest. -/
def powMod (b e m : Nat) : Nat → Nat → Nat
  | 0, acc => acc
  | k + 1, acc =>
    let sq := acc * acc % m
    powMod b e m k (if e.testBit k then sq * b % m else sq)

def invMod (a m : Nat) : Nat := powMod (a % m) (m - 2) m 384 1

def fsub (a b : Nat) : Nat := (a + p384p - b % p384p) % p384p

def jDouble (a : JPoint) : JPoint :=
  if a.z = 0 ∨ a.y = 0 then ⟨1, 1, 0⟩
  else
    let zz := a.z * a.z % p384p
    let m := 3 * (fsub a.x zz) * ((a.x + zz) % p384p) % p384p
    let yy := a.y * a.y % p384p
    let s := 4 * a.x * yy % p384p
    let x := fsub (m * m % p384p) (2 * s % p384p)
    let y := fsub (m * fsub s x % p384p) (8 * yy * yy % p384p)
    ⟨x, y, 2 * a.y * a.z % p384p⟩

def jAdd (a b : JPoint) : JPoint :=
  if a.z = 0 then b
  else if b.z = 0 then a
  else
    let az := a.z * a.z % p384p
    let bz := b.z * b.z % p384p
    let u1 := a.x * bz % p384p
    let u2 := b.x * az % p384p
    let s1 := a.y * bz * b.z % p384p
    let s2 := b.y * az * a.z % p384p
    if u1 = u2 then (if s1 = s2 then jDouble a else ⟨1, 1, 0⟩)
    else
      let h := fsub u2 u1
      let r := fsub s2 s1
      let hh := h * h % p384p
      let hhh := h * hh % p384p
      let v := u1 * hh % p384p
      let x := fsub (fsub (r * r % p384p) hhh) (2 * v % p384p)
      let y := fsub (r * fsub v x % p384p) (s1 * hhh % p384p)
      ⟨x, y, h * a.z * b.z % p384p⟩

/-- `k × P`, over the low `n` bits of `k` from the highest. -/
def jMul (k : Nat) (p : JPoint) : Nat → JPoint → JPoint
  | 0, acc => acc
  | n + 1, acc =>
    let d := jDouble acc
    jMul k p n (if k.testBit n then jAdd d p else d)

def jAffine (a : JPoint) : Nat × Nat :=
  let zi := invMod a.z p384p
  let z2 := zi * zi % p384p
  (a.x * z2 % p384p, a.y * z2 * zi % p384p)

def p384g : JPoint := ⟨p384gx, p384gy, 1⟩

def mulG (k : Nat) : JPoint := jMul k p384g 384 ⟨1, 1, 0⟩

def beNat (l : List Byte) : Nat := l.foldl (fun a b => 256 * a + b.toNat) 0

def beBytes48 (n : Nat) : List Byte := (leBytes n 48).reverse

/-- Uncompressed public key of a private key: 0x04, X, Y. -/
def pubKey (d : Nat) : List Byte :=
  let (x, y) := jAffine (mulG d)
  0x04 :: (beBytes48 x ++ beBytes48 y)

/-- RFC 6979: candidate nonces, until one lies in range; `fuel` tries. -/
def nonceGo : Nat → List Byte → List Byte → Nat
  | 0, _, _ => 1
  | fuel + 1, key, v =>
    let v := hmacSha384 key v
    let k := beNat v
    if 1 ≤ k ∧ k < p384n then k
    else
      let key := hmacSha384 key (v ++ [0])
      nonceGo fuel key (hmacSha384 key v)

def rfcNonce (d : Nat) (h : List Byte) : Nat :=
  let x := beBytes48 d ++ beBytes48 (beNat h % p384n)
  let v0 := List.replicate 48 (0x01 : Byte)
  let k0 := List.replicate 48 (0x00 : Byte)
  let k1 := hmacSha384 k0 (v0 ++ [0] ++ x)
  let v1 := hmacSha384 k1 v0
  let k2 := hmacSha384 k1 (v1 ++ [1] ++ x)
  nonceGo 64 k2 (hmacSha384 k2 v1)

/-- Signature over a SHA-384 digest: r then s, each 48 bytes big-endian (R445). -/
def ecdsaSign (d : Nat) (h : List Byte) : List Byte :=
  let k := rfcNonce d h
  let r := (jAffine (mulG k)).1 % p384n
  let s := invMod k p384n * (beNat h + r * d) % p384n
  beBytes48 r ++ beBytes48 s

/-- Whether an uncompressed point lies on the curve. -/
def onCurve (x y : Nat) : Bool :=
  decide (x < p384p ∧ y < p384p) &&
  decide (y * y % p384p = fsub ((x * x % p384p * x + p384b) % p384p) (3 * x % p384p))

def ecdsaVerify (pub h sig : List Byte) : Bool :=
  let x := beNat ((pub.drop 1).take 48)
  let y := beNat ((pub.drop 49).take 48)
  let r := beNat (sig.take 48)
  let s := beNat ((sig.drop 48).take 48)
  decide (pub.head? = some 0x04) && onCurve x y && decide (1 ≤ r ∧ r < p384n ∧ 1 ≤ s ∧ s < p384n) &&
    let w := invMod s p384n
    let q := jAdd (mulG (beNat h * w % p384n)) (jMul (r * w % p384n) ⟨x, y, 1⟩ 384 ⟨1, 1, 0⟩)
    decide (q.z ≠ 0) && decide ((jAffine q).1 % p384n = r)

/-- The private key of a CDI (R447): HKDF, then reduced into [1, n-1]. -/
def cdiKey (cdi info : List Byte) : Nat := beNat (hkdf64 cdi (List.replicate 48 0) info) % (p384n - 1) + 1

end Sys2Proof.Machine
end

