-- ==== Sys2Proof/Machine/System.lean ====
section
/-! DEFINITION. Traps, system registers, purge, windows, counters and attestation: R325 to R339, R445 to R451. -/

namespace Sys2Proof.Machine

/-! ### Traps (R332 to R334) -/

def execTrap (g : Guard) (imm : BitVec 16) (s : State) : Host.Outcome State Fault Refusal :=
  s.issue { guard := g, cut := true, body := return .next, after := fun p => p.takeFault p.cur 1 0 imm.toNat }

def execEret (g : Guard) (s : State) : Host.Outcome State Fault Refusal :=
  s.issue
    { guard := g, cut := true,
      body := do
        let r ← M.r
        if !r.trapcause.getLsbD 31 then M.invocation 0x2F
        M.setRegs Regs.trapReturn
        return .jump r.trappc }

/-! ### System registers (R327 to R331) -/

/-- The value SYSRD gives. -/
def Pkg.sysread (p : Pkg) (x : CtxRef) (sel : SysReg) : Word :=
  let c := p.ctx x
  match sel with
  | .spaceid => BitVec.ofNat 64 (p.privOf x.core <<< 16 + p.spaceOf x.core)
  | .ctxid => BitVec.ofNat 64 x.gcid
  | .ctxgen => c.gen.setWidth 64
  | .chunklen => c.regs.chunklen
  | .chunkseq => BitVec.ofNat 64 c.seq
  | .retired => c.regs.retired
  | .trapvec => c.regs.trapvec
  | .trapcause => c.regs.trapcause
  | .trappc => c.regs.trappc
  | .trapaddr => c.regs.trapaddr
  | .trapinfo => c.regs.trapinfo
  | .seed => c.regs.seed
  | .ftz => c.regs.ftz
  | .dbgcaps =>
    match p.space? (p.spaceOf x.core) with
    | some s => BitVec.ofNat 64 (s.tool <<< 32 + s.rights.toNat)
    | none => 0
  | .profk => p.profPend.getD p.profk

def execSysrd (g : Guard) (d : SReg) (sel : SysReg) (s : State) : Host.Outcome State Fault Refusal :=
  s.issue
    { guard := g, dsts := [d.toNat],
      body := do
        let p ← get
        M.setS d (p.sysread p.cur sel)
        return .next }

/-- Bounds of CHUNKLEN (R55). -/
def clampLen (v : Word) : Word := if v.toNat < 512 then 512 else if v.toNat > 16384 then 16384 else v

/-- SYSWR of a register other than PROFK; reserved bits are dropped (R9). -/
def M.syswrite (sel : SysReg) (v : Word) : M Unit :=
  match sel with
  | .chunklen => M.setRegs fun r => { r with chunklen := clampLen v }
  | .trapvec => do
    if !addressForm v then throw (.fault 5 v.toNat 0)
    M.setRegs fun r => { r with trapvec := v }
  | .trapcause => M.setRegs fun r => { r with trapcause := v &&& 0x800000FF#64 }
  | .trappc => do
    if !addressForm v then throw (.fault 5 v.toNat 0)
    M.setRegs fun r => { r with trappc := v }
  | .trapaddr => M.setRegs fun r => { r with trapaddr := v }
  | .trapinfo => M.setRegs fun r => { r with trapinfo := v &&& 0xFFFFFF#64 }
  | .seed => M.setRegs fun r => { r with seed := v }
  | .ftz => M.setRegs fun r => { r with ftz := v &&& 7#64 }
  | .profk => do
    if v.toNat > 30 ∨ (1 ≤ v.toNat ∧ v.toNat ≤ 7) then M.invocation 0x28
    modify fun p => { p with profPend := some v }
  | .spaceid | .ctxid | .ctxgen | .chunkseq | .retired | .dbgcaps => pure ()

def execSyswr (g : Guard) (sel : SysReg) (a : SReg) (s : State) : Host.Outcome State Fault Refusal :=
  s.issue
    { guard := g, cut := sel == .profk, srcs := [a.toNat],
      priv := fun p => sel != .profk || decide (1 ≤ p.privOf p.cur.core),
      body := do
        M.syswrite sel ((← M.r).sr a)
        return .next }

/-! ### SPURGE (R335) -/

/-- A space named by a register, or the issuer's own where the field is 0 (R326). -/
def Pkg.namedSpace (p : Pkg) (c : SReg) : Nat :=
  if c = 0 then p.spaceOf p.cur.core else ((p.ctx p.cur).regs.sr c).toNat

/-- Whether the named space is the issuer's own, or PRIV 1 is held. -/
def Pkg.ownOrSystem (p : Pkg) (t : Nat) : Bool := t == p.spaceOf p.cur.core || decide (1 ≤ p.privOf p.cur.core)

/-- A line of space `t` that holds a byte of `[a, a + n)`. -/
def keyIn (t a n key : Nat) : Bool := keySpace key == t && decide (keyVa key < a + n) && decide (a < keyVa key + 64)

def Pkg.dropEverywhere (p : Pkg) (sel : Nat → Bool) : Pkg :=
  { p with l2 := p.l2.filter fun (e : Nat × L2Line) => !sel e.1,
           scale := p.scale.filter fun (e : Nat × Nat × Line × Bool) => !sel e.2.1,
           cores := p.cores.map fun (e : Nat × Core) =>
             (e.1, { e.2 with l1 := e.2.l1.filter fun (l : Nat × Nat) => !sel l.1,
                              invs := e.2.invs.filter fun (l : Nat × InvCopy) => !sel l.1,
                              icache := e.2.icache.filter fun (l : Nat × Line) => !sel l.1 }) }

/-- The four steps of a purge, as far as they go now, and whether they are done. A poisoned line takes its poison with it (R433). -/
def Pkg.purge (p : Pkg) (t a n : Nat) : Pkg × Bool :=
  let sel := keyIn t a n
  let holds (h : Chunk) : Bool := h.ulines.any fun u => sel u.1
  let holders := p.allCtxs.filter fun x => (p.ctx x).chunks.any holds
  if holders.any fun x => (p.ctx x).guarded.any holds then (p, false)
  else
    let p := holders.foldl (fun p x => p.squashIf x holds) p
    let p := (p.brine.filter fun b => sel b.key && !p.down b.key).foldl Pkg.crystallize p
    let p := (p.l2.filter fun e => sel e.1 && !p.down e.1).foldl (fun p e => p.writeBack e.1 0x21) p
    if (p.brine.any fun b => sel b.key) || (p.l2.any fun e => sel e.1 && e.2.dirty != 0) then (p, false)
    else (((p.l2.filter fun e => sel e.1 && e.2.poison).foldl (fun p e => p.poisonLine e.1) p).dropEverywhere sel, true)

def execSpurge (g : Guard) (d a b c : SReg) (s : State) : Host.Outcome State Fault Refusal :=
  s.issue
    { guard := g, cut := true, srcs := [a.toNat, b.toNat] ++ accessSrcs c, dsts := [d.toNat],
      priv := fun p => p.ownOrSystem (p.namedSpace c),
      body := do
        let p ← get
        let r ← M.r
        let t := p.namedSpace c
        let a := (r.sr a).toNat
        let n := (r.sr b).toNat
        if (p.space? t).isNone then M.invocation 0x28
        if n > 2 ^ 48 then M.invocation 0x28
        if n ≠ 0 ∧ a + n > lsBase then throw (.fault 2 (max a lsBase) 0)
        match if n = 0 then (p, true) else p.purge t a n with
        | (_, false) => throw (.wait .ops)
        | (q, true) =>
          set q
          M.setS d 0
          return .next,
      stopped := fun e p =>
        match e with
        | .wait .ops => (p.purge (p.namedSpace c) ((p.ctx p.cur).regs.sr a).toNat ((p.ctx p.cur).regs.sr b).toNat).1
        | .fault .. | .held _ | .cut | .squash | .wait _ | .poison _ => p }

/-! ### WINSET and FMTSET (R84, R88, R126, R128, R336) -/

/-- The 32-byte descriptor at a VA, read at the instruction's place. -/
def M.descriptor (va : Nat) : M (BitVec 256) := do
  let p ← get
  let s ← M.space
  match p.readAll s rRD va 32 with
  | .ok (b, bad, q) =>
    if bad then throw (.poison (((p.route? s va).map Route.key).getD 0))
    set q
    return BitVec.ofNat 256 (leNat b)
  | .error (.held h) => throw (.held h)
  | .error .wait => throw (.wait .ops)
  | .error (.refused a) => throw (.fault 2 a 0)

/-- First of a list of conditions that holds, by its code. -/
def firstCode : List (Bool × Nat) → Nat
  | [] => 0
  | (b, n) :: t => if b then n else firstCode t

def rangesMeet (d e : BitVec 256) : Bool :=
  e.getLsbD 0 && decide (fld d.toNat 63 24 ≤ fld e.toNat 127 88) && decide (fld e.toNat 63 24 ≤ fld d.toNat 127 88)

/-- Status of a window descriptor for an existing space (Table 12.3). -/
def windowStatus (sp : Space) (ix : Nat) (d : BitVec 256) : Nat :=
  let x := d.toNat
  let hmode := fld x 15 14
  let group := fld x 255 192
  let hcore := fld x 136 128
  let shared := x.testBit 13
  if !x.testBit 0 then 0
  else firstCode
    [(decide (fld x 127 88 < fld x 63 24), 1),
     (sp.windows.any fun w => w.1 != ix && rangesMeet d w.2, 2),
     (decide (fld x 127 88 ≥ lsBase / 65536), 3),
     (decide (hmode ≥ 2), 4),
     ((hmode == 0 && group != 0) || (hmode == 1 && (group == 0 || hcore != 0)), 5),
     (shared && (hmode != 0 || group != 0 || hcore != 0), 6),
     (fld x 191 137 != 0 || fld x 87 64 != 0 || fld x 23 16 != 0 || fld x 12 7 != 0, 7)]

/-- Whether a range of a space meets a SHARED window of it. -/
def Pkg.sharedRange (p : Pkg) (s va n : Nat) : Bool :=
  ((p.space? s).map Space.windows).getD [] |>.any fun w =>
    w.2.getLsbD 0 && w.2.getLsbD 13 && decide (fld w.2.toNat 63 24 * 65536 < va + n) && decide (va < (fld w.2.toNat 127 88 + 1) * 65536)

/-- Whether a chunk of space `s` uses a shared window: a load or store, an invariant load, a LINEWB, the range of a deferred
operation, or the fetch of an instruction, its first among them (R88). DEDUCED, log entry 102. -/
def Pkg.usesShared (p : Pkg) (s : Nat) (h : Chunk) : Bool :=
  (h.lines ++ h.ilines ++ h.wbs ++ h.flines).any (keySpace · == 0) || p.sharedRange s (lineOfPc h.start.pc) 64 ||
    h.deferred.any fun d => d.kind.ranges.any fun r => p.sharedRange s r.1 r.2

/-- Running chunks that a write of a window of space `t` squashes (R88). -/
def Pkg.windowUsers (p : Pkg) (t : Nat) : List CtxRef :=
  p.allCtxs.filter fun x =>
    let c := p.ctx x
    let s := p.spaceOf x.core
    let shared := c.chunks.any (p.usesShared s) || p.sharedRange s (lineOfPc c.regs.pc) 64
    x != p.cur && c.hasChunk && (s == t || (t == 0 && shared))

/-- Whether a released operation still needs the old descriptor of a valid window (R88). -/
def Pkg.windowBusy (p : Pkg) (t : Nat) (old : BitVec 256) : Bool :=
  old.getLsbD 0 && p.ops.any fun o =>
    (o.space == t || t == 0) && o.uses (fld old.toNat 63 24 * 65536) ((fld old.toNat 127 88 + 1) * 65536)

def execWinset (g : Guard) (d a b c : SReg) (s : State) : Host.Outcome State Fault Refusal :=
  s.issue
    { guard := g, cut := true, srcs := [a.toNat, b.toNat, c.toNat], dsts := [d.toNat],
      priv := fun p => decide (1 ≤ p.privOf p.cur.core),
      body := do
        let x ← M.me
        let r ← M.r
        let va := (r.sr b).toNat
        M.checkEl x rRD va 32 0
        let ix := (r.sr c).toNat
        if ix > 31 then M.invocation 0x28
        let w ← M.descriptor va
        let t := fld (r.sr a).toNat 15 0
        let p ← get
        match p.space? t with
        | none =>
          M.setS d 8
          return .next
        | some sp =>
          let code := windowStatus sp ix w
          if code = 0 then
            let users := p.windowUsers t
            if (users.any fun y => (p.ctx y).excl.isSome) || p.windowBusy t (sp.windows.get 0 ix) then throw (.wait .ops)
            let p := users.foldl (fun p y => p.squash y) p
            set (p.modSpace t fun sp => { sp with windows := sp.windows.set 0 ix (if w.getLsbD 0 then w else 0) })
          M.setS d (BitVec.ofNat 64 code)
          return .next }

/-- Status of a format window descriptor whose space exists (Table 12.3). -/
def formatStatus (fw : Tab (BitVec 256)) (ix : Nat) (d : BitVec 256) : Nat :=
  let x := d.toNat
  let fmt := fld x 79 76
  if !x.testBit 0 then 0
  else firstCode
    [(decide (fld x 127 88 < fld x 63 24), 1),
     (fw.any fun w => w.1 != ix && fld w.2.toNat 23 8 == fld x 23 8 && rangesMeet d w.2, 2),
     (decide (fld x 127 88 ≥ lsBase / 65536), 3),
     (!(1 ≤ fmt && fmt ≤ 6) || decide (fld x 75 72 > 9), 4),
     ((fld x 247 192 != 0) != (fmt == 1), 5),
     (fld x 255 248 != 0 || fld x 191 184 != 0 || fld x 87 80 != 0 || fld x 71 64 != 0 || fld x 7 1 != 0, 7)]

def execFmtset (g : Guard) (d a b : SReg) (s : State) : Host.Outcome State Fault Refusal :=
  s.issue
    { guard := g, cut := true, srcs := [a.toNat, b.toNat], dsts := [d.toNat],
      priv := fun p => decide (1 ≤ p.privOf p.cur.core),
      body := do
        let x ← M.me
        let r ← M.r
        let va := (r.sr a).toNat
        M.checkEl x rRD va 32 0
        let ix := (r.sr b).toNat
        if ix > 15 then M.invocation 0x28
        let w ← M.descriptor va
        let p ← get
        if (p.space? (fld w.toNat 23 8)).isNone then M.setS d 8
        else
          let code := formatStatus p.fmtw ix w
          if code = 0 then set { p with fmtw := p.fmtw.set 0 ix (if w.getLsbD 0 then w else 0) }
          M.setS d (BitVec.ofNat 64 code)
        return .next }

/-! ### CNTRD (R337) -/

def cntSpace (v : Word) : Nat := fld v.toNat 31 16

def execCntrd (g : Guard) (d a : SReg) (s : State) : Host.Outcome State Fault Refusal :=
  s.issue
    { guard := g, cut := true, srcs := [a.toNat], dsts := [d.toNat],
      priv := fun p => p.ownOrSystem (cntSpace ((p.ctx p.cur).regs.sr a)),
      body := do
        let v := (← M.r).sr a
        let p ← get
        if fld v.toNat 63 32 ≠ 0 ∨ fld v.toNat 15 4 ≠ 0 then M.invocation 0x28
        match p.space? (cntSpace v) with
        | none => M.invocation 0x28
        | some sp =>
          M.setS d (sp.counter (fld v.toNat 3 0))
          return .next }

/-! ### ATTEST (R338, R339, R445 to R451, R456) -/

/-- Fields of a request. -/
def reqKind (q : BitVec 512) : Nat := fld q.toNat 7 0
def reqSpace (q : BitVec 512) : Nat := fld q.toNat 31 16

/-- What ATTEST captures at its place, with the token's code (R445). -/
def Pkg.capture (p : Pkg) (f : Fuses) (q : BitVec 512) : AttRec :=
  let kind := reqKind q
  let sp := if kind = 1 then none else p.space? (reqSpace q)
  let code :=
    if f.lcs ≠ 2 then 0x18
    else if kind ≠ 1 ∧ sp.isNone then 0x1A
    else if kind = 2 ∧ (sp.bind Space.job).isNone then 0x19
    else 0
  let quar := (sp.map Space.quarantined).getD false
  { request := q, code, pt := p.pt,
    flags := p.unlk.toNat + 2 * p.fw.pend.isSome.toNat + 4 * quar.toNat,
    counters := (sp.map fun s => (List.range 16).map s.counter).getD [],
    mfw := p.fw.mfw, mpend := (p.fw.pend.map Prod.snd).getD 0, mdbg := p.mdbg, fwver := p.fw.version,
    job := sp.bind Space.job }

/-- The request of an ATTEST, read at its issue: its line's bytes. -/
def M.attRequest (va : Nat) : M (BitVec 512) := do
  let p ← get
  let s ← M.space
  match p.readAll s rRD va 64 with
  | .ok (b, bad, q) =>
    if bad then throw (.poison (((p.route? s va).map Route.key).getD 0))
    set q
    return BitVec.ofNat 512 (leNat b)
  | .error (.held h) => throw (.held h)
  | .error .wait => throw (.wait .ops)
  | .error (.refused a) => throw (.fault 2 a 0)

/-- Hand a captured request over; the token becomes pending (R339). -/
def Pkg.submit (p : Pkg) (x : CtxRef) (out : Word) (a : AttRec) (d : SReg) : Pkg :=
  let c := p.ctx x
  let queue := ((p.core x.core).task.map fun t => t.info.queue).getD 0
  let p := p.addOp x c.chunkseq.toNat 0 { kind := .attest out a, col := 0, tok := some d.toNat, ret := c.regs.retired } queue 0
  p.modCtx x fun c => { c with regs := { c.regs with pend := c.regs.pend.put d.toNat (c.tag 0) } }

def execAttest (g : Guard) (d a b : SReg) (s : State) : Host.Outcome State Fault Refusal :=
  s.issue
    { guard := g, cut := true, srcs := [a.toNat, b.toNat], dsts := [d.toNat],
      body := do
        let x ← M.me
        let r ← M.r
        let va := (r.sr a).toNat
        let out := (r.sr b).toNat
        if va % 64 ≠ 0 then throw (.fault 6 va 0)
        if out % 64 ≠ 0 then throw (.fault 6 out 0)
        M.checkRange x rRD va 64
        M.checkRange x (rENG + rWR) out 4096
        let q ← M.attRequest va
        if reqKind q > 2 ∨ fld q.toNat 15 8 ≠ 0 ∨ fld q.toNat 127 32 ≠ 0 then M.invocation 0x28
        let p ← get
        if p.privOf x.core = 0 ∧ (reqKind q = 2 ∨ (reqKind q = 0 ∧ reqSpace q ≠ p.spaceOf x.core)) then M.invocation 0x29
        set (p.submit x (r.sr b) (p.capture s.fuses q) d)
        return .next }

/-! ### The record -/

/-- A 48-byte value as bytes, byte 0 first. -/
def bytes48 (v : BitVec 384) : List Byte := leBytes v.toNat 48

/-- The fuse words from `n`, `k` of them, as bytes (Table 21.2). -/
def Fuses.bytes (f : Fuses) (n k : Nat) : List Byte := (regRange n k).flatMap fun i => leBytes (f.words.get 0 i).toNat 8

/-- Keys of R447: CDI0, and the attestation key under given measurements. -/
def cdi0 (f : Fuses) (v : Prov) : List Byte := hmacSha384 (f.bytes 16 8) (bytes48 v.mrom)
def infoDevid : List Byte := [0x67, 0x79, 0x39, 0x2D, 0x64, 0x65, 0x76, 0x69, 0x64]
def infoAttest : List Byte := [0x67, 0x79, 0x39, 0x2D, 0x61, 0x74, 0x74, 0x65, 0x73, 0x74]
def deviceKey (f : Fuses) (v : Prov) : Nat := cdiKey (cdi0 f v) infoDevid
def attestKey (f : Fuses) (v : Prov) (a : AttRec) : Nat :=
  cdiKey (hmacSha384 (cdi0 f v) (bytes48 a.mfw ++ bytes48 a.mdbg)) infoAttest

def wordsBytes (l : List Word) : List Byte := l.flatMap fun w => leBytes w.toNat 8

/-- Index of a module in a list of modules. -/
def indexOf (l : List Nat) (m : Nat) : Nat := ((l.zipIdx.find? fun e => e.1 == m).map Prod.snd).getD 0

/-- LEN of a record (R446, R448, R451). -/
def recordLen (kind : Nat) : Nat := if kind = 0 then 0x140 else if kind = 1 then 0x2C0 else 0x240

/-- Header of Table 20.2. -/
def recordHeader (v : Prov) (a : AttRec) (rseq : Nat) : List Byte :=
  let q := a.request
  leBytes (reqKind q) 1 ++ leBytes 1 1 ++ leBytes (reqSpace q) 2 ++ leBytes (recordLen (reqKind q)) 4 ++
    leBytes (v.modid % 2 ^ 24) 8 ++ leBytes (fld q.toNat 511 128) 48 ++ leBytes a.pt 8 ++ leBytes rseq 8 ++ leBytes a.flags 4 ++
    leBytes 0 12

/-- Body of Table 20.3 from 0x060 to 0x197, what ENDORSE signs. DEDUCED, log entry 56. -/
def reportBody (f : Fuses) (v : Prov) (a : AttRec) : List Byte :=
  bytes48 v.mrom ++ bytes48 a.mfw ++ bytes48 a.mpend ++ bytes48 a.mdbg ++ leBytes a.fwver 4 ++ leBytes f.lcs 4 ++ leBytes 0 8 ++
    pubKey (attestKey f v a) ++ leBytes 0 7

/-- Body of Table 20.5. -/
def jobBody (v : Prov) (a : AttRec) (j : Job) : List Byte :=
  leBytes j.jobid.toNat 8 ++ leBytes j.epoch 4 ++ leBytes j.list.length 4 ++ leBytes (indexOf j.list v.modid) 4 ++
    leBytes j.reason 1 ++ leBytes 0 3 ++ leBytes j.basePt 8 ++ bytes48 j.mdigest ++ bytes48 j.chain ++ wordsBytes j.base ++
    wordsBytes a.counters

/-- A whole record, signed (R445). -/
def recordBytes (f : Fuses) (v : Prov) (a : AttRec) (rseq : Nat) : List Byte :=
  let body :=
    match reqKind a.request, a.job with
    | 0, _ => wordsBytes a.counters
    | 1, _ =>
      let b := reportBody f v a
      let dk := deviceKey f v
      b ++ pubKey dk ++ leBytes 0 7 ++ ecdsaSign dk (sha384 b)
    | _, some j => jobBody v a j
    | _, none => []
  let m := recordHeader v a rseq ++ body
  m ++ ecdsaSign (attestKey f v a) (sha384 m)

/-- The record's lines are written as engine commits, and the token receives its status word (R339, R445).
DESIGN CHOICE, log entry 55. -/
def Pkg.writeRecord (p : Pkg) (f : Fuses) (v : Prov) (o : Op) (out : Word) (a : AttRec) : Pkg :=
  if a.code ≠ 0 then p.endOp o (engineStatus 2 a.code 0)
  else
    let b := recordBytes f v a (p.fw.rseq + 1)
    let lines := b.length / 64
    if !p.opAllowed o 3 0 then p
    else
      match p.writeBytes (some o.who.core) o.space (rENG + rWR) o.attr (lines + 2) out.toNat b with
      | .error (.held h) => p.holdOp o 0 h
      | .error .wait | .error (.refused _) => p
      | .ok q =>
        let q := (List.range lines).foldl (fun q i => (q.watchEvent o.space (out.toNat + 64 * i) 64 8 2 o i).logOp o 3 i) q
        let q := { q with fw := { q.fw with rseq := q.fw.rseq + 1 } }
        q.endOp o (engineStatus 1 0 b.length)

def execAttestRecordWritten (op : Nat) (s : State) : Host.Outcome State Fault Refusal :=
  s.run fun p =>
    match p.op? op with
    | none => p
    | some o =>
      let p := { p with req := some o.who.core }
      match o.kind with
      | .attest out a => p.writeRecord s.fuses s.prov o out a
      | .copy .. | .get .. | .put .. | .rpan .. | .pan .. | .msg .. | .bput .. | .bdrop .. => p

end Sys2Proof.Machine
end

