-- ==== Sys2Proof/Machine/Debug.lean ====
section
/-! DEFINITION. Debug instructions, keys and fuses: R340 to R347, R413, R452 to R455. -/

namespace Sys2Proof.Machine

/-! ### Watchpoints (R341) -/

/-- Running chunks of a space: a write of one of its watchpoints squashes them, as one of its windows does, so that no chunk
commits with accesses that it made under the old one (R88, R341). -/
def Pkg.spaceChunks (p : Pkg) (t : Nat) : List CtxRef :=
  p.allCtxs.filter fun x => x != p.cur && (p.ctx x).hasChunk && p.spaceOf x.core == t

def execDbgwp (g : Guard) (d a b c : SReg) (s : State) : Host.Outcome State Fault Refusal :=
  s.issue
    { guard := g, cut := true, srcs := [a.toNat, b.toNat] ++ accessSrcs c, dsts := [d.toNat],
      priv := fun p => p.mayDebug s.fuses p.cur.core (p.namedSpace c) rightWatch,
      body := do
        let p ← get
        let r ← M.r
        let t := p.namedSpace c
        let va := r.sr a
        let ctl := r.sr b
        let len := fld ctl.toNat 4 2
        if (p.space? t).isNone ∨ fld ctl.toNat 63 12 ≠ 0 ∨ len > 6 ∨ va.toNat % 2 ^ len ≠ 0 then M.invocation 0x28
        let ix := fld ctl.toNat 1 0
        let tool := p.spaceOf p.cur.core
        let users := p.spaceChunks t
        if users.any fun y => (p.ctx y).excl.isSome then throw (.wait .ops)
        set ((users.foldl (fun p y => p.squash y) p).modSpace t fun sp =>
          { sp with wps := if ctl.getLsbD 11 then sp.wps.put ix { va, ctl, tool } else sp.wps.drop ix })
        M.setS d 0
        return .next }

/-! ### DBGSTOP (R342, R409, R411, R412) -/

/-- The live context that a name names (Table 8.5). -/
def Pkg.named? (p : Pkg) (n : Word) : Option CtxRef :=
  let x := nameCtx n
  if nameZero n && decide (x.slot ≤ 10) && (p.ctx x).st != .free && (p.ctx x).gen == nameGen n then some x else none

/-- The task of the live context that a name names, and its space: a task that has been saved is still there, HALTED (R69, R411). -/
def Pkg.subject (p : Pkg) (n : Word) : Option (TaskRef × Nat) :=
  let x := nameCtx n
  let here (k : Core) : Option (TaskRef × Nat) :=
    if nameZero n && decide (x.slot ≤ 10) && (k.ctx x.slot).st != .free && (k.ctx x.slot).gen == nameGen n then
      some (⟨x.core, (k.task.map Task.launched).getD 0⟩, (k.task.map Task.space).getD 0)
    else none
  (here (p.core x.core)).or ((p.saved.filter fun e => e.1 == x.core).findSome? fun e => here e.2)

/-- A debug right on the space of the context that a register names; no check where none is named. -/
def Pkg.mayDebugCtx (p : Pkg) (f : Fuses) (a : SReg) (bit : Nat) : Bool :=
  match p.subject ((p.ctx p.cur).regs.sr a) with
  | some y => p.mayDebug f p.cur.core y.2 bit
  | none => true

/-- Stops that cover a task. -/
def Pkg.stopsOn (p : Pkg) (r : TaskRef) : List Stop := p.stops.filter fun s => s.tasks.contains r && !s.rel

def execDbgstop (g : Guard) (d a b : SReg) (s : State) : Host.Outcome State Fault Refusal :=
  s.issue
    { guard := g, cut := true, srcs := [a.toNat, b.toNat], dsts := [d.toNat],
      priv := fun p => p.mayDebugCtx s.fuses a rightStop,
      body := do
        let p ← get
        let r ← M.r
        let op := (r.sr b).toNat
        if op > 1 then M.invocation 0x28
        let tool := p.spaceOf p.cur.core
        match p.subject (r.sr a) with
        | none => M.setS d 1
        | some (y, t) =>
          if op = 0 then
            if (p.stopsOn y).isEmpty then set (p.raiseStop tool t (p.stopSet t 0 y))
            M.setS d 0
          else
            match (p.stopsOn y).filter fun (t : Stop) => t.tool == tool with
            | [] => M.setS d 2
            | l =>
              set (l.foldl Pkg.releaseStop p)
              M.setS d 0
        return .next }

/-! ### DBGSTEP (R343, R413) -/

/-- Let the target of a step go, once. -/
def Pkg.startStep (p : Pkg) (x y : CtxRef) (reg left : Nat) : Pkg :=
  if (p.ctx y).stepping.isSome then p
  else
    p.modCtx y fun c =>
      { c.resume p.pt with stepping := some { issuer := x, reg, left, from_ := c.regs.retired, reason := none } }

/-- Whether a context may be stepped by the current one, or is being stepped by it. One whose task has been pre-empted has no
core to run on. DESIGN CHOICE, log entry 109. -/
def Pkg.steppable (p : Pkg) (y : CtxRef) : Bool :=
  let c := p.ctx y
  match c.stepping with
  | some s => s.issuer == p.cur
  | none => c.st == .halted && c.stop.isSome && !(p.core y.core).preempt

def execDbgstep (g : Guard) (d a b : SReg) (s : State) : Host.Outcome State Fault Refusal :=
  s.issue
    { guard := g, cut := true, srcs := [a.toNat, b.toNat], dsts := [d.toNat],
      priv := fun p => p.mayDebugCtx s.fuses a rightStep,
      body := do
        let p ← get
        let r ← M.r
        let n := (r.sr b).toNat
        if n = 0 ∨ n > 2 ^ 20 then M.invocation 0x28
        match p.named? (r.sr a) with
        | some y => if p.steppable y then throw (.wait .step) else M.setS d (BitVec.allOnes 64)
        | none => M.setS d (BitVec.allOnes 64)
        return .next,
      stopped := fun e p =>
        match e with
        | .wait .step =>
          let r := (p.ctx p.cur).regs
          match p.named? (r.sr a) with
          | some y => p.startStep p.cur y d.toNat (r.sr b).toNat
          | none => p
        | .fault .. | .held _ | .cut | .squash | .wait _ | .poison _ => p }

/-- The issuer has waited 2^24 cycles. -/
def execDbgstepTimeout (core slot : Nat) (s : State) : Host.Outcome State Fault Refusal :=
  s.run fun p => if p.expired ⟨core, slot⟩ .step Config.stepTimeout then p.leaveStep ⟨core, slot⟩ else p

/-- A stepped context stands at its last committed boundary and may not go on. -/
def Ctx.stepDone (c : Ctx) : Bool := c.stepping.isSome && !c.stepOpen && c.idle && c.due.isNone

def execStepEnd (core slot : Nat) (s : State) : Host.Outcome State Fault Refusal :=
  s.run fun p =>
    let x : CtxRef := ⟨core, slot⟩
    let c := p.ctx x
    match c.stepping with
    | some t =>
      let i := p.ctx t.issuer
      if c.stepDone && p.replayAllows (p.spaceOf t.issuer.core) 2 t.issuer.gcid i.chunkseq.toNat 0 then
        p.reportStep x (t.reason.getD 0)
      else p
    | none => p

/-! ### SNAP, keys and fuses (R344 to R347) -/

def execSnap (g : Guard) (d : SReg) (s : State) : Host.Outcome State Fault Refusal :=
  s.issue
    { guard := g, cut := true, dsts := [d.toNat], priv := fun p => decide (1 ≤ p.privOf p.cur.core),
      body := do
        modify fun p => p.latch 0
        M.setS d (BitVec.ofNat 64 (← get).snapSeq)
        return .next }

/-- Every gateway port begins a new epoch (R257). DEDUCED, log entry 58. -/
def Pkg.newEpochs (p : Pkg) : Pkg := { p with epochs := (List.range 16).map fun i => (i, p.epochs.get 0 i + 1) }

def Pkg.keywipe (p : Pkg) (v : Nat) : Pkg :=
  let p := if v.testBit 0 then { p with keyDraw := p.keyDraw + 1 } else p
  let p := if v.testBit 1 then { p with sealWiped := true } else p
  if v.testBit 2 then { p.newEpochs with linkWiped := true } else p

def execKeywipe (g : Guard) (a : SReg) (s : State) : Host.Outcome State Fault Refusal :=
  s.issue
    { guard := g, cut := true, srcs := [a.toNat], priv := fun p => decide (2 ≤ p.privOf p.cur.core),
      body := do
        let v := ((← M.r).sr a).toNat
        if v > 7 then M.invocation 0x28
        modify fun p => p.keywipe v
        return .next }

/-- The word that FUSERD reads (Table 21.2). -/
def fuseRead (f : Fuses) (p : Pkg) (i : Nat) : Word :=
  if i = 0 then BitVec.ofNat 64 f.lcs
  else if 1 ≤ i ∧ i ≤ 13 then f.words.get 0 i
  else if 248 ≤ i ∧ i ≤ 253 then (Config.nonce p.resets).extractLsb' (64 * (i - 248)) 64
  else if i = 254 then boolWord p.unlk
  else 0
where
  boolWord (b : Bool) : Word := if b then 1 else 0

def execFuserd (g : Guard) (d a : SReg) (s : State) : Host.Outcome State Fault Refusal :=
  s.issue
    { guard := g, cut := true, srcs := [a.toNat], dsts := [d.toNat], priv := fun p => decide (2 ≤ p.privOf p.cur.core),
      body := do
        let i := ((← M.r).sr a).toNat
        if i > 255 then M.invocation 0x28
        M.setS d (fuseRead s.fuses (← get) i)
        return .next }

/-- Bytes [a, a + n) of a token. -/
def tokenPart (t : List Byte) (a n : Nat) : List Byte := (t.drop a).take n

/-- Whether a token is well formed and signed under the unlock key (R454). -/
def tokenSigned (f : Fuses) (t : List Byte) : Bool :=
  let pub := tokenPart t 0x040 97
  leNat (tokenPart t 0 4) == 0x00019A47 && leNat (tokenPart t 4 1) == 1 && leNat (tokenPart t 5 3) == 0 &&
    leNat (tokenPart t 0x0A1 31) == 0 && sha384 pub == f.bytes 8 6 &&
    ecdsaVerify pub (sha384 (tokenPart t 0 0x3A0)) (tokenPart t 0x3A0 96)

/-- Whether a token names this module and this reset. -/
def tokenBound (f : Fuses) (p : Pkg) (t : List Byte) : Bool :=
  leNat (tokenPart t 0x008 8) == (f.words.get 0 1).toNat && leNat (tokenPart t 0x010 48) == (Config.nonce p.resets).toNat

/-- The code of R347. -/
def unlockCode (f : Fuses) (p : Pkg) (t : List Byte) : Nat :=
  if f.lcs ≠ 2 then 1
  else if !p.sealWiped then 2
  else if !tokenSigned f t then 3
  else if !tokenBound f p t then 4
  else if p.unlk then 5
  else 0

/-- The first poisoned line of `n` at a VA. -/
def Pkg.firstPoison (p : Pkg) (s va n : Nat) : Nat :=
  let line (i : Nat) : Option Nat := ((p.route? s (va + 64 * i)).filter p.linePoisoned).map Route.key
  ((List.range n).filterMap line).headD 0

def execUnlock (g : Guard) (d a : SReg) (s : State) : Host.Outcome State Fault Refusal :=
  s.issue
    { guard := g, cut := true, srcs := [a.toNat], dsts := [d.toNat], priv := fun p => decide (2 ≤ p.privOf p.cur.core),
      body := do
        let x ← M.me
        let va := ((← M.r).sr a).toNat
        if va ≥ vaTop then throw (.fault 2 va 0)
        if va % 64 ≠ 0 then throw (.fault 6 va 0)
        M.checkRange x rRD va 1024
        let sp ← M.space
        match (← get).readAll sp rRD va 1024 with
        | .ok (t, bad, q) =>
          if bad then throw (.poison (q.firstPoison sp va 16))
          let code := unlockCode s.fuses q t
          set (if code = 0 then { q with unlk := true, mdbg := BitVec.ofNat 384 (leNat (sha384 t)) } else q)
          M.setS d (BitVec.ofNat 64 code)
          return .next
        | .error (.held h) => throw (.held h)
        | .error .wait => throw (.wait .ops)
        | .error (.refused b) => throw (.fault 2 b 0) }

/-! ### The debug grant (R340) -/

/-- DEDUCED, log entry 50. -/
def execDbgcapGrant (g : Guard) (a b : SReg) (s : State) : Host.Outcome State Fault Refusal :=
  s.issue
    { guard := g, cut := true, srcs := [a.toNat, b.toNat],
      body := do
        let r ← M.r
        let tool := (r.sr a).toNat
        let rights := (r.sr b).toNat
        if tool > 0xFFFF ∨ rights > 0xFF then M.invocation 0x28
        let t ← M.space
        modify fun p => p.modSpace t fun sp => { sp with tool, rights := BitVec.ofNat 8 rights &&& 0x1F#8 }
        return .next }

/-- Everything a revoke of a space's grant does. DEDUCED, log entry 53. -/
def Pkg.revoke (p : Pkg) (t : Nat) : Pkg :=
  match p.space? t with
  | none => p
  | some sp =>
    let p := p.modSpace t fun sp => { sp with tool := 0, rights := 0 }
    let stepped := p.allCtxs.filter fun y => p.spaceOf y.core == t && (p.ctx y).stepping.isSome
    let p := stepped.foldl (fun p y => (p.modCtx y (Ctx.endStepBy · 3)).requestCut y) p
    if sp.tool = 0 ∧ sp.rights = 0 then p
    else
      let p := p.modSpace t fun sp' => { sp' with wps := sp'.wps.filter fun (w : Nat × Wp) => w.2.tool != sp.tool }
      (p.stops.filter fun (k : Stop) => k.tool == sp.tool && k.target == t).foldl Pkg.releaseStop p

def execDbgcapRevoke (g : Guard) (s : State) : Host.Outcome State Fault Refusal :=
  s.issue
    { guard := g, cut := true,
      body := do
        let t ← M.space
        modify fun p => p.revoke t
        return .next }

end Sys2Proof.Machine
end

