-- ==== Sys2Proof/Machine/Float.lean ====
section
/-! DEFINITION. Scalar floating point: SFP, R213 to R217. -/

namespace Sys2Proof.Machine

/-- FTZ selects flushing for scalar floating work (R330). -/
def ftzScl (r : Regs) : Bool := r.ftz.getLsbD 0

/-- Rounding of an SFP instruction: under RSH the linear index is 0 (R213). -/
def rndScl (r : Regs) (rm : RM) : Rnd := { rm, seed := r.seed.toNat, idx := 0, ftz := ftzScl r }

/-- An SFP operand, read from the low bits of its register (R213). -/
def fop (t : Ty) (r : Regs) (a : SReg) : Num := operand t (ftzScl r) (r.sr a).toNat

/-- A floating result: its code in the low bits, the rest zero (R213). -/
def Regs.setF (r : Regs) (d : SReg) (code : Nat) : Regs := r.setS d (BitVec.ofNat 64 code)

def Ins.f1 (g : Guard) (d a : SReg) (f : Regs → Nat) : Ins := .regOp g [a.toNat] [d.toNat] fun r => r.setF d (f r)
def Ins.f2 (g : Guard) (d a b : SReg) (f : Regs → Nat) : Ins := .regOp g [a.toNat, b.toNat] [d.toNat] fun r => r.setF d (f r)

def execFadd (g : Guard) (t : Ty) (rm : RM) (d a b : SReg) (s : State) : Host.Outcome State Fault Refusal :=
  s.issue (.f2 g d a b fun r => sumRound t (rndScl r rm) [fop t r a, fop t r b])

def execFsub (g : Guard) (t : Ty) (rm : RM) (d a b : SReg) (s : State) : Host.Outcome State Fault Refusal :=
  s.issue (.f2 g d a b fun r => sumRound t (rndScl r rm) [fop t r a, (fop t r b).neg])

def execFmul (g : Guard) (t : Ty) (rm : RM) (d a b : SReg) (s : State) : Host.Outcome State Fault Refusal :=
  s.issue (.f2 g d a b fun r => packNum t (rndScl r rm) ((fop t r a).mul (fop t r b)))

def execFfma (g : Guard) (t : Ty) (rm : RM) (d a b c : SReg) (s : State) : Host.Outcome State Fault Refusal :=
  s.issue (.regOp g [a.toNat, b.toNat, c.toNat] [d.toNat] fun r =>
    r.setF d (sumRound t (rndScl r rm) [(fop t r a).mul (fop t r b), fop t r c]))

def execFdiv (g : Guard) (t : Ty) (rm : RM) (d a b : SReg) (s : State) : Host.Outcome State Fault Refusal :=
  s.issue (.f2 g d a b fun r => divRound t (rndScl r rm) (fop t r a) (fop t r b))

def execFsqrt (g : Guard) (t : Ty) (rm : RM) (d a : SReg) (s : State) : Host.Outcome State Fault Refusal :=
  s.issue (.f1 g d a fun r => sqrtRound t (rndScl r rm) (fop t r a))

/-- Code of an operand with its subnormals flushed where FTZ selects it (R214). -/
def fcode (t : Ty) (r : Regs) (a : SReg) : Nat := flushCode t (ftzScl r) ((r.sr a).toNat % 2 ^ t.width)

def execFmin (g : Guard) (t : Ty) (d a b : SReg) (s : State) : Host.Outcome State Fault Refusal :=
  s.issue (.f2 g d a b fun r => minMax t false (fcode t r a) (fcode t r b))

def execFmax (g : Guard) (t : Ty) (d a b : SReg) (s : State) : Host.Outcome State Fault Refusal :=
  s.issue (.f2 g d a b fun r => minMax t true (fcode t r a) (fcode t r b))

def execFcvt (g : Guard) (t src : Ty) (rm : RM) (d a : SReg) (s : State) : Host.Outcome State Fault Refusal :=
  s.issue (.f1 g d a fun r => packNum t (rndScl r rm) (fop src r a))

/-- R216. -/
def execFcvti (g : Guard) (t src : Ty) (rm : RM) (d a : SReg) (s : State) : Host.Outcome State Fault Refusal :=
  s.issue (.regOp g [a.toNat] [d.toNat] fun r => r.setS d (toWord (numToInt t (rndScl r rm) (fop src r a))))

def execIcvtf (g : Guard) (t src : Ty) (rm : RM) (d a : SReg) (s : State) : Host.Outcome State Fault Refusal :=
  s.issue (.f1 g d a fun r => packNum t (rndScl r rm) (intToNum (intOf src (r.sr a).toNat)))

/-- R217. -/
def execFcmp (g : Guard) (t : Ty) (c : Cond) (d : PReg) (a b : SReg) (s : State) : Host.Outcome State Fault Refusal :=
  s.issue (.regOp g [a.toNat, b.toNat] [] fun r => r.setP d (condNum c (fop t r a) (fop t r b)))

end Sys2Proof.Machine
end

