-- ==== Sys2Proof/Machine/Sluice.lean ====
section
/-! DEFINITION. Events of the sluice, of the cores' engines and of the caches; pre-emption and resume; messages: R61, R63,
R65, R66, R69 to R73, R77, R79, R105, R231, R274. -/

namespace Sys2Proof.Machine

/-! ### Grants (R61, R65, R66) -/

/-- A commit in flight in an overlapping domain whose write signature meets the chunk's signatures (R61). -/
def Pkg.flightMeets (p : Pkg) (x : CtxRef) (l : Level) (h : Chunk) : Bool :=
  p.allCtxs.any fun y =>
    y != x && match (p.ctx y).inflight with
      | some (w, m) => overlaps l x.core m y.core && h.meets w
      | none => false

/-- An exclusive chunk in an overlapping domain that meets the chunk's signatures (R65). -/
def Pkg.exclusiveMeets (p : Pkg) (x : CtxRef) (l : Level) (h : Chunk) : Bool :=
  p.allCtxs.any fun y =>
    let c := p.ctx y
    y != x && c.live && match c.excl with
      | some m =>
        overlaps l x.core m y.core && c.guarded.any fun g => h.meets g.rlines || h.meets g.wlines
      | none => false

/-- Engine instructions of the chunk that have not finished (R274). -/
def Core.busyFor (k : Core) (o : ChunkId) : Bool := (k.vq ++ k.mq).any fun q => q.owner == o

/-- A line that a commit writes, writes back, or crystallizes a copy of as it drops a routine, is out of reach (R436). -/
def Pkg.commitDown (p : Pkg) (s : Nat) (h : Chunk) : Bool :=
  let drops (o : TabOp) : Bool := match o with
    | .load .. => false
    | .drop slot => p.brine.any fun b => b.space == s && b.slot == slot && p.down b.key
  h.wlines.any p.down || h.wbs.any p.down || h.tabOps.any drops

/-- Whether the sluice may grant the commit that a context asks for. -/
def Pkg.grantable (p : Pkg) (x : CtxRef) : Bool :=
  let c := p.ctx x
  match c.req with
  | none => false
  | some h =>
    let l := p.levelOf x.core h.rlines h.wlines
    c.live && c.inflight.isNone && !(p.core x.core).busyFor ⟨x.slot, c.chunkseq.toNat⟩ &&
      !p.flightMeets x l h && !p.exclusiveMeets x l h &&
      !p.commitDown (p.spaceOf x.core) h &&
      p.replayAllows (p.spaceOf x.core) 1 x.gcid c.chunkseq.toNat 0 &&
      (p.replayEnd (p.spaceOf x.core) x.gcid c.chunkseq.toNat).all (· == c.ch.start.retired)

def execSluiceGrant (core slot : Nat) (s : State) : Host.Outcome State Fault Refusal :=
  s.run fun p =>
    let x : CtxRef := ⟨core, slot⟩
    let p := { p with req := some core }
    let c := p.ctx x
    if !p.grantable x then p
    else if (c.req.map (p.escalates x c.chunkseq.toNat)).getD false then p.squash x
    else p.commit x

/-- Step 4 of R61 is done: a chunk that was cut meanwhile asks for its own commit, and a fault that the prefix was cut for is
taken (R74). -/
def Pkg.landed (p : Pkg) (x : CtxRef) : Pkg :=
  let p := p.modCtx x fun c => { c with inflight := none, owed := [], counted := [] }
  let c := p.ctx x
  let p := if c.phase = .requested ∧ c.req.isNone then p.ask x else p
  let c := p.ctx x
  match c.due with
  | some (cause, addr, info) => if c.idle then p.takeFault x cause addr info else p
  | none => p

/-- Steps 1 to 4 of R61 are done, once what the commit still has to write back has been (R245, R395, R397). -/
def execCommitComplete (core slot : Nat) (s : State) : Host.Outcome State Fault Refusal :=
  s.run fun p =>
    let x : CtxRef := ⟨core, slot⟩
    if (p.ctx x).inflight.isNone then p
    else
      let p := { p with req := some core }.retryBack x
      if p.backDone x then p.landed x else p

/-- An earlier request, or a reservation held, in an overlapping domain (R66). A halted context's request waits aside, and a context's
next chunk waits for the reservation of the one before it. -/
def Pkg.exclBlocked (p : Pkg) (x : CtxRef) (l : Level) : Bool :=
  let earlier := p.exclQ.takeWhile fun e => e.1 != x
  (earlier.any fun e => (p.ctx e.1).st != .halted && overlaps l x.core e.2 e.1.core) ||
    p.allCtxs.any fun y =>
      match (p.ctx y).excl with
      | some m => overlaps l x.core m y.core
      | none => false

/-- A reservation is granted to the running chunk (R65). -/
def Ctx.reserve (c : Ctx) (l : Level) : Ctx :=
  { c with excl := some l, exclNo := c.seq, exclWant := none, wait := none, st := .running }

def execExclusiveGrant (core slot : Nat) (s : State) : Host.Outcome State Fault Refusal :=
  s.run fun p =>
    let x : CtxRef := ⟨core, slot⟩
    match List.find? (fun e => e.1 == x) p.exclQ with
    | some (_, l) =>
      if (p.ctx x).st = .halted ∨ p.exclBlocked x l then p
      else ({ p with exclQ := p.exclQ.filter fun (e : CtxRef × Level) => e.1 != x }).modCtx x (·.reserve l)
    | none => p

/-! ### Engines of a core (R22, R274, R299) -/

/-- The oldest instruction of an engine's queue completes. -/
def execEngineInstructionCompleted (core : Nat) (matrix : Bool) (s : State) : Host.Outcome State Fault Refusal :=
  s.run fun p => p.modCore core fun k => if matrix then { k with mq := k.mq.tail } else { k with vq := k.vq.tail }

def execEngineCommit (op ix : Nat) (s : State) : Host.Outcome State Fault Refusal :=
  s.run fun p =>
    match p.op? op with
    | some o => { p with req := some o.who.core }.transfer o ix
    | none => p

/-! ### Pre-emption and resume (R69, R70, R376, R378, R411) -/

/-- A B slot whose BLOAD is abandoned is left empty (R70). -/
def Pkg.abandonLoad (p : Pkg) (x : CtxRef) : Pkg :=
  match (p.ctx x).load with
  | none => p
  | some d =>
    p.modCore x.core fun k =>
      { k with bslots := k.bslots.set .zero d { BSlot.zero with stamp := (k.bslots.get .zero d).stamp, ldcore := x.core } }

/-- Halt a core's task: contexts HALTED, the task charged and kept on the core until another task replaces it.
DESIGN CHOICE, log entry 61. -/
def Pkg.preemptCore (p : Pkg) (core : Nat) : Pkg :=
  let p := (coreCtxs core).foldl Pkg.abandonLoad p
  ((p.haltCore core).charge core).modCore core fun k => { k with preempt := true }

/-- A SPAWN in progress, which waits only for its slot, completes before a halt (R49, R70). -/
def Core.spawning (k : Core) : Bool := (List.range Config.slots).any fun n => ((k.ctx n).wait.map Prod.fst) == some .slot

/-- Whether a core's task may be halted for pre-emption. -/
def Core.preemptible (k : Core) : Bool :=
  match k.task with
  | some t => t.ended.isNone && !k.preempt && !k.spawning
  | none => false

def execPreemptionRequest (core : Nat) (s : State) : Host.Outcome State Fault Refusal :=
  s.run fun p =>
    if (p.core core).preemptible then
      if (p.gangCores core).any fun c => (p.core c).spawning then p
      else ((p.gangCores core).filter fun c => (p.core c).preemptible).foldl Pkg.preemptCore p
    else p

/-- What stays with a core when its halted task is saved: its slots' generations, caches, inbox; its capability slots are
revoked (R321). -/
def Core.emptied (k : Core) : Core :=
  { Core.reset with
    ctxs := k.ctxs.map fun (e : Nat × Ctx) => (e.1, { Ctx.reset with gen := e.2.gen }),
    lastGen := k.lastGen, liveAt := k.liveAt, inbox := k.inbox, l1 := k.l1, icache := k.icache, lsw := k.lsw, capDraw := k.capDraw, dropped := k.dropped, sqPeriod := k.sqPeriod,
    caps := k.caps.map fun (e : Nat × CapSlot) => (e.1, if e.2.valid then { e.2 with valid := false, gen := e.2.gen + 1 } else e.2) }

/-- An outstanding operation that uses the core's local store, or a B-slot command to it, keeps the image in place (R35). -/
def Pkg.lsBusy (p : Pkg) (core : Nat) : Bool :=
  p.ops.any fun o => o.uses (lsVa core 0) (lsVa (core + 1) 0) ||
    match o.kind with
    | .bput cap .. | .bdrop cap _ => fld cap.toNat 63 55 == core
    | .copy .. | .get .. | .put .. | .rpan .. | .pan .. | .msg .. | .attest .. => false

/-- Save a halted task; its requests for reservations are withdrawn (R66, R69). -/
def Pkg.saveCore (p : Pkg) (core : Nat) : Pkg :=
  let k := p.core core
  { p.setCore core k.emptied with
    exclQ := p.exclQ.filter fun e => e.1.core != core
    saved := p.saved ++ [(core, { k with invs := [], l1 := [], icache := [], inbox := [] })] }

/-- Whether a core has a halted task to resume, in place or saved. -/
def Pkg.resumable (p : Pkg) (core : Nat) : Bool :=
  let k := p.core core
  (Tab.find? p.resetting (core / 64)).isNone && ((k.task.isSome && k.preempt) || (k.task.isNone && p.saved.any fun e => e.1 == core && (e.2.task.bind Task.ended).isNone))

/-- The task that a core would resume. -/
def Pkg.haltedTask (p : Pkg) (core : Nat) : Option Task :=
  match (p.core core).task with
  | some t => some t
  | none => (List.find? (fun e => e.1 == core) p.saved).bind fun e => e.2.task

/-- Repartition a core's array for `lsw` ways of local store: committed lines in those ways go home (R44 step 1, R75). -/
def Pkg.partition (p : Pkg) (core lsw : Nat) : Pkg :=
  let p := (((p.core core).l1.filter fun e => decide (e.2 < lsw)).map Prod.fst).foldl (fun p key => p.l1Drop core key) p
  p.modCore core fun k => { k with lsw := lsw }

/-- Context slots of a core and of an image that comes back to it: a slot that is FREE in the image stays the core's. -/
def Core.restoredCtxs (k img : Core) : Tab Ctx :=
  (List.range Config.slots).filterMap fun n =>
    let c := img.ctx n
    let c := if c.st = .free then k.ctx n else c
    if c = .reset then none else some (n, c)

/-- Bring a saved image back to its core: what the core kept stays the core's, and the image's context slots come back. -/
def Core.restored (k img : Core) : Core :=
  { img with ctxs := k.restoredCtxs img, lastGen := k.lastGen, liveAt := k.liveAt, inbox := k.inbox, l1 := k.l1, icache := k.icache, capDraw := k.capDraw, caps := k.caps,
             dropped := k.dropped, sqPeriod := k.sqPeriod }

/-- Resume a core's task, in place or from its image; its contexts ask again for the reservations that they want (R66). -/
def Pkg.resumeCore (p : Pkg) (core : Nat) : Pkg :=
  let k := p.core core
  let p := match k.task, List.find? (fun e => e.1 == core) p.saved with
    | none, some e =>
      let p := p.partition core e.2.lsw
      let again (n : Nat) : Option (CtxRef × Level) := (e.2.ctx n).exclWant.map fun l => (⟨core, n⟩, l)
      { p.setCore core ((p.core core).restored e.2) with
        saved := p.saved.erase e, exclQ := p.exclQ ++ (List.range Config.slots).filterMap again }
    | _, _ => p
  p.modCore core fun k =>
    { k with preempt := false, task := k.task.map fun (t : Task) => { t with start := p.pt },
             ctxs := k.ctxs.map fun (e : Nat × Ctx) => (e.1, if e.2.stop.isSome then e.2 else e.2.resume p.pt) }

/-- Cores of the task's gang, halted in place or saved. -/
def Pkg.haltedGang (p : Pkg) (core : Nat) (g : Nat) : List Nat :=
  let here := p.cores.filterMap fun e => if (e.2.task.bind fun t => t.info.gang) = some g then some e.1 else none
  let there := p.saved.filterMap fun e => if (e.2.task.bind fun t => t.info.gang) = some g then some e.1 else none
  (core :: (here ++ there)).foldl (fun l c => insertNat c l) []

/-- Whether a queue holds a queue slot (R376). -/
def Pkg.hasSlot (p : Pkg) (q : Nat) : Bool := p.qslots.any fun e => e.2.queue == some q

/-- Cores that resume with a core: its gang's. -/
def Pkg.resumeCores (p : Pkg) (core : Nat) : List Nat :=
  match (p.haltedTask core).bind fun t => t.info.gang with
  | some g => p.haltedGang core g
  | none => [core]

/-- Whether a core's halted task may resume: its queue holds a slot, and its gang resumes whole. -/
def Pkg.mayResume (p : Pkg) (core : Nat) : Bool :=
  match p.haltedTask core with
  | some t => p.hasSlot t.info.queue && (p.resumeCores core).all p.resumable
  | none => false

def execTaskResume (core : Nat) (s : State) : Host.Outcome State Fault Refusal :=
  s.run fun p => if p.mayResume core then (p.resumeCores core).foldl Pkg.resumeCore p else p

/-! ### Messages (R72, R73, R113, R231) -/

/-- Status word of Table 8.6. -/
def msgStatus (code : Nat) : Word := BitVec.ofNat 64 ((if code = 0 then 1 else 2) <<< 62 + code <<< 56)

/-- A message's token receives its status word; the outcome is logged, and in replay is the log's next (R420). -/
def Pkg.msgEnd (p : Pkg) (ix : Nat) (f : Flight) (code : Nat) : Pkg :=
  let v := msgStatus code
  let chunk := f.op / 64
  let lidx := f.op % 64
  let same := match p.replayOf f.space with
    | none => true
    | some r =>
      match r.log[r.gate]? with
      | none => true
      | some e => leValue e == v
  if p.replayAllows f.space 5 f.who.gcid chunk lidx && same then
    let p := { p with flights := p.flights.eraseIdx ix }
    let p := (p.record f.space (logEntry v chunk f.gen.toNat f.who.gcid 5 lidx 4)).replayStep f.space
    p.tokenDone f.who f.gen f.tok f.op v
  else p

/-- No earlier message of the sender to the inbox is still on its way. -/
def Pkg.msgFirst (p : Pkg) (ix : Nat) (f : Flight) : Bool :=
  !((p.flights.take ix).any fun a => a.who == f.who && a.gen == f.gen && a.dst == f.dst)

/-- A message arrives (R72). A slot is judged as its core now has it: the task that once held it may have been pre-empted and
saved, and its context then takes no message. DESIGN CHOICE, log entry 101. -/
def Pkg.deliver (p : Pkg) (ix : Nat) (f : Flight) : Pkg :=
  let y : CtxRef := ctxOfGcid (fld f.dst.toNat 28 16)
  let c := p.ctx y
  let q :=
    if c.st = .free ∨ c.gen ≠ f.dst.setWidth 16 ∨ p.spaceOf y.core ≠ f.space then
      (p.modCore y.core fun k => { k with dropped := k.dropped + 1 }).msgEnd ix f 1
    else if c.inbox.length + (c.chunks.flatMap Chunk.taken).length ≥ 8 then p
    else (p.modCtx y fun c => { c with inbox := c.inbox ++ [f.msg] }).msgEnd ix f 0
  if q.flights.length < p.flights.length then q else p

/-- A message's time is over (R72). In replay its outcome is the log's, whatever the time (R420). -/
def Flight.late (f : Flight) (p : Pkg) : Bool := decide (Config.msgTimeout ≤ p.pt - f.released)

def execMessageDelivery (ix : Nat) (s : State) : Host.Outcome State Fault Refusal :=
  s.run fun p =>
    match p.flights[ix]? with
    | some f => if p.msgFirst ix f && (!f.late p || (p.replayOf f.space).isSome) then p.deliver ix f else p
    | none => p

/-- Undelivered 2^18 cycles after its release (R72). -/
def execMessageUndeliverable (ix : Nat) (s : State) : Host.Outcome State Fault Refusal :=
  s.run fun p =>
    match p.flights[ix]? with
    | some f => if p.msgFirst ix f && (f.late p || (p.replayOf f.space).isSome) then p.msgEnd ix f 2 else p
    | none => p

/-! ### Evictions (R77, R79) -/

/-- The core's L1 gives up a committed line; its dirty bytes are already the home's. -/
def execL1Eviction (core key : Nat) (s : State) : Host.Outcome State Fault Refusal :=
  s.run fun p =>
    if (Tab.find? (p.core core).l1 key).isSome && ((p.core core).uncommittedBy key).isEmpty then p.l1Drop core key else p

def execL2Eviction (key : Nat) (s : State) : Host.Outcome State Fault Refusal :=
  s.run fun p => if p.uncommitted key || p.down key then p else p.evict key

end Sys2Proof.Machine
end

