-- ==== Sys2Proof/Machine/FrontOps.lean ====
section
/-! DEFINITION. The front end and the core loop: task records and their checks, units and placement, graphs, completion
records, launch and completion of tasks, queue reset: R37 to R47, R372 to R383; and the writes that the module owes. -/

namespace Sys2Proof.Machine

/-! ### Task records (Table 2.1, Table 2.2, R39) -/

abbrev TaskRec := BitVec 512

def TaskRec.entry (r : TaskRec) : Nat := fld r.toNat 63 0
def TaskRec.arg (r : TaskRec) : Nat := fld r.toNat 127 64
def TaskRec.succ (r : TaskRec) : Nat := fld r.toNat 191 128
def TaskRec.place (r : TaskRec) : Nat := fld r.toNat 255 192
def TaskRec.lsw (r : TaskRec) : Nat := fld r.toNat 261 256
def TaskRec.vregs (r : TaskRec) : Nat := fld r.toNat 263 262
def TaskRec.helpers (r : TaskRec) : Nat := fld r.toNat 267 264
def TaskRec.pmode (r : TaskRec) : Nat := fld r.toNat 275 274
def TaskRec.pdie (r : TaskRec) : Nat := fld r.toNat 278 276
def TaskRec.prio (r : TaskRec) : Nat := fld r.toNat 281 280
def TaskRec.barmask (r : TaskRec) : Nat := fld r.toNat 303 288
def TaskRec.gangId (r : TaskRec) : Nat := fld r.toNat 319 304
def TaskRec.gangSize (r : TaskRec) : Nat := fld r.toNat 335 320
def TaskRec.nsucc (r : TaskRec) : Nat := fld r.toNat 351 336
def TaskRec.deps (r : TaskRec) : Nat := fld r.toNat 383 352
def TaskRec.tag (r : TaskRec) : Nat := fld r.toNat 447 384
def TaskRec.reserved (r : TaskRec) : Bool := fld r.toNat 511 448 != 0 || fld r.toNat 287 282 != 0 || r.toNat.testBit 279

/-- The first failing check of Table 2.2 on a record by itself, 0 where none fails. -/
def TaskRec.code (r : TaskRec) : Nat :=
  firstCode
    [(decide (r.lsw > 36), 1),
     (decide (r.helpers > 10), 2),
     (decide ((1 + r.helpers) * (8 * (r.vregs + 1)) > 128), 3),
     (r.reserved || r.pmode == 3, 4),
     ((r.pmode == 0 && decide (r.place > 511)) || ((r.pmode == 1 || r.pmode == 2) && r.place == 0) || (r.pmode != 1 && r.pdie != 0), 5),
     (r.entry >>> 56 != 0 || r.entry % 64 != 0 || (r.nsucc != 0 && r.succ % 8 != 0), 6),
     ((r.barmask != 0 && r.gangId == 0) || (r.gangId == 0 && r.gangSize != 0) ||
       (r.gangId != 0 && (r.gangSize == 0 || decide (r.gangSize > 512))), 7)]

/-- R39. -/
def TaskRec.allows (r : TaskRec) (c : Nat) : Bool :=
  if r.pmode = 0 then r.place == c
  else if r.pmode = 1 then c / 64 == r.pdie && r.place.testBit (c % 64)
  else r.place.testBit (c / 8)

/-! ### Units (R40, R377, R379) -/

/-- A unit: members, whether it is a gang to be rejected, priority. -/
structure LaunchUnit where
  members : List (Word × TaskRec)
  bad : Bool
  prio : Nat
  deriving DecidableEq, Repr

/-- A gang whose GANGSIZE is illegal or disagreed on, or that has been rejected before. -/
def Graph.gangBad (g : Graph) (id : Nat) (l : List (Word × TaskRec)) : Bool :=
  g.badGangs.contains id || l.any fun e =>
    e.2.gangSize == 0 || decide (e.2.gangSize > 512) || some e.2.gangSize != (l.head?.map fun (h : Word × TaskRec) => h.2.gangSize)

def topPrio (l : List (Word × TaskRec)) : Nat := l.foldl (fun a e => max a e.2.prio) 0

/-- Units in the order in which they became ready: each stands where its last member does. -/
def unitsGo (g : Graph) : List (Word × TaskRec) → List (Word × TaskRec) → List LaunchUnit
  | _, [] => []
  | before, e :: t =>
    let rest := unitsGo g (before ++ [e]) t
    let id := e.2.gangId
    if id = 0 then ⟨[e], false, e.2.prio⟩ :: rest
    else
      let own := (before ++ [e]).filter fun (a : Word × TaskRec) => a.2.gangId == id
      let all := own ++ t.filter fun (a : Word × TaskRec) => a.2.gangId == id
      if g.gangBad id all then
        if own.length = all.length then ⟨all, true, topPrio all⟩ :: rest else rest
      else if own.length = e.2.gangSize then ⟨own, false, topPrio own⟩ :: rest else rest

def Graph.units (g : Graph) : List LaunchUnit := unitsGo g [] g.ready

/-- Units by priority, highest first, within a priority in ready order. -/
def Graph.ordered (g : Graph) : List LaunchUnit := [3, 2, 1, 0].flatMap fun n => g.units.filter fun (u : LaunchUnit) => u.prio == n

/-- A unit that fails a check (R43, R379). -/
def LaunchUnit.fails (u : LaunchUnit) : Bool := u.bad || u.members.any fun m => m.2.code != 0

/-! ### Placement (R39, R41, R377, R421, R429) -/

/-- A parked island, or a die in reset, admits no placement (R429, R437). -/
def Pkg.admits (p : Pkg) (c : Nat) : Bool := p.power.ceil.get 3300 (islandOf c) != 0 && (Tab.find? p.resetting (c / 64)).isNone

/-- The core on which a replayed log launched a record (R421). -/
def Pkg.loggedCore (p : Pkg) (s : Nat) (va : Word) : Option Nat :=
  match p.replayOf s with
  | none => none
  | some r => ((r.log.drop r.next).find? fun e => leKind e == 7 && leValue e == va).map fun e => leGcid e / 16

/-- Cores that may take a record, those with the fewest inbox entries first, then by number. -/
def Pkg.candidates (p : Pkg) (s : Nat) (m : Word × TaskRec) : List Nat :=
  let l := (List.range Config.cores).filter fun c => m.2.allows c && p.admits c
  let l := match p.loggedCore s m.1 with
    | some c => l.filter (· == c)
    | none => l
  [0, 1, 2, 3].flatMap fun n => l.filter fun c => (p.core c).inbox.length == n

/-- An augmenting path for member `m` over candidate lists `adj`: the new matching of cores to members, and the cores
seen. -/
def augment (adj : List (List Nat)) : Nat → Tab Nat → List Nat → Nat → List Nat → Option (Tab Nat) × List Nat
  | 0, _, seen, _, _ => (none, seen)
  | _ + 1, _, seen, _, [] => (none, seen)
  | f + 1, mt, seen, m, c :: cs =>
    if seen.contains c then augment adj f mt seen m cs
    else
      match mt.find? c with
      | none => (some (mt.put c m), c :: seen)
      | some n =>
        match augment adj f mt (c :: seen) n ((adj[n]?).getD []) with
        | (some mt, seen) => (some (mt.put c m), seen)
        | (none, seen) => augment adj f mt seen m cs

/-- Whether distinct cores can be found for every list. -/
def matchable (adj : List (List Nat)) : Bool :=
  ((List.range adj.length).foldl (fun (a : Option (Tab Nat)) m => match a with
    | none => none
    | some mt => (augment adj (2 ^ 20) mt [] m ((adj[m]?).getD [])).1) (some [])).isSome

/-- Each member in turn, in the order in which they became ready, takes the first of its cores that leaves the later members a
distinct core each (R377). DESIGN CHOICE, log entry 122: the order. -/
def assignCores : List (List Nat) → List Nat → Option (List Nat)
  | [], _ => some []
  | l :: t, used =>
    match l.find? fun c => !used.contains c && matchable (t.map fun a => a.filter fun d => !(c :: used).contains d) with
    | none => none
    | some c => (assignCores t (c :: used)).map (c :: ·)

/-- Barrier groups that a unit names. -/
def LaunchUnit.groups (u : LaunchUnit) : List Nat :=
  (List.range 16).filter fun b => u.members.any fun m => m.2.barmask.testBit b

/-- Cores for a unit, where it can be placed now. -/
def Pkg.placeUnit (p : Pkg) (s : Nat) (u : LaunchUnit) : Option (List Nat) :=
  if u.groups.any fun b => (Tab.find? p.bars b).isSome then none else assignCores (u.members.map (p.candidates s)) []

/-! ### Completion records (R375, Table 16.4) -/

def completion (tag info recva kind status gcid seq : Nat) : BitVec 256 :=
  BitVec.ofNat 256 (tag <<< 192 + info <<< 128 + recva <<< 64 + kind <<< 56 + status <<< 48 + gcid <<< 32 + seq)

def Queue.push (q : Queue) (e : BitVec 256) : Queue := { q with waiting := q.waiting ++ [e] }

def recordKind (e : BitVec 256) : Nat := fld e.toNat 63 56

/-- Records neither launched nor rejected. -/
def Graph.untouched (g : Graph) : Nat := g.nrec - (g.running + g.completed + g.caused + g.rejected)

/-- Status of a graph's end, first that applies (Table 16.5, R381). -/
def Graph.status (g : Graph) : Nat :=
  if g.invalid then 0x43
  else if g.depErr then 0x42
  else if g.untouched ≠ 0 then 0x41
  else if g.completed = g.nrec then 0x00
  else 0x40

/-- A graph ends when none of its tasks runs and no unit is ready (R381). -/
def Queue.endGraph (q : Queue) : Queue :=
  match q.graph with
  | none => q
  | some g =>
    if g.running = 0 && g.succ.isEmpty && g.units.isEmpty && !(q.waiting.any fun e => recordKind e == 3) then
      q.push (completion g.tag.toNat g.untouched g.recva.toNat 3 g.status 0 g.seq.toNat)
    else q

/-- A queue that holds work is ACTIVE, one that holds none IDLE (Table 16.3, R376). -/
def Queue.settle (q : Queue) : Queue :=
  match q.st with
  | .idle | .active => { q with st := if q.stail ≠ q.shead ∨ q.graph.isSome ∨ !q.waiting.isEmpty then .active else .idle }
  | .disabled | .resetting | .refused => q

def Pkg.queue (p : Pkg) (n : Nat) : Queue := p.queues.get .reset n
def Pkg.setQueue (p : Pkg) (n : Nat) (q : Queue) : Pkg := p.putQueue n q.endGraph.settle

/-! ### Reads of the front end (R375, R381) -/

/-- What a read gives: bytes; unreadable; or not yet, with the notice of a held read. -/
inductive FrontRead where
  | got (b : List Byte) (p : Pkg)
  | bad
  | later (p : Option Pkg)
  deriving DecidableEq, Repr

def Pkg.frontRead (p : Pkg) (n va len : Nat) : FrontRead :=
  let q := p.queue n
  match p.moduleRead q.space.toNat va len with
  | .ok (_, true, _) => .bad
  | .ok (b, false, r) => .got b { r with queues := r.queues.put n { q with held := none } }
  | .error (.refused _) => .bad
  | .error .wait => .later none
  | .error (.held h) =>
    if q.held = some h.key then .later none
    else
      let p := ((p.missHeld h).countHeld h.line).heldNotice q.space.toNat 0x1FFF 0 0 h
      .later (some { p with queues := p.queues.put n { q with held := some h.key } })

/-! ### Taking an entry (R374) -/

/-- Records of an array from `va` on, with those that are roots kept in array order. -/
def Pkg.rootsFrom (n : Nat) : Nat → Nat → Pkg → FrontRead ⊕ (List (Word × TaskRec) × Pkg)
  | 0, _, p => .inr ([], p)
  | k + 1, va, p =>
    match p.frontRead n va 64 with
    | .bad => .inl .bad
    | .later q => .inl (.later q)
    | .got b p =>
      match Pkg.rootsFrom n k (va + 64) p with
      | .inl e => .inl e
      | .inr (l, p) =>
        let r : TaskRec := BitVec.ofNat 512 (leNat b)
        .inr (if r.deps = 0 then (BitVec.ofNat 64 va, r) :: l else l, p)

/-- A graph as its entry is taken. -/
def newGraph (recva : Word) (nrec : Nat) (tag : Word) (seq : BitVec 32) (ready : List (Word × TaskRec)) (invalid : Bool) : Graph :=
  { recva, nrec, tag, seq, ready, succ := [], badGangs := [], running := 0, completed := 0, rejected := 0, caused := 0,
    depErr := false, invalid }

def Pkg.beginGraph (p : Pkg) (n : Nat) (g : Graph) : Pkg :=
  p.setQueue n { p.queue n with shead := (p.queue n).shead + 1, graph := some g, held := none }

/-- Fields of an entry, and whether they are legal. -/
def entryOk (x : Nat) : Bool :=
  fld x 63 0 % 64 == 0 && fld x 83 64 != 0 && fld x 127 84 == 0 && fld x 255 192 == 0

/-- The oldest entry is taken (R374). Where the entry itself cannot be read, the graph's end carries RECVA 0. DESIGN CHOICE, log
entry 121. -/
def Pkg.takeEntry (p : Pkg) (n : Nat) : Pkg :=
  let q := p.queue n
  match p.frontRead n (q.subva.toNat + 32 * (q.shead.toNat % 2 ^ q.slog2.toNat)) 32 with
  | .later none => p
  | .later (some p) => p
  | .bad => p.beginGraph n (newGraph 0 0 0 q.shead [] true)
  | .got b p =>
    let x := leNat b
    let recva := fld x 63 0
    let nrec := fld x 83 64
    let tag := BitVec.ofNat 64 (fld x 191 128)
    let bad (p : Pkg) : Pkg := p.beginGraph n (newGraph (BitVec.ofNat 64 recva) nrec tag q.shead [] true)
    if !entryOk x then bad p
    else
      match Pkg.rootsFrom n nrec recva p with
      | .inl (.later none) => p
      | .inl (.later (some p)) => p
      | .inl .bad | .inl (.got _ _) => bad p
      | .inr (l, p) => p.beginGraph n (newGraph (BitVec.ofNat 64 recva) nrec tag q.shead l false)

/-! ### The arbiter (R377 to R379) -/

/-- Whether the queue may launch: room for records, no dependence error, no halted task of its own (R375, R376, R381). -/
def Pkg.mayLaunch (p : Pkg) (n : Nat) : Bool :=
  let q := p.queue n
  let halted (k : Core) : Bool := match k.task with
    | some t => t.info.queue == n && t.ended.isNone
    | none => false
  q.st == .active && q.waiting.isEmpty && q.room && !(p.saved.any fun e => halted e.2) &&
    !(p.cores.any fun e => e.2.preempt && halted e.2)

/-- What the arbiter may take from a queue: a unit to reject, or one with its cores. DESIGN CHOICE, log entry 63. -/
def Pkg.takeable (p : Pkg) (n : Nat) : Option (LaunchUnit × List Nat) :=
  let q := p.queue n
  match q.graph with
  | none => none
  | some g =>
    if !p.mayLaunch n || g.depErr then none
    else g.ordered.findSome? fun u =>
      if u.fails then some (u, []) else (p.placeUnit q.space.toNat u).map fun l => (u, l)

/-- A graph without a unit's members. -/
def Graph.without (g : Graph) (u : LaunchUnit) : Graph :=
  { g with ready := g.ready.filter fun (e : Word × TaskRec) => !(u.members.any fun m => m.1 == e.1) }

/-- Every member of a failing unit is rejected; one that fails no check of its own carries 0x07 (R379).
DEDUCED, log entry 67. -/
def Pkg.rejectUnit (p : Pkg) (n : Nat) (g : Graph) (u : LaunchUnit) : Pkg :=
  let q := p.queue n
  let rec_ (m : Word × TaskRec) : BitVec 256 :=
    completion m.2.tag 0 m.1.toNat 1 (if m.2.code = 0 then 7 else m.2.code) 0 g.seq.toNat
  let g' : Graph := g.without u
  let g' := { g' with rejected := g.rejected + u.members.length,
                      badGangs := if u.bad then insertNat ((u.members.head?.map fun (m : Word × TaskRec) => m.2.gangId).getD 0) g.badGangs
                        else g.badGangs }
  p.setQueue n { q with waiting := q.waiting ++ u.members.map rec_, graph := some g' }

/-- Write a unit's records into their inboxes; a gang takes its barrier groups (R41, R42). -/
def Pkg.launchUnit (p : Pkg) (n : Nat) (g : Graph) (u : LaunchUnit) (cores : List Nat) : Pkg :=
  let q := p.queue n
  let gang := if u.members.any fun m => m.2.gangId != 0 then some p.gangs else none
  let pairs := u.members.zip cores
  let p := pairs.foldl (fun p (m, c) =>
    p.modCore c fun k =>
      { k with inbox := k.inbox ++ [{ queue := n, seq := g.seq, recva := m.1, rcd := m.2, gang, doomed := none }] }) p
  let joined (b : Nat) : List Nat := pairs.filterMap fun (m, c) => if m.2.barmask.testBit b then some c else none
  let p := u.groups.foldl (fun (p : Pkg) b =>
    { p with bars := p.bars.put b { gang := p.gangs, members := (joined b).foldl (fun l c => insertNat c l) [], phase := false,
                                    flags := [] } }) p
  { p with gangs := if gang.isSome then p.gangs + 1 else p.gangs }.setQueue n
    { q with graph := some { g.without u with running := g.running + u.members.length } }

/-- A visit of a slot (R378). -/
def Pkg.visitSlot (p : Pkg) (i : Nat) : Pkg :=
  let sl := p.qslots.get .reset i
  match sl.queue with
  | none => p
  | some n =>
    let put (d : Int) : Pkg := { p with qslots := p.qslots.put i { sl with deficit := d } }
    match p.takeable n, (p.queue n).graph with
    | some (u, cores), some g =>
      if sl.deficit ≤ 0 then put (sl.deficit + ((p.queue n).weight * 2 ^ p.fw.qshift : Nat))
      else if u.fails then p.rejectUnit n g u
      else p.launchUnit n g u cores
    | _, _ => put (min sl.deficit 0)

/-! ### The core loop (R42 to R45) -/

/-- Registers of a task's first instruction (R45). -/
def taskRegs (i : TaskInfo) : Regs :=
  (({ Regs.zero with pc := BitVec.ofNat 64 (TaskRec.entry i.rcd) }).setSn 1 (BitVec.ofNat 64 (TaskRec.arg i.rcd))).setSn 2 i.recva

/-- Context 0 becomes live (step 7 of R44); the launch is logged (R419). -/
def Pkg.goTask (p : Pkg) (core : Nat) (t : Task) : Pkg :=
  let x : CtxRef := ⟨core, 0⟩
  let p := p.modCore core fun k => { k with task := some { t with live := true } }
  let p := p.goLive x (taskRegs t.info)
  (p.record t.space (logEntry t.info.recva 0 (p.ctx x).gen.toNat x.gcid 7 0 0)).replayStep t.space

/-- In replay a launch is the log's next event. -/
def Pkg.launchAllowed (p : Pkg) (s core : Nat) : Bool := p.replayAllows s 7 (CtxRef.gcid ⟨core, 0⟩) 0 0

/-- Steps 1 to 6 of R44. -/
def Core.reserve (k : Core) (t : Task) : Core :=
  { k with task := some t, inbox := k.inbox.erase t.info, invs := [], icache := [], ls := [], lsSide := [], lsPoison := [],
           extSize := 8192 * TaskRec.lsw t.info.rcd, extSpace := t.space, tiles := [], accs := [], bslots := [], vq := [], mq := [],
           squashes := 0, preempt := false }

/-- The oldest inbox record that the core loop may take: one whose queue still holds its slot, or that has ended already.
DEDUCED, log entry 62. -/
def Pkg.nextRecord (p : Pkg) (core : Nat) : Option TaskInfo :=
  (p.core core).inbox.find? fun i => p.hasSlot i.queue || i.doomed.isSome

/-- Whether an uncommitted chunk, or a deferred effect of one, still uses a core's local store (R35). -/
def Pkg.lsTouched (p : Pkg) (core : Nat) : Bool :=
  let mine (key : Nat) : Bool := inLocal (keyVa key) && lsCore (keyVa key) == core
  let uses (k : EKind) : Bool :=
    k.ranges.any fun r => decide (r.1 < lsVa (core + 1) 0) && decide (lsVa core 0 < r.1 + r.2)
  p.allCtxs.any fun x => (p.ctx x).chunks.any fun h => (h.lines ++ h.ilines).any mine || h.deferred.any fun d => uses d.kind

/-- Whether a core can take a record. A halted task makes room by being saved, once its granted commits have finished (R69) and no
access accepted against its extent is outstanding (R35). -/
def Pkg.mayTake (p : Pkg) (core : Nat) (i : TaskInfo) : Bool :=
  let k := p.core core
  let free := k.task.isNone || (k.preempt && !k.landing && !p.lsBusy core && !p.lsTouched core)
  free && (Tab.find? p.resetting (core / 64)).isNone && p.slotReady ⟨core, 0⟩ &&
    !(i.gang.isNone && i.doomed.isNone && !p.launchAllowed (p.queue i.queue).space.toNat core)

/-- The core loop takes a record. -/
def Pkg.takeRecord (p : Pkg) (core : Nat) : Pkg :=
  match p.nextRecord core with
  | none => p
  | some i =>
    let s := (p.queue i.queue).space.toNat
    let k := p.core core
    let solo := i.gang.isNone && i.doomed.isNone
    if !p.mayTake core i then p
    else
      let p := if k.task.isSome then p.saveCore core else p
      let t : Task := { info := i, space := s, start := p.pt, launched := p.free, live := false, exited := false, ended := i.doomed, silent := false }
      let p := (p.partition core (TaskRec.lsw i.rcd)).modCore core fun k => k.reserve t
      if solo then p.goTask core t else p

/-- Whether every member of a gang has been reserved and is resident (R40). -/
def Pkg.gangReady (p : Pkg) (g : Nat) : Bool :=
  !(p.cores.any fun e => (e.2.inbox.any fun i => i.gang == some g) ||
      (e.2.preempt && (e.2.task.bind fun t => t.info.gang) == some g)) &&
    !p.saved.any fun e => (e.2.task.bind fun t => t.info.gang) == some g

def Pkg.startMember (p : Pkg) (core : Nat) : Pkg :=
  match (p.core core).task with
  | none => p
  | some t =>
    match t.info.gang with
    | none => p
    | some g =>
      if t.live || t.ended.isSome || !p.gangReady g || !p.slotReady ⟨core, 0⟩ || !p.launchAllowed t.space core then p
      else p.goTask core t

/-! ### Completion (R47, R35, R378, R379) -/

/-- Whether effects that the tasks of a queue released on a core are still outstanding. -/
def Pkg.outstanding (p : Pkg) (core queue : Nat) : Bool :=
  (p.ops.any fun o => o.who.core == core && o.queue == queue) || p.flights.any fun f => f.who.core == core && f.queue == queue

/-- Whether a task that is over may complete. -/
def Pkg.taskDone (p : Pkg) (core : Nat) : Bool :=
  let k := p.core core
  match k.task with
  | none => false
  | some t =>
    (t.exited || t.ended.isSome) && !k.preempt && (k.ctxs.all fun c => c.2.st == .free) && !k.landing && !p.outstanding core t.info.queue &&
      !p.lsBusy core && !p.lsTouched core

/-- A task's completion reaches its queue: KIND 0 or 2, and its successors are to be decremented (R38, R379). -/
def Pkg.reportTask (p : Pkg) (core : Nat) (t : Task) : Pkg :=
  let q := p.queue t.info.queue
  let r := t.info.rcd
  match q.graph with
  | none => p
  | some g =>
    if t.silent || g.seq != t.info.seq then p
    else
      match t.ended with
      | some (cause, gcid, pc) =>
        p.setQueue t.info.queue
          { q with waiting := q.waiting ++ [completion (TaskRec.tag r) pc.toNat t.info.recva.toNat 2 cause gcid g.seq.toNat],
                   graph := some { g with running := g.running - 1, caused := g.caused + 1 } }
      | none =>
        let more := if TaskRec.nsucc r = 0 ∨ g.depErr then [] else [(TaskRec.succ r, TaskRec.nsucc r)]
        p.setQueue t.info.queue
          { q with waiting := q.waiting ++ [completion (TaskRec.tag r) 0 t.info.recva.toNat 0 0 (CtxRef.gcid ⟨core, 0⟩) g.seq.toNat],
                   graph := some { g with running := g.running - 1, completed := g.completed + 1, succ := g.succ ++ more } }

/-- The core without its task: extent, reservations and capabilities are gone (R35, R47, R102, R321). -/
def Core.vacated (k : Core) : Core :=
  { k with task := none, extSize := 0, extSpace := 0, invs := [], tiles := [], accs := [], bslots := [], vq := [], mq := [],
           caps := k.caps.map fun (e : Nat × CapSlot) => (e.1, if e.2.valid then { e.2 with valid := false, gen := e.2.gen + 1 } else e.2) }

/-- Whether any task or inbox record of a gang is left. -/
def Pkg.gangLeft (p : Pkg) (g : Nat) : Bool :=
  (p.cores.any fun e => (e.2.task.bind fun t => t.info.gang) == some g || e.2.inbox.any fun i => i.gang == some g) ||
    p.saved.any fun e => (e.2.task.bind fun t => t.info.gang) == some g

/-- Barrier groups are released with the last member (R41). -/
def Pkg.freeBars (p : Pkg) (g : Option Nat) : Pkg :=
  match g with
  | none => p
  | some g => if p.gangLeft g then p else { p with bars := p.bars.filter fun b => b.2.gang != g }

/-- A task that completes gives up its core's memberships (step 3 of R47). -/
def Pkg.leaveBars (p : Pkg) (g : Option Nat) (core : Nat) : Pkg :=
  let leave (e : Nat × Bar) : Nat × Bar :=
    if some e.2.gang = g then
      (e.1, { e.2 with members := e.2.members.filter (· != core), flags := e.2.flags.filter (· != core) })
    else e
  { p with bars := p.bars.map leave }

/-- A saved task that has ended with its gang, and whose effects are done. -/
def Pkg.savedDone (p : Pkg) (core : Nat) : Option (Nat × Core × Task) :=
  p.saved.findSome? fun e =>
    match e.2.task with
    | some t => if e.1 = core ∧ t.ended.isSome ∧ !p.outstanding core t.info.queue then some (e.1, e.2, t) else none
    | none => none

/-- A queue's slot frees where it holds nothing (R376). -/
def Pkg.freeSlot (p : Pkg) (n : Nat) : Pkg :=
  match Tab.find? p.queues n with
  | some q => p.putQueue n q
  | none => p

def Pkg.completeTask (p : Pkg) (core : Nat) : Pkg :=
  match (p.core core).task, p.taskDone core with
  | some t, true =>
    let p := if t.ended.isSome then p else p.charge core
    ((((p.modCore core Core.vacated).leaveBars t.info.gang core).freeBars t.info.gang).reportTask core t).freeSlot t.info.queue
  | _, _ =>
    match p.savedDone core with
    | some (c, k, t) => ((({ p with saved := p.saved.erase (c, k) } : Pkg).leaveBars t.info.gang core).freeBars t.info.gang).reportTask core t
    | none => p

/-! ### Successors (R38, R380, R381) -/

/-- The front end stops with a dependence error: ready units are discarded. DEDUCED, log entry 66. -/
def Pkg.dependenceError (p : Pkg) (n : Nat) (g : Graph) : Pkg :=
  p.setQueue n { p.queue n with graph := some { g with depErr := true, ready := [], succ := [] }, held := none }

/-- The next decrement of a queue's graph, where it can be made. DEDUCED, log entry 65. -/
def Pkg.successor (p : Pkg) (n : Nat) : Option Pkg :=
  match (p.queue n).graph with
  | none => none
  | some g =>
    match g.succ with
    | [] => none
    | (at_, left) :: t =>
      match p.frontRead n at_ 8 with
      | .later r => r
      | .bad => some (p.dependenceError n g)
      | .got b p =>
        let va := leNat b
        let inside := decide (g.recva.toNat ≤ va) && decide (va < g.recva.toNat + 64 * g.nrec) && va % 64 == 0
        if !inside then some (p.dependenceError n g)
        else
          match p.frontRead n va 64 with
          | .later r => r
          | .bad => some (p.dependenceError n g)
          | .got b p =>
            let r : TaskRec := BitVec.ofNat 512 (leNat b)
            if r.deps = 0 then some (p.dependenceError n g)
            else
              match p.moduleWrite (p.queue n).space.toNat (va + 44) (leBytes (r.deps - 1) 4) with
              | .error (.refused _) => some (p.dependenceError n g)
              | .error (.held h) => p.holdModule (p.queue n).space.toNat h
              | .error .wait => none
              | .ok p =>
                let r' : TaskRec := BitVec.ofNat 512 (lineSet r 44 4 (r.deps - 1)).toNat
                let g' : Graph :=
                  { g with succ := if left ≤ 1 then t else (at_ + 8, left - 1) :: t,
                           ready := if r.deps = 1 then g.ready ++ [(BitVec.ofNat 64 va, r')] else g.ready }
                some (p.setQueue n { p.queue n with graph := some g' })

/-! ### Queue slots (R376) -/

/-- A queue that holds work takes a slot. -/
def Queue.wantsSlot (q : Queue) : Bool := q.st == .active

/-- Queues that wait for a slot, the next to be served first. -/
def Pkg.slotTurn (p : Pkg) (n : Nat) : Bool :=
  let turn (m : Nat) : Nat := (m + 1024 - p.slotPos) % 1024
  (p.queue n).wantsSlot && !p.hasSlot n &&
    p.queues.all fun e => !(e.2.wantsSlot && !p.hasSlot e.1) || decide (turn n ≤ turn e.1)

def Pkg.takeSlot (p : Pkg) (n : Nat) : Pkg :=
  if !p.slotTurn n then p
  else
    match (List.range 32).find? fun i => (p.qslots.get .reset i).queue.isNone with
    | none => p
    | some i => { p with qslots := p.qslots.put i { queue := some n, deficit := 0 }, slotPos := (n + 1) % 1024 }

/-- Cores whose resident task is of a queue. -/
def Pkg.coresOf (p : Pkg) (n : Nat) : List Nat :=
  p.cores.filterMap fun e => if (e.2.task.map fun t => t.info.queue) = some n then some e.1 else none

def Pkg.evictQueue (p : Pkg) (n : Nat) : Pkg :=
  if !p.hasSlot n || (p.queue n).st == .resetting || (p.coresOf n).any fun c => (p.core c).spawning then p
  else
    let p := ((p.coresOf n).filter fun c => (p.core c).preemptible).foldl Pkg.preemptCore p
    { p with qslots := p.qslots.map fun (e : Nat × QSlot) => if e.2.queue = some n then (e.1, .reset) else e }

/-! ### Queue reset (R382, R383) -/

/-- A cancelled COPY performs no further transfer. A COPY.digest first writes the entries of its whole shards before the first
transfer not performed; one cancelled again writes no more (R252, R253). -/
def Pkg.cancelCopy (p : Pkg) (o : Op) : Pkg :=
  match o.kind.shape with
  | none => p.endOp o (engineStatus 3 0 0)
  | some x =>
    let first := ((List.range x.total).find? fun f => x.starts f && !o.done.contains f).getD x.total
    if o.stopped then p.endOp o (({ o with code := 3 } : Op).copyStatus x)
    else p.copyEnd { o with code := 3, lane := first, held := [] } x

/-- A cancelled operation: STATE 11 (step 3 of R382, R252); a pan carries its count. A BPUT in progress leaves its slot.
DESIGN CHOICE, log entry 80. -/
def Pkg.cancelOp (p : Pkg) (o : Op) : Pkg :=
  match o.kind with
  | .pan .. => p.endOp o (panStatus 3 0 0 o.bytes)
  | .copy .. => p.cancelCopy o
  | .get .. | .put .. => p.endOp o (engineStatus 3 0 (o.kind.shape.map o.moved |>.getD 0))
  | .rpan .. => p.endOp o (panStatus 3 0 0 0)
  | .bput cap .. | .bdrop cap _ =>
    (p.modCore (fld cap.toNat 63 55) fun k =>
      { k with bslots := k.bslots.map fun (e : Nat × BSlot) => if e.2.busy = some o.id then (e.1, { e.2 with busy := none }) else e }).endOp o
        (engineStatus 2 1 0)
  | .msg .. | .attest .. => p.endOp o (engineStatus 3 0 0)

/-- Something of an inter-package operation has been sent and waits for its acknowledgement (step 4 of R382). -/
def Op.abroad (o : Op) : Bool := o.kind.cls == 2 && o.ack.isNone && (o.sent || !o.done.isEmpty)

/-- Stops lapse on the cores of saved tasks that are discarded (R411). -/
def Pkg.lapse (p : Pkg) (gone : List (Nat × Core)) : Pkg :=
  let lost (r : TaskRef) : Bool := gone.any fun e => e.1 == r.core && (e.2.task.map Task.launched) == some r.step
  { p with stops := p.stops.filterMap (Stop.without lost) }

/-- A task of the queue that had ended by a cause writes no record either. -/
def Pkg.silence (p : Pkg) (n : Nat) : Pkg :=
  { p with cores := p.cores.map fun (e : Nat × Core) =>
      (e.1, { e.2 with task := e.2.task.map fun (t : Task) => if t.info.queue = n then { t with silent := true } else t }) }

/-- Steps 1 to 3 of R382. -/
def Pkg.beginReset (p : Pkg) (n : Nat) : Pkg :=
  let q := p.queue n
  if q.st ≠ .idle ∧ q.st ≠ .active then p
  else
    let q' : Queue :=
      { q with st := .resetting, graph := none, resetAt := p.pt, held := none,
               resetTag := (q.graph.map Graph.tag).getD 0 }
    let boxed := p.cores.flatMap fun e => e.2.inbox.filterMap fun i => if i.queue = n then i.gang else none
    let p := { p with queues := p.queues.put n q',
                      cores := p.cores.map fun (e : Nat × Core) => (e.1, { e.2 with inbox := e.2.inbox.filter fun (i : TaskInfo) => i.queue != n }) }
    let gangs := (p.coresOf n).filterMap p.gangOf ++ boxed
    let p := (p.coresOf n).foldl (fun p c => (p.endTask c 0 0 0 true)) p
    let p := p.silence n
    let mine (e : Nat × Core) : Bool := (e.2.task.map fun t => t.info.queue) == some n
    let gone := p.saved.filter mine
    let gangs := gangs ++ gone.filterMap fun e => e.2.task.bind fun t => t.info.gang
    let p := Pkg.lapse { p with saved := p.saved.filter fun e => !mine e, bars := p.bars.filter fun b => !gangs.contains b.2.gang } gone
    let ops := p.ops.filter fun o => o.queue == n
    let p := (ops.filter fun o => !o.abroad).foldl Pkg.cancelOp p
    Pkg.freeSlot { p with ops := p.ops.map fun (o : Op) => if o.queue = n then { o with sent := true } else o } n

/-- Table 16.6. -/
def resetEntry (r : Rec) : List Byte :=
  leBytes (keyVa r.key <<< 448 + (if r.pan.isSome then 2 ^ 64 - 1 else r.attr.mask.toNat) <<< 384 + (r.attr.chunk % 2 ^ 48) <<< 336 +
    r.attr.gen.toNat <<< 320 + r.attr.space <<< 304 + (r.attr.gcid % 2 ^ 13) <<< 291 + r.mc <<< 280 + r.cause <<< 272) 64

/-- Write the entries of a reset report, each at its place; one that the windows refuse is not listed (R465). True where every
one is. -/
def Pkg.reportLines (p : Pkg) (s va : Nat) : List (List Byte) → Eng (Bool × Pkg)
  | [] => .ok (true, p)
  | e :: t =>
    match p.moduleWrite s va e with
    | .error (.refused _) => (p.reportLines s (va + 64) t).map fun r => (false, r.2)
    | .error x => .error x
    | .ok p => p.reportLines s (va + 64) t

/-- An undelivered message is dropped as "no such context" (step 5). -/
def Pkg.dropFlight (p : Pkg) (f : Flight) : Pkg :=
  let y := ctxOfGcid (fld f.dst.toNat 28 16)
  (p.modCore y.core fun k => { k with dropped := k.dropped + 1 }).tokenDone f.who f.gen f.tok f.op (BitVec.ofNat 64 (2 <<< 62 + 1 <<< 56))

/-- Steps 5 to 7 of R382, once nothing of the queue is outstanding. -/
def Pkg.endReset (p : Pkg) (n : Nat) : Option Pkg :=
  let q := p.queue n
  if q.st ≠ .resetting || (q.waiting.any fun e => recordKind e == 5) || (p.ops.any fun o => o.queue == n) || !(p.coresOf n).isEmpty then none
  else
    let fs := p.flights.filter fun f => f.queue == n
    let p := fs.foldl Pkg.dropFlight ({ p with flights := p.flights.filter fun f => f.queue != n } : Pkg)
    let named (r : Rec) : Bool := q.names.any fun m => m.1 == r.attr.gcid && m.2 == r.attr.gen
    let gone := p.recs.filter named
    let listed := gone.take q.rptn.toNat
    let finish (p : Pkg) (all : Bool) : Pkg :=
      let p := { p with recs := p.recs.filter fun r => !named r }
      let p := gone.foldl (fun p r => match r.pan with
        | some x => p.drainDone r.attr.space x.slot
        | none => p) p
      let q := p.queue n
      let e := completion q.resetTag.toNat gone.length 0 5 (if all then 0x00 else 0x50) 0 q.shead.toNat
      { p with queues := p.queues.put n { q with waiting := q.waiting ++ [e], names := q.names.filter fun m => p.nameLives m.1 m.2 } }
    match p.reportLines q.space.toNat q.rptva.toNat (listed.map resetEntry) with
    | .ok (whole, p) => some (finish p (whole && decide (gone.length ≤ q.rptn.toNat)))
    | .error (.held h) => p.holdModule q.space.toNat h
    | .error .wait | .error (.refused _) => none

/-! ### What the module owes -/

end Sys2Proof.Machine
end

