-- ==== Sys2Proof/Machine/Host.lean ====
section
/-! DEFINITION. Register pages and command blocks (R370, R372, R373, R405, R425, R449, R463): fields, effects of writes, and
how a command runs and ends. -/

namespace Sys2Proof.Machine

/-! ### Queue registers (R372, R373, R463) -/

/-- Queue number of queue `q` of an interface (R369). -/
def queueNo (vi q : Nat) : Nat := 16 * vi + q

def lowHalf (x : Word) (v : Nat) : Word := BitVec.ofNat 64 (x.toNat / 2 ^ 32 * 2 ^ 32 + v % 2 ^ 32)
def highHalf (x : Word) (v : Nat) : Word := BitVec.ofNat 64 (x.toNat % 2 ^ 32 + v % 2 ^ 32 * 2 ^ 32)

/-- A configuration field's 4-byte part, by its index in the block (Table 16.3). A reserved bit reads as zero (R9); what was written
there is kept for R373's check alone. DESIGN CHOICE, log entry 107. -/
def Queue.setPart (q : Queue) (i v : Nat) : Queue :=
  match i with
  | 0 => { q with resv := lowHalf q.resv (v &&& 0xFFFFFF04), nmode := BitVec.ofNat 2 (fld v 7 6) }
  | 1 => { q with resv := highHalf q.resv v }
  | 2 => { q with space := BitVec.ofNat 16 (fld v 31 16), clog2 := BitVec.ofNat 8 (fld v 15 8), slog2 := BitVec.ofNat 8 (fld v 7 0) }
  | 3 => { q with subva := lowHalf q.subva v }
  | 4 => { q with subva := highHalf q.subva v }
  | 5 => { q with cmpva := lowHalf q.cmpva v }
  | 6 => { q with cmpva := highHalf q.cmpva v }
  | 7 => { q with notify := lowHalf q.notify v }
  | 8 => { q with notify := highHalf q.notify v }
  | 13 => { q with rptn := BitVec.ofNat 32 v }
  | 14 => { q with rptva := lowHalf q.rptva v }
  | 15 => { q with rptva := highHalf q.rptva v }
  | _ => q

def Queue.off (q : Queue) : Bool := q.st == .disabled || q.st == .refused

/-- Why R373 refuses a configuration. -/
def Pkg.refuses (p : Pkg) (vi : Nat) (q : Queue) : Bool :=
  let ring (va : Word) (l : BitVec 8) : Bool := va.toNat % (32 * 2 ^ l.toNat) != 0
  let log (l : BitVec 8) : Bool := !(4 ≤ l.toNat && l.toNat ≤ 16)
  ((p.space? q.space.toNat).map Space.owner) != some vi || log q.clog2 || log q.slog2 || ring q.cmpva q.clog2 || ring q.subva q.slog2 ||
    q.nmode == 3 || q.resv != 0

/-- EN = 1 in DISABLED or REFUSED. DEDUCED, log entry 82. -/
def Pkg.enableQueue (p : Pkg) (n : Nat) : Pkg :=
  let q := p.queue n
  if !q.off then p
  else if p.refuses (n / 16) q then p.putQueue n { q with st := .refused }
  else p.putQueue n { q with shead := 0, stail := 0, chead := 0, ctail := 0, st := .idle }

/-- EN = 0 in IDLE. -/
def Pkg.disableQueue (p : Pkg) (n : Nat) : Pkg :=
  let q := p.queue n
  if q.st = .idle then p.putQueue n { q with st := .disabled } else p

def Pkg.writeStail (p : Pkg) (n : Nat) (v : BitVec 32) : Pkg :=
  let q := p.queue n
  let d := (v - q.shead).toNat
  if (q.stail - q.shead).toNat ≤ d ∧ d ≤ 2 ^ q.slog2.toNat then
    p.putQueue n (Queue.settle { q with stail := v })
  else p

def Pkg.writeChead (p : Pkg) (n : Nat) (v : BitVec 32) : Pkg :=
  let q := p.queue n
  if (v - q.chead).toNat ≤ (q.ctail - q.chead).toNat then { p with queues := p.queues.put n { q with chead := v } } else p

/-! ### Command blocks (R370, R405, R425, R449) -/

def Pkg.vi (p : Pkg) (vi : Nat) : Vi := p.vis.get .reset vi

def Vi.block (v : Vi) (b : Block) : BlockRegs :=
  match b with
  | .cmd => v.cmd
  | .job => v.job
  | .debug => v.debug
  | .platform => v.platform

def Vi.setBlock (v : Vi) (b : Block) (r : BlockRegs) : Vi :=
  match b with
  | .cmd => { v with cmd := r }
  | .job => { v with job := r }
  | .debug => { v with debug := r }
  | .platform => { v with platform := r }

def Pkg.setBlock (p : Pkg) (vi : Nat) (b : Block) (r : BlockRegs) : Pkg := { p with vis := p.vis.put vi ((p.vi vi).setBlock b r) }

/-- The fields of doubleword 0: CODE, SEQ and DONE. Its other bits read as zero, and a write to them is ignored (R9, R370). -/
def blockFields : Word := 0x1FFFF00FF

/-- Write one 4-byte part of a block: doubleword 7 is the module's, doubleword 0 of a running command stands, and a write
that covers bits [7:0] of doubleword 0 starts the command. -/
def BlockRegs.writePart (r : BlockRegs) (i v : Nat) : BlockRegs :=
  let j := i / 2
  let w := r.dw.get 0 j
  let w := (if i % 2 = 0 then lowHalf w v else highHalf w v) &&& (if j = 0 then blockFields else BitVec.allOnes 64)
  if j = 7 || (j = 0 && r.running) then r
  else if i = 0 then { dw := (r.dw.set 0 0 w).set 0 7 0, running := true }
  else { r with dw := r.dw.set 0 j w }

/-- Block and part of an offset of the page. -/
def blockAt (off : Nat) : Option Block :=
  if off / 64 = 0x10 then some .cmd
  else if off / 64 = 0x11 then some .job
  else if off / 64 = 0x20 then some .debug
  else if off / 64 = 0x30 then some .platform
  else none

/-! ### Commands -/

/-- How a command ends, or that it goes on. -/
inductive CmdEnd where
  | ok (value : Nat) (p : Pkg)
  | err (code : Nat)
  | run (p : Pkg)
  deriving DecidableEq, Repr

/-- CODE of the command that a block runs. -/
def BlockRegs.code (r : BlockRegs) : Option Nat := if r.running then some (fld (r.dw.get 0 0).toNat 7 0) else none

/-- An argument of a block's command. -/
def BlockRegs.arg (r : BlockRegs) (i : Nat) : Nat := (r.dw.get 0 i).toNat

/-- The module writes the result into doubleword 7, then DONE (R370). -/
def Pkg.endCmd (p : Pkg) (vi : Nat) (b : Block) (v : Nat) : Pkg :=
  let r := (p.vi vi).block b
  p.setBlock vi b { dw := (r.dw.set 0 7 (BitVec.ofNat 64 v)).set 0 0 (r.dw.get 0 0 ||| 1#64 <<< 32), running := false }

def cmdOk (v : Nat) : Nat := 1 <<< 62 + v % 2 ^ 56
def cmdErr (code : Nat) : Nat := 2 <<< 62 + code <<< 56

/-- Run a step of the command with a code, if the block holds it and the firmware is not being switched (R426).
DESIGN CHOICE, log entry 69. -/
def Pkg.command (p : Pkg) (vi : Nat) (b : Block) (code : Nat) (f : (Nat → Nat) → CmdEnd) : Pkg :=
  let r := (p.vi vi).block b
  if r.code ≠ some code ∨ p.fw.switching.isSome then p
  else
    match f r.arg with
    | .ok v q => q.endCmd vi b (cmdOk v)
    | .err e => p.endCmd vi b (cmdErr e)
    | .run q => q

/-- Codes that a block's table lists (Tables 16.1, 17.3, 18.1, 19.1, 20.4). -/
def assigned (b : Block) (code : Nat) : Bool :=
  match b with
  | .cmd => (2 ≤ code && code ≤ 4) || (0x10 ≤ code && code ≤ 0x19)
  | .job => code == 1 || code == 2
  | .debug => 1 ≤ code && code ≤ 6
  | .platform => 1 ≤ code && code ≤ 6

/-- Write zeros with valid check bytes over `n` bytes from a physical address; poison is gone. -/
def Pkg.zeroPhys (p : Pkg) (a n : Nat) : Pkg :=
  { p with log := .zero a n :: p.log, poison := p.poison.filter fun b => !(a ≤ b && b < a + n) }

/-- Whether an interface owns a space, or is VI 0 (R369, R391). DEDUCED, log entry 70. -/
def Pkg.owns (p : Pkg) (vi s : Nat) : Bool :=
  match p.space? s with
  | some x => vi == 0 || x.owner == vi
  | none => false

/-- A ring as a command sets it: empty. DEDUCED, log entry 39. -/
def Ring.new (va : Nat) (space log2 notify : Nat) : Ring :=
  { va := BitVec.ofNat 64 va, space, log2, notify := BitVec.ofNat 64 notify, tail := 0, lost := 0, queue := [] }

/-- Arguments of a ring command that break their rules. A ring's VA that is not 64-byte aligned is taken as one: every line of a ring is
one engine commit (R397). DESIGN CHOICE, log entry 125. -/
def ringBad (va log2 : Nat) : Bool := va % 64 != 0 || decide (va ≥ vaTop) || decide (log2 < 4) || decide (log2 > 16)

end Sys2Proof.Machine
end

