-- ==== Sys2Proof/Machine/Inbound.lean ====
section
/-! DEFINITION. Requests that reach the package from outside: the remote sides of other modules' GET, PUT and RPAN (R115, R257) and a
host's memory accesses and doorbells (R368), each line at its own place; and all that the module owes. -/

namespace Sys2Proof.Machine

/-- A request whose link epoch is older than the port's is refused (R257). -/
def Pkg.stale (p : Pkg) (src epoch : Nat) : Bool := decide (epoch < p.epochs.get 0 (src % 16))

def Pkg.answer (p : Pkg) (src code count : Nat) (data : List Byte) : Pkg := { p with out := p.out ++ [.answer src code count data] }

def Pkg.hostReply (p : Pkg) (vi : Nat) (ok : Bool) (data : List Byte) : Pkg := { p with out := p.out ++ [.hostReply vi ok data] }

/-- Bytes of a range that the windows admit to an access from outside; the local-store window is not valid there (R34). -/
def Pkg.admitted (p : Pkg) (s need va n : Nat) : Nat :=
  let m := if lsBase ≤ va then 0 else min n (lsBase - va)
  match p.badByte s need va m with
  | some b => b - va
  | none => m

def Asked.size : Asked → Nat
  | .read n => n
  | .write d => d.length
  | .rpan .. | .stail .. => 0

/-- What ends a request: its bytes and its code, where a host learns only whether all is well (R368). -/
def Inbound.reply (r : Inbound) (p : Pkg) (code : Nat) : Pkg :=
  match r.who, r.what with
  | .host vi, .read _ => p.hostReply vi (code == 0) (if code = 0 then r.got else [])
  | .host vi, .write _ => p.hostReply vi (code == 0) []
  | .peer src, .read _ | .peer src, .write _ => p.answer src code r.done r.got
  | .peer src, .rpan .. => p.answer src (code + 0x10) 0 []
  | .host _, .rpan .. | .host _, .stail .. | .peer _, .stail .. => p

/-- A request that is over once its bytes are done. -/
def Inbound.settle (r : Inbound) (p : Pkg) : Option Inbound × Pkg :=
  if r.done < r.limit then (some r, p) else (none, r.reply p (if r.limit = r.what.size then 0 else 0x13))

/-- An inbound PUT, GET or RPAN, or a host's write, opens the log of its space (R419). -/
def Inbound.touched (r : Inbound) (p : Pkg) : Pkg :=
  match r.who, r.what with
  | .host _, .read _ => p
  | _, _ => p.openLog r.space

/-- The request's next line, its application, or its end. None where it cannot move; a held access posts its notice once.
DESIGN CHOICE, log entry 60. -/
def Pkg.inboundStep (p : Pkg) (r : Inbound) : Option (Option Inbound × Pkg) :=
  let va := r.va + r.done
  let k := min (r.limit - r.done) (64 - va % 64)
  let held (h : HeldAt) : Option (Option Inbound × Pkg) := (p.holdModule r.space h).map fun q => (some r, q)
  let stale := match r.who with
    | .peer src => p.stale src r.epoch
    | .host _ => false
  if stale then some (none, p)
  else
    match r.what with
    | .stail q v => some (none, p.writeStail q v)
    | .rpan slot operand =>
      if (p.space? r.space).isNone then some (none, r.reply p 0x15)
      else
        match if lsBase ≤ r.va then none else p.route r.space r.va rPAN, r.who with
        | none, _ => some (none, r.reply p 0x13)
        | some _, .host _ => some (none, p)
        | some t, .peer src =>
          match p.panHome { attr := .module_ r.space, origin := p.homeOf t.key, slot, lidx := 0, lane := 0, va := r.va, operand,
                            returning := false, outside := true } with
          | .wait => none
          | .held h => held h
          | .done q code counted _ _ => some (none, (r.touched q).answer src code counted.toNat [])
    | .read _ =>
      if (p.space? r.space).isNone then some (none, r.reply p 0x15)
      else if r.limit ≤ r.done then some (r.settle p)
      else
        match p.readPiece r.space (rENG + rRD) va k with
        | .error (.held h) => held h
        | .error .wait => none
        | .error (.refused _) => some (none, r.reply p 0x13)
        | .ok (x, q) =>
          if x.poison then some (none, r.reply (r.touched q) 0x14)
          else some ({ r with done := r.done + k, got := r.got ++ x.bytes }.settle (r.touched q))
    | .write data =>
      if (p.space? r.space).isNone then some (none, r.reply p 0x15)
      else if r.limit ≤ r.done then some (r.settle p)
      else
        match p.writePiece none r.space (rENG + rWR) va ((data.drop r.done).take k) (.module_ r.space) with
        | .error (.held h) => held h
        | .error .wait => none
        | .error (.refused _) => some (none, r.reply p 0x13)
        | .ok q => some ({ r with done := r.done + k }.settle (r.touched q.endHolds))

/-- A request arrives: it moves at once where none of the same asker stands before it. -/
def Pkg.arrive (p : Pkg) (r : Inbound) : Pkg :=
  if p.inbound.any fun a => a.who == r.who then { p with inbound := p.inbound ++ [r] }
  else
    match p.inboundStep r with
    | none => { p with inbound := p.inbound ++ [r] }
    | some (l, q) => { q with inbound := q.inbound ++ l.toList }

/-- An asker's first request moves. -/
def Pkg.serveInbound (p : Pkg) (r : Inbound) : Option Pkg :=
  if (p.inbound.find? fun a => a.who == r.who) != some r then none
  else (p.inboundStep r).map fun x => { x.2 with inbound := x.1.toList ++ p.inbound.erase r }

/-- A host's write of STAIL takes effect after every memory access sent earlier on its connection (R368). -/
def Pkg.hostStail (p : Pkg) (n : Nat) (v : BitVec 32) : Pkg :=
  p.arrive { who := .host (n / 16), epoch := 0, space := 0, va := 0, what := .stail n v, limit := 0, done := 0, got := [] }

/-! ### Register pages (R372, R463) -/

/-- Write one 4-byte part of a queue's block (R372, R382, R383). -/
def Pkg.writeQueuePart (p : Pkg) (n i v : Nat) : Pkg :=
  let q := p.queue n
  if i = 10 then p.hostStail n (BitVec.ofNat 32 v)
  else if i = 12 then p.writeChead n (BitVec.ofNat 32 v)
  else if i = 0 ∧ v.testBit 1 ∧ (q.st = .idle ∨ q.st = .active) then p.beginReset n
  else
    let p := if q.off then { p with queues := p.queues.put n (q.setPart i v) } else p
    if i ≠ 0 then p else if v.testBit 0 then p.enableQueue n else p.disableQueue n

def Pkg.writePart (p : Pkg) (vi off v : Nat) : Pkg :=
  if off < 0x400 then p.writeQueuePart (queueNo vi (off / 64)) (off % 64 / 4) v
  else
    match blockAt off with
    | some b => p.setBlock vi b (((p.vi vi).block b).writePart (off % 64 / 4) v)
    | none => p

/-- A host's write to a register page (R463): naturally aligned, of 4 or 8 bytes; the high half of a doubleword is written
first, so that a command or an enabling sees the whole of it. -/
def Pkg.writeReg (p : Pkg) (vi off size : Nat) (v : Word) : Pkg :=
  if vi ≥ 64 then p
  else if size = 4 ∧ off % 4 = 0 then p.writePart vi off (v.toNat % 2 ^ 32)
  else if size = 8 ∧ off % 8 = 0 then (p.writePart vi (off + 4) (v.toNat / 2 ^ 32)).writePart vi off (v.toNat % 2 ^ 32)
  else p

/-- STATE of a queue (Table 16.3). -/
def QState.code : QState → Nat
  | .disabled => 0
  | .idle => 1
  | .active => 2
  | .resetting => 3
  | .refused => 4

def lowPart (x : Word) : Nat := fld x.toNat 31 0
def highPart (x : Word) : Nat := fld x.toNat 63 32

/-- A 4-byte part of a queue's block as it is read: RST and reserved bits are zero (R8, R9). -/
def Queue.part (q : Queue) (i : Nat) : Nat :=
  match i with
  | 0 => q.nmode.toNat <<< 6 + q.st.code <<< 3 + (if q.off then 0 else 1)
  | 2 => q.space.toNat <<< 16 + q.clog2.toNat <<< 8 + q.slog2.toNat
  | 3 => lowPart q.subva
  | 4 => highPart q.subva
  | 5 => lowPart q.cmpva
  | 6 => highPart q.cmpva
  | 7 => lowPart q.notify
  | 8 => highPart q.notify
  | 9 => q.shead.toNat
  | 10 => q.stail.toNat
  | 11 => q.ctail.toNat
  | 12 => q.chead.toNat
  | 13 => q.rptn.toNat
  | 14 => lowPart q.rptva
  | 15 => highPart q.rptva
  | _ => 0

def Pkg.readPart (p : Pkg) (vi off : Nat) : Nat :=
  if off < 0x400 then (p.queue (queueNo vi (off / 64))).part (off % 64 / 4)
  else
    match blockAt off with
    | some b => let w := ((p.vi vi).block b).dw.get 0 (off % 64 / 8)
                if off % 8 = 0 then lowPart w else highPart w
    | none => 0

/-- What a host reads of a register page: the fields as they stand, and zero under another width or alignment (R463). -/
def Pkg.readReg (p : Pkg) (vi off size : Nat) : Word :=
  if vi ≥ 64 then 0
  else if size = 4 ∧ off % 4 = 0 then BitVec.ofNat 64 (p.readPart vi off)
  else if size = 8 ∧ off % 8 = 0 then BitVec.ofNat 64 (p.readPart vi off + p.readPart vi (off + 4) <<< 32)
  else 0

/-! ### What the module owes -/

/-- The next step that the module owes and can make: writes to rings and completion rings, requests to peers, successors'
decrements, the end of a queue reset, lines of inbound requests, the end of a DRAINING slot, merged corrected errors. -/
def Pkg.duty (p : Pkg) : Option Pkg :=
  p.owedWrite <|> firstSome (fun e : Nat × Queue => p.successor e.1) p.queues <|>
    firstSome (fun e : Nat × Queue => p.endReset e.1) p.queues <|> firstSome p.serveInbound p.inbound <|>
    firstSome p.drainEnd p.drains <|> p.correctedDue

end Sys2Proof.Machine
end

