-- ==== Sys2Proof/Machine/Front.lean ====
section
/-! DEFINITION. Events of the front end, the core loop and the hosts: R40 to R47, R366 to R383, R463, R464. -/

namespace Sys2Proof.Machine

/-! ### Core loop and front end -/

def execCoreLoopTake (core : Nat) (s : State) : Host.Outcome State Fault Refusal := s.run (·.takeRecord core)

def execGangMemberStart (core : Nat) (s : State) : Host.Outcome State Fault Refusal := s.run (·.startMember core)

def execTaskComplete (core : Nat) (s : State) : Host.Outcome State Fault Refusal := s.run (·.completeTask core)

def execEntryTake (q : Nat) (s : State) : Host.Outcome State Fault Refusal :=
  s.run fun p =>
    let x := p.queue q
    if x.st = .active ∧ x.graph.isNone ∧ x.waiting.isEmpty ∧ x.stail ≠ x.shead ∧ p.hasSlot q then p.takeEntry q else p

def execQueueSlotTake (q : Nat) (s : State) : Host.Outcome State Fault Refusal := s.run (·.takeSlot q)

def execQueueEvict (q : Nat) (s : State) : Host.Outcome State Fault Refusal := s.run (·.evictQueue q)

def execArbiterVisit (s : State) : Host.Outcome State Fault Refusal :=
  s.run fun p => { p.visitSlot p.arbPos with arbPos := (p.arbPos + 1) % 32 }

/-! ### Hosts -/

/-- A host's access to a register page: a write of a value, or a read, whose value goes back to the host (R368, R463). -/
def execRegisterWrite (vi off size : Nat) (value : Option Word) (s : State) : Host.Outcome State Fault Refusal :=
  s.run fun p =>
    match value with
    | some v => p.writeReg vi off size v
    | none => { p with out := p.out ++ [.regValue vi off (p.readReg vi off size)] }

def execQueueEnable (q : Nat) (s : State) : Host.Outcome State Fault Refusal :=
  s.run fun p => if q < 1024 then p.enableQueue q else p

def execQueueDisable (q : Nat) (s : State) : Host.Outcome State Fault Refusal := s.run (·.disableQueue q)

def execStailWrite (q : Nat) (value : BitVec 32) (s : State) : Host.Outcome State Fault Refusal :=
  s.run fun p => if q < 1024 then p.hostStail q value else p

def execCheadWrite (q : Nat) (value : BitVec 32) (s : State) : Host.Outcome State Fault Refusal :=
  s.run fun p => if q < 1024 then p.writeChead q value else p

def execQueueReset (q : Nat) (s : State) : Host.Outcome State Fault Refusal := s.run (·.beginReset q)

/-- A host's access to the memory of a space, checked whole before it touches anything, as the remote side of a PUT or GET is; each
line is one engine commit (R368). -/
def Pkg.hostAccess (p : Pkg) (vi space va : Nat) (what : Asked) (need : Nat) : Pkg :=
  if vi ≥ 64 || !p.owns vi space || p.admitted space need va what.size != what.size then p.hostReply vi false []
  else p.arrive { who := .host vi, epoch := 0, space, va, what, limit := what.size, done := 0, got := [] }

def execHostMemoryAccess (vi space va n : Nat) (data : Option (List Byte)) (s : State) : Host.Outcome State Fault Refusal :=
  s.run fun p =>
    match data with
    | some b => p.hostAccess vi space va (.write b) (rENG + rWR)
    | none => p.hostAccess vi space va (.read n) (rENG + rRD)

/-- The bridge of a group relays a host's message to a member, and a member's answer to the host, in the order in which they arrive
(R367). -/
def execBridgeRelay (modid vi : Nat) (m : Relay) (s : State) : Host.Outcome State Fault Refusal :=
  s.run fun p =>
    if s.prov.bridge && modid / 16 == s.prov.modid / 16 && modid != s.prov.modid then { p with out := p.out ++ [.relay modid vi m] }
    else p

/-! ### Interface commands (Table 16.1) -/

/-- Every code that a block's table does not list; the job block refuses other interfaces first (R370, R405, R425, R449). -/
def execCmdUnassigned (vi : Nat) (blk : Block) (s : State) : Host.Outcome State Fault Refusal :=
  s.run fun p =>
    match ((p.vi vi).block blk).code with
    | some c => if assigned blk c then p else p.command vi blk c fun _ => .err (if blk = .job ∧ vi ≠ 0 then 0x02 else 0x01)
    | none => p

/-- Lowest number of a range that a list does not hold. -/
def lowestFree (used : List Nat) (lo n : Nat) : Option Nat := ((List.range n).map (· + lo)).find? fun i => !used.contains i

/-- MKSPACE: the lowest identifier, and the lowest table frame, zeroed (R387). -/
def Pkg.makeSpace (p : Pkg) (vi priv : Nat) : CmdEnd :=
  if priv > 2 ∨ (priv ≠ 0 ∧ vi ≠ 0) then .err 0x02
  else if p.failed then .err 0x0F
  else
    match lowestFree (p.spaces.map Prod.fst) 1 65535, lowestFree (p.spaces.map fun e => e.2.frame) 0 Config.tableFrames with
    | some id, some f =>
      let q : Pkg := { p with spaces := p.spaces.put id (.new priv vi f), entries := p.entries.filter (·.space != id),
                              past := p.past.filter fun q => keySpace q.key != id }
      .ok id (q.zeroPhys (f * 65536) 65536)
    | _, _ => .err 0x03

def execMkspace (vi : Nat) (s : State) : Host.Outcome State Fault Refusal :=
  s.run fun p => p.command vi .cmd 0x02 fun a => p.makeSpace vi (a 1)

def execSetpeer (vi : Nat) (s : State) : Host.Outcome State Fault Refusal :=
  s.run fun p => p.command vi .cmd 0x03 fun a =>
    let e := a 3
    if !p.owns vi (a 1) then .err 0x04
    else if a 2 > 4095 ∨ fld e 62 48 ≠ 0 ∨ fld e 23 16 ≠ 0 then .err 0x05
    else .ok 0 (p.modSpace (a 1) fun x => { x with peers := x.peers.set 0 (a 2) (BitVec.ofNat 64 e) })

def execSetqos (vi : Nat) (s : State) : Host.Outcome State Fault Refusal :=
  s.run fun p => p.command vi .cmd 0x04 fun a =>
    if vi ≠ 0 then .err 0x02
    else if a 1 > 1023 ∨ a 2 = 0 ∨ a 2 > 255 then .err 0x05
    else .ok 0 { p with queues := p.queues.put (a 1) { p.queue (a 1) with weight := a 2 } }

end Sys2Proof.Machine
end

