-- ==== Sys2Proof/Machine/Memory.lean ====
section
/-! DEFINITION. Scalar and vector loads and stores, prefetch and line write-back: R233 to R240, R244, R245. -/

namespace Sys2Proof.Machine

/-- Bytes of a scalar access type (R237). -/
def Ty.bytes (t : Ty) : Nat := t.width / 8

/-! ### Scalar accesses -/

/-- R237. -/
def execLd (g : Guard) (t : Ty) (h : Hint) (inv : Bool) (d : SReg) (m : MemOp) (s : State) : Host.Outcome State Fault Refusal :=
  s.issue
    { guard := g, srcs := memSrcs m, dsts := [d.toNat],
      body := do
        let x ← M.me
        let r ← M.r
        let va := (memAddr r m).toNat
        M.checkEl x rRD va (Ty.bytes t) 0
        let v ← M.load x rRD va (Ty.bytes t) inv (h == .noalloc)
        M.setS d (extend t (BitVec.ofNat 64 v))
        return .next }

/-- R238. -/
def execSt (g : Guard) (t : Ty) (h : Hint) (d : SReg) (m : MemOp) (s : State) : Host.Outcome State Fault Refusal :=
  let _ := h
  s.issue
    { guard := g, srcs := d.toNat :: memSrcs m,
      body := do
        let x ← M.me
        let r ← M.r
        let va := (memAddr r m).toNat
        M.checkEl x rWR va (Ty.bytes t) 0
        M.store x va (Ty.bytes t) (r.sr d).toNat
        return .next }

/-! ### Vector accesses (R239, R240) -/

/-- The checks of the active elements, in lane order. -/
def M.checkEls (x : CtxRef) (need n : Nat) (addr : Nat → Word) : List Nat → M Unit
  | [] => pure ()
  | j :: t => do
    M.checkEl x need (addr j).toNat n j
    M.checkEls x need n addr t

def M.loadEls (x : CtxRef) (n : Nat) (inv noalloc : Bool) (addr : Nat → Word) : List Nat → M (Tab (BitVec 32))
  | [] => return []
  | j :: t => do
    let v ← M.load x rRD (addr j).toNat n inv noalloc
    let l ← M.loadEls x n inv noalloc addr t
    return (j, BitVec.ofNat 32 v) :: l

/-- The line of an element that needs a way in the L1: not one of the core's own local store. -/
def Pkg.wayKey (p : Pkg) (x : CtxRef) (va : Nat) : Option Nat :=
  match p.route? (p.spaceOf x.core) va with
  | some r => if inLocal va && lsCore va == x.core then none else some r.key
  | none => none

/-- Whether a store writes more lines with one value of VA[12:6] than the L1 has ways (R75, R100). -/
def Pkg.crowds (p : Pkg) (x : CtxRef) (vas : List Nat) : Bool :=
  let ways := 40 - (p.core x.core).lsw
  let keys := (vas.filterMap (p.wayKey x)).foldl (fun l k => insertNat k l) []
  decide (ways < vas.length) && keys.any fun k => decide (ways < (keys.filter fun j => j % 128 == k % 128).length)

/-- Whether a part of a split store ends before an element: its set has no way left, and the part holds a line of the set (R55, R100,
R461). -/
def Pkg.partEnds (p : Pkg) (x : CtxRef) (va : Nat) : Bool :=
  match p.wayKey x va with
  | none => false
  | some key =>
    (p.takeWay x.core key).isNone &&
      ((p.core x.core).inSet (key % 128)).any fun e => (Tab.find? (p.ctx x).ch.ulines e.1).isSome

/-- Make the elements of a store in order; `made`: the part holds one already. -/
def M.parts (x : CtxRef) (va : Nat → Nat) (f : Nat → M Unit) (split : Bool) : Bool → List Nat → M Flow
  | _, [] => return .next
  | made, j :: t => do
    if split && made && (← get).partEnds x (va j) then return .part j
    f j
    M.parts x va f split true t

/-- A store of the elements `js`, those from `first` on not yet made. One that the L1's ways do not hold is preceded by a cut, and
made in parts (R100). DESIGN CHOICE, log entry 112. -/
def M.storeParts (x : CtxRef) (va : Nat → Nat) (f : Nat → M Unit) (first : Nat) (js : List Nat) : M Flow := do
  let p ← get
  let split := p.crowds x (js.map va)
  if split && (p.ctx x).ch.count != 0 then throw .cut
  M.parts x va f split false (js.filter (first ≤ ·))

/-- Lanes that an access mask selects. -/
def accessLanes (r : Regs) (c : SReg) : List Nat := (List.range 64).filter (accessOn r c)

def Ins.vecLoad (g : Guard) (w : VW) (h : Hint) (inv : Bool) (d : VReg) (c : SReg) (srcs vsrcs : List Nat)
    (addr : Regs → Nat → Word) : Ins :=
  { guard := g, srcs := srcs ++ accessSrcs c, vsrcs := vsrcs, vdsts := [d.toNat],
    body := do
      let x ← M.me
      let r ← M.r
      let js := accessLanes r c
      M.checkEls x rRD (vwBytes w) (addr r) js
      let l ← M.loadEls x (vwBytes w) inv (h == .noalloc) (addr r) js
      M.setRegs fun r => r.setLanes d.toNat fun j => Tab.find? l j
      return .next }

def Ins.vecStore (g : Guard) (w : VW) (d : VReg) (c : SReg) (srcs vsrcs : List Nat) (addr : Regs → Nat → Word) : Ins :=
  { guard := g, srcs := srcs ++ accessSrcs c, vsrcs := d.toNat :: vsrcs,
    body := do
      let x ← M.me
      let r ← M.r
      let js := accessLanes r c
      M.checkEls x rWR (vwBytes w) (addr r) (js.filter (r.part ≤ ·))
      M.storeParts x (fun j => (addr r j).toNat) (fun j => M.store x (addr r j).toNat (vwBytes w) (r.lane d.toNat j).toNat) r.part js }

def execLdv (g : Guard) (w : VW) (h : Hint) (inv : Bool) (d : VReg) (m : MemOp) (c : SReg) (s : State) :
    Host.Outcome State Fault Refusal :=
  s.issue (.vecLoad g w h inv d c (memSrcs m) [] fun r j => ldvAddr r m (vwBytes w) j)

def execStv (g : Guard) (w : VW) (h : Hint) (d : VReg) (m : MemOp) (c : SReg) (s : State) : Host.Outcome State Fault Refusal :=
  let _ := h
  s.issue (.vecStore g w d c (memSrcs m) [] fun r j => ldvAddr r m (vwBytes w) j)

def execLdvs (g : Guard) (w : VW) (h : Hint) (inv : Bool) (d : VReg) (a b : SReg) (disp : BitVec 32) (c : SReg) (s : State) :
    Host.Outcome State Fault Refusal :=
  s.issue (.vecLoad g w h inv d c [a.toNat, b.toNat] [] fun r j => ldvsAddr r a b disp j)

def execStvs (g : Guard) (w : VW) (h : Hint) (d : VReg) (a b : SReg) (disp : BitVec 32) (c : SReg) (s : State) :
    Host.Outcome State Fault Refusal :=
  let _ := h
  s.issue (.vecStore g w d c [a.toNat, b.toNat] [] fun r j => ldvsAddr r a b disp j)

def execLdvg (g : Guard) (w : VW) (h : Hint) (inv : Bool) (d : VReg) (a : SReg) (b : VReg) (scale : BitVec 4)
    (disp : BitVec 32) (c : SReg) (s : State) : Host.Outcome State Fault Refusal :=
  s.issue (.vecLoad g w h inv d c [a.toNat] [b.toNat] fun r j => ldvgAddr r a b scale disp j)

def execStvg (g : Guard) (w : VW) (h : Hint) (d : VReg) (a : SReg) (b : VReg) (scale : BitVec 4) (disp : BitVec 32)
    (c : SReg) (s : State) : Host.Outcome State Fault Refusal :=
  let _ := h
  s.issue (.vecStore g w d c [a.toNat] [b.toNat] fun r j => ldvgAddr r a b scale disp j)

/-! ### Prefetch and line write-back (R244, R245) -/

/-- Bring a line into a core's L1, or only into its home: what can be had without waiting, and without another chunk's line. -/
def Pkg.prefetch (p : Pkg) (core key : Nat) (noalloc : Bool) : Pkg :=
  if p.down key then p
  else
    match p.serve key (BitVec.allOnes 64) with
    | .error _ => p
    | .ok q => if noalloc then q else (q.takeWay core key).getD q

/-- PREF changes no architectural state, enters no signature and never faults: one that fails the check has no effect (R86,
R244). -/
def execPref (g : Guard) (h : Hint) (m : MemOp) (s : State) : Host.Outcome State Fault Refusal :=
  s.issue
    { guard := g, srcs := memSrcs m,
      body := do
        let p ← get
        let x := p.cur
        match p.route (p.spaceOf x.core) (memAddr (p.ctx x).regs m).toNat rRD with
        | some ⟨key, _, .line ..⟩ => set (p.prefetch x.core key (h == .noalloc))
        | some _ | none => pure ()
        return .next }

/-- The line joins those that the commit writes back; none through the local-store window. -/
def execLinewb (g : Guard) (h : Hint) (m : MemOp) (s : State) : Host.Outcome State Fault Refusal :=
  let _ := h
  s.issue
    { guard := g, srcs := memSrcs m,
      body := do
        let x ← M.me
        let r ← M.r
        let va := (memAddr r m).toNat
        M.checkEl x rRD va 1 0
        let p ← get
        match p.route? (p.spaceOf x.core) va with
        | some rt =>
          match rt.place with
          | .line _ _ => M.modChunk x fun h => { h with wbs := insertNat rt.key h.wbs }
          | .lstore _ _ => pure ()
        | none => pure ()
        return .next }

end Sys2Proof.Machine
end

