-- ==== Sys2Proof/Machine/Vector.lean ====
section
/-! DEFINITION. Vector instructions, opcodes 0x80 to 0xA7: R271 to R295. -/

namespace Sys2Proof.Machine

/-! ### Lanes, elements, rounding -/

/-- FTZ selects flushing for vector work (R330). -/
def ftzVec (r : Regs) : Bool := r.ftz.getLsbD 1

/-- Rounding of a vector result of type `t` with linear index `j` (R145, R279). Only f16, bf16 and f32 results flush. -/
def rndVec (r : Regs) (t : Ty) (rm : RM) (j : Nat) : Rnd := { rm, seed := r.seed.toNat, idx := j, ftz := ftzVec r && Ty.flt t }

/-- Code of an element as read. -/
def velem (t : Ty) (r : Regs) (v : VReg) (j : Nat) : Nat := elem t (r.lane v.toNat j)

/-- Code of an operand of arithmetic or conversion, a subnormal flushed where FTZ selects it; no other instruction reads FTZ
(R279, R285, R330). -/
def vcode (t : Ty) (r : Regs) (v : VReg) (j : Nat) : Nat :=
  if Ty.flt t then flushCode t (ftzVec r) (velem t r v j) else velem t r v j

/-- Value of a floating operand of arithmetic. -/
def vnum (t : Ty) (r : Regs) (v : VReg) (j : Nat) : Num := unpack t (vcode t r v j)

/-- Value of an integer element (R277). -/
def vint (t : Ty) (r : Regs) (v : VReg) (j : Nat) : Int := intOf t (velem t r v j)

def lanesOn (r : Regs) (mk : Option SReg) : List Nat := (List.range 64).filter (laneOn r mk)

/-- Write the active lanes (R273). -/
def Regs.mapLanes (r : Regs) (mk : Option SReg) (d : VReg) (f : Nat → BitVec 32) : Regs :=
  r.setLanes d.toNat fun j => if laneOn r mk j then some (f j) else none

/-- An instruction of the vector engine whose effect is on its context's registers; `cnt` is the counter it advances
and by how much for each active lane (R275). -/
def Ins.vec (g : Guard) (mk : Option SReg) (cnt : Option (Nat × Nat)) (srcs dsts vsrcs vdsts : List Nat)
    (f : Regs → Regs) : Ins :=
  { guard := g, srcs := srcs ++ maskSrcs mk, dsts, vsrcs, vdsts, engine := some .vector,
    body := do
      let x ← M.me
      let r ← M.r
      match cnt with
      | some (c, k) => M.count x c (k * (lanesOn r mk).length)
      | none => pure ()
      M.regs f }

/-- One, two or three vector sources, a vector result, counted in the class of the type. -/
def Ins.v1 (g : Guard) (t : Ty) (mk : Option SReg) (d a : VReg) (f : Regs → Nat → BitVec 32) : Ins :=
  .vec g mk (some (vecClass t, 1)) [] [] [a.toNat] [d.toNat] fun r => r.mapLanes mk d (f r)
def Ins.v2 (g : Guard) (t : Ty) (mk : Option SReg) (d a b : VReg) (f : Regs → Nat → BitVec 32) : Ins :=
  .vec g mk (some (vecClass t, 1)) [] [] [a.toNat, b.toNat] [d.toNat] fun r => r.mapLanes mk d (f r)
def Ins.v3 (g : Guard) (t : Ty) (mk : Option SReg) (d a b c : VReg) (f : Regs → Nat → BitVec 32) : Ins :=
  .vec g mk (some (vecClass t, 1)) [] [] [a.toNat, b.toNat, c.toNat] [d.toNat] fun r => r.mapLanes mk d (f r)

/-! ### Arithmetic (R277 to R281) -/

/-- A result by kind of type: an integer modulo 2^w, or a rounded code. -/
def vkind (t : Ty) (i : Int) (f : Nat) : BitVec 32 := if Ty.flt t then laneCode f else laneInt t i

def vaddLane (t : Ty) (rm : RM) (a b : VReg) (r : Regs) (j : Nat) : BitVec 32 :=
  vkind t (vint t r a j + vint t r b j) (sumRound t (rndVec r t rm j) [vnum t r a j, vnum t r b j])
def vsubLane (t : Ty) (rm : RM) (a b : VReg) (r : Regs) (j : Nat) : BitVec 32 :=
  vkind t (vint t r a j - vint t r b j) (sumRound t (rndVec r t rm j) [vnum t r a j, (vnum t r b j).neg])
def vmulLane (t : Ty) (rm : RM) (a b : VReg) (r : Regs) (j : Nat) : BitVec 32 :=
  vkind t (vint t r a j * vint t r b j) (packNum t (rndVec r t rm j) ((vnum t r a j).mul (vnum t r b j)))
def vfmaLane (t : Ty) (rm : RM) (a b c : VReg) (r : Regs) (j : Nat) : BitVec 32 :=
  vkind t (vint t r a j * vint t r b j + vint t r c j)
    (sumRound t (rndVec r t rm j) [(vnum t r a j).mul (vnum t r b j), vnum t r c j])

/-- The smaller or larger of two codes (R277, R281). -/
def pick (t : Ty) (big : Bool) (x y : Nat) : Nat :=
  if Ty.flt t then minMax t big x y
  else if big then (if intOf t x < intOf t y then y else x) else if intOf t y < intOf t x then y else x

def vminLane (t : Ty) (big : Bool) (a b : VReg) (r : Regs) (j : Nat) : BitVec 32 :=
  laneInt t (pick t big (velem t r a j) (velem t r b j))
def vclampLane (t : Ty) (a b c : VReg) (r : Regs) (j : Nat) : BitVec 32 :=
  laneInt t (pick t false (pick t true (velem t r a j) (velem t r b j)) (velem t r c j))
def vabsLane (t : Ty) (a : VReg) (r : Regs) (j : Nat) : BitVec 32 :=
  let c := elem t (r.lane a.toNat j)
  vkind t (intOf t c).natAbs (c % 2 ^ (Ty.width t - 1))
def vnegLane (t : Ty) (a : VReg) (r : Regs) (j : Nat) : BitVec 32 :=
  let c := elem t (r.lane a.toNat j)
  vkind t (-(intOf t c)) (c ^^^ 2 ^ (Ty.width t - 1))

/-- Quotient by R208. -/
def quot (a b : Int) : Int := if b = 0 then -1 else a.tdiv b

def vdivLane (t : Ty) (rm : RM) (a b : VReg) (r : Regs) (j : Nat) : BitVec 32 :=
  vkind t (quot (vint t r a j) (vint t r b j)) (divRound t (rndVec r t rm j) (vnum t r a j) (vnum t r b j))

def execVadd (g : Guard) (t : Ty) (rm : RM) (mk : Option SReg) (d a b : VReg) (s : State) : Host.Outcome State Fault Refusal :=
  s.issue (.v2 g t mk d a b (vaddLane t rm a b))
def execVsub (g : Guard) (t : Ty) (rm : RM) (mk : Option SReg) (d a b : VReg) (s : State) : Host.Outcome State Fault Refusal :=
  s.issue (.v2 g t mk d a b (vsubLane t rm a b))
def execVmul (g : Guard) (t : Ty) (rm : RM) (mk : Option SReg) (d a b : VReg) (s : State) : Host.Outcome State Fault Refusal :=
  s.issue (.v2 g t mk d a b (vmulLane t rm a b))
def execVfma (g : Guard) (t : Ty) (rm : RM) (mk : Option SReg) (d a b c : VReg) (s : State) : Host.Outcome State Fault Refusal :=
  s.issue (.v3 g t mk d a b c (vfmaLane t rm a b c))
def execVmin (g : Guard) (t : Ty) (mk : Option SReg) (d a b : VReg) (s : State) : Host.Outcome State Fault Refusal :=
  s.issue (.v2 g t mk d a b (vminLane t false a b))
def execVmax (g : Guard) (t : Ty) (mk : Option SReg) (d a b : VReg) (s : State) : Host.Outcome State Fault Refusal :=
  s.issue (.v2 g t mk d a b (vminLane t true a b))
def execVabs (g : Guard) (t : Ty) (mk : Option SReg) (d a : VReg) (s : State) : Host.Outcome State Fault Refusal :=
  s.issue (.v1 g t mk d a (vabsLane t a))
def execVneg (g : Guard) (t : Ty) (mk : Option SReg) (d a : VReg) (s : State) : Host.Outcome State Fault Refusal :=
  s.issue (.v1 g t mk d a (vnegLane t a))
def execVdiv (g : Guard) (t : Ty) (rm : RM) (mk : Option SReg) (d a b : VReg) (s : State) : Host.Outcome State Fault Refusal :=
  s.issue (.v2 g t mk d a b (vdivLane t rm a b))
def execVsqrt (g : Guard) (t : Ty) (rm : RM) (mk : Option SReg) (d a : VReg) (s : State) : Host.Outcome State Fault Refusal :=
  s.issue (.v1 g t mk d a fun r j => laneCode (sqrtRound t (rndVec r t rm j) (vnum t r a j)))
def execVrsq (g : Guard) (t : Ty) (rm : RM) (mk : Option SReg) (d a : VReg) (s : State) : Host.Outcome State Fault Refusal :=
  s.issue (.v1 g t mk d a fun r j => laneCode (rsqRound t (rndVec r t rm j) (vnum t r a j)))
def execVexp2 (g : Guard) (t : Ty) (rm : RM) (mk : Option SReg) (d a : VReg) (s : State) : Host.Outcome State Fault Refusal :=
  s.issue (.v1 g t mk d a fun r j => laneCode (exp2Round t (rndVec r t rm j) (vnum t r a j)))
def execVlog2 (g : Guard) (t : Ty) (rm : RM) (mk : Option SReg) (d a : VReg) (s : State) : Host.Outcome State Fault Refusal :=
  s.issue (.v1 g t mk d a fun r j => laneCode (log2Round t (rndVec r t rm j) (vnum t r a j)))

def execVand (g : Guard) (t : Ty) (mk : Option SReg) (d a b : VReg) (s : State) : Host.Outcome State Fault Refusal :=
  s.issue (.v2 g t mk d a b fun r j => laneInt t (velem t r a j &&& velem t r b j : Nat))
def execVor (g : Guard) (t : Ty) (mk : Option SReg) (d a b : VReg) (s : State) : Host.Outcome State Fault Refusal :=
  s.issue (.v2 g t mk d a b fun r j => laneInt t (velem t r a j ||| velem t r b j : Nat))
def execVxor (g : Guard) (t : Ty) (mk : Option SReg) (d a b : VReg) (s : State) : Host.Outcome State Fault Refusal :=
  s.issue (.v2 g t mk d a b fun r j => laneInt t (velem t r a j ^^^ velem t r b j : Nat))

/-! ### Shifts (R278) -/

def shiftCount (t : Ty) (b : VShift) (r : Regs) (j : Nat) : Nat :=
  match b with
  | .reg b => (r.lane b.toNat j).toNat % Ty.width t
  | .imm n => n.toNat

def shiftSrcs (b : VShift) : List Nat :=
  match b with
  | .reg b => [b.toNat]
  | .imm _ => []

def Ins.vshift (g : Guard) (t : Ty) (mk : Option SReg) (d a : VReg) (b : VShift) (f : Nat → Nat → Int) : Ins :=
  .vec g mk (some (vecClass t, 1)) [] [] (a.toNat :: shiftSrcs b) [d.toNat] fun r =>
    r.mapLanes mk d fun j => laneInt t (f (velem t r a j) (shiftCount t b r j))

def execVshl (g : Guard) (t : Ty) (mk : Option SReg) (d a : VReg) (b : VShift) (s : State) : Host.Outcome State Fault Refusal :=
  s.issue (.vshift g t mk d a b fun x n => (x * 2 ^ n : Nat))
def execVshr (g : Guard) (t : Ty) (mk : Option SReg) (d a : VReg) (b : VShift) (s : State) : Host.Outcome State Fault Refusal :=
  s.issue (.vshift g t mk d a b fun x n => (x / 2 ^ n : Nat))
def execVsar (g : Guard) (t : Ty) (mk : Option SReg) (d a : VReg) (b : VShift) (s : State) : Host.Outcome State Fault Refusal :=
  s.issue (.vshift g t mk d a b fun x n => sarInt (signExt x (Ty.width t)) n)

/-! ### Comparison and selection (R283, R284) -/

/-- The doubleword whose bit `j` is `f j`, for j below `n`. -/
def bitsOf (f : Nat → Bool) : Nat → Nat
  | 0 => 0
  | n + 1 => bitsOf f n + (if f n then 2 ^ n else 0)

def vcmpBit (t : Ty) (c : Cond) (a b : VReg) (r : Regs) (j : Nat) : Bool :=
  if Ty.flt t then condNum c (unpack t (velem t r a j)) (unpack t (velem t r b j)) else condInt c (Ty.width t) (velem t r a j) (velem t r b j)

def execVcmp (g : Guard) (t : Ty) (c : Cond) (mk : Option SReg) (d : SReg) (a b : VReg) (s : State) :
    Host.Outcome State Fault Refusal :=
  s.issue (.vec g mk (some (vecClass t, 1)) [] [d.toNat] [a.toNat, b.toNat] [] fun r =>
    r.setS d (BitVec.ofNat 64 (bitsOf (fun j => laneOn r mk j && vcmpBit t c a b r j) 64)))

def execVsel (g : Guard) (mk : Option SReg) (d a b : VReg) (c : SReg) (s : State) : Host.Outcome State Fault Refusal :=
  s.issue (.vec g mk none [c.toNat] [] [a.toNat, b.toNat] [d.toNat] fun r =>
    r.mapLanes mk d fun j => if (r.sr c).getLsbD j then r.lane a.toNat j else r.lane b.toNat j)

/-! ### Conversion and packing (R285 to R287) -/

/-- Whether values of a type are integers (R119, Table 7.4). -/
def Ty.whole (t : Ty) : Bool := Ty.int32 t || t == .s4e

/-- A value converted to a code of type `t` (Table 10.3). -/
def convCode (t : Ty) (r : Rnd) (n : Num) : Nat := if Ty.whole t then wrapN (numToInt t r n) (Ty.width t) else packNum t r n

/-- Value of a code of type `t`. -/
def codeNum (t : Ty) (c : Nat) : Num := if Ty.whole t then intToNum (intOf t c) else unpack t c

/-- The code that VCVT gives for a code of type `src` (Table 10.3): an s4e code's integer value is taken modulo 2^w (R271). -/
def cvtCode (t src : Ty) (r : Rnd) (c : Nat) : Nat :=
  if src == .s4e && Ty.int32 t then wrapN (intOf src c) (Ty.width t) else convCode t r (codeNum src c)

def execVcvt (g : Guard) (t src : Ty) (rm : RM) (mk : Option SReg) (d a : VReg) (s : State) : Host.Outcome State Fault Refusal :=
  s.issue (.vec g mk (some (vecClass (if Ty.width t < Ty.width src then src else t), 1)) [] [] [a.toNat] [d.toNat] fun r =>
    r.mapLanes mk d fun j => laneInt t (cvtCode t src (rndVec r t rm j) (vcode src r a j)))

def execVpack (g : Guard) (t : Ty) (p : BitVec 3) (mk : Option SReg) (d a b : VReg) (s : State) :
    Host.Outcome State Fault Refusal :=
  let w := Ty.width t
  s.issue (.vec g mk none [] [] [a.toNat, b.toNat] [d.toNat] fun r =>
    r.setLanes d.toNat fun l => some (BitVec.ofNat 32 (packLane w l (fun f =>
      if f / 64 = p.toNat ∧ laneOn r mk (f % 64) then elem t (r.lane a.toNat (f % 64)) else r.field b.toNat w f) (32 / w))))

def execVunpk (g : Guard) (t : Ty) (p : BitVec 3) (mk : Option SReg) (d a : VReg) (s : State) : Host.Outcome State Fault Refusal :=
  s.issue (.vec g mk none [] [] [a.toNat] [d.toNat] fun r =>
    r.mapLanes mk d fun j => laneInt t (r.field a.toNat (Ty.width t) (64 * p.toNat + j)))

/-! ### Moves and permutes (R288 to R292) -/

def execVbcast (g : Guard) (t : Ty) (mk : Option SReg) (d : VReg) (a : SReg) (s : State) : Host.Outcome State Fault Refusal :=
  s.issue (.vec g mk none [a.toNat] [] [] [d.toNat] fun r =>
    r.mapLanes mk d fun _ => laneInt t ((r.sr a).toNat % 2 ^ Ty.width t))

def laneIndex (r : Regs) (ix : LaneIx) : Nat :=
  match ix with
  | .reg b => (r.sr b).toNat % 64
  | .imm n => n.toNat

def laneIxSrcs (ix : LaneIx) : List Nat :=
  match ix with
  | .reg b => [b.toNat]
  | .imm _ => []

def execVmovs (g : Guard) (t : Ty) (d : SReg) (a : VReg) (ix : LaneIx) (s : State) : Host.Outcome State Fault Refusal :=
  s.issue (.vec g none none (laneIxSrcs ix) [d.toNat] [a.toNat] [] fun r =>
    r.setS d (extend t ((r.lane a.toNat (laneIndex r ix)).setWidth 64)))

def execVperm (g : Guard) (mk : Option SReg) (d a b : VReg) (s : State) : Host.Outcome State Fault Refusal :=
  s.issue (.vec g mk none [] [] [a.toNat, b.toNat] [d.toNat] fun r =>
    r.mapLanes mk d fun j => r.lane a.toNat ((r.lane b.toNat j).toNat % 64))

/-- Lane `j` of a pattern (Table 10.4). -/
def shufLane (pat : Shuf) (a : VReg) (r : Regs) (j : Nat) : BitVec 32 :=
  match pat with
  | .ziplo b => if j % 2 = 0 then r.lane a.toNat (j / 2) else r.lane b.toNat (j / 2)
  | .ziphi b => if j % 2 = 0 then r.lane a.toNat (32 + j / 2) else r.lane b.toNat (32 + j / 2)
  | .even b => if j < 32 then r.lane a.toNat (2 * j) else r.lane b.toNat (2 * (j - 32))
  | .odd b => if j < 32 then r.lane a.toNat (2 * j + 1) else r.lane b.toNat (2 * (j - 32) + 1)
  | .rot n => r.lane a.toNat ((j + n.toNat) % 64)
  | .rev => r.lane a.toNat (63 - j)
  | .xor n => r.lane a.toNat (j ^^^ n.toNat)

def shufSrcs (pat : Shuf) : List Nat :=
  match pat with
  | .ziplo b | .ziphi b | .even b | .odd b => [b.toNat]
  | .rot _ | .rev | .xor _ => []

def execVshuf (g : Guard) (mk : Option SReg) (d a : VReg) (pat : Shuf) (s : State) : Host.Outcome State Fault Refusal :=
  s.issue (.vec g mk none [] [] (a.toNat :: shufSrcs pat) [d.toNat] fun r => r.mapLanes mk d (shufLane pat a r))

def execVmov (g : Guard) (mk : Option SReg) (d a : VReg) (s : State) : Host.Outcome State Fault Refusal :=
  s.issue (.vec g mk none [] [] [a.toNat] [d.toNat] fun r => r.mapLanes mk d fun j => r.lane a.toNat j)

/-- R289: the immediate has the form its type's lanes have. -/
def execVmovi (g : Guard) (t : Ty) (mk : Option SReg) (d : VReg) (imm : BitVec 32) (s : State) : Host.Outcome State Fault Refusal :=
  let _ := t
  s.issue (.vec g mk none [] [] [] [d.toNat] fun r => r.mapLanes mk d fun _ => imm)

/-- R292. -/
def execVcomp (g : Guard) (mk : Option SReg) (d a : VReg) (s : State) : Host.Outcome State Fault Refusal :=
  s.issue (.vec g mk none [] [] [a.toNat] [d.toNat] fun r =>
    r.setLanes d.toNat fun j => some (match (lanesOn r mk)[j]? with
      | some k => r.lane a.toNat k
      | none => 0))

def execVexpnd (g : Guard) (mk : Option SReg) (d a : VReg) (s : State) : Host.Outcome State Fault Refusal :=
  s.issue (.vec g mk none [] [] [a.toNat] [d.toNat] fun r =>
    r.mapLanes mk d fun j => r.lane a.toNat ((lanesOn r mk).filter (· < j)).length)

/-! ### Reductions, scans and dot products (R146, R147, R293 to R295) -/

/-- Identity of a sum, a maximum or a minimum as a code of the type (R146). -/
def redIdentity (t : Ty) (op : ScanOp) : Nat :=
  match op with
  | .add => if Ty.flt t then (Fmt.of t).signed true 0 else 0
  | .max => if Ty.flt t then (Fmt.of t).signed true (infCode t) else wrapN (intMin t) (Ty.width t)
  | .min => if Ty.flt t then infCode t else wrapN (intMax t) (Ty.width t)

/-- One combination of two codes; a sum's operands and results are not flushed (R293, R330). DEDUCED, log entry 27. -/
def redOp (t : Ty) (op : ScanOp) (r : Rnd) (x y : Nat) : Nat :=
  match op with
  | .add =>
    if Ty.flt t then sumRound t { r with ftz := false } [unpack t x, unpack t y] else (x + y) % 2 ^ Ty.width t
  | .max => pick t true x y
  | .min => pick t false x y

/-- Code of a lane, the identity where it is inactive. -/
def redElem (t : Ty) (op : ScanOp) (mk : Option SReg) (a : VReg) (r : Regs) (j : Nat) : Nat :=
  if laneOn r mk j then velem t r a j else redIdentity t op

/-- The tree of R146 from a level down: lane i with lane i + half. -/
def redTree (f : Nat → Nat → Nat → Nat) : Nat → Nat → List Nat → Nat
  | 0, _, l => l.headD 0
  | n + 1, lev, l =>
    redTree f n (lev + 1) (((l.take (l.length / 2)).zip (l.drop (l.length / 2))).zipIdx.map fun e => f (64 * (lev - 1) + e.2) e.1.1 e.1.2)

def Ins.vred (g : Guard) (t : Ty) (op : ScanOp) (rm : RM) (mk : Option SReg) (d : SReg) (a : VReg) : Ins :=
  .vec g mk (some (vecClass t, 1)) [] [d.toNat] [a.toNat] [] fun r =>
    r.setS d (extend t (BitVec.ofNat 64
      (redTree (fun i x y => redOp t op (rndVec r t rm i) x y) 6 1 ((List.range 64).map (redElem t op mk a r)))))

def execVredsum (g : Guard) (t : Ty) (rm : RM) (mk : Option SReg) (d : SReg) (a : VReg) (s : State) :
    Host.Outcome State Fault Refusal := s.issue (.vred g t .add rm mk d a)
def execVredmax (g : Guard) (t : Ty) (mk : Option SReg) (d : SReg) (a : VReg) (s : State) : Host.Outcome State Fault Refusal :=
  s.issue (.vred g t .max .rne mk d a)
def execVredmin (g : Guard) (t : Ty) (mk : Option SReg) (d : SReg) (a : VReg) (s : State) : Host.Outcome State Fault Refusal :=
  s.issue (.vred g t .min .rne mk d a)

/-- Running values of a scan: lane 0's element, then one combination per lane with RSH index j (R147). -/
def scanGo (f : Nat → Nat → Nat → Nat) : Nat → Nat → List Nat → List Nat
  | _, _, [] => []
  | j, acc, x :: t =>
    let v := if j = 0 then x else f j acc x
    v :: scanGo f (j + 1) v t

def execVscan (g : Guard) (t : Ty) (rm : RM) (op : ScanOp) (mk : Option SReg) (d a : VReg) (s : State) :
    Host.Outcome State Fault Refusal :=
  s.issue (.vec g mk (some (vecClass t, 1)) [] [] [a.toNat] [d.toNat] fun r =>
    let l := scanGo (fun j x y => redOp t op (rndVec r t rm j) x y) 0 0 ((List.range 64).map (redElem t op mk a r))
    r.mapLanes mk d fun j => laneInt t ((l[j]?).getD 0))

def vdotLane (t src : Ty) (rm : RM) (a b c : VReg) (r : Regs) (j : Nat) : BitVec 32 :=
  let w := Ty.width src
  let fs := (List.range (32 / w)).map fun i => (r.field a.toNat w (j * (32 / w) + i), r.field b.toNat w (j * (32 / w) + i))
  if Ty.flt src then
    let one (x : Nat) : Num := operand src (ftzVec r) x
    laneCode (sumRound t (rndVec r t rm j) (unpack t (elem t (r.lane c.toNat j)) :: fs.map fun e => (one e.1).mul (one e.2)))
  else BitVec.ofInt 32 (fs.foldl (fun (z : Int) e => z + intOf src e.1 * intOf src e.2) (r.lane c.toNat j).toNat)

def execVdot (g : Guard) (t src : Ty) (rm : RM) (mk : Option SReg) (d a b c : VReg) (s : State) :
    Host.Outcome State Fault Refusal :=
  s.issue (.vec g mk (some (vecClass src, 32 / Ty.width src)) [] [] [a.toNat, b.toNat, c.toNat] [d.toNat] fun r =>
    r.mapLanes mk d (vdotLane t src rm a b c r))

def execVclamp (g : Guard) (t : Ty) (mk : Option SReg) (d a b c : VReg) (s : State) : Host.Outcome State Fault Refusal :=
  s.issue (.v3 g t mk d a b c (vclampLane t a b c))
def execVround (g : Guard) (t : Ty) (rm : RM) (mk : Option SReg) (d a : VReg) (s : State) : Host.Outcome State Fault Refusal :=
  s.issue (.v1 g t mk d a fun r j => laneCode (roundIntegral t (rndVec r t rm j) (velem t r a j)))
def execVpopc (g : Guard) (t : Ty) (mk : Option SReg) (d a : VReg) (s : State) : Host.Outcome State Fault Refusal :=
  s.issue (.v1 g t mk d a fun r j => laneInt t (popCount (velem t r a j) (Ty.width t)))

end Sys2Proof.Machine
end

