-- ==== Sys2Proof/Machine/Mx.lean ====
section
/-! DEFINITION. Matrix operands and arithmetic: elements and groups (R119 to R124), alignment (R130 to R135, R191), the
anchored accumulator and its readout (R136 to R143), tiles, accumulators and B slots as instructions reach them
(R62, R296 to R298), and the loads of operand rows (R241, R242, R302, R308). -/

namespace Sys2Proof.Machine

/-! ### Elements and groups -/

/-- Element type of a matrix format code (Table 5.2). -/
def fmtTy (f : Nat) : Ty :=
  if f = 1 then .s4e else if f = 2 then .e2m1 else if f = 3 then .e4m3 else if f = 4 then .e5m2 else if f = 5 then .i8 else .bf16

/-- Format code of an element type. -/
def tyFmt (t : Ty) : Nat :=
  match t with
  | .s4e => 1
  | .e2m1 => 2
  | .e4m3 => 3
  | .e5m2 => 4
  | .i8 => 5
  | .bf16 => 6
  | .i16 | .i32 | .i64 | .w8 | .w16 | .w32 | .w64 | .f16 | .f32 | .f64 => 0

/-- Width of a plain-width code (R241, Table 11.2). -/
def plainWidth (c : Nat) : Nat := if c = 1 then 4 else if c = 2 then 8 else 16

/-- `n` fields of width `w`, the lowest first (R120, R286). -/
def fieldsOf (w n v : Nat) : List Nat := (List.range n).map fun j => v / 2 ^ (w * j) % 2 ^ w

/-- The number whose fields of width `w` these are. -/
def packFields (w : Nat) : List Nat → Nat
  | [] => 0
  | c :: t => c % 2 ^ w + 2 ^ w * packFields w t

/-- Table of the values of `f` below `n` that differ from `d`. -/
def tabOf {α : Type} [DecidableEq α] (d : α) (n : Nat) (f : Nat → α) : Tab α :=
  (List.range n).filterMap fun i =>
    let v := f i
    if v = d then none else some (i, v)

/-- A group of 16 elements: codes, scale code, escape byte, escapes before it in its block, block start (R301). -/
structure Grp where
  codes : List Nat
  sc : Nat
  eb : Nat
  ep : Nat
  bs : Bool
  deriving DecidableEq, Repr

def Grp.zero : Grp := { codes := List.replicate 16 0, sc := 0x7F, eb := 0, ep := 0, bs := true }

/-- Escapes of a list of whole pairs (R121). -/
def escapes : List Nat → Nat
  | a :: b :: t => (if a % 16 = 8 ∨ b % 16 = 8 then 1 else 0) + escapes t
  | [_] | [] => 0

/-- Pairs of an S4E group in slot order, `n` escapes having come before (R121): values, and escapes that decode to 0. -/
def s4eGo (k eb : Nat) : Nat → List Nat → List Num × Nat
  | n, a :: b :: t =>
    if a % 16 = 8 ∨ b % 16 = 8 then
      let lost := decide (n + 1 > if k = 0 then 1 else 2)
      let low := if a % 16 = 8 then b % 16 else a % 16
      let high := if n = 0 then eb % 16 else eb / 16 % 16
      let v := if lost then .fin false 0 0 else unpack .e4m3 (16 * high + low)
      let (l, m) := s4eGo k eb (n + 1) t
      (if a % 16 = 8 then v :: .fin false 0 0 :: l else .fin false 0 0 :: v :: l, m + lost.toNat)
    else
      let (l, m) := s4eGo k eb n t
      (intToNum (signExt a 4) :: intToNum (signExt b 4) :: l, m)
  | _, [_] | _, [] => ([], 0)

/-- A value under a scale code; 0xFF makes every element NaN (R122, R131). -/
def scaleNum (sc : Nat) (x : Num) : Num :=
  if sc = 0xFF then .nan
  else match x with
    | .fin s m e => .fin s m (e + sc - 127)
    | .nan => .nan
    | .inf s => .inf s

/-- Decoded group of a format: scaled values, escapes that decode to 0. -/
def Grp.decode (f k : Nat) (g : Grp) : List Num × Nat :=
  if f = 1 then
    let (l, n) := s4eGo k g.eb g.ep g.codes
    (l.map (scaleNum g.sc), n)
  else (g.codes.map fun c => scaleNum g.sc (if f = 5 then intToNum (signExt c 8) else unpack (fmtTy f) c), 0)

/-- R135. -/
def Num.invalid : Num → Bool
  | .fin _ _ _ => false
  | .nan | .inf _ => true

/-- INV of a group (R135); a PLAIN tile has none. -/
def Grp.invalid (f k : Nat) (g : Grp) : Bool := f != 0 && (g.decode f k).1.any Num.invalid

/-! ### Alignment (R131 to R133, R191) -/

def maxInt : List Int → Option Int
  | [] => none
  | a :: t => some (t.foldl max a)

def minInt : List Int → Option Int
  | [] => none
  | a :: t => some (t.foldl min a)

/-- Top and scaled exponent of a valid nonzero element (R131). -/
def Num.top? : Num → Option (Int × Int)
  | .fin _ m e => if m = 0 then none else some (e + bitLen m, e)
  | .nan | .inf _ => none

/-- An element in units of 2^q, and whether it was rounded. -/
def alignOne (exact : Bool) (q : Int) : Num → Int × Bool
  | .fin s m e =>
    if e ≥ q then ((if s then -1 else 1) * (m * 2 ^ (e - q).toNat : Nat), false)
    else
      let k := (q - e).toNat
      let v : Int := if exact then sarInt (if s then -(m : Int) else m) k
        else (if s then -1 else 1) * (roundMag ⟨.rne, 0, 0, false⟩ s m k false : Nat)
      (v, decide (m % 2 ^ k ≠ 0))
  | .nan | .inf _ => (0, false)

/-- align_group of R191: integers, exponent, elements rounded; an invalid element aligns to 0. -/
def alignGroup (g : List Num) (budget : Int) (exact : Bool) : List Int × Int × Nat :=
  let ts := g.filterMap Num.top?
  match maxInt (ts.map Prod.fst), minInt (ts.map Prod.snd) with
  | some top, some emin =>
    let q := top - (if exact then min 40 (top - emin) else budget)
    let l := g.map (alignOne exact q)
    (l.map Prod.fst, q, (l.filter Prod.snd).length)
  | _, _ => (g.map fun _ => 0, 0, 0)

/-- floor_to_anchor of R191. -/
def floorToAnchor (p d : Int) : Int × Bool :=
  let t := shiftInt p d
  let m : Int := (2 ^ 104 - 1 : Nat)
  if t > m then (m, true) else if t < -m then (-m, true) else (t, false)

/-- Planes of the A side in fast mode (Table 5.2, R121). -/
def planes (f : Nat) (g : Grp) : Nat := if f = 2 ∨ (f = 1 ∧ escapes g.codes = 0) then 4 else 8

/-- B-side magnitude bits (Table 5.2). -/
def bBits (f : Nat) : Nat := if f = 6 then 16 else 8

/-! ### Accumulator elements (R136 to R138, R142, R143) -/

def sentinel : BitVec 128 := 1#128 <<< 127

/-- Terms of one group added up; whether one was clamped. -/
def groupSum (d : Int) : List Int → List Int → Int × Bool
  | a :: s, b :: t =>
    let (u, c) := floorToAnchor (a * b) d
    let (v, e) := groupSum d s t
    (u + v, c || e)
  | _, _ => (0, false)

/-- Bits [127:111] are not all equal (R142). -/
def accOverflows (x : BitVec 128) : Bool := x.extractLsb' 111 17 != 0 && x.extractLsb' 111 17 != BitVec.allOnes 17

/-- R142. -/
def readout (t : Ty) (r : Rnd) (x : BitVec 128) (anchor : BitVec 16) : Nat :=
  if x = sentinel then defaultNan t
  else if accOverflows x then ovfNan t
  else if x = 0 then 0
  else pack t r (decide (x.toInt < 0)) x.toInt.natAbs anchor.toInt

/-- Sum of two elements (R138, R315). -/
def accSum (a b : BitVec 128) : BitVec 128 := if a = sentinel ∨ b = sentinel then sentinel else a + b

def AccBank.el (b : AccBank) (row c : Nat) : BitVec 128 := b.x.get 0 (64 * row + c)

def AccReg.bank (a : AccReg) (b : Bool) : AccBank := if b then a.bank1 else a.bank0

/-- The bank that a context's instructions read (R62, R298). -/
def AccReg.readBy (a : AccReg) (slot : Nat) : AccBank := a.bank (if a.w.map ChunkId.slot = some slot then !a.c else a.c)

/-- A write by a chunk: bank C is read, bank 1 − C written, W set (R62). -/
def AccReg.writeBy (a : AccReg) (o : ChunkId) (f : AccBank → AccBank) : AccReg :=
  let v := f (a.readBy o.slot)
  if a.c then { a with bank0 := v, w := some o } else { a with bank1 := v, w := some o }

/-! ### Tiles as rows of groups -/

def Tile.width (t : Tile) : Nat := if t.fmt = 0 then plainWidth t.pw else fmtWidth t.fmt

def Tile.code (t : Tile) (r c : Nat) : Nat := t.codes.get 0 (128 * r + c)

def Tile.grp (t : Tile) (r g : Nat) : Grp :=
  { codes := (List.range 16).map fun j => t.code r (16 * g + j), sc := t.sc.get 0x7F (8 * r + g), eb := t.eb.get 0 (8 * r + g),
    ep := t.ep.get 0 (8 * r + g), bs := t.bs.get true (8 * r + g) }

def grpAt (rows : List (List Grp)) (r g : Nat) : Grp := (((rows[r]?).getD [])[g]?).getD .zero

/-- The tile that holds these rows of groups; INV follows from the codes and scales (R135). -/
def Tile.ofRows (fmt pw k : Nat) (rows : List (List Grp)) : Tile :=
  let at_ (i : Nat) : Grp := grpAt rows (i / 8) (i % 8)
  { codes := tabOf 0 2048 fun i => ((grpAt rows (i / 128) (i % 128 / 16)).codes[i % 16]?).getD 0, fmt, pw, k,
    sc := tabOf 0x7F 128 fun i => (at_ i).sc, eb := tabOf 0 128 fun i => (at_ i).eb, ep := tabOf 0 128 fun i => (at_ i).ep,
    inv := tabOf false 128 fun i => (at_ i).invalid fmt k, bs := tabOf true 128 fun i => (at_ i).bs }

def Tile.rows (t : Tile) : List (List Grp) := (List.range 16).map fun r => (List.range 8).map (t.grp r)

/-- EP of a row whose codes have been rewritten: kept in the first groups of blocks, recomputed in the others (R302). -/
def refreshEp (fmt : Nat) : Bool → Nat → List Grp → List Grp
  | _, _, [] => []
  | first, n, g :: t =>
    let n := if first || g.bs then g.ep else n
    { g with ep := if first || g.bs then g.ep else min 2 n } :: refreshEp fmt false (n + if fmt = 1 then escapes g.codes else 0) t

/-- Replace the groups of one row (R302). -/
def Tile.setRow (t : Tile) (r : Nat) (f : Nat → Grp → Grp) : Tile :=
  .ofRows t.fmt t.pw t.k (t.rows.zipIdx.map fun e =>
    if e.2 = r then refreshEp t.fmt true 0 (e.1.zipIdx.map fun g => f g.2 g.1) else e.1)

/-! ### Matrix registers inside a chunk (R297, R298) -/

def M.regKey (r : Nat) : M Nat := do
  let x ← M.me
  return lineKey (← M.space) (regLineVa x.core r)

def M.tileRead (n : TReg) : M Tile := do
  let x ← M.me
  M.enterRead x (← M.regKey n.toNat)
  let t := ((← get).core x.core).tiles.get .zero n.toNat
  return match t.shadow with
    | some (k, old) => if k.slot = x.slot then t.cur else old
    | none => t.cur

/-- The first write in a chunk takes the shadow (R53); another context's uncommitted write squashes this chunk. -/
def M.tileWrite (n : TReg) (v : Tile) : M Unit := do
  let x ← M.me
  let key ← M.regKey n.toNat
  M.enterWrite x key
  let t := ((← get).core x.core).tiles.get .zero n.toNat
  M.claim x (t.shadow.map fun s => s.1.slot).toList fun h => h.wlines.contains key
  let o := (← M.ctx x).chunkId x.slot
  modify fun p => p.modCore x.core fun k =>
    let t := k.tiles.get .zero n.toNat
    { k with tiles := k.tiles.set .zero n.toNat { cur := v, shadow := match t.shadow with
        | some s => some s
        | none => some (o, t.cur) } }

def M.accRead (n : Nat) : M AccBank := do
  let x ← M.me
  M.enterRead x (← M.regKey (8 + n))
  return (((← get).core x.core).accs.get .zero n).readBy x.slot

def M.accWrite (n : Nat) (f : AccBank → AccBank) : M Unit := do
  let x ← M.me
  let key ← M.regKey (8 + n)
  M.enterWrite x key
  let a := ((← get).core x.core).accs.get .zero n
  M.claim x (a.w.map ChunkId.slot).toList fun h => h.wlines.contains key
  let o := (← M.ctx x).chunkId x.slot
  modify fun p => p.modCore x.core fun k => { k with accs := k.accs.set .zero n ((k.accs.get .zero n).writeBy o f) }

/-- Bits of the resident task's record. -/
def Pkg.rcdBit (p : Pkg) (core b : Nat) : Bool :=
  match (p.core core).task with
  | some t => t.info.rcd.getLsbD b
  | none => false

/-- Reason 0x20 unless the accumulator, or the B slot, is reserved (R45). -/
def M.accReserved (n : Nat) : M Unit := do
  if n ≥ 4 || !(← get).rcdBit (← M.me).core (268 + n) then M.invocation 0x20
def M.bReserved (n : Nat) : M Unit := do
  if !(← get).rcdBit (← M.me).core (272 + n) then M.invocation 0x20

/-- A B slot's columns (R307). -/
def bCols (fmt : Nat) : Nat := if fmt = 6 then 128 else 256

/-! ### Loads of operand rows (R241, R242, R302, R308) -/

/-- Check `n` bytes of elements of width `w` that begin with element `el`: address, alignment, rights. -/
def M.checkRow (x : CtxRef) (need va n w el : Nat) : M Unit := do
  let p ← get
  let info (e : Nat) : Nat := (e % 256) <<< 16
  if va ≥ vaTop then throw (.fault 2 va (info el))
  if va % max 1 (w / 8) ≠ 0 then throw (.fault 6 va (info el))
  match p.badByte (p.spaceOf x.core) need va n with
  | some a => throw (.fault 2 a (info (el + (a + 2 ^ 64 - va) % 2 ^ 64 * 8 / w)))
  | none => pure ()

/-- Check rows of `c` elements each. -/
def M.checkRows (x : CtxRef) (need w c : Nat) : Nat → List Nat → M Unit
  | _, [] => pure ()
  | i, va :: t => do
    M.checkRow x need va (c * w / 8) w (i * c)
    M.checkRows x need w c (i + 1) t

/-- Line addresses of a byte range. -/
def linesOf (va n : Nat) : List Nat := (List.range ((va % 64 + n + 63) / 64)).map fun i => va / 64 * 64 + 64 * i

/-- Sidecars by line address, of invariant copies where `inv`. -/
def M.sides (x : CtxRef) (inv : Bool) : List Nat → Tab Word → M (Tab Word)
  | [], s => return s
  | a :: t, s => do
    match Tab.find? s a with
    | some _ => M.sides x inv t s
    | none =>
      let v ← M.side x a inv
      M.sides x inv t (s.put a v)

def sideFmt (s : Word) : Nat := fld s.toNat 63 60
def sideK (s : Word) : Nat := fld s.toNat 59 56

/-- Block of a line that holds byte `a`, for format width `w` and exponent `k` (R124). -/
def blockOf (w k a : Nat) : Nat := a % 64 * 8 / w / (32 * 2 ^ k)

def sideScale (s : Word) (b : Nat) : Nat := fld s.toNat (8 * b + 7) (8 * b)
def sideEsc (s : Word) (k b : Nat) : Nat :=
  if k = 0 then fld s.toNat (4 * b + 35) (4 * b + 32) else fld s.toNat (8 * b + 39) (8 * b + 32)

/-- Bytes of a block. -/
def blockBytes (w k : Nat) : Nat := 32 * 2 ^ k * w / 8

/-- Groups `g` on of a row at `va`, with `n` escapes before them in their block (R302). A group of plain lines, which have no
blocks, begins a block of its own: under an S4E override its escapes are numbered from 1. DESIGN CHOICE, log entry 103. Blocks of
a line in local store lie at multiples of their size in its own addresses. DESIGN CHOICE, log entry 128. -/
def loadGroups (fmt k w va : Nat) (side : Nat → Word) : Nat → Nat → List Nat → Nat → List Grp
  | 0, _, _, _ => []
  | fuel + 1, g, codes, n =>
    let a := va + 2 * w * g
    let c := codes.take 16
    let s := side (a / 64 * 64)
    let start := a % blockBytes w k == 0
    let n := if start then 0 else n
    let one : Grp :=
      if fmt = 0 then { Grp.zero with codes := c }
      else { codes := c, sc := sideScale s (blockOf w k a), eb := if fmt = 1 then sideEsc s k (blockOf w k a) else 0,
             ep := if fmt = 1 then min n 2 else 0, bs := fmt != 1 || start }
    one :: loadGroups fmt k w va side fuel (g + 1) (codes.drop 16) (n + escapes c)

/-- What a row load found: format, block exponent, width, rows of groups. -/
structure Loaded where
  fmt : Nat
  k : Nat
  w : Nat
  rows : List (List Grp)
  deriving DecidableEq, Repr

/-- The width of the address checks, from the first line's sidecar or `plain` (R241); `reason` where neither gives it. -/
def M.rowWidth (x : CtxRef) (va : Nat) (plain : Option Nat) (reason : Nat) (inv : Bool) : M Nat := do
  M.checkRow x rRD va 1 8 0
  let f := sideFmt (← M.side x va inv)
  if f ≠ 0 then return fmtWidth f
  match plain with
  | some w => return w
  | none => M.invocation reason

/-- Steps 1 and 2 of R242 over the sidecars of the lines read. `accepts` is step 2 for a matrix format. -/
def M.oneFormat (sides : Tab Word) (plain : Option Nat) (accepts : Nat → Bool) (reason : Nat) : M (Nat × Nat) := do
  match sides with
  | [] => return (0, 0)
  | (_, s) :: t =>
    if !(t.all fun e => sideFmt e.2 == sideFmt s && sideK e.2 == sideK s) then M.invocation 0x23
    if (if sideFmt s = 0 then plain.isNone else !accepts (sideFmt s)) then M.invocation reason
    return (sideFmt s, sideK s)

/-- The checks of the block's lines before each row of S4E lines (R302). -/
def M.checkBefore (x : CtxRef) (w k : Nat) : List Nat → M Unit
  | [] => pure ()
  | va :: t => do
    let n := va % blockBytes w k
    if n ≠ 0 then M.checkRow x rRD (va - n) n w 0
    M.checkBefore x w k t

def M.loadRow (x : CtxRef) (fmt k w : Nat) (inv noalloc : Bool) (side : Nat → Word) : List Nat → M (List (List Grp))
  | [] => return []
  | va :: t => do
    let n := if fmt = 1 then va % blockBytes w k else 0
    let before ← M.loadBytes x rRD inv noalloc (n / 64 + 2) (va - n) n
    let data ← M.loadBytes x rRD inv noalloc 8 va (16 * w)
    let esc := escapes (fieldsOf 4 (2 * n) (leNat before))
    let l ← M.loadRow x fmt k w inv noalloc side t
    return loadGroups fmt k w va side 8 0 (fieldsOf w 128 (leNat data)) esc :: l

/-- Load rows of 128 elements. `plain` is the width that the instruction gives for plain lines, `mid` a check between
the address checks and those of R242, `reason` that of its step 2. The lines of a block before a row are checked after the alignment,
and no step of R242 takes them in. DESIGN CHOICE, log entry 127. -/
def M.loadRows (x : CtxRef) (rows : List Nat) (plain : Option Nat) (accepts : Nat → Bool) (reason : Nat) (mid : M Unit)
    (inv noalloc : Bool) : M Loaded := do
  let w ← M.rowWidth x (rows.headD 0) plain reason inv
  M.checkRows x rRD w 128 0 rows
  mid
  let sides ← M.sides x inv (rows.flatMap fun va => linesOf va (16 * w)) []
  let (fmt, k) ← M.oneFormat sides plain accepts reason
  match List.find? (fun e : Nat × Nat => e.1 % (2 * w) != 0) rows.zipIdx with
  | some e => throw (.fault 6 e.1 ((e.2 * 128 % 256) <<< 16))
  | none => pure ()
  if fmt = 1 then M.checkBefore x w k rows
  let l ← M.loadRow x fmt k w inv noalloc (fun a => sides.get 0 a) rows
  return { fmt, k, w, rows := l }

/-- Rows of a tile port or B slot: base plus row times pitch, modulo 2^64 (R241, R308). -/
def rowVas (base pitch : Word) (n : Nat) : List Nat := (List.range n).map fun i => (base + BitVec.ofNat 64 i * pitch).toNat

/-- The column port's load: row `k` of memory is column `k` (Table 9.3), with step 3 of R242. -/
def M.loadCols (x : CtxRef) (rows : List Nat) (plain : Option Nat) (accepts : Nat → Bool) (inv noalloc : Bool) : M Loaded := do
  let w ← M.rowWidth x (rows.headD 0) plain 0x23 inv
  M.checkRows x rRD w 16 0 rows
  let sides ← M.sides x inv (rows.flatMap fun va => linesOf va (2 * w)) []
  let (fmt, k) ← M.oneFormat sides plain accepts 0x23
  let touched (va : Nat) : List Nat := (List.range 16).map fun j => va + j * w / 8
  let bad (va : Nat) : Bool := (touched va).any fun a => sideScale (sides.get 0 (a / 64 * 64)) (blockOf w k a) != 0x7F
  if fmt = 1 ∨ fmt = 2 then M.invocation 0x23
  if fmt ≠ 0 && rows.any bad then M.invocation 0x23
  let cols ← go w rows
  let one (r g : Nat) : Grp :=
    { Grp.zero with codes := (List.range 16).map fun j => (((cols[16 * g + j]?).getD [])[r]?).getD 0 }
  return { fmt, k, w, rows := (List.range 16).map fun r => (List.range 8).map (one r) }
where
  go (w : Nat) : List Nat → M (List (List Nat))
    | [] => return []
    | va :: t => do
      let data ← M.loadBytes x rRD inv noalloc 4 va (2 * w)
      let l ← go w t
      return fieldsOf w 16 (leNat data) :: l

end Sys2Proof.Machine
end

