-- ==== Sys2Proof/Machine/Tile.lean ====
section
/-! DEFINITION. Tile loads and stores (R241 to R243) and the tile instructions (R303 to R306). -/

namespace Sys2Proof.Machine

/-- Width that a tile load's C field gives plain lines (R241). -/
def plainOf (pw : BitVec 2) : Option Nat := if pw = 0 then none else some (plainWidth pw.toNat)

/-- Step 2 of R242 for lines of a matrix format. -/
def tileAccepts (pw : BitVec 2) (f : Nat) : Bool := pw == 0 || plainWidth pw.toNat == fmtWidth f

def Ins.tileLoad (g : Guard) (m : MemOp) (d : TReg) (pw : BitVec 2) (load : CtxRef → Regs → M Loaded) : Ins :=
  { guard := g, srcs := memSrcs m,
    body := do
      let x ← M.me
      let r ← M.r
      let l ← load x r
      M.tileWrite d (.ofRows l.fmt (if l.fmt = 0 then pw.toNat else 3) l.k l.rows)
      return .next }

def execLdt (g : Guard) (h : Hint) (inv : Bool) (d : TReg) (m : MemOp) (pw : BitVec 2) (s : State) :
    Host.Outcome State Fault Refusal :=
  s.issue (.tileLoad g m d pw fun x r =>
    M.loadRows x (rowVas (memBase r m) (memPitch r m) 16) (plainOf pw) (tileAccepts pw) 0x23 (pure ()) inv (h == .noalloc))

def execLdtCol (g : Guard) (h : Hint) (inv : Bool) (d : TReg) (m : MemOp) (pw : BitVec 2) (s : State) :
    Host.Outcome State Fault Refusal :=
  s.issue (.tileLoad g m d pw fun x r =>
    M.loadCols x (rowVas (memBase r m) (memPitch r m) 128) (plainOf pw) (tileAccepts pw) inv (h == .noalloc))

/-- A memory row cut into the pieces that lie in one line each. -/
def piecesOf : Nat → Nat → List Byte → List (Nat × List Byte)
  | 0, _, _ => []
  | fuel + 1, va, b =>
    if b.isEmpty then []
    else
      let k := min b.length (64 - va % 64)
      (va, b.take k) :: piecesOf fuel (va + k) (b.drop k)

/-- The pieces of `n` memory rows of `c` elements each, whose codes are `row i`. -/
def tilePieces (t : Tile) (vas : List Nat) (c : Nat) (row : Tile → Nat → List Nat) : List (Nat × List Byte) :=
  vas.zipIdx.flatMap fun e => piecesOf (c * t.width / 512 + 2) e.1 (leBytes (packFields t.width (row t e.2)) (c * t.width / 8))

def M.putPiece (x : CtxRef) (ps : List (Nat × List Byte)) (i : Nat) : M Unit :=
  match ps[i]? with
  | some (va, b) => M.store x va b.length (leNat b)
  | none => pure ()

/-- Store memory rows of `c` elements each; the store may be split between lines (R100, R243). -/
def Ins.tileStore (g : Guard) (m : MemOp) (d : TReg) (n c : Nat) (row : Tile → Nat → List Nat) : Ins :=
  { guard := g, srcs := memSrcs m,
    body := do
      let x ← M.me
      let r ← M.r
      let t ← M.tileRead d
      let vas := rowVas (memBase r m) (memPitch r m) n
      M.checkRows x rWR t.width c 0 vas
      let ps := tilePieces t vas c row
      M.storeParts x (fun i => ((ps[i]?).map Prod.fst).getD 0) (M.putPiece x ps) r.part (List.range ps.length) }

/-- DEDUCED, log entry 29. -/
def execStt (g : Guard) (h : Hint) (d : TReg) (m : MemOp) (pw : BitVec 2) (s : State) : Host.Outcome State Fault Refusal :=
  let _ := (h, pw)
  s.issue (.tileStore g m d 16 128 fun t r => (List.range 128).map (t.code r))

def execSttCol (g : Guard) (h : Hint) (d : TReg) (m : MemOp) (pw : BitVec 2) (s : State) : Host.Outcome State Fault Refusal :=
  let _ := (h, pw)
  s.issue (.tileStore g m d 128 16 fun t k => (List.range 16).map fun r => t.code r k)

/-! ### Tile instructions: they go through the matrix engine's queue (R299) -/

/-- A matrix-engine instruction. -/
def Ins.mx (g : Guard) (srcs dsts vsrcs vdsts : List Nat) (body : M Unit) : Ins :=
  { guard := g, srcs, dsts, vsrcs, vdsts, engine := some .matrix,
    body := do
      body
      return .next }

/-- R303. -/
def execTmov (g : Guard) (d a : TReg) (s : State) : Host.Outcome State Fault Refusal :=
  s.issue (.mx g [] [] [] [] do M.tileWrite d (← M.tileRead a))

/-- Each 16 × 16 block transposed: element (r, 16 j + c) takes the code of (c, 16 j + r). DEDUCED, log entry 44. -/
def Tile.transposed (t : Tile) : Tile :=
  .ofRows t.fmt t.pw t.k (t.rows.zipIdx.map fun e => e.1.zipIdx.map fun g =>
    { g.1 with codes := (List.range 16).map fun c => t.code c (16 * g.2 + e.2) })

/-- Every group scale of the tile is one code. -/
def Tile.oneScale (t : Tile) : Bool := (List.range 128).all fun i => t.sc.get 0x7F i == t.sc.get 0x7F 0

def execTmovTr (g : Guard) (d a : TReg) (s : State) : Host.Outcome State Fault Refusal :=
  s.issue (.mx g [] [] [] [] do
    let t ← M.tileRead a
    if !t.oneScale || (t.fmt == 1 && t.codes.any fun e => e.2 == 8) then M.invocation 0x25
    M.tileWrite d t.transposed)

/-- The source format of a TCVT, or none for a refused pairing (R304); type code 0 names none beside a tag.
DEDUCED, log entry 30. -/
def tcvtSource (t : Tile) (src : Ty) : Option Nat :=
  if t.fmt ≠ 0 then (if src = .i8 ∨ tyFmt src = t.fmt then some t.fmt else none)
  else if tyFmt src ≠ 0 ∧ fmtWidth (tyFmt src) = plainWidth t.pw then some (tyFmt src) else none

/-- R304. -/
def Tile.convert (t : Tile) (f : Nat) (dst : Ty) (rnd : Nat → Rnd) : Tile :=
  .ofRows (tyFmt dst) 3 0 (t.rows.zipIdx.map fun e => e.1.zipIdx.map fun g =>
    let grp : Grp := if t.fmt = 0 then { Grp.zero with codes := g.1.codes } else g.1
    { codes := (grp.decode f t.k).1.zipIdx.map fun v => convCode dst (rnd (e.2 * 128 + 16 * g.2 + v.2)) v.1, sc := 0x7F, eb := 0,
      ep := 0, bs := g.2 % 2 == 0 })

def execTcvt (g : Guard) (t src : Ty) (rm : RM) (d a : TReg) (s : State) : Host.Outcome State Fault Refusal :=
  s.issue (.mx g [] [] [] [] do
    let r ← M.r
    let x ← M.tileRead a
    match tcvtSource x src with
    | some f => M.tileWrite d (x.convert f t fun i => { rm, seed := r.seed.toNat, idx := i, ftz := false })
    | none => M.invocation 0x22)

def execTzero (g : Guard) (d : TReg) (s : State) : Host.Outcome State Fault Refusal :=
  s.issue (.mx g [] [] [] [] (M.tileWrite d .zero))

/-- R305. -/
def execTldv (g : Guard) (d : TReg) (a : VReg) (row : BitVec 4) (s : State) : Host.Outcome State Fault Refusal :=
  s.issue (.mx g [] [] [a.toNat] [] do
    let r ← M.r
    let t ← M.tileRead d
    M.tileWrite d (t.setRow row.toNat fun i g => { g with codes := (List.range 16).map fun j => r.field a.toNat t.width (16 * i + j) }))

def execTstv (g : Guard) (d : VReg) (a : TReg) (row : BitVec 4) (s : State) : Host.Outcome State Fault Refusal :=
  s.issue (.mx g [] [] [] [d.toNat] do
    let t ← M.tileRead a
    let w := t.width
    M.setRegs fun r => r.setLanes d.toNat fun l =>
      some (BitVec.ofNat 32 (packLane w l (fun f => if f < 128 then t.code row.toNat f else 0) (32 / w))))

/-- R306. -/
def execTgetsc (g : Guard) (d : SReg) (a : TReg) (row : BitVec 4) (s : State) : Host.Outcome State Fault Refusal :=
  s.issue (.mx g [] [d.toNat] [] [] do
    let t ← M.tileRead a
    M.setS d (BitVec.ofNat 64 (packFields 8 ((List.range 8).map fun i => if t.fmt = 0 then 0x7F else t.sc.get 0x7F (8 * row.toNat + i)))))

def execTsetsc (g : Guard) (d : TReg) (a : SReg) (row : BitVec 4) (s : State) : Host.Outcome State Fault Refusal :=
  s.issue (.mx g [a.toNat] [] [] [] do
    let r ← M.r
    let t ← M.tileRead d
    if t.fmt = 0 then M.invocation 0x25
    M.tileWrite d (t.setRow row.toNat fun i g => { g with sc := fld (r.sr a).toNat (8 * i + 7) (8 * i) }))

end Sys2Proof.Machine
end

