-- ==== Sys2Proof/Machine/Matrix.lean ====
section
/-! DEFINITION. B slots, matrix multiplication, accumulators and capabilities: R307 to R320. -/

namespace Sys2Proof.Machine

/-! ### B slots (R307 to R309) -/

/-- A column's groups aligned by R133: integers, QB, invalid flag, scale code, escape byte and EP, and roundings. -/
structure BGrp where
  cells : List Int
  qb : Int
  inv : Bool
  sc : Nat
  eb : Nat
  ep : Nat
  rounds : Nat
  deriving DecidableEq, Repr

def BGrp.of (fmt k : Nat) (g : Grp) : BGrp :=
  let (l, lost) := g.decode fmt k
  let (c, q, n) := alignGroup l (bBits fmt) false
  { cells := c, qb := q, inv := l.any Num.invalid, sc := g.sc, eb := g.eb, ep := g.ep, rounds := n + lost }

def bgrpAt (cols : List (List BGrp)) (n g : Nat) : BGrp :=
  (((cols[n]?).getD [])[g]?).getD { cells := [], qb := 0, inv := false, sc := 0x7F, eb := 0, ep := 0, rounds := 0 }

/-- Columns `c0` on of a slot take these groups. -/
def BSlot.setCols (b : BSlot) (c0 : Nat) (cols : List (List BGrp)) : BSlot :=
  let within (n : Nat) : Bool := decide (c0 ≤ n) && decide (n < c0 + cols.length)
  let keep {α : Type} (t : Tab α) (i : Nat) (d : α) : α := t.get d i
  { b with
    cells := tabOf 0 32768 fun i =>
      if within (i % 256) then ((bgrpAt cols (i % 256 - c0) (i / 256 / 16)).cells[i / 256 % 16]?).getD 0 else keep b.cells i 0,
    qb := tabOf 0 2048 fun i => if within (i % 256) then (bgrpAt cols (i % 256 - c0) (i / 256)).qb else keep b.qb i 0,
    inv := tabOf false 2048 fun i => if within (i % 256) then (bgrpAt cols (i % 256 - c0) (i / 256)).inv else keep b.inv i false,
    sc := tabOf 0x7F 2048 fun i => if within (i % 256) then (bgrpAt cols (i % 256 - c0) (i / 256)).sc else keep b.sc i 0x7F,
    eb := tabOf 0 2048 fun i => if within (i % 256) then (bgrpAt cols (i % 256 - c0) (i / 256)).eb else keep b.eb i 0,
    ep := tabOf 0 2048 fun i => if within (i % 256) then (bgrpAt cols (i % 256 - c0) (i / 256)).ep else keep b.ep i 0 }

def roundsOf (cols : List (List BGrp)) : Nat := cols.foldl (fun a c => c.foldl (fun a g => a + g.rounds) a) 0

/-- The slot emptied by an instruction of core `c`: STAMP counts it (R307, R308, R323). -/
def BSlot.emptied (b : BSlot) (c : Nat) : BSlot := { BSlot.zero with stamp := b.stamp + 1, ldcore := c }

def Pkg.modBslot (p : Pkg) (core n : Nat) (f : BSlot → BSlot) : Pkg :=
  p.modCore core fun k => { k with bslots := k.bslots.set .zero n (f (k.bslots.get .zero n)) }

/-- Whether a chunk's read signature holds the slot's register line (R308). -/
def Pkg.readsSlot (p : Pkg) (core n : Nat) (h : Chunk) : Bool :=
  intersects h.rlines [lineKey (p.spaceOf core) (regLineVa core (12 + n))]

/-- Contexts of a core, but the one that a BLOAD runs in, of which a running chunk has read the slot's register line. -/
def Pkg.slotReaders (p : Pkg) (core n : Nat) (except : Option CtxRef) : List CtxRef :=
  (coreCtxs core).filter fun x => (p.ctx x).live && some x != except && (p.ctx x).chunks.any (p.readsSlot core n)

/-- Squash them; none where an exclusive chunk (R65), or an MMA in progress on the slot (R358), makes the writer wait. -/
def Pkg.squashReaders (p : Pkg) (core n : Nat) (except : Option CtxRef) : Option Pkg :=
  let l := p.slotReaders core n except
  if (p.core core).slotInUse n || l.any fun x => (p.ctx x).guarded.any (p.readsSlot core n) then none
  else some (l.foldl (fun q x => q.squashIf x (p.readsSlot core n)) p)

/-- A BLOAD waits for a BPUT in progress on the slot (R323), for an exclusive reader (R308), and for an MMA that uses it (R358). -/
def Pkg.bloadWaits (p : Pkg) (x : CtxRef) (n : Nat) : Bool :=
  ((p.core x.core).bslots.get .zero n).busy.isSome || (p.squashReaders x.core n (some x)).isNone

/-- The slot's own check, and the wait. -/
def M.bloadWaits (x : CtxRef) (n : Nat) : M Unit := do
  M.bReserved n
  if (← get).bloadWaits x n then throw (.wait .ops)

/-- A BLOAD that stops on its way, having the slot, is in progress on it (R70, R323). -/
def Pkg.beginLoad (p : Pkg) (n : Nat) : Pkg :=
  let x := p.cur
  if p.bloadWaits x n || !p.rcdBit x.core (272 + n) then p else p.modCtx x fun c => { c with load := some n }

/-- R308. -/
def execBload (g : Guard) (h : Hint) (fmt : BitVec 3) (d : BReg) (m : MemOp) (s : State) : Host.Outcome State Fault Refusal :=
  let code := fmt.toNat
  s.issue
    { guard := g, cut := true, srcs := memSrcs m,
      body := do
        let x ← M.me
        let r ← M.r
        let plain := if code = 0 then none else some (fmtWidth code)
        let w ← M.rowWidth x (memBase r m).toNat plain 0x22 false
        let l ← M.loadRows x (rowVas (memBase r m) (memPitch r m) (if w = 16 then 128 else 256)) plain
          (fun f => code == 0 || code == f) 0x22 (M.bloadWaits x d.toNat) false (h == .noalloc)
        let p ← get
        let f := if l.fmt = 0 then code else l.fmt
        let cols := l.rows.map fun gs => gs.map (BGrp.of f l.k)
        match p.squashReaders x.core d.toNat (some x) with
        | none => throw (.wait .ops)
        | some q =>
          set (q.modBslot x.core d.toNat fun b =>
            { (BSlot.zero.setCols 0 cols) with st := .loaded, fmt := f, k := l.k, stamp := b.stamp + 1, ldcore := x.core })
        M.count x cRoundings (roundsOf cols)
        return .next,
      stopped := fun e p =>
        match e with
        | .poison _ => ((p.squashReaders p.cur.core d.toNat (some p.cur)).getD p).modBslot p.cur.core d.toNat (·.emptied p.cur.core)
        | .held _ | .wait .ops => p.beginLoad d.toNat
        | .fault .. | .cut | .squash | .wait _ => p }

def BState.code : BState → Nat
  | .empty => 0
  | .loaded => 1
  | .partly => 2

/-- The word of Table 11.3. -/
def BSlot.word (b : BSlot) : Nat :=
  b.stamp.toNat <<< 32 + b.ldcore <<< 23 + b.k <<< 8 + b.fmt <<< 4 + (if b.inv.any Prod.snd then 8 else 0) + b.st.code

def M.bslot (n : BReg) : M BSlot := do
  let x ← M.me
  M.bReserved n.toNat
  M.enterRead x (← M.regKey (12 + n.toNat))
  return ((← get).core x.core).bslots.get .zero n.toNat

def execBquery (g : Guard) (d : SReg) (b : BReg) (s : State) : Host.Outcome State Fault Refusal :=
  s.issue (.mx g [] [d.toNat] [] [] do M.setS d (BitVec.ofNat 64 (← M.bslot b).word))

/-! ### Matrix multiplication (R310 to R312) -/

/-- A row of A aligned: integers and QA by group, whether any group is invalid, roundings. -/
structure ARow where
  gs : List (List Int × Int)
  bad : Bool
  rounds : Nat
  deriving DecidableEq, Repr

def Tile.alignRow (t : Tile) (f : Nat) (exact : Bool) (m : Nat) : ARow :=
  let gs := (List.range 8).map fun g =>
    let x : Grp := if t.fmt = 0 then { Grp.zero with codes := (t.grp m g).codes } else t.grp m g
    (x, x.decode f t.k)
  let al := gs.map fun e => alignGroup e.2.1 (planes f e.1) exact
  { gs := al.map fun e => (e.1, e.2.1),
    bad := (gs.any fun e => e.2.1.any Num.invalid) || (List.range 8).any fun g => t.inv.get false (8 * m + g),
    rounds := al.foldl (fun a e => a + e.2.2) (gs.foldl (fun a e => a + e.2.2) 0) }

/-- Column `n` of a B slot: integers and QB by group, whether any group is invalid. -/
def BSlot.col (b : BSlot) (n : Nat) : List (List Int × Int) × Bool :=
  ((List.range 8).map fun g => ((List.range 16).map fun j => b.cells.get 0 (256 * (16 * g + j) + n), b.qb.get 0 (256 * g + n)),
   (List.range 8).any fun g => b.inv.get false (256 * g + n))

/-- One element of the product: the new value, and whether a term was clamped (R311). -/
def mmaElem (x : BitVec 128) (anchor : Int) (a : ARow) (b : List (List Int × Int) × Bool) : BitVec 128 × Bool :=
  if x = sentinel ∨ a.bad ∨ b.2 then (sentinel, false)
  else
    (a.gs.zip b.1).foldl (fun acc e =>
      let (v, c) := groupSum (e.1.2 + e.2.2 - anchor) e.1.1 e.2.1
      (acc.1 + BitVec.ofInt 128 v, acc.2 || c)) (x, false)

/-- A quarter of the product into a bank. -/
def AccBank.mma (k : AccBank) (rows : List ARow) (cols : List (List (List Int × Int) × Bool)) : AccBank :=
  let l := rows.zipIdx.flatMap fun r => cols.zipIdx.map fun c => mmaElem (k.el r.2 c.2) k.anchor.toInt r.1 c.1
  { k with x := (l.zipIdx.map fun e => (e.2, e.1.1)).filter fun e => e.2 != 0, clamped := k.clamped || l.any Prod.snd }

def quarters (nmask : BitVec 4) : List Nat := (List.range 4).filter fun q => nmask.getLsbD q

/-- Index of a matrix format's counter (Table 5.2, R337). -/
def macCounter (f : Nat) : Nat := if f = 1 then 0 else if f = 2 then 1 else if f = 5 then 4 else if f = 6 then 3 else 2

def M.checkAccs (d : Nat) : Nat → M Unit
  | 0 => pure ()
  | n + 1 => do
    M.checkAccs d n
    M.accReserved (d + n)

def M.mmaQuarters (d : Nat) (rows : List ARow) (b : BSlot) : Nat → List Nat → M Unit
  | _, [] => pure ()
  | i, q :: t => do
    M.enterRead (← M.me) (← M.regKey (8 + d + i))
    M.accWrite (d + i) (·.mma rows ((List.range 64).map fun c => b.col (64 * q + c)))
    M.mmaQuarters d rows b (i + 1) t

/-- Effective format of a tile under an override (R129, R310). -/
def effective (t : Tile) (af : Nat) : Option Nat :=
  let f := if t.fmt ≠ 0 then (if af = 0 ∨ af = t.fmt then t.fmt else 0) else af
  if f = 0 then none else if fmtWidth f = t.width then some f else none

def M.mma (exact : Bool) (nmask : BitVec 4) (af : BitVec 3) (d : AReg) (a : TReg) (bn : BReg) : M Unit := do
  let x ← M.me
  let qs := quarters nmask
  M.checkAccs d.toNat qs.length
  let b ← M.bslot bn
  if b.st ≠ .loaded then M.invocation 0x21
  if qs.any fun q => decide (bCols b.fmt ≤ 64 * q) then M.invocation 0x21
  let t ← M.tileRead a
  match effective t af.toNat with
  | none => M.invocation 0x22
  | some f =>
    let rows := (List.range 16).map (t.alignRow f exact)
    M.mmaQuarters d.toNat rows b 0 qs
    M.count x (macCounter (if fmtWidth f < fmtWidth b.fmt then b.fmt else f)) (16 * 128 * 64 * qs.length)
    M.count x cRoundings (rows.foldl (fun a r => a + r.rounds) 0)

def Ins.mma (g : Guard) (exact : Bool) (nmask : BitVec 4) (af : BitVec 3) (d : AReg) (a : TReg) (bn : BReg) : Ins :=
  { Ins.mx g [] [] [] [] (M.mma exact nmask af d a bn) with bslot := some bn.toNat }

def execMma (g : Guard) (nmask : BitVec 4) (af : BitVec 3) (d : AReg) (a : TReg) (b : BReg) (s : State) :
    Host.Outcome State Fault Refusal := s.issue (.mma g false nmask af d a b)
def execMmax (g : Guard) (nmask : BitVec 4) (af : BitVec 3) (d : AReg) (a : TReg) (b : BReg) (s : State) :
    Host.Outcome State Fault Refusal := s.issue (.mma g true nmask af d a b)

/-! ### Accumulators (R314 to R318) -/

def execAccz (g : Guard) (d : AReg) (s : State) : Host.Outcome State Fault Refusal :=
  s.issue (.mx g [] [] [] [] do
    M.accReserved d.toNat
    M.accWrite d.toNat fun b => { b with x := [], clamped := false })

def execAccanch (g : Guard) (d : AReg) (imm : BitVec 16) (s : State) : Host.Outcome State Fault Refusal :=
  s.issue (.mx g [] [] [] [] do
    M.accReserved d.toNat
    M.accWrite d.toNat fun b => { b with anchor := imm })

/-- R316. -/
def execAccout (g : Guard) (t : Ty) (rm : RM) (mk : Option SReg) (d : VReg) (a : AReg) (row : BitVec 4) (s : State) :
    Host.Outcome State Fault Refusal :=
  s.issue (.mx g (maskSrcs mk) [] [] [d.toNat] do
    M.accReserved a.toNat
    let b ← M.accRead a.toNat
    M.setRegs fun r => r.mapLanes mk d fun c =>
      laneInt t (readout t { rm, seed := r.seed.toNat, idx := row.toNat * 64 + c, ftz := r.ftz.getLsbD 2 } (b.el row.toNat c) b.anchor))

/-- R315. -/
def execAccadd (g : Guard) (d a : AReg) (s : State) : Host.Outcome State Fault Refusal :=
  s.issue (.mx g [] [] [] [] do
    M.accReserved d.toNat
    M.accReserved a.toNat
    let y ← M.accRead a.toNat
    let z ← M.accRead d.toNat
    if y.anchor ≠ z.anchor then M.invocation 0x24
    M.accWrite d.toNat fun b =>
      { b with x := tabOf 0 1024 fun i => accSum (b.x.get 0 i) (y.x.get 0 i), clamped := b.clamped || y.clamped })

/-- Bytes of a row, or of the trailer (R317). -/
def AccBank.bytes (b : AccBank) (row : Nat) : List Byte :=
  if row < 16 then (List.range 64).flatMap fun c => leBytes (b.el row c).toNat 16
  else leBytes (b.anchor.toNat + if b.clamped then 2 ^ 16 else 0) 64

def AccBank.setRow (b : AccBank) (row : Nat) (v : List Byte) : AccBank :=
  if row < 16 then
    let n := leNat v
    { b with x := tabOf 0 1024 fun i => if i / 64 = row then BitVec.ofNat 128 (n / 2 ^ (128 * (i % 64))) else b.x.get 0 i }
  else { b with anchor := BitVec.ofNat 16 (leNat v), clamped := (leNat v).testBit 16 }

def accBytes (row : BitVec 5) : Nat := if row.toNat < 16 then 1024 else 64

/-- The address checks come before the check that the accumulator is reserved, as R317 has them. DESIGN CHOICE, log entry 104. -/
def execAccst (g : Guard) (h : Hint) (d : AReg) (m : MemOp) (row : BitVec 5) (s : State) : Host.Outcome State Fault Refusal :=
  let _ := h
  s.issue (.mx g (memSrcs m) [] [] [] do
    let x ← M.me
    let r ← M.r
    let va := (memAddr r m).toNat
    M.checkEl x rWR va 64 0
    M.checkRange x rWR va (accBytes row)
    M.accReserved d.toNat
    let b ← M.accRead d.toNat
    M.storeBytes x 18 va (b.bytes row.toNat))

/-- Checked in the order of ACCST. DESIGN CHOICE, log entry 104. -/
def execAccld (g : Guard) (h : Hint) (d : AReg) (m : MemOp) (row : BitVec 5) (s : State) : Host.Outcome State Fault Refusal :=
  s.issue (.mx g (memSrcs m) [] [] [] do
    let x ← M.me
    let r ← M.r
    let va := (memAddr r m).toNat
    M.checkEl x rRD va 64 0
    M.checkRange x rRD va (accBytes row)
    M.accReserved d.toNat
    let v ← M.loadBytes x rRD false (h == .noalloc) 18 va (accBytes row)
    if row.toNat = 16 ∧ leNat v ≥ 2 ^ 17 then M.invocation 0x24
    M.accWrite d.toNat (·.setRow row.toNat v))

/-- R318: the wait for the context's earlier matrix instructions. -/
def execMfence (g : Guard) (s : State) : Host.Outcome State Fault Refusal :=
  s.issue
    { guard := g,
      body := do
        let x ← M.me
        if ((← get).core x.core).mq.any fun q => q.owner.slot == x.slot then throw (.wait .mfence)
        return .next }

/-- The word of Table 11.4. -/
def AccBank.word (b : AccBank) : Nat :=
  (if b.x.any fun e => e.2 != sentinel && accOverflows e.2 then 2 ^ 18 else 0) +
  (if b.x.any fun e => e.2 == sentinel then 2 ^ 17 else 0) + (if b.clamped then 2 ^ 16 else 0) + b.anchor.toNat

def execMxstat (g : Guard) (d : SReg) (a : AReg) (s : State) : Host.Outcome State Fault Refusal :=
  s.issue (.mx g [] [d.toNat] [] [] do
    M.accReserved a.toNat
    M.setS d (BitVec.ofNat 64 (← M.accRead a.toNat).word))

/-! ### Capabilities (R319, R320) -/

/-- How often a core's capability key has been drawn (R319, R428). -/
def Pkg.capKey (p : Pkg) (core : Nat) : BitVec 256 := Config.capKey core (p.keyDraw + (p.core core).capDraw)

/-- CHECK of a capability word with CHECK zero (Table 11.5). -/
def Pkg.capCheck (p : Pkg) (core : Nat) (w : Nat) : Nat :=
  leNat ((hmacSha384 (leBytes (p.capKey core).toNat 32) (leBytes w 8)).take 3)

def Pkg.capWord (p : Pkg) (core slot : Nat) (gen : BitVec 20) (rights : Nat) : Word :=
  let w := core <<< 55 + slot <<< 52 + gen.toNat <<< 32 + rights <<< 24
  BitVec.ofNat 64 (w + p.capCheck core w)

/-- A change of a capability slot enters the chunk; the slot as it will stand is answered. -/
def M.capChange (o : CapOp) (slot : Nat) : M CapSlot := do
  let x ← M.me
  M.enterWrite x (← M.regKey (16 + slot))
  let k := (← get).core x.core
  let touches (o : CapOp) : Bool := match o with
    | .mk s _ | .rev s => s == slot
  let holds (h : Chunk) : Bool := h.capOps.any touches
  M.claim x (k.ctxs.filterMap fun e => if e.2.chunks.any holds then some e.1 else none) holds
  M.modChunk x fun h => { h with capOps := h.capOps ++ [o] }
  let p ← get
  return ((p.ctx x).chunks.reverse.flatMap Chunk.capOps |>.foldl capCommit (p.core x.core)).caps.get .zero slot

def execCapmk (g : Guard) (d a : SReg) (s : State) : Host.Outcome State Fault Refusal :=
  s.issue
    { guard := g, srcs := [a.toNat], dsts := [d.toNat],
      body := do
        let x ← M.me
        let q := ((← M.r).sr a).toNat
        if q % 8 + fld q 11 8 <<< 8 ≠ q then M.invocation 0x28
        let c ← M.capChange (.mk (q % 8) (fld q 11 8)) (q % 8)
        M.setS d ((← get).capWord x.core (q % 8) c.gen c.rights)
        return .next }

def execCaprev (g : Guard) (a : SReg) (s : State) : Host.Outcome State Fault Refusal :=
  s.issue
    { guard := g, srcs := [a.toNat],
      body := do
        let q := ((← M.r).sr a).toNat
        if q % 8 ≠ q then M.invocation 0x28
        let _ ← M.capChange (.rev (q % 8)) (q % 8)
        return .next }

end Sys2Proof.Machine
end

