-- ==== Sys2Proof/Machine/Pan.lean ====
section
/-! DEFINITION. Pan invocation, the routine table's instructions, and the events of slices: R154 to R170, R266 to R270. -/

namespace Sys2Proof.Machine

/-! ### Returning forms (R111, R161, R267) -/

/-- Attribution of the issuing context's own writes at a home. -/
def Pkg.ownAttr (p : Pkg) (x : CtxRef) : Attr :=
  { space := p.spaceOf x.core, gcid := x.gcid, gen := (p.ctx x).gen, chunk := (p.ctx x).seq, mask := 0, engine := true }

/-- In replay, the application is the log's next event; it is logged (R111, R419, R421). -/
def Pkg.mayReturn (p : Pkg) (x : CtxRef) (lane : Nat) : Bool :=
  match (p.replayOf (p.spaceOf x.core)).bind fun r => r.log[r.gate]? with
  | none => true
  | some e => p.replayAllows (p.spaceOf x.core) 4 x.gcid (p.ctx x).seq 0 && (leValue e).toNat == lane

def Pkg.logReturn (p : Pkg) (x : CtxRef) (lane : Nat) : Pkg :=
  let c := p.ctx x
  (p.record (p.spaceOf x.core) (logEntry (BitVec.ofNat 64 lane) c.seq c.gen.toNat x.gcid 4 0 0)).replayStep (p.spaceOf x.core)

/-- A returning application by the issuing context: its code, its count, the value. It follows the context's earlier applications
to the line (R110, R397), and faults where the driver has killed the context that it held (R161). DEDUCED, log entry 40. -/
def M.panOnce (slot lane va : Nat) (operand : Line) : M (Nat × Nat × Line) := do
  let x ← M.me
  let p ← get
  match p.route? (p.spaceOf x.core) va with
  | none => pure ()
  | some r => M.up r.key
  if p.panBehind x (p.ctx x).gen p.nextOp va || !p.mayReturn x lane then throw (.wait .ops)
  let c : PanCall := { attr := p.ownAttr x, origin := x.core, slot, lidx := 0, lane, va, operand, returning := true }
  match p.panHome c with
  | .wait => throw (.wait .ops)
  | .held h => throw (.held h)
  | .done q code counted ran ret =>
    let k := p.ctx x
    let q := if ran then q.watchFor (p.spaceOf x.core) (va / 64 * 64) 64 7 (hitOf 3 k.regs.retired k.seq x.gcid k.gen (p.launchOf x.core) 0 lane) else q
    set (q.logReturn x lane)
    return (code, counted.toNat, ret)

/-- The one application of a scalar form; a poisoned line ends the task (R433). -/
def M.panReturn (slot va : Nat) (operand : Line) : M (Nat × Nat × Line) := do
  let p ← get
  let (code, n, ret) ← M.panOnce slot 0 va operand
  if code = 4 then throw (.poison (((p.route? (p.spaceOf p.cur.core) va).map Route.key).getD 0))
  return (code, n, ret)

/-- The line address of a pan element is checked (R269). -/
def M.checkLine (va lane : Nat) : M Unit := do M.checkEl (← M.me) rPAN va 64 lane

/-- The scalar returning forms; `put` writes the result. -/
def M.panScalar (m : BitVec 2) (a b c : SReg) (slot : BitVec 8) (put : Line → Regs → Regs) : M Flow := do
  let r ← M.r
  let va := (r.sr a).toNat
  M.checkLine va 0
  let (code, n, ret) ← M.panReturn slot.toNat va (panOperand r b m)
  M.count (← M.me) cPanInv n
  if code = 0 then M.setRegs (put ret)
  M.setS c (panStatus (if code = 0 then 1 else 2) code 0 n)
  return .next

def execPanr (g : Guard) (_col : BitVec 3) (m : BitVec 2) (d a b c : SReg) (slot : BitVec 8) (s : State) :
    Host.Outcome State Fault Refusal :=
  s.issue
    { guard := g, cut := true, early := true, srcs := a.toNat :: regRange b.toNat (2 ^ m.toNat), dsts := [d.toNat, c.toNat],
      body := M.panScalar m a b c slot fun q r => r.setS d (q.setWidth 64) }

def execPanrv (g : Guard) (_col : BitVec 3) (m : BitVec 2) (d : VReg) (a b c : SReg) (slot : BitVec 8) (s : State) :
    Host.Outcome State Fault Refusal :=
  s.issue
    { guard := g, cut := true, early := true, srcs := a.toNat :: regRange b.toNat (2 ^ m.toNat), dsts := [c.toNat], vdsts := [d.toNat],
      body := M.panScalar m a b c slot fun q r =>
        r.setLanes d.toNat fun j => if j < 16 then some (q.extractLsb' (32 * j) 32) else none }

/-! ### Deferred forms (R161, R266 to R269) -/

def execPann (g : Guard) (col : BitVec 3) (m : BitVec 2) (d a b : SReg) (slot : BitVec 8) (s : State) :
    Host.Outcome State Fault Refusal :=
  s.issue
    { guard := g, srcs := a.toNat :: regRange b.toNat (2 ^ m.toNat), dsts := [d.toNat],
      body := do
        let r ← M.r
        M.checkLine (r.sr a).toNat 0
        M.defer (← M.me) (.pan slot.toNat [{ lane := 0, va := r.sr a, operand := panOperand r b m }]) col.toNat d
        return .next }

/-- The active elements of a vector form (R268). -/
def panEls (r : Regs) (a : SReg) (b c : VReg) (mask : SReg) : List PanEl :=
  ((List.range 64).filter (panOn r mask)).map fun j =>
    { lane := j, va := r.sr a + (r.lane b.toNat j).signExtend 64 <<< 6,
      operand := ((r.lane (c.toNat + 1) j) ++ (r.lane c.toNat j)).setWidth 512 }

def M.checkLines : List PanEl → M Unit
  | [] => pure ()
  | e :: t => do
    M.checkLine e.va.toNat e.lane
    M.checkLines t

def execPanv (g : Guard) (col : BitVec 3) (d a : SReg) (b c : VReg) (mask : SReg) (slot : BitVec 8) (s : State) :
    Host.Outcome State Fault Refusal :=
  s.issue
    { guard := g, srcs := [a.toNat, mask.toNat], dsts := [d.toNat], vsrcs := [b.toNat, c.toNat, c.toNat + 1],
      body := do
        let els := panEls (← M.r) a b c mask
        M.checkLines els
        M.defer (← M.me) (.pan slot.toNat els) col.toNat d
        return .next }

/-- Write a returned element into its two lanes (R268). -/
def Regs.panLane (r : Regs) (d j : Nat) (q : Line) : Regs :=
  (r.setLane d j (q.extractLsb' 0 32)).setLane (d + 1) j (q.extractLsb' 32 32)

/-- The elements of a PANVR that are still to be applied. -/
def panvrLeft (c : Ctx) (a : SReg) (b v : VReg) (mask : SReg) : List PanEl := (panEls c.regs a b v mask).drop c.panDone

/-- What an applied element leaves in its context: its lanes, the count, the first failure. -/
def Ctx.addPanLane (c : Ctx) (d lane code n : Nat) (ret : Line) : Ctx :=
  let first := c.panCode = 0 ∧ code ≠ 0
  let regs := if code = 0 then c.regs.panLane d lane ret else c.regs
  { c with regs := regs, ch := { c.ch with start := regs }, panDone := c.panDone + 1, panCount := c.panCount + n,
           panCode := if first then code else c.panCode, panLane := if first then lane else c.panLane }

/-- Apply the next element of a PANVR, at its own place (R111). What has been applied stands in the context while the others wait.
DESIGN CHOICE, log entry 41. -/
def M.panvrNext (slot d : Nat) (l : List PanEl) : M Unit := do
  match l with
  | [] => pure ()
  | e :: _ => do
    let (code, n, ret) ← M.panOnce slot e.lane e.va.toNat e.operand
    M.modCtx (← M.me) (·.addPanLane d e.lane code n ret)

def execPanvr (g : Guard) (_col : BitVec 3) (d : VReg) (a : SReg) (b c : VReg) (mask : SReg) (slot : BitVec 8) (s : State) :
    Host.Outcome State Fault Refusal :=
  s.issue
    { guard := g, cut := true, early := true, srcs := [a.toNat, mask.toNat], dsts := [mask.toNat],
      vsrcs := [b.toNat, c.toNat, c.toNat + 1], vdsts := [d.toNat, d.toNat + 1],
      body := do
        let x ← M.me
        let k := (← get).ctx x
        let l := panvrLeft k a b c mask
        if k.panDone = 0 then M.checkLines (panEls k.regs a b c mask)
        M.panvrNext slot.toNat d.toNat l
        if l.length > 1 then throw (.wait .ops)
        let k := (← get).ctx x
        M.count x cPanInv k.panCount
        M.setS mask (panStatus (if k.panCode = 0 then 1 else 2) k.panCode k.panLane k.panCount)
        return .next,
      stopped := fun e p =>
        match e, (M.panvrNext slot.toNat d.toNat (panvrLeft (p.ctx p.cur) a b c mask)).run p with
        | .wait .ops, .ok (_, q) => q
        | .wait .ops, .error _ | .held _, _ | .fault .., _ | .cut, _ | .squash, _ | .wait _, _ | .poison _, _ => p }

/-! ### The routine table (R155 to R157, R270) -/

/-- A slot's entry changed as a commit of the operation would change it (R156). -/
def tabEffect (slot e : Nat) (o : TabOp) : Nat :=
  match o with
  | .load n image =>
    if n = slot then mkEntry (((image.map BitVec.toNat).head?).getD 0) ((image.map BitVec.toNat).tail) 1 (entGen e + 1) else e
  | .drop n => if n = slot ∧ entState e = 1 then e + 1 <<< 1056 else e

/-- The slot as the issuing chunk sees it. -/
def M.tableSlot (slot : Nat) : M Nat := do
  let x ← M.me
  let p ← get
  return ((p.ctx x).chunks.reverse.flatMap Chunk.tabOps).foldl (tabEffect slot) (p.tableEntry (p.spaceOf x.core) slot)

/-- A change of a slot enters the chunk (R64, R156). -/
def M.tableChange (slot : Nat) (o : TabOp) : M Unit := do
  let x ← M.me
  let touches (o : TabOp) : Bool := match o with
    | .load n _ | .drop n => n == slot
  let p ← get
  let holds (h : Chunk) : Bool := h.tabOps.any touches
  M.claim x ((p.core x.core).ctxs.filterMap fun e => if e.2.chunks.any holds then some e.1 else none) holds
  M.enterWrite x (lineKey (p.spaceOf x.core) (tableLineVa slot))
  M.modChunk x fun h => { h with tabOps := h.tabOps ++ [o] }

/-- Words of an image, little-endian. -/
def wordsOf : List Byte → List (BitVec 32)
  | a :: b :: c :: d :: t => BitVec.ofNat 32 (leNat [a, b, c, d]) :: wordsOf t
  | [] | [_] | [_, _] | [_, _, _] => []

def execPanld (g : Guard) (a : SReg) (slot : BitVec 8) (s : State) : Host.Outcome State Fault Refusal :=
  s.issue
    { guard := g, srcs := [a.toNat],
      body := do
        let x ← M.me
        let va := ((← M.r).sr a).toNat
        if va ≥ vaTop then throw (.fault 2 va 0)
        if va % 4 ≠ 0 then throw (.fault 6 va 0)
        M.checkRange x rRD va 4
        if entState (← M.tableSlot slot.toNat) ≠ 0 then M.invocation 0x01
        let h ← M.load x rRD va 4 false false
        if !headerOk h then M.invocation 0x02
        let n := 4 * hdrLen h
        M.checkRange x rRD (va + 4) n
        let ws := wordsOf (← M.loadBytes x rRD false false (n / 64 + 2) (va + 4) n)
        match imageReason h (ws.map BitVec.toNat) with
        | some (reason, j) => throw (.fault 8 0 (j <<< 8 + reason))
        | none =>
          M.tableChange slot.toNat (.load slot.toNat (BitVec.ofNat 32 h :: ws))
          return .next }

/-- The query word of R156. -/
def queryWord (e : Nat) : Word :=
  if entState e = 0 then 0 else BitVec.ofNat 64 (entHdr e <<< 32 + entGen e <<< 16 + entState e)

def execPanq (g : Guard) (d : SReg) (slot : BitVec 8) (s : State) : Host.Outcome State Fault Refusal :=
  s.issue
    { guard := g, dsts := [d.toNat],
      body := do
        let x ← M.me
        M.setS d (queryWord (← M.tableSlot slot.toNat))
        M.enterRead x (lineKey (← M.space) (tableLineVa slot.toNat))
        return .next }

def execPandrop (g : Guard) (slot : BitVec 8) (s : State) : Host.Outcome State Fault Refusal :=
  s.issue
    { guard := g,
      body := do
        M.tableChange slot.toNat (.drop slot.toNat)
        return .next }

/-! ### Events of the slices -/

/-- The next element of a released invocation is applied at its home, or parked. -/
def execPanApplication (op : Nat) (s : State) : Host.Outcome State Fault Refusal :=
  s.run fun p =>
    match p.op? op with
    | none => p
    | some o =>
      let p := { p with req := some o.who.core }
      match o.panNext with
      | none => p
      | some c => if p.brineFits c then p else p.panElement o c (p.panHome c)

/-- The next element is applied to the die's brine copy (R166). -/
def execBrineApplication (op : Nat) (s : State) : Host.Outcome State Fault Refusal :=
  s.run fun p =>
    match p.op? op with
    | none => p
    | some o =>
      let p := { p with req := some o.who.core }
      match o.panNext with
      | none => p
      | some c => if p.brineFits c then p.panElement o c (p.panBrine c) else p

/-- A copy reaches its home, which crystallizes it (R166, R167). -/
def Pkg.brineHome (p : Pkg) (die key : Nat) : Pkg :=
  match List.find? (fun b => b.sameCopy die key) p.brine with
  | some b => if p.down key then p else p.crystallize b
  | none => p

def execBrineSendHome (die key : Nat) (s : State) : Host.Outcome State Fault Refusal := s.run fun p => p.brineHome die key

def execCrystallize (die key : Nat) (s : State) : Host.Outcome State Fault Refusal :=
  s.run fun p =>
    match List.find? (fun b => b.sameCopy die key) p.brine with
    | some b => if p.down key then p else p.crystallize b
    | none => p

end Sys2Proof.Machine
end

