-- ==== Sys2Proof/Machine/Translate.lean ====
section
/-! DEFINITION. Translation commands, replay of bittern records, migration, teardown and rehoming: R385 to R404. -/

namespace Sys2Proof.Machine

/-! ### Arguments -/

/-- Frames that a mapping may not name, or that do not exist (R386, R387). -/
def frameBad (shf : Nat) (far : Bool) (frame n : Nat) : Bool :=
  if far then decide (frame + n > Config.farFrames)
  else decide (frame + n > Config.nearFrames) || decide (frame < Config.tableFrames + shf)

/-- Bytes of a page of a size. -/
def pageBytes (size : Nat) : Nat := sizeUnits size * 65536

/-- Rows of a region: first granule of each, and their length (R389). -/
def regionRows (d : BitVec 512) : List (Nat × Nat) :=
  let x := d.toNat
  (List.range (fld x 383 368)).flatMap fun i2 => (List.range (fld x 367 352)).map fun i1 =>
    (fld x 255 216 + i2 * fld x 447 416 + i1 * fld x 415 384, fld x 351 336)

def runsMeet (a b : Nat × Nat) : Bool := decide (a.1 < b.1 + b.2) && decide (b.1 < a.1 + a.2)

/-- Whether granules `[u, u + n)` of a space are already covered, the region `but` left aside. -/
def Pkg.covered (p : Pkg) (s : Nat) (but : Option Nat) (r : Nat × Nat) : Bool :=
  (p.leaves.any fun l => l.space == s && runsMeet r (l.vpn, sizeUnits l.size)) ||
    p.regions.any fun e => some e.1 != but && e.2.getLsbD 0 && fld e.2.toNat 271 256 == s && (regionRows e.2).any (runsMeet r)

/-! ### MAP and UNMAP (R388, R392) -/

/-- First bucket of a key, in shards of 2^nb buckets (R388). -/
def bucketOf (nb s vpn size : Nat) : Nat :=
  let k := vpn ^^^ s <<< 20 ^^^ size <<< 38
  (fld k 31 0 ^^^ fld k 41 32) % 2 ^ nb

/-- A bucket with room for a key's entry: the first of its eight. DESIGN CHOICE, log entry 123. -/
def Pkg.bucketFor (p : Pkg) (nb s vpn size : Nat) : Option Nat :=
  ((List.range 8).map fun i => (bucketOf nb s vpn size + i) % 2 ^ nb).find? fun b =>
    decide ((p.leaves.filter fun l => l.bucket == b).length < 4)

/-- A mapping stores its frames' contents as it completes (R98): it waits for an exclusive chunk that has read one of the lines, and
squashes the others. -/
def Pkg.storeLines (p : Pkg) (sel : Nat → Bool) : Option Pkg :=
  let reads (h : Chunk) : Bool := h.rlines.any fun k => !inLocal (keyVa k) && sel k
  if p.allCtxs.any fun x => (p.ctx x).guarded.any reads then none
  else some (p.allCtxs.foldl (fun p x => p.squashIf x reads) p)

def Pkg.mapPage (p : Pkg) (v : Prov) (vi s va frame flags : Nat) : CmdEnd :=
  let size := fld flags 1 0
  let far := flags.testBit 2
  let vpn := va / 65536
  if !p.owns vi s then .err 0x04
  else if flags ≥ 16 ∨ size = 3 ∨ va ≥ vaTop ∨ va % pageBytes size ≠ 0 ∨ frameBad v.shf far frame (sizeUnits size) then .err 0x05
  else if p.covered s none (vpn, sizeUnits size) then .err 0x06
  else
    match p.bucketFor v.nbLog2 s vpn size with
    | none => .err 0x07
    | some b =>
      match p.storeLines (keyIn s va (pageBytes size)) with
      | none => .run p
      | some p =>
        let base := ((if far then Config.nearFrames else 0) + frame) * 65536
        let q := Pkg.landPoison { p with leaves := p.leaves ++ [{ bucket := b, size, far, mig := false, space := s, vpn, frame }] }
        let q := if flags.testBit 3 then q.zeroPhys base (pageBytes size) else q
        .ok 0 q.retryHeld

/-- The leaf of a page of a space, by the VA of its first byte. -/
def Pkg.leafAt (p : Pkg) (s va : Nat) : Option Leaf := List.find? (fun l => l.space == s && l.vpn * 65536 == va) p.leaves

def Pkg.unmapPage (p : Pkg) (vi s va : Nat) : CmdEnd :=
  if !p.owns vi s then .err 0x04
  else if va % 65536 ≠ 0 ∨ va ≥ vaTop then .err 0x05
  else
    match p.leafAt s va with
    | none => .err 0x09
    | some l => if l.mig then .err 0x08 else .ok 0 { p with leaves := p.leaves.erase l }

def execMap (vi : Nat) (s : State) : Host.Outcome State Fault Refusal :=
  s.run fun p => p.command vi .cmd 0x10 fun a => p.mapPage s.prov vi (a 1) (a 2) (a 3) (a 4)

def execUnmap (vi : Nat) (s : State) : Host.Outcome State Fault Refusal :=
  s.run fun p => p.command vi .cmd 0x11 fun a => p.unmapPage vi (a 1) (a 2)

/-! ### MAPREG (R389) -/

/-- Code that refuses a descriptor. One with VALID 0 only removes an entry: it names no space and covers nothing, but its fields are
checked. -/
def Pkg.regionCode (p : Pkg) (v : Prov) (s ix : Nat) (d : BitVec 512) : Nat :=
  let x := d.toNat
  let n0 := fld x 351 336
  let n1 := fld x 367 352
  let n2 := fld x 383 368
  let vs1 := fld x 415 384
  let vs2 := fld x 447 416
  firstCode
    [((x.testBit 0 && (fld x 271 256 != s || n0 == 0 || n1 == 0 || n2 == 0)) || (decide (n1 > 1) && decide (vs1 < n0)) ||
        (decide (n2 > 1) && decide (vs2 < vs1 * (n1 - 1) + n0)) || (n0 * n1 * n2 != 0 && frameBad v.shf (x.testBit 320) (fld x 319 296) (n0 * n1 * n2)) ||
        fld x 511 448 != 0 || fld x 335 321 != 0 || fld x 295 272 != 0 || fld x 215 1 != 0, 5),
     (x.testBit 0 && (regionRows d).any fun r => p.covered s (some ix) r, 6)]

/-- Write an entry of the region list; one that belongs to a space of another interface stays. A descriptor whose page is not mapped
makes the command wait, without a notice. DESIGN CHOICE, log entry 124. -/
def Pkg.mapRegion (p : Pkg) (v : Prov) (vi s ix va ds : Nat) : CmdEnd :=
  let old := p.regions.get 0 ix
  if !p.owns vi s ∨ !p.owns vi ds ∨ (old.getLsbD 0 ∧ !p.owns vi (fld old.toNat 271 256)) then .err 0x04
  else if ix > 63 ∨ va % 64 ≠ 0 then .err 0x05
  else
    match p.moduleRead ds va 64 with
    | .error (.refused _) => .err 0x05
    | .error .wait | .error (.held _) => .run p
    | .ok (_, true, _) => .err 0x05
    | .ok (b, false, p) =>
      let d : BitVec 512 := BitVec.ofNat 512 (leNat b)
      let code := p.regionCode v s ix d
      if code ≠ 0 then .err code
      else if !d.getLsbD 0 then .ok 0 { p with regions := p.regions.drop ix }
      else
        match p.storeLines fun k => keySpace k == s && (regionFrame d s (keyVa k)).isSome with
        | none => .run p
        | some p => .ok 0 (Pkg.landPoison { p with regions := p.regions.put ix d }).retryHeld

def execMapreg (vi : Nat) (s : State) : Host.Outcome State Fault Refusal :=
  s.run fun p => p.command vi .cmd 0x12 fun a => p.mapRegion s.prov vi (a 1) (a 2) (a 3) (a 4)

/-! ### REPLAY (R398) -/

/-- Apply one record at its line's home, where the line is whole. DEDUCED, log entry 71. -/
def Pkg.applyRec (p : Pkg) (r : Rec) : Pkg :=
  match r.pan with
  | none => p.homeWrite r.key r.attr.mask r.data r.attr none
  | some x =>
    let e := p.tableEntry r.attr.space x.slot
    if p.linePoison r.key then p
    else
      match runRoutine (entHdr e) (entWords e) (p.lineData r.key) x.operand with
      | .done (some l) _ => p.homeWrite r.key (BitVec.allOnes 64) l r.attr none
      | .done none _ | .fail _ => p

/-- A cached line as its records are applied beneath it: its sidecar, poison and home stay, for it has not left every cache (R82,
R128); what has been written to it since its records were parked is set aside. -/
def L2Line.emptied (l : L2Line) : L2Line := { l with have_ := 0, dirty := 0, attrs := [], holders := [], dirtyAt := none }

/-- The bytes written since stand above what the records gave; the holders keep their copies. -/
def L2Line.under (new old : L2Line) : L2Line :=
  { new with data := mergeLine old.dirty old.data new.data, dirty := new.dirty ||| old.dirty, attrs := old.attrs.foldl addAttr new.attrs,
             holders := old.holders, dirtyAt := old.dirtyAt }

/-- Replay a line's records over its memory contents. None where the line cannot be translated. The fill that this takes is no miss of an
access (R403). No chunk has read the line since its records were parked, for every such read is held (R95). -/
def Pkg.replayLine (p : Pkg) (key : Nat) : Option Pkg :=
  let newer := Tab.find? p.l2 key
  let mine := p.recs.filter fun r => r.key == key
  let q : Pkg := { p with recs := p.recs.filter fun r => r.key != key, missed := insertNat key p.missed, l2 := match newer with
    | some l => p.l2.put key l.emptied
    | none => p.l2 }
  match q.fill key (BitVec.allOnes 64) with
  | .error _ => none
  | .ok q =>
    let q := mine.foldl Pkg.applyRec q
    let q := match newer, Tab.find? q.l2 key with
      | some l, some n => Pkg.thirdAttr { q with l2 := q.l2.put key (n.under l) } key
      | _, _ => q
    some (mine.foldl (fun q r => match r.pan with
      | some x => q.drainDone r.attr.space x.slot
      | none => q) q)

/-- Lines of a range with records, each once, in address order. -/
def Pkg.parkedLines (p : Pkg) (s va n : Nat) : List Nat :=
  (p.recs.filter fun r => keyIn s va n r.key).foldl (fun l r => insertNat r.key l) []

/-- Replay the lines of a range; a line of a die in reset makes the command wait. -/
def Pkg.replayRange (p : Pkg) (vi s va n : Nat) : CmdEnd :=
  if !p.owns vi s then .err 0x04
  else if va + n > vaTop then .err 0x05
  else
    let keys := p.parkedLines s va n
    if keys.any p.down then .run p
    else
      let q := keys.foldl (fun q k => (q.replayLine k).getD q) p
      let left := (q.recs.filter fun r => keyIn s va n r.key).length
      .ok ((p.recs.length - q.recs.length) % 2 ^ 32 + left % 2 ^ 24 * 2 ^ 32) q.retryHeld

def execReplay (vi : Nat) (s : State) : Host.Outcome State Fault Refusal :=
  s.run fun p => p.command vi .cmd 0x13 fun a => p.replayRange vi (a 1) (a 2) (a 3)

/-! ### KILL (R394, R252) -/

/-- The chunk of a held context is squashed, and its access will fault when it comes again. -/
def Pkg.killCtx (p : Pkg) (x : CtxRef) (h : HeldAt) : Pkg :=
  let r := (p.ctx x).regs.retired
  let p := if (p.ctx x).hasChunk then p.squash x else p.modCtx x fun c => { c with st := .running, held := none }
  p.modCtx x fun c => { c with killed := some (h, r) }

def Pkg.kill (p : Pkg) (vi s gcid gen : Nat) : CmdEnd :=
  let x := ctxOfGcid gcid
  let c := p.ctx x
  let mine := gcid < 8192 && x.slot < Config.slots && c.gen.toNat == gen && p.spaceOf x.core == s
  let ops := p.ops.filter fun o => o.who == x && o.gen.toNat == gen && o.space == s && !o.held.isEmpty
  let held := if mine && c.st == .held then c.held else none
  if !p.owns vi s then .err 0x04
  else if gcid ≥ 2 ^ 13 ∨ gen ≥ 2 ^ 16 then .err 0x05
  else if held.isNone && ops.isEmpty then .err 0x09
  else
    let p := ops.foldl Pkg.cancelOp p
    match held with
    | some h => .ok 0 (p.killCtx x h)
    | none => .ok 0 p

def execKill (vi : Nat) (s : State) : Host.Outcome State Fault Refusal :=
  s.run fun p => p.command vi .cmd 0x14 fun a => p.kill vi (a 1) (a 2) (a 3)

/-! ### MIGRATE (R401, R402) -/

def Mig.lines (m : Mig) : Nat := sizeUnits m.size * 1024

/-- Whether a line belongs to a page. -/
def Leaf.holds (l : Leaf) (key : Nat) : Bool := l.covers (keySpace key) (keyVa key)

/-- An access held, or records parked, on a page. -/
def Pkg.pageBusy (p : Pkg) (l : Leaf) : Bool :=
  (p.recs.any fun r => l.holds r.key) ||
    (p.allCtxs.any fun x => (p.ctx x).st == .held && match (p.ctx x).held with
      | some h => l.holds h.key
      | none => false) ||
    (p.ops.any fun o => o.held.any fun e => l.holds e.2) || p.modHeld.any l.holds

/-- Step 4 of R401: the page has its new frames. -/
def Pkg.endMig (p : Pkg) (m : Mig) : Pkg :=
  { p with migs := p.migs.erase m,
           leaves := updWhere (fun l : Leaf => l.space == m.space && l.vpn == m.vpn)
             (fun l : Leaf => { l with mig := false, frame := m.frame, far := m.far }) p.leaves }

/-- A migration whose command a firmware restart has ended goes on, and refuses every other on its page (R401). -/
def Pkg.migrate (p : Pkg) (v : Prov) (vi s va frame flags : Nat) : CmdEnd :=
  if !p.owns vi s then .err 0x04
  else if va % 65536 ≠ 0 ∨ va ≥ vaTop ∨ fld flags 63 3 ≠ 0 ∨ fld flags 1 0 ≠ 0 then .err 0x05
  else
    match p.leafAt s va with
    | none => .err 0x09
    | some l =>
      match List.find? (fun m => m.space == s && m.vpn == l.vpn) p.migs with
      | some m =>
        if !m.live ∨ m.vi ≠ vi then .err 0x08
        else if m.done.length < m.lines then .run p
        else .ok 0 (p.endMig m)
      | none =>
        let far := flags.testBit 2
        if frameBad v.shf far frame (sizeUnits l.size) then .err 0x05
        else if p.pageBusy l then .err 0x08
        else
          .run { p with migs := p.migs ++ [{ vi, live := true, space := s, vpn := l.vpn, size := l.size, frame, far, done := [] }],
                        leaves := updWhere (fun a => a == l) (fun a : Leaf => { a with mig := true }) p.leaves }

def execMigrate (vi : Nat) (s : State) : Host.Outcome State Fault Refusal :=
  s.run fun p => p.command vi .cmd 0x15 fun a => p.migrate s.prov vi (a 1) (a 2) (a 3) (a 4)

/-- One line is copied at its MC: read from the old frame, written to the new, its bit set; poison goes with it. -/
def Pkg.copyLine (p : Pkg) (mc key : Nat) : Pkg :=
  let s := keySpace key
  let va := keyVa key
  match List.find? (fun l => l.holds key) p.leaves with
  | none => p
  | some l =>
    match List.find? (fun m => m.space == s && m.vpn == l.vpn) p.migs with
    | none => p
    | some m =>
      let j := (va - l.vpn * 65536) / 64
      let u := va / 65536 - l.vpn
      if mcOf va ≠ mc ∨ m.done.contains j ∨ p.down key then p
      else
        let old := physOf l.far (l.frame + u) va
        let p := p.physWrite (physOf m.far (m.frame + u) va) (BitVec.allOnes 64) (p.physLine old) (p.poison.contains old)
        let m' : Mig := { m with done := insertNat j m.done }
        let p : Pkg := { p with migs := updWhere (fun a => a == m) (fun _ => m') p.migs }
        if m'.live ∨ m'.done.length < m'.lines then p else p.endMig m'

/-- `line` is the line's key. -/
def execMigrationLineCopy (mc line : Nat) (s : State) : Host.Outcome State Fault Refusal := s.run (·.copyLine mc line)

/-! ### FRING, HOTPOL (R397, R404) -/

def execFring (vi : Nat) (s : State) : Host.Outcome State Fault Refusal :=
  s.run fun p => p.command vi .cmd 0x16 fun a =>
    if !p.owns vi (a 1) then .err 0x04
    else if ringBad (a 2) (a 3) then .err 0x05
    else .ok 0 (p.modSpace (a 1) fun x => { x with fring := some (.new (a 2) (a 1) (a 3) (a 4)) })

def execHotpol (vi : Nat) (s : State) : Host.Outcome State Fault Refusal :=
  s.run fun p => p.command vi .cmd 0x18 fun a =>
    if !p.owns vi (a 1) then .err 0x04
    else if a 2 > 1 then .err 0x05
    else .ok 0 (p.modSpace (a 1) fun x => { x with hotpol := a 2 == 1 })

/-! ### RMSPACE (R400) -/

/-- A discarded record's entry: Table 17.4 with NOTE 5. -/
def discardEntry (r : Rec) : List Byte :=
  let pan := r.pan
  let n : Notice :=
    { key := r.key, mask := if pan.isSome then BitVec.allOnes 64 else r.attr.mask, attr := r.attr, cause := r.cause, note := 5,
      lane := (pan.map PanRec.lane).getD 0, slot := (pan.map PanRec.slot).getD 0,
      rgen := (pan.map fun x => x.rgen.toNat).getD 0, lidx := (pan.map PanRec.lidx).getD 0 }
  leBytes n.word 64

/-- Steps 2 to 4, with the report written. -/
def Pkg.dropSpace (p : Pkg) (s : Nat) : Pkg :=
  let p := p.dropEverywhere fun key => keySpace key == s
  { p with brine := p.brine.filter fun b => b.space != s,
           recs := p.recs.filter fun r => r.attr.space != s,
           vpoison := p.vpoison.filter fun k => keySpace k != s,
           leaves := p.leaves.filter fun l => l.space != s,
           regions := p.regions.filter fun r => fld r.2.toNat 271 256 != s,
           migs := p.migs.filter fun m => m.space != s,
           entries := p.entries.filter fun c => c.space != s,
           fmtw := p.fmtw.filter fun w => fld w.2.toNat 23 8 != s,
           hotness := p.hotness.filter fun h => h.space != s,
           spaces := p.spaces.drop s }

/-- DESIGN CHOICE, log entry 73; the alignment of the report's VA, 125. -/
def Pkg.removeSpace (p : Pkg) (vi s va rs cap : Nat) : CmdEnd :=
  if !p.owns vi s ∨ !p.owns vi rs then .err 0x04
  else if s = 0 ∨ va % 64 ≠ 0 then .err 0x05
  else if p.queues.any fun e => e.2.space.toNat == s && e.2.st != .disabled then .err 0x08
  else
    let shared (b : Brine) : Bool := b.space == s && keySpace b.key == 0
    let p := (p.brine.filter fun b => shared b && !p.down b.key).foldl Pkg.crystallize p
    if p.brine.any shared then .run p
    else
      let gone := p.recs.filter fun r => r.attr.space == s
      match p.reportLines rs va ((gone.take cap).map discardEntry) with
      | .error (.held h) => .run ((p.holdModule rs h).getD p)
      | .error .wait | .error (.refused _) => .run p
      | .ok (_, p) => .ok gone.length (p.dropSpace s)

def execRmspace (vi : Nat) (s : State) : Host.Outcome State Fault Refusal :=
  s.run fun p => p.command vi .cmd 0x17 fun a => p.removeSpace vi (a 1) (a 2) (a 3) (a 4)

/-! ### RTWRITE (R393) -/

/-- A routine-table entry that RTWRITE refuses. -/
def entryBad (e : Nat) : Bool :=
  let h := entHdr e
  let ws := entWords e
  fld e 2047 1088 != 0 || fld e 1071 1058 != 0 ||
    match entState e with
    | 0 => e != 0
    | 1 => !headerOk h || (imageReason h ws).isSome || fld e 1055 (32 + 32 * hdrLen h) != 0
    | _ => true

/-- Whether a space's table may not be rewritten. -/
def Pkg.tableBusy (p : Pkg) (s : Nat) : Bool :=
  (p.cores.any fun e => (e.2.task.map Task.space) == some s) || (p.brine.any fun b => b.space == s) || p.recs.any fun r => r.attr.space == s

/-- An entry VA whose page is not mapped makes the command wait, without a notice. DESIGN CHOICE, log entry 124. -/
def Pkg.writeTable (p : Pkg) (vi s slot va es : Nat) : CmdEnd :=
  if !p.owns vi s ∨ !p.owns vi es then .err 0x04
  else if p.tableBusy s then .err 0x08
  else if slot > 255 ∨ va % 64 ≠ 0 then .err 0x05
  else
    match p.moduleRead es va 256 with
    | .error (.refused _) => .err 0x05
    | .error .wait | .error (.held _) => .run p
    | .ok (_, true, _) => .err 0x05
    | .ok (b, false, p) => if entryBad (leNat b) then .err 0x05 else .ok 0 (p.newTableEntry s slot (leNat b))

def execRtwrite (vi : Nat) (s : State) : Host.Outcome State Fault Refusal :=
  s.run fun p => p.command vi .cmd 0x19 fun a => p.writeTable vi (a 1) (a 2) (a 3) (a 4)

/-! ### Rehoming (R403, R404) -/

/-- Coordinates of an island, and the island at given ones. -/
def islandX (i : Nat) : Nat := i / 4 % 4
def islandY (i : Nat) : Nat := 4 * (i / 16) + i % 4
def islandAt (x y : Nat) : Nat := y / 4 * 16 + x * 4 + y % 4

def countSum (f : Nat → Nat) : List (Nat × Nat) → Nat
  | [] => 0
  | (i, n) :: t => f i * n + countSum f t

/-- The island nearest to the count-weighted mean. -/
def meanIsland (c : Tab Nat) : Nat :=
  let n := countSum (fun _ => 1) c
  let near (f : Nat → Nat) : Nat := (2 * countSum f c + n) / (2 * max 1 n)
  islandAt (near islandX) (near islandY)

/-- Rehome one window if its counts ask for it and nothing in use prevents it: SPURGE, then WINSET (R88, R94).
DESIGN CHOICE, log entry 72. -/
def Pkg.rehome (p : Pkg) (threshold s ix : Nat) (w : BitVec 256) : Pkg :=
  let x := w.toNat
  let home := fld x 136 128
  match List.find? (fun h => h.home == home && h.space == s && h.win == ix) p.hotness with
  | none => p
  | some h =>
    let i := meanIsland h.counts
    let a := fld x 63 24 * 65536
    let users := p.windowUsers s
    if countSum (fun _ => 1) h.counts ≤ threshold ∨ i = islandOf home then p
    else if (users.any fun y => (p.ctx y).excl.isSome) || p.windowBusy s w then p
    else
      match p.purge s a ((fld x 127 88 + 1) * 65536 - a) with
      | (_, false) => p
      | (p, true) =>
        let p := users.foldl (fun p y => p.squash y) p
        let d := BitVec.ofNat 256 (x - home <<< 128 + (16 * i) <<< 128)
        p.modSpace s fun sp => { sp with windows := sp.windows.put ix d }

/-- A period of the firmware: windows of spaces with HOTPOL on, HMODE 0, not SHARED, not of space 0; then the counts are
cleared. -/
def execHotnessPeriod (threshold : Nat) (s : State) : Host.Outcome State Fault Refusal :=
  s.run fun p =>
    let movable (w : BitVec 256) : Bool := w.getLsbD 0 && fld w.toNat 15 14 == 0 && !w.getLsbD 13
    let ws := p.spaces.flatMap fun e =>
      if e.2.hotpol && e.1 != 0 then (e.2.windows.filter fun w => movable w.2).map fun w => (e.1, w) else []
    let p := ws.foldl (fun p w => p.rehome threshold w.1 w.2.1 w.2.2) p
    { p with hotness := [] }

end Sys2Proof.Machine
end

