-- ==== Sys2Proof/Machine/Platform.lean ====
section
/-! DEFINITION. The firmware complex, die and module resets, power and temperature, errors, jobs: R14, R424 to R438, R449,
R450. -/

namespace Sys2Proof.Machine

/-- Die number of GW0, which carries the firmware complex (R424, Table 19.4). -/
def gw0 : Nat := 8

/-- A RAS entry of an event that belongs to no line, context or space. -/
def Pkg.rasEvent (p : Pkg) (die reason : Nat) : Pkg := p.ras 0 0 0 die (Config.rasBlock reason p.free).toNat reason 1

/-- A RAS entry of the firmware. -/
def Pkg.rasFirmware (p : Pkg) (reason : Nat) : Pkg := p.ras 0 0 0 gw0 7 reason 1

/-! ### Power (R429, R430) -/

/-- Islands of a 32-bit mask. -/
def islandsOf (mask : Nat) : List Nat := (List.range 32).filter mask.testBit

/-- A core of the island holds a task: resident, halted, or waiting in its inbox. -/
def Pkg.islandBusy (p : Pkg) (i : Nat) : Bool :=
  p.cores.any fun e => islandOf e.1 == i && (e.2.task.isSome || !e.2.inbox.isEmpty)

/-- Arguments of PWRSET that break their ranges. -/
def powerBad (lim mask ceil : Nat) : Bool :=
  let w := fld lim 15 0
  decide (w < 500) || decide (w > 3000) || decide (fld lim 31 16 > fld lim 47 32) || fld lim 63 48 != 0 || decide (mask ≥ 2 ^ 32) ||
    (ceil != 0 && (decide (ceil < 800) || decide (ceil > 3300) || ceil % 100 != 0))

/-- DESIGN CHOICE, log entry 20. -/
def Pkg.setPower (p : Pkg) (lim mask ceil : Nat) : CmdEnd :=
  let is := islandsOf mask
  if p.failed then .err 0x0F
  else if powerBad lim mask ceil ∨ (ceil = 0 ∧ is.any p.islandBusy) then .err 0x05
  else
    let w := p.power
    let bound (f : Nat) : Nat := if ceil = 0 then 800 else min ceil f
    .ok 0 { p with power := { w with limit := fld lim 15 0, hbmMin := fld lim 31 16, hbmMax := fld lim 47 32,
                                     ceil := is.foldl (fun t i => t.put i ceil) w.ceil,
                                     freq := is.foldl (fun t i => t.put i (bound (t.get 3300 i))) w.freq } }

def execPwrset (vi : Nat) (s : State) : Host.Outcome State Fault Refusal :=
  s.run fun p => p.command vi .platform 0x01 fun a => if vi ≠ 0 then .err 0x02 else p.setPower (a 1) (a 2) (a 3)

/-- A frequency the island may run at: its ceiling or a lower step, 800 MHz when parked or held. -/
def Pkg.boundFreq (p : Pkg) (i f : Nat) : Nat :=
  let c := p.power.ceil.get 3300 i
  if c = 0 ∨ p.hot.contains (i / 4) then 800 else min c (max 800 (f / 100 * 100))

/-- Every 3,300,000 ticks: a frequency for each island, a byte budget of at least 4 MiB for each MC. Through a hand-over the
arbiter holds its last budgets (R426). -/
def execPowerArbiterTick (freqs budgets : List Nat) (s : State) : Host.Outcome State Fault Refusal :=
  s.run fun p =>
    if p.pt % Config.powerPeriod ≠ 0 ∨ p.pt = 0 ∨ p.fw.switching.isSome then p
    else
      let fs := (freqs.take 32).zipIdx
      let bs := (budgets.take 32).zipIdx
      { p with power := { p.power with
          freq := fs.foldl (fun t e => t.put e.2 (p.boundFreq e.2 e.1)) p.power.freq,
          budget := bs.foldl (fun t e => t.put e.2 (max (4 * 2 ^ 20) e.1)) p.power.budget } }

/-! ### Firmware (R426, R427) -/

/-- The image's signature verifies under the image key, whose digest the fuses hold (R426, Table 21.2). -/
def imageValid (f : Fuses) (image : List Byte) : Bool :=
  let pub := Config.imageKey image
  sha384 pub == f.bytes 2 6 && ecdsaVerify pub (sha384 (Config.imageBody image)) (Config.imageSig image)

def Pkg.loadImage (p : Pkg) (f : Fuses) (va is len : Nat) : CmdEnd :=
  if ((p.space? is).map Space.priv) ≠ some 2 ∨ len > 64 * 2 ^ 20 then .err 0x05
  else
    match p.moduleRead is va len with
    | .error (.refused _) => .err 0x05
    | .error .wait | .error (.held _) => .run p
    | .ok (_, true, _) => .err 0x05
    | .ok (b, false, p) =>
      if !imageValid f b then .err 0x0D
      else
        .ok (Config.imageVersion b % 2 ^ 32)
          { p with fw := { p.fw with pend := some (Config.imageVersion b % 2 ^ 32, BitVec.ofNat 384 (leNat (sha384 b))) } }

def execFwload (vi : Nat) (s : State) : Host.Outcome State Fault Refusal :=
  s.run fun p => p.command vi .platform 0x02 fun a => if vi ≠ 0 then .err 0x02 else p.loadImage s.fuses (a 1) (a 2) (a 3)

/-- The running image finishes the commands it holds, then hands over. -/
def Pkg.switchImage (p : Pkg) : CmdEnd :=
  if p.fw.pend.isNone then .err 0x0E
  else if p.migs.any Mig.live ∨ p.resetting.any fun e => e.2.cmd then .run p
  else .ok 0 { p with fw := { p.fw with switching := some p.pt } }

def execFwswitch (vi : Nat) (s : State) : Host.Outcome State Fault Refusal :=
  s.run fun p => p.command vi .platform 0x03 fun _ => if vi ≠ 0 then .err 0x02 else p.switchImage

/-- The new image is ready in time and becomes current. -/
def execFwReady (s : State) : Host.Outcome State Fault Refusal :=
  s.run fun p =>
    match p.fw.switching, p.fw.pend with
    | some t, some (v, m) =>
      if p.pt - t < Config.handoverTimeout then
        { p with fw := { p.fw with version := v, mfw := m, pend := none, switching := none } }.rasFirmware 0x0A
      else p
    | _, _ => p

/-- Commands in progress complete with an error when the firmware restarts; a migration goes on without its command. DEDUCED, log
entry 90. -/
def Pkg.abortCommands (p : Pkg) : Pkg :=
  let orphan (p : Pkg) (m : Mig) : Pkg :=
    if m.done.length < m.lines then { p with migs := updWhere (fun a => a == m) (fun m : Mig => { m with live := false }) p.migs } else p.endMig m
  let p := p.migs.foldl orphan p
  p.vis.foldl (fun p e => [Block.cmd, .job, .debug, .platform].foldl (fun p b =>
    if ((p.vi e.1).block b).running then p.endCmd e.1 b (cmdErr 0x10) else p) p) p

/-- The old image restarts, and the pending one is discarded (R426, R456). -/
def execHandoverTimeout (s : State) : Host.Outcome State Fault Refusal :=
  s.run fun p =>
    match p.fw.switching with
    | some t =>
      if Config.handoverTimeout ≤ p.pt - t then
        ({ p with fw := { p.fw with pend := none, switching := none } }.abortCommands).rasFirmware 0x0B
      else p
    | none => p

def execFirmwareWatchdog (s : State) : Host.Outcome State Fault Refusal := s.run (·.abortCommands)

def execRasring (vi : Nat) (s : State) : Host.Outcome State Fault Refusal :=
  s.run fun p => p.command vi .platform 0x04 fun a =>
    if !p.owns vi (a 2) then .err 0x04
    else if ringBad (a 1) (a 3) then .err 0x05
    else .ok 0 { p with vis := p.vis.put vi { p.vi vi with ras := some (.new (a 1) (a 2) (a 3) (a 4)) } }

/-! ### Die reset (R436 to R438) -/

/-- No copy has performed a transfer ahead of an earlier one: what poisons lines, an error or a die reset, falls at such a time
(R251). DESIGN CHOICE, log entry 21. -/
def Pkg.steady (p : Pkg) : Bool := !p.ops.any Op.outOfOrder

def dieCores (d : Nat) : List Nat := (List.range 64).map (64 * d + ·)

/-- A line homed on a die. -/
def Pkg.homedOn (p : Pkg) (d key : Nat) : Bool := p.homeOf key / 64 == d

/-- The completion record of a task that a die reset ends names a context of its core. -/
def Pkg.dieEnd (p : Pkg) (core : Nat) : Nat × Nat × Word :=
  (0x34, CtxRef.gcid ⟨core, Config.dieEndSlot core p.free % Config.slots⟩, Config.dieEndPc core p.free)

/-- End the tasks of a die, resident or still in an inbox, with their gangs (step 1). -/
def Pkg.endDieTasks (p : Pkg) (d : Nat) : Pkg :=
  let p := (dieCores d).foldl (fun (p : Pkg) c =>
    let (cause, gcid, pc) := p.dieEnd c
    p.endTask c cause gcid pc) p
  let doom (i : TaskInfo) (c : Nat) : TaskInfo := if i.doomed.isSome then i else { i with doomed := some (p.dieEnd c) }
  let waiting := (dieCores d).flatMap fun c => (p.core c).inbox.filterMap fun i => i.gang.map fun g => (g, c)
  let p := waiting.foldl (fun (p : Pkg) e =>
    let (cause, gcid, pc) := p.dieEnd e.2
    match List.find? (fun (k : Nat × Core) => (k.2.task.bind fun t => t.info.gang) == some e.1) p.cores with
    | some (c, _) => p.endTask c cause gcid pc
    | none =>
      { p with cores := p.cores.map (doomInbox e.1 cause gcid pc), saved := p.saved.map (endSaved e.1 cause gcid pc false),
               bars := p.bars.filter fun b => b.2.gang != e.1 }) p
  (dieCores d).foldl (fun (p : Pkg) c =>
    if (p.core c).inbox.isEmpty then p
    else p.modCore c fun k => { k with inbox := k.inbox.map fun (i : TaskInfo) => doom i c }) p

/-- What a line needs of another die that is in reset: its home slice, or its MC. The access waits (R436). -/
def Pkg.awayFrom (p : Pkg) (d key : Nat) : Bool :=
  [p.homeOf key / 64, mcOf (keyVa key) / 4].any fun e => e != d && (Tab.find? p.resetting e).isSome

/-- Steps 2 and 3: copies crystallize, dirty lines go to their MCs. -/
def Pkg.drainDie (p : Pkg) (d : Nat) : Pkg :=
  let p := (p.brine.filter fun b => (b.die == d || p.homedOn d b.key) && !p.awayFrom d b.key).foldl Pkg.crystallize p
  (p.l2.filter fun e => p.homedOn d e.1 && !p.awayFrom d e.1).foldl (fun p e => p.writeBack e.1 0x21) p

/-- A commit that a context of the die was granted finishes, as far as it can (step 1). -/
def Pkg.finishLanding (d : Nat) (p : Pkg) (x : CtxRef) : Pkg :=
  if (p.ctx x).inflight.isNone then p
  else
    let p := p.retryBackBut x fun p key => p.awayFrom d key
    if p.backDone x then p.landed x else p

/-- Whether steps 1 to 3 are done: a full MC keeps a commit, a copy or a line waiting (R397). -/
def Pkg.dieDrained (p : Pkg) (d : Nat) : Bool :=
  ((dieCores d).all fun c => !(p.core c).landing) && !(p.brine.any fun b => b.die == d || p.homedOn d b.key) && !(p.l2.any fun e => p.homedOn d e.1 && e.2.dirty != 0)

/-- Step 4: records at the die's MCs. -/
def Pkg.discardRecs (p : Pkg) (d : Nat) : Pkg :=
  let mine (r : Rec) : Bool := r.mc / 4 == d
  let gone := p.recs.filter mine
  gone.foldl (fun (p : Pkg) r =>
    let p := (p.poisonWith r.key r.attr.space r.attr.gcid d (p.mcBlock r.key)).ras (keyVa r.key) r.attr.space r.attr.gcid d (p.mcBlock r.key) 5 1
    match r.pan with
    | some x => p.drainDone r.attr.space x.slot
    | none => p) { p with recs := p.recs.filter fun r => !mine r }

/-- A core after its die's reset: what it holds is lost. Its task's end is still to be reported, its inbox records have ended, and
its slots' generations and its counts of messages and squashes go on. Its local store keeps its extent, and what it holds, until
every access accepted against it has been performed (R35). DEDUCED, log entry 126. -/
def Core.wiped (k : Core) : Core :=
  { Core.reset with ctxs := k.ctxs.map fun (e : Nat × Ctx) => (e.1, { Ctx.reset with gen := e.2.gen }), lastGen := k.lastGen, liveAt := k.liveAt,
                    task := k.task, inbox := k.inbox, capDraw := k.capDraw + 1, dropped := k.dropped, squashes := k.squashes,
                    sqPeriod := k.sqPeriod, ls := k.ls, lsSide := k.lsSide, lsPoison := k.lsPoison, extSize := k.extSize,
                    extSpace := k.extSpace, lsw := k.lsw }

/-- Step 5: the die's cores, caches and keys; copies elsewhere of lines homed on it go with its directories. A line of which another
die's core holds an uncommitted version has not left every cache: its sidecar stays (R82). -/
def Pkg.wipeDie (p : Pkg) (d : Nat) : Pkg :=
  let keep (k : Core) (key : Nat) : Bool := !p.homedOn d key || !(k.uncommittedBy key).isEmpty
  let mineHolders (l : L2Line) : L2Line := { l with holders := l.holders.filter fun c => c / 64 != d }
  let line (e : Nat × L2Line) : Option (Nat × L2Line) :=
    if !p.homedOn d e.1 then some (e.1, mineHolders e.2)
    else if p.uncommitted e.1 then
      some (e.1, { e.2 with have_ := 0, dirty := 0, dirtyAt := none, attrs := [],
                            holders := e.2.holders.filter fun c => !((p.core c).uncommittedBy e.1).isEmpty })
    else none
  let wipe (e : Nat × Core) : Nat × Core :=
    if e.1 / 64 = d then (e.1, e.2.wiped)
    else (e.1, { e.2 with l1 := e.2.l1.filter fun (l : Nat × Nat) => keep e.2 l.1 })
  let p : Pkg :=
    { p with l2 := p.l2.filterMap line,
             scale := p.scale.filter fun e => e.1 / 4 != d, entries := p.entries.filter fun e => e.slice / 64 != d,
             hotness := p.hotness.filter fun h => h.home / 64 != d,
             cores := p.cores.map wipe }
  ((dieCores d).filter fun c => (Tab.find? p.cores c).isNone).foldl (fun (p : Pkg) c => p.modCore c Core.wiped) p

/-- Steps 2 to 5, or as many as can be made now. -/
def Pkg.dieSteps (p : Pkg) (d : Nat) : Pkg :=
  let p := p.drainDie d
  if p.dieDrained d then (p.discardRecs d).wipeDie d else p

/-- An orderly reset begins. -/
def Pkg.beginDieReset (p : Pkg) (d : Nat) (trip cmd : Bool) : Pkg :=
  let p := p.rasEvent d 7
  let p := (((dieCores d).filter fun c => (p.core c).preemptible).foldl Pkg.preemptCore p).endDieTasks d
  Pkg.dieSteps { p with resetting := p.resetting.put d { since := p.pt, orderly := true, trip, cmd } } d

/-- The die returns, once its steps are done and, after a thermal trip, it is cool; a DIERESET that waits for it completes. -/
def Pkg.returnDie (p : Pkg) (d : Nat) (cool : Bool) : Pkg :=
  match Tab.find? p.resetting d with
  | none => p
  | some r =>
    let p := p.dieSteps d
    if (r.trip && !cool) || !p.dieDrained d then p
    else
      let p := { p with resetting := p.resetting.drop d }.rasEvent d 8
      let b := (p.vi 0).platform
      if r.cmd && b.code == some 5 && b.arg 1 == d then p.endCmd 0 .platform (cmdOk 0) else p

/-- DIERESET: its first event begins the reset, a later one ends it. DESIGN CHOICE, log entry 83. -/
def Pkg.resetDie (p : Pkg) (d : Nat) : CmdEnd :=
  if p.failed then .err 0x0F
  else if d > 7 then .err 0x05
  else
    match Tab.find? p.resetting d with
    | none => .run (if p.steady then p.beginDieReset d false true else p)
    | some r => if r.cmd && r.orderly then .run (p.returnDie d false) else .run { p with resetting := p.resetting.put d { r with cmd := true } }

def execDiereset (vi : Nat) (s : State) : Host.Outcome State Fault Refusal :=
  s.run fun p => p.command vi .platform 0x05 fun a => if vi ≠ 0 then .err 0x02 else p.resetDie (a 1)

/-! ### Disorderly (R438) -/

/-- Take back what a commit left incomplete has counted (R444). DEDUCED, log entry 85. -/
def Pkg.uncount (p : Pkg) (x : CtxRef) : Pkg :=
  let back (t : Tab Nat) (e : Nat × Nat) : Tab Nat := t.put e.1 (t.get 0 e.1 - e.2)
  (p.modSpace (p.spaceOf x.core) fun sp => { sp with totals := (p.ctx x).counted.foldl back sp.totals }).modCtx x fun c =>
    { c with counted := [] }

/-- Spaces to be quarantined: a task on the die, or a window homed on one of its cores. -/
def Pkg.strickenSpaces (p : Pkg) (d : Nat) : List Nat :=
  let homed (w : BitVec 256) : Bool :=
    w.getLsbD 0 && !w.getLsbD 13 && (if fld w.toNat 15 14 = 0 then fld w.toNat 136 128 / 64 == d
      else (groupCores (fld w.toNat 255 192)).any fun c => c / 64 == d)
  let task (s : Nat) : Bool := p.cores.any fun e => e.1 / 64 == d && (e.2.task.map Task.space) == some s
  (p.spaces.filter fun e => task e.1 || e.2.windows.any fun w => homed w.2).map Prod.fst

/-- What byte `i` of a line has held since its space was created: the value its home caches, its page's, and those it has lost. -/
def Pkg.heldValues (p : Pkg) (key i : Nat) : List Byte :=
  let cached := match Tab.find? p.l2 key with
    | some l => if l.have_.getLsbD i then [lineByte l.data i] else []
    | none => []
  let stored := match p.phys? (keySpace key) (keyVa key) with
    | some a => [lineByte (p.physLine a) i]
    | none => []
  cached ++ stored ++ (p.past.filter fun q => q.key == key && q.mask.getLsbD i).map fun q => lineByte q.data i

/-- A line left inexact: each byte holds some value that it has held. -/
def Pkg.loseLine (p : Pkg) (key n : Nat) : Pkg :=
  let pick (i : Nat) : Byte :=
    let l := p.heldValues key i
    (l[Config.lostChoice (64 * (p.free * 2 ^ 32 + n) + i) % l.length]?).getD 0
  let d := lineOf ((List.range 64).map pick)
  let p := match Tab.find? p.l2 key with
    | some l => { p with l2 := p.l2.put key { l with data := d } }
    | none => p
  match p.phys? (keySpace key) (keyVa key) with
  | some a => p.physWrite a (BitVec.allOnes 64) d (p.keyPoison key || p.linePoison key)
  | none => p

/-- As `loseLine`, for the local store of a core: zero, as its task began with, is among the values (R44). -/
def Pkg.loseLocal (p : Pkg) (core : Nat) : Pkg :=
  let k := p.core core
  let mine (q : Past) : Bool := inLocal (keyVa q.key) && lsCore (keyVa q.key) == core && keySpace q.key == k.extSpace
  let lines := ((k.ls.map fun (e : Nat × Byte) => e.1 / 64) ++
    (p.past.filter mine).map fun (q : Past) => lsOff (keyVa q.key) / 64).foldl (fun l n => insertNat n l) []
  let pick (n i : Nat) : Byte :=
    let l := k.ls.get 0 (64 * n + i) :: 0 :: (p.past.filter fun (q : Past) => mine q && lsOff (keyVa q.key) / 64 == n && q.mask.getLsbD i).map fun q => lineByte q.data i
    (l[Config.lostChoice (64 * (p.free * 2 ^ 32 + 2 ^ 31 + core * 2 ^ 13 + n) + i) % l.length]?).getD 0
  p.modCore core fun k => lines.foldl (fun k n => k.setLs (64 * n) ((List.range 64).map (pick n))) k

/-- Commits that had been granted to the stricken spaces and are not complete. -/
def Pkg.openCommits (p : Pkg) (ss : List Nat) : List CtxRef :=
  p.allCtxs.filter fun x => (p.ctx x).inflight.isSome && ss.contains (p.spaceOf x.core)

/-- Lines that the reset leaves inexact: those homed on the die, which its slices cache or which have been written, and those of the
open commits. -/
def Pkg.lostLines (p : Pkg) (d : Nat) (ss : List Nat) : List Nat :=
  let written := (p.openCommits ss).flatMap fun x => ((p.ctx x).inflight.map Prod.fst).getD []
  let homed := ((p.l2.map Prod.fst) ++ p.past.map Past.key).filter (p.homedOn d)
  ((homed ++ written).filter fun k => !inLocal (keyVa k)).foldl (fun l k => insertNat k l) []

/-- Step 2: a copy on the die of a line homed elsewhere. Step 3: a copy of a line homed on the die. Either is lost, and its
line poisoned: at its home, or at its MC. -/
def Pkg.loseCopy (p : Pkg) (d : Nat) (b : Brine) : Pkg :=
  let home := p.homeOf b.key
  let (die, block) := if home / 64 = d then (mcOf (keyVa b.key) / 4, p.mcBlock b.key) else (home / 64, 3)
  let p : Pkg := { p with brine := p.brine.filter fun c => !(c.die == b.die && c.key == b.key) }
  (((p.poisonWith b.key b.space 0 die block).ras (keyVa b.key) b.space 0 die block 4 1)).drainDone b.space b.slot

/-- A task of a queue that a die reset has ended and that is not yet reported. -/
def Task.dieEnded (n : Nat) (t : Task) : Bool := t.info.queue == n && !t.silent && (t.ended.map Prod.fst) == some 0x34

/-- A record that ends before it has been taken, as the task that it would have been. -/
def TaskInfo.asEnded (i : TaskInfo) : Task :=
  { info := i, space := 0, start := 0, launched := 0, live := false, exited := false, ended := i.doomed, silent := false }

/-- KIND 2 records of the tasks that the reset has ended: they precede the reset of their queue (steps 1 and 4). -/
def Pkg.reportDead (p : Pkg) (n : Nat) : Pkg :=
  let tasks := ((p.cores ++ p.saved).filterMap fun e => e.2.task.map fun t => (e.1, t)) ++
    p.cores.flatMap fun e => e.2.inbox.map fun i => (e.1, i.asEnded)
  (tasks.filter fun t => t.2.dieEnded n).foldl (fun p t => p.reportTask t.1 t.2) p

/-- A space is quarantined, and its queues are reset (step 4). -/
def Pkg.quarantine (p : Pkg) (d : Nat) (s : Nat) : Pkg :=
  let p := p.modSpace s fun x => { x with quarantined := true }
  let p := p.queues.foldl (fun (p : Pkg) e => if e.2.space.toNat = s then (p.reportDead e.1).beginReset e.1 else p) p
  p.ras 0 s 0 d (Config.rasBlock 6 p.free).toNat 6 1

def Pkg.failDie (p : Pkg) (d : Nat) : Pkg :=
  let old := Tab.find? p.resetting d
  let p := if old.isSome then p else p.rasEvent d 7
  let ss := p.strickenSpaces d
  let lost := p.lostLines d ss
  let p := ((dieCores d).flatMap coreCtxs ++ p.openCommits ss).foldl Pkg.uncount p
  let p := p.endDieTasks d
  let p := (p.brine.filter fun b => b.die == d || p.homedOn d b.key).foldl (Pkg.loseCopy · d) p
  let p := ss.foldl (Pkg.quarantine · d) p
  let p := (p.allCtxs.filter fun x => (p.ctx x).live && (p.ctx x).hasChunk && (p.ctx x).lines.any lost.contains).foldl (fun p x => p.squash x) p
  let p := lost.zipIdx.foldl (fun p e => p.loseLine e.1 e.2) p
  let p := ((dieCores d).filter fun c => (p.core c).extSize != 0).foldl Pkg.loseLocal p
  let r : DieReset := { since := (old.map DieReset.since).getD p.pt, orderly := false, trip := (old.map DieReset.trip).getD false,
                        cmd := (old.map DieReset.cmd).getD false }
  ({ p with resetting := p.resetting.put d r }.discardRecs d).wipeDie d

/-- A die error begins a disorderly reset; a second event, when the die answers again, ends it. -/
def execDieError (die : Nat) (s : State) : Host.Outcome State Fault Refusal :=
  s.run fun p =>
    if die > 7 then p
    else
      match Tab.find? p.resetting die with
      | some r => if r.orderly then p.failDie die else p.returnDie die false
      | none => if p.steady then p.failDie die else p

/-! ### Module reset (R428) -/

/-- Everything but the fuses, the current image and what the model itself keeps is lost; keys are drawn anew, every port
begins a new epoch, memory is zero. -/
def Pkg.moduleReset (p : Pkg) (fails : Bool) : Pkg :=
  { Pkg.reset with
    log := [.clear], agenda := p.agenda, free := p.free, cur := p.cur,
    fw := { Pkg.reset.fw with version := p.fw.version, mfw := p.fw.mfw },
    failed := fails, resets := p.resets + 1,
    keyDraw := p.keyDraw + 1 + p.cores.foldl (fun a e => max a e.2.capDraw) 0,
    epochs := (List.range 16).map fun i => (i, p.epochs.get 0 i + 1),
    out := p.out }

def execModuleReset (selfTestFails : Bool) (s : State) : Host.Outcome State Fault Refusal := s.run (·.moduleReset selfTestFails)

def Pkg.resetNow (p : Pkg) : Pkg := p.moduleReset (Config.selfTestFails p.resets)

/-- MRESET writes no result. -/
def execMreset (vi : Nat) (s : State) : Host.Outcome State Fault Refusal :=
  s.run fun p => p.command vi .platform 0x06 fun _ => if vi ≠ 0 then .err 0x02 else .run p.resetNow

/-- A die reset that has lasted 2^26 cycles becomes a module reset (Table 19.2). -/
def execDieResetTimeout (die : Nat) (s : State) : Host.Outcome State Fault Refusal :=
  s.run fun p =>
    match Tab.find? p.resetting die with
    | some r => if Config.dieResetTimeout ≤ p.pt - r.since then p.resetNow else p
    | none => p

/-! ### Temperature (R431) -/

def execThermalHold (die temp : Nat) (s : State) : Host.Outcome State Fault Refusal :=
  s.run fun p =>
    if die > 7 ∨ temp < 105 ∨ p.hot.contains die then p
    else
      let f := [0, 1, 2, 3].foldl (fun t i => t.put (4 * die + i) 800) p.power.freq
      { p with hot := insertNat die p.hot, power := { p.power with freq := f } }.rasEvent die 9

def execThermalRelease (die temp : Nat) (s : State) : Host.Outcome State Fault Refusal :=
  s.run fun p =>
    if temp ≥ 100 then p
    else
      let p : Pkg := { p with hot := p.hot.filter (· != die) }
      if ((Tab.find? p.resetting die).map DieReset.trip) = some true then p.returnDie die true else p

def execThermalTrip (die temp : Nat) (s : State) : Host.Outcome State Fault Refusal :=
  s.run fun p =>
    if die > 7 ∨ temp < 120 then p
    else
      match Tab.find? p.resetting die with
      | some r => { p with resetting := p.resetting.put die { r with trip := true } }
      | none => if p.steady then p.beginDieReset die true false else p

/-! ### Patrol scrub (R432) -/

/-- VA of byte `a % 2^16` of the granule that granule `u` of a space's addresses maps to it (R386). -/
def vaIn (u a : Nat) : Nat :=
  let v := u * 65536
  v + ((a % 65536 / 2048) ^^^ fld v 20 16 ^^^ fld v 25 21 ^^^ fld v 27 26) * 2048 + a % 2048

/-- Space and VA under which a physical byte is mapped. -/
def Pkg.nameOf (p : Pkg) (a : Nat) : Option (Nat × Nat) :=
  let far := decide (Config.nearFrames * 65536 ≤ a)
  let f := a / 65536 - (if far then Config.nearFrames else 0)
  match List.find? (fun l => l.far == far && decide (l.frame ≤ f) && decide (f < l.frame + sizeUnits l.size)) p.leaves with
  | some l => some (l.space, vaIn (l.vpn + (f - l.frame)) a)
  | none =>
    p.regions.findSome? fun e =>
      let x := e.2.toNat
      let base := fld x 319 296
      let n0 := max 1 (fld x 351 336)
      if x.testBit 0 && x.testBit 320 == far && decide (base ≤ f) then
        match (regionRows e.2)[(f - base) / n0]? with
        | some (u, _) => some (fld x 271 256, vaIn (u + (f - base) % n0) a)
        | none => none
      else none

/-- An MC reads a line in its scrub and finds `bad` of its bytes in error: up to two are corrected, more poison the line.
DEDUCED, log entry 89. -/
def Pkg.scrub (p : Pkg) (mc a bad : Nat) : Pkg :=
  let a := a / 64 * 64
  let far := decide (Config.nearFrames * 65536 ≤ a)
  let (s, va) := (p.nameOf a).getD (0, 0)
  let entry (p : Pkg) (reason : Nat) : Pkg := p.ras va s 0 (mc / 4) (if far then 2 else 1) reason 1
  if bad = 0 ∨ a % 65536 / 2048 ≠ mc ∨ a ≥ (Config.nearFrames + Config.farFrames) * 65536 then p
  else if bad ≤ 2 then entry p 1
  else if p.poison.contains a || !p.steady then p
  else { entry p 2 with poison := insertNat a p.poison }

/-- `line` is a physical address. -/
def execPatrolScrub (mc line bad : Nat) (s : State) : Host.Outcome State Fault Refusal :=
  s.run fun p => if (Tab.find? p.resetting (mc / 4)).isSome then p else p.scrub mc line bad

/-! ### Errors beside the scrub (R432 to R434) -/

/-- Check bits find an error. One that a squash mends is no squash of R65's four; one in committed state poisons its line, or ends
the task. DEDUCED, log entry 113. -/
def Pkg.suffer (p : Pkg) (u : Upset) : Pkg :=
  match u with
  | .corrected die block va space gcid => if die ≤ 9 ∧ 1 ≤ block ∧ block ≤ 5 then p.ras va space gcid die block 1 1 else p
  | .undone core slot line =>
    let x : CtxRef := ⟨core, slot⟩
    let holds (h : Chunk) : Bool := line.all fun key => (Tab.find? h.ulines key).isSome
    let c := p.ctx x
    if !c.hasChunk || !c.chunks.any holds then p
    else
      (p.squashFrom x ((c.req.map holds).getD false) false).ras ((line.map keyVa).getD 0) (p.spaceOf core) x.gcid (core / 64)
        (if line.isSome then 4 else 5) 1 1
  | .kept core slot =>
    let x : CtxRef := ⟨core, slot⟩
    if (p.ctx x).st = .free then p
    else
      let p := if (p.ctx x).hasChunk then p.squash x else p
      p.endTask core 0x33 x.gcid (p.ctx x).regs.pc
  | .line key =>
    if (Tab.find? p.l2 key).isSome && p.steady && !p.linePoison key then p.poisonWith key (keySpace key) 0 (p.homeOf key / 64) 3 else p
  | .localLine core n =>
    let k := p.core core
    if 64 * n ≥ k.extSize || k.lsPoison.contains n || !p.steady then p
    else (p.modCore core fun k => { k with lsPoison := insertNat n k.lsPoison }).ras (lsVa core (64 * n)) k.extSpace 0 (core / 64) 4 2 1
  | .copy die key =>
    if !p.steady then p else
    { p with brine := updWhere (fun b : Brine => b.die == die && b.key == key) (fun b : Brine => { b with bad := true }) p.brine }

/-! ### Links (R14) -/

/-- A link runs at the width that remains: timing alone. -/
def execLaneRepair (link lanes : Nat) (s : State) : Host.Outcome State Fault Refusal :=
  s.run fun p => { p with lanes := p.lanes.put link lanes }

/-! ### Jobs (R449, R450) -/

/-- Entries of a list, 4 bytes each. -/
def words32 : List Byte → List Nat
  | a :: b :: c :: d :: t => leNat [a, b, c, d] :: words32 t
  | [] | [_] | [_, _] | [_, _, _] => []

def ascending : List Nat → Bool
  | a :: b :: t => decide (a < b) && ascending (b :: t)
  | [] | [_] => true

/-- The binding that a JOBSET makes of the one before it. -/
def Job.next (old : Option Job) (jobid : Word) (l : List Nat) (bytes : List Byte) (base : List Word) (pt : Nat) : Job :=
  let epoch := match old with
    | some j => j.epoch + 1
    | none => 1
  let reason := match old with
    | none => 1
    | some j => if l.all j.list.contains && decide (l.length < j.list.length) then 2 else 3
  let chain : BitVec 384 := (old.map Job.chain).getD 0
  let m := sha384 bytes
  { jobid, epoch, list := l, mdigest := BitVec.ofNat 384 (leNat m), reason, base, basePt := pt,
    chain := BitVec.ofNat 384 (leNat (sha384 (bytes48 chain ++ leBytes jobid.toNat 8 ++ leBytes epoch 4 ++ m))) }

def Pkg.bindJob (p : Pkg) (v : Prov) (s jobid va ls n : Nat) : CmdEnd :=
  match p.space? s with
  | none => .err 0x04
  | some sp =>
    if jobid = 0 ∨ va % 4 ≠ 0 ∨ n = 0 ∨ n > 65536 then .err 0x05
    else
      match p.moduleRead ls va (4 * n) with
      | .error (.refused _) => .err 0x05
      | .error .wait | .error (.held _) => .run p
      | .ok (_, true, _) => .err 0x05
      | .ok (b, false, p) =>
        let l := words32 b
        if !ascending l ∨ l.any (fun m => decide (m ≥ 2 ^ 24)) then .err 0x05
        else if !l.contains v.modid then .err 0x11
        else if (sp.job.map Job.jobid).any (· != BitVec.ofNat 64 jobid) then .err 0x12
        else
          let j := Job.next sp.job (BitVec.ofNat 64 jobid) l b ((List.range 16).map sp.counter) p.pt
          .ok j.epoch (p.modSpace s fun x => { x with job := some j })

def execJobset (vi : Nat) (s : State) : Host.Outcome State Fault Refusal :=
  s.run fun p => p.command vi .job 0x01 fun a => if vi ≠ 0 then .err 0x02 else p.bindJob s.prov (a 1) (a 2) (a 3) (a 4) (a 5)

def Pkg.unbindJob (p : Pkg) (s : Nat) : CmdEnd :=
  match p.space? s with
  | none => .err 0x04
  | some sp =>
    match sp.job with
    | none => .err 0x09
    | some j => .ok j.epoch (p.modSpace s fun x => { x with job := none })

def execJobclr (vi : Nat) (s : State) : Host.Outcome State Fault Refusal :=
  s.run fun p => p.command vi .job 0x02 fun a => if vi ≠ 0 then .err 0x02 else p.unbindJob (a 1)

end Sys2Proof.Machine
end

