-- ==== Sys2Proof/Machine/Remote.lean ====
section
/-! DEFINITION. Operations between modules, at both sides: R115, R116, R255 to R257, R366, R382, R440. -/

namespace Sys2Proof.Machine

/-! ### The destination side -/

/-- A peer's request for a space that exists; the operations of one context come by one `src`, in the order of issue (R115). -/
def Pkg.fromPeer (p : Pkg) (src epoch space va need : Nat) (what : Asked) : Pkg :=
  if p.stale src epoch then p
  else
    let r : Inbound := { who := .peer src, epoch, space, va, what, limit := p.admitted space need va what.size, done := 0, got := [] }
    if (p.space? space).isNone then r.reply p 0x15 else p.arrive r

/-- The remote side of a GET. -/
def execRemoteGet (src epoch space va n : Nat) (s : State) : Host.Outcome State Fault Refusal :=
  s.run (·.fromPeer src epoch space va (rENG + rRD) (.read n))

/-- The remote side of a PUT. -/
def execRemotePut (src epoch space va : Nat) (data : List Byte) (s : State) : Host.Outcome State Fault Refusal :=
  s.run (·.fromPeer src epoch space va (rENG + rWR) (.write data))

/-- The remote side of an RPAN: one application at the home, or a parked element; it counts nothing here (R440). -/
def execRemoteRpan (src epoch space va slot : Nat) (operand : Line) (s : State) : Host.Outcome State Fault Refusal :=
  s.run (·.fromPeer src epoch space va rPAN (.rpan slot operand))

/-! ### The issuing side -/

/-- An acknowledgement: an RPAN's token receives its status word, and PAN_INV counts where COUNT is 1; a GET's bytes are
to be written; a PUT ends. -/
def Pkg.acked (p : Pkg) (o : Op) (code count : Nat) (data : List Byte) : Pkg :=
  match o.kind, o.kind.shape with
  | .rpan .., _ =>
    if o.sent then (p.advance o.space cPanInv count).endOp o (panStatus (if code = 0 then 1 else 2) code 0 count) else p
  | .get .., some x =>
    if (p.queues.get .reset o.queue).st = .resetting then p.endOp o (engineStatus 3 0 0)
    else if o.sent && o.ack.isNone then
      let o := { o with ack := some (code, min count (min data.length x.total)), pieces := o.pieces.put 0 data }
      p.remoteEnd o x
    else p
  | .put .., some x =>
    if o.sent || code != 0 then p.remoteEnd { o with ack := some (code, count), sent := true } x else p
  | _, _ => p

def execRemoteAck (op code count : Nat) (data : List Byte) (s : State) : Host.Outcome State Fault Refusal :=
  s.run fun p =>
    match p.op? op with
    | some o => p.acked o code count data
    | none => p

/-- An operation that no acknowledgement has answered ends with CODE 0x12. DEDUCED, log entry 59. -/
def Pkg.unanswered (p : Pkg) (o : Op) : Pkg :=
  match o.kind with
  | .rpan .. => p.endOp o (panStatus 2 0x22 0 0)
  | .get .. | .put .. => p.endOp o (engineStatus 2 0x12 0)
  | .copy .. | .pan .. | .msg .. | .bput .. | .bdrop .. | .attest .. => p

def Op.remote (o : Op) : Bool := o.kind.cls == 2

/-- 2^30 cycles have passed since the release (Table 9.6). -/
def execRemoteAckTimeout (op : Nat) (s : State) : Host.Outcome State Fault Refusal :=
  s.run fun p =>
    match p.op? op with
    | some o => if o.remote && o.ack.isNone && decide (Config.ackTimeout ≤ p.pt - o.released) then p.unanswered o else p
    | none => p

/-- Ports that still carry an unacknowledged operation of a queue. -/
def Pkg.portsOf (p : Pkg) (q : Nat) : List Nat :=
  p.ops.filterMap fun o => if o.remote && o.queue == q && o.ack.isNone then some (portOf o.peer) else none

/-- Begin a new link epoch on a port: what it carries ends with 0x12 (R257, R382). -/
def Pkg.newEpoch (p : Pkg) (port : Nat) : Pkg :=
  let gone := p.ops.filter fun o => o.remote && o.ack.isNone && portOf o.peer == port
  let p := gone.foldl Pkg.unanswered p
  { p with epochs := p.epochs.put port (p.epochs.get 0 port + 1) }

/-- Step 4 of R382, once 2^30 cycles have passed since the reset began. -/
def execResetLinkEpoch (q : Nat) (s : State) : Host.Outcome State Fault Refusal :=
  s.run fun p =>
    match Tab.find? p.queues q with
    | some x =>
      if x.st = .resetting ∧ Config.ackTimeout ≤ p.pt - x.resetAt then (p.portsOf q).eraseDups.foldl Pkg.newEpoch p else p
    | none => p

end Sys2Proof.Machine
end

