-- ==== Sys2Proof/Machine/Send.lean ====
section
/-! DEFINITION. Remote B-slot commands under a capability: R322 to R324. -/

namespace Sys2Proof.Machine

/-- Rows, bytes of a row, and width of a kind (Table 11.6). -/
def mxRows (k : MxKind) : Nat :=
  match k with
  | .bput4 | .bput8 => 256
  | .bput16 => 128
  | .bdrop => 0
def mxWidth (k : MxKind) : Nat :=
  match k with
  | .bput4 => 4
  | .bput8 => 8
  | .bput16 => 16
  | .bdrop => 0
def mxRowBytes (k : MxKind) : Nat := 16 * mxWidth k

/-- Check the source rows in order (R322). -/
def M.checkSend (x : CtxRef) (n : Nat) : List Nat → M Unit
  | [] => pure ()
  | va :: t => do
    M.checkRange x (rENG + rRD) va n
    M.checkSend x n t

/-- Hand the command over, unless this MXSEND has done so (R105). -/
def Pkg.sendMx (p : Pkg) (kind : EKind) (col : Nat) (d : SReg) : Pkg :=
  let x := p.cur
  let c := p.ctx x
  let queue := ((p.core x.core).task.map fun t => t.info.queue).getD 0
  if p.ops.any fun o => o.sentBy x c then p
  else p.addOp x c.chunkseq.toNat 0 { kind, col, tok := some d.toNat, ret := c.regs.retired } queue 0

def mxCommand (r : Regs) (kind : MxKind) (n : BReg) (a b c : SReg) : EKind :=
  match kind with
  | .bdrop => .bdrop (r.sr a) n.toNat
  | .bput4 | .bput8 | .bput16 => .bput (r.sr a) (r.sr b) (r.sr c) kind n.toNat

def mxSources (kind : MxKind) (a b c : SReg) : List Nat :=
  match kind with
  | .bdrop => [a.toNat]
  | .bput4 | .bput8 | .bput16 => [a.toNat, b.toNat, c.toNat]

/-- MXSEND checks its source and waits for its commands; the last of them completes it. -/
def execMxsend (g : Guard) (col : BitVec 3) (kind : MxKind) (n : BReg) (d a b c : SReg) (s : State) :
    Host.Outcome State Fault Refusal :=
  s.issue
    { guard := g, cut := true, early := true, srcs := mxSources kind a b c, dsts := [d.toNat],
      body := do
        let x ← M.me
        let r ← M.r
        let p ← get
        if !(p.ops.any fun o => o.sentBy x (p.ctx x)) then M.checkSend x (mxRowBytes kind) (rowVas (r.sr b) (r.sr c) (mxRows kind))
        throw (.wait .ops),
      stopped := fun e p =>
        match e with
        | .wait .ops => p.sendMx (mxCommand (p.ctx p.cur).regs kind n a b c) col.toNat d
        | .fault .. | .held _ | .cut | .squash | .wait _ | .poison _ => p }

/-! ### Commands at the target (R323) -/

/-- Refusal by the capability: codes 0x30 to 0x34. -/
def Pkg.capRefuses (p : Pkg) (cap : Word) (need n : Nat) : Option Nat :=
  let w := cap.toNat
  let core := fld w 63 55
  let c := (p.core core).caps.get .zero (fld w 54 52)
  let rights := fld w 31 24
  if p.capCheck core (w / 2 ^ 24 * 2 ^ 24) ≠ fld w 23 0 then some 0x30
  else if !c.valid then some 0x31
  else if c.gen.toNat ≠ fld w 51 32 then some 0x32
  else if !rights.testBit need || rights &&& c.rights ≠ rights then some 0x33
  else if !p.rcdBit core (272 + n) then some 0x34
  else none

/-- The sender's MXSEND completes with a status word, or the token of one saved past it is written (R324). -/
def Pkg.mxEnd (p : Pkg) (o : Op) (v : Word) : Pkg :=
  let c := p.ctx o.who
  let reg := o.tok.getD 0
  if o.sentBy o.who c && (c.wait.map Prod.fst) == some .ops then
    ((p.dropOp o.id).modCtx o.who fun c => { c with regs := c.regs.setSn reg v }).finishCut o.who .next
  else p.endOp o v

/-- A refusal: BYTES counts the performed commands. -/
def Pkg.mxRefuse (p : Pkg) (o : Op) (code : Nat) : Pkg :=
  let core := match o.kind with
    | .bput cap .. | .bdrop cap _ => fld cap.toNat 63 55
    | .copy .. | .get .. | .put .. | .rpan .. | .pan .. | .msg .. | .attest .. => 0
  let free (e : Nat × BSlot) : Nat × BSlot := if e.2.busy = some o.id then (e.1, { e.2 with busy := none }) else e
  (p.modCore core fun k => { k with bslots := k.bslots.map free }).mxEnd o (engineStatus 2 code o.bytes)

/-- The part of a byte range in each line: address and length. -/
def linePieces : Nat → Nat → Nat → List (Nat × Nat)
  | 0, _, _ => []
  | fuel + 1, va, n => if n = 0 then [] else (va, min n (64 - va % 64)) :: linePieces fuel (va + min n (64 - va % 64)) (n - min n (64 - va % 64))

/-- The source rows of command `j`. -/
def cmdVas (kind : MxKind) (base pitch : Word) (j : Nat) : List Nat := (rowVas base pitch (mxRows kind)).drop (16 * j) |>.take 16

/-- The memory accesses made for a command (Table 4.1): the rows' bytes, then, for S4E lines, those of the blocks that stand before
the rows (R302). Each is one engine commit. -/
def cmdRowReads (n : Nat) (vas : List Nat) : List (Nat × Nat) := vas.flatMap fun va => linePieces (n / 64 + 2) va n
def cmdReads (fmt k w n : Nat) (vas : List Nat) : List (Nat × Nat) :=
  cmdRowReads n vas ++
    if fmt = 1 then vas.flatMap fun va => linePieces (blockBytes w k / 64 + 2) (va - va % blockBytes w k) (va % blockBytes w k) else []

/-- Sidecars of the lines of a command, each allocated at its home where it is in no cache. -/
def Pkg.cmdSides (p : Pkg) (s : Nat) : List Nat → Eng (Tab Word × Pkg)
  | [] => .ok ([], p)
  | va :: t =>
    match p.route s va (rENG + rRD) with
    | none => .error (.refused va)
    | some r =>
      if p.down r.key then .error .wait
      else
        let q : Except HeldAt Pkg := match r.place with
          | .lstore .. => .ok p
          | .line .. => p.serveWrite r.key
        match q with
        | .error h => .error (.held h)
        | .ok q =>
          match q.cmdSides s t with
          | .error e => .error e
          | .ok (l, q') => .ok (l.put (va / 64 * 64) (q.sideNow r), q')

/-- Whether a command's lines are refused, as BLOAD checks them, and with one format and block exponent over the whole BPUT:
Table 11.7, in order. DEDUCED, log entry 45. -/
def cmdRefuses (w : Nat) (before : Option (Nat × Nat)) (sides : Tab Word) (vas : List Nat) : Option Nat :=
  let side := (sides.headD (0, 0)).2
  let fmt := sideFmt side
  let k := sideK side
  if fmt = 0 ∨ fmtWidth fmt ≠ w || !(sides.all fun e => sideFmt e.2 == fmt && sideK e.2 == k) ||
      (before.map fun b => b != (fmt, k)).getD false then some 0x35
  else if vas.any fun va => va % (2 * w) != 0 then some 0x36
  else none

/-- Consecutive stretches of these lengths. -/
def cutBytes : List Nat → List Byte → List (List Byte)
  | [], _ => []
  | n :: t, b => b.take n :: cutBytes t (b.drop n)

/-- The columns that a command's bytes, as its accesses brought them, and sidecars give. -/
def cmdCols (fmt k w n : Nat) (sides : Tab Word) (vas : List Nat) (bytes : List Byte) : List (List BGrp) :=
  let l := cutBytes (vas.map (fun _ => n) ++ vas.map fun va => if fmt = 1 then va % blockBytes w k else 0) bytes
  (vas.zip ((l.take vas.length).zip (l.drop vas.length))).map fun e =>
    (loadGroups fmt k w e.1 (sides.get 0) 8 0 (fieldsOf w 128 (leNat e.2.1)) (escapes (fieldsOf 4 (2 * e.2.2.length) (leNat e.2.2)))).map
      (BGrp.of fmt k)

/-- The slot while a BPUT is written into it, and once its last command has been. -/
def BSlot.bput (b : BSlot) (op sender fmt k c0 : Nat) (cols : List (List BGrp)) (first last : Bool) : BSlot :=
  let base : BSlot := if first then { BSlot.zero with stamp := b.stamp } else b
  let b := { base.setCols c0 cols with fmt, k, ldcore := sender }
  if last then { b with st := .loaded, stamp := b.stamp + 1, busy := none } else { b with st := .partly, busy := some op }

/-- A BLOAD of the slot is in progress on its core (R323). -/
def Pkg.bloading (p : Pkg) (core n : Nat) : Bool := (coreCtxs core).any fun x => (p.ctx x).live && (p.ctx x).load == some n

/-- In replay, the log's next entry is this access of the operation: its command was accepted (R421). -/
def Pkg.logHas (p : Pkg) (o : Op) (value : Nat) : Bool := (p.replayOf o.space).isSome && p.opAllowed o 3 value

/-- In replay a refused MXSEND completes only where the log has its completion next (R421). -/
def Pkg.mxMayEnd (p : Pkg) (o : Op) : Bool :=
  let c := p.ctx o.who
  !(o.sentBy o.who c && (c.wait.map Prod.fst) == some .ops) || p.replayAllows o.space 2 o.who.gcid o.chunk 0

/-- A command arrives: it is refused, or accepted, with the sidecars of its lines; none where it must wait, as for another BPUT in
progress on the slot. DESIGN CHOICE, log entry 129. -/
def Pkg.bputArrive (p : Pkg) (o : Op) (cap : Word) (kind : MxKind) (n : Nat) (vas : List Nat) : Eng (Except Nat Op × Pkg) :=
  let core := fld cap.toNat 63 55
  let slot := (p.core core).bslots.get .zero n
  match if p.logHas o o.lane then none else p.capRefuses cap n n with
  | some code => .ok (.error code, p)
  | none =>
    if (slot.busy.getD o.id) ≠ o.id || (slot.busy.isNone && p.bloading core n) then .error .wait
    else
      match p.cmdSides o.space ((cmdRowReads (mxRowBytes kind) vas).map Prod.fst) with
      | .error e => .error e
      | .ok (sides, q) =>
        match cmdRefuses (mxWidth kind) (if o.done.isEmpty then none else some (slot.fmt, slot.k)) sides vas with
        | some code => .ok (.error code, q)
        | none => .ok (.ok { o with sides }, q.modBslot core n fun b => { b with busy := some o.id })

/-- An accepted command has made its last access: its columns are written, before the first command's only once the slot's readers
are squashed. -/
def Pkg.bputWrite (p : Pkg) (o : Op) (cap : Word) (kind : MxKind) (n : Nat) (vas : List Nat) : Option Pkg :=
  let j := o.done.length
  let core := fld cap.toNat 63 55
  let side := (o.sides.headD (0, 0)).2
  match if j = 0 then p.squashReaders core n none else some p with
  | none => none
  | some q =>
    let cols := cmdCols (sideFmt side) (sideK side) (mxWidth kind) (mxRowBytes kind) o.sides vas (o.pieces.map Prod.snd).flatten
    let last := decide (16 * (j + 1) ≥ mxRows kind)
    let q := q.modBslot core n fun b => b.bput o.id o.who.core (sideFmt side) (sideK side) (16 * j) cols (j == 0) last
    let q := q.advance o.space cRoundings (roundsOf cols)
    let o := { o with done := o.done ++ [j], bytes := o.bytes + 16 * mxRowBytes kind, sides := [], pieces := [] }
    some (if last then q.mxEnd o (engineStatus 1 0 o.bytes) else q.setOp o)

/-- The next access of a BPUT is made, at its own place (R97); `lane` counts them. A command arrives with its first and is performed
with its last. One whose slot a die reset has taken away arrives again. DEDUCED, log entry 45. Poison leaves the slot empty
(Table 19.3). -/
def Pkg.bputDo (p : Pkg) (o : Op) (cap base pitch : Word) (kind : MxKind) (n : Nat) : Pkg :=
  let vas := cmdVas kind base pitch o.done.length
  let core := fld cap.toNat 63 55
  if !p.opAllowed o 3 o.lane && !p.mxMayEnd o then p
  else
    let slot := (p.core core).bslots.get .zero n
    match if o.sides.isEmpty || slot.busy != some o.id then p.bputArrive { o with sides := [], pieces := [] } cap kind n vas
        else .ok (.ok o, p) with
    | .error (.held h) => p.holdOp o o.lane h
    | .error .wait | .error (.refused _) => p
    | .ok (.error code, q) => if p.mxMayEnd o then q.mxRefuse o code else p
    | .ok (.ok o', q) =>
      if !p.opAllowed o 3 o.lane then p
      else
        let side := (o'.sides.headD (0, 0)).2
        let reads := cmdReads (sideFmt side) (sideK side) (mxWidth kind) (mxRowBytes kind) vas
        let i := o'.pieces.length
        let (va, m) := (reads[i]?).getD (0, 0)
        match q.readPiece o.space (rENG + rRD) va m with
        | .error (.held h) => (q.setOp o').holdOp o' o.lane h
        | .error .wait | .error (.refused _) => q.setOp o'
        | .ok (x, q') =>
          if x.poison then
            match q'.squashReaders core n none with
            | none => q.setOp o'
            | some r => ((r.modBslot core n (·.emptied o.who.core)).logOp o' 3 o.lane).mxRefuse o' 1
          else
            let o' := { o'.unheld o.lane with pieces := o'.pieces.put i x.bytes, lane := o.lane + 1 }
            let q' := q'.logOp o' 3 o.lane
            if i + 1 < reads.length then q'.setOp o' else (q'.bputWrite o' cap kind n vas).getD (q.setOp { o' with pieces := o'.pieces.drop i, lane := o.lane })

def execBputCommand (op : Nat) (s : State) : Host.Outcome State Fault Refusal :=
  s.run fun p =>
    match p.op? op with
    | none => p
    | some o =>
      let p := { p with req := some o.who.core }
      match o.kind with
      | .bput cap base pitch kind n => p.bputDo o cap base pitch kind n
      | .copy .. | .get .. | .put .. | .rpan .. | .pan .. | .msg .. | .bdrop .. | .attest .. => p

/-- A BDROP command is performed. DEDUCED, log entry 46. -/
def Pkg.bdropDo (p : Pkg) (o : Op) (cap : Word) (n : Nat) : Pkg :=
  let core := fld cap.toNat 63 55
  if ((p.core core).bslots.get .zero n).busy.isSome || p.bloading core n then p
  else
    match if p.logHas o 0 then none else p.capRefuses cap (2 + n) n with
    | some code => if p.mxMayEnd o then p.mxRefuse o code else p
    | none =>
      match if p.opAllowed o 3 0 then p.squashReaders core n none else none with
      | none => p
      | some q => ((q.modBslot core n (·.emptied o.who.core)).logOp o 3 0).mxEnd o (engineStatus 1 0 0)

def execBdropCommand (op : Nat) (s : State) : Host.Outcome State Fault Refusal :=
  s.run fun p =>
    match p.op? op with
    | none => p
    | some o =>
      match o.kind with
      | .bdrop cap n => p.bdropDo o cap n
      | .copy .. | .get .. | .put .. | .rpan .. | .pan .. | .msg .. | .bput .. | .attest .. => p

end Sys2Proof.Machine
end

