-- ==== Sys2Proof/Machine/Sync.lean ====
section
/-! DEFINITION. Fences, token tests, wired barriers and memory waits: R107, R116, R258 to R264, R420. -/

namespace Sys2Proof.Machine

/-! ### Fences (R107, R116, R258, R259) -/

/-- Whether an operation's local side is still to be performed (Table 4.2, R115). An RPAN has no engine commit here: its local side
is performed once its request is sent. DESIGN CHOICE, log entry 110. -/
def Op.localOpen (o : Op) : Bool :=
  match o.kind with
  | .put .. | .rpan .. => !o.sent
  | .copy .. | .get .. | .pan .. | .msg .. | .bput .. | .bdrop .. | .attest .. => true

/-- Whether a fence names a class and colour. -/
def fenceNames (cols : BitVec 8) (classes : BitVec 4) (k : EKind) (col : Nat) : Bool :=
  decide (k.cls < 4) && classes.getLsbD k.cls && cols.getLsbD col

/-- Whether a fence of the context still waits: for operations of the chunk that asks for its commit, or for released ones. -/
def Pkg.fenceOpen (p : Pkg) (x : CtxRef) (cols : BitVec 8) (classes : BitVec 4) (outstanding : Op → Bool) : Bool :=
  let c := p.ctx x
  ((c.req.map Chunk.deferred).getD []).any (fun e => fenceNames cols classes e.kind e.col) ||
    p.ops.any fun o => o.who == x && o.gen == c.gen && fenceNames cols classes o.kind o.col && outstanding o

/-- A fence: cut after a named operation of its own chunk, then wait for the earlier ones. -/
def M.fence (k : WaitKind) (d : SReg) (cols : BitVec 8) (classes : BitVec 4) (outstanding : Op → Bool) : M Flow := do
  let x ← M.me
  let p ← get
  if (p.ctx x).ch.deferred.any fun e => fenceNames cols classes e.kind e.col then throw .cut
  let put (v : Word) : M Flow := do
    M.setS d v
    return .next
  M.orWait k 1 (if p.fenceOpen x cols classes outstanding then none else some (put 0)) put

def execFenceE (g : Guard) (d : SReg) (cols : BitVec 8) (classes : BitVec 4) (s : State) : Host.Outcome State Fault Refusal :=
  s.issue { guard := g, dsts := [d.toNat], body := M.fence .fenceE d cols classes Op.localOpen }

def execFenceETimeout (core slot : Nat) (s : State) : Host.Outcome State Fault Refusal :=
  s.run fun p =>
    let x : CtxRef := ⟨core, slot⟩
    match p.expired x .fenceE Config.fenceETimeout, p.instrAt x with
    | true, some (.fenceE _ d cols classes) => if !p.fenceOpen x cols classes Op.localOpen then p else p.timeOut x false (fun w r => r.setS d w) 1
    | _, _ => p

/-- FENCE.X waits until the operation is complete: it is dropped as its token is written. -/
def execFenceX (g : Guard) (d : SReg) (cols : BitVec 8) (s : State) : Host.Outcome State Fault Refusal :=
  s.issue { guard := g, dsts := [d.toNat], body := M.fence .fenceX d cols 4 fun _ => true }

def execFenceXTimeout (core slot : Nat) (s : State) : Host.Outcome State Fault Refusal :=
  s.run fun p =>
    let x : CtxRef := ⟨core, slot⟩
    match p.expired x .fenceX Config.fenceXTimeout, p.instrAt x with
    | true, some (.fenceX _ d cols) => if !p.fenceOpen x cols 4 (fun _ => true) then p else p.timeOut x false (fun w r => r.setS d w) 1
    | _, _ => p

/-- R260; while recording or replaying, R420. -/
def execChk (g : Guard) (d : PReg) (a : SReg) (s : State) : Host.Outcome State Fault Refusal :=
  s.issue
    { guard := g,
      body := do
        let x ← M.me
        let p ← get
        let c := p.ctx x
        match Tab.find? c.regs.pend a.toNat with
        | none =>
          M.setRegs (·.setP d true)
          return .next
        | some t =>
          if p.logged (p.spaceOf x.core) && t / 64 != c.seq then throw (.wait .scoreboard)
          M.setRegs (·.setP d false)
          return .next }

/-! ### Wired barriers (R261 to R263) -/

/-- The group, where the core is a member of it (R41, R261). -/
def M.bar (bg : Nat) : M Bar := do
  let x ← M.me
  let p ← get
  match Tab.find? p.bars bg with
  | some b => if b.members.contains x.core && p.gangOf x.core == some b.gang then return b else throw (.fault 8 0 0x2A)
  | none => throw (.fault 8 0 0x2A)

def boolWord (b : Bool) : Word := if b then 1 else 0

def execBararr (g : Guard) (d : SReg) (bg : BitVec 4) (s : State) : Host.Outcome State Fault Refusal :=
  s.issue
    { guard := g, cut := true, dsts := [d.toNat],
      body := do
        let x ← M.me
        let b ← M.bar bg.toNat
        let arrive : M Flow := do
          modify fun p => { p with bars := p.bars.put bg.toNat { b with flags := insertNat x.core b.flags } }
          M.setS d (boolWord b.phase)
          return .next
        M.orWait .bararr (BitVec.allOnes 64) (if b.flags.contains x.core then none else some arrive) fun w => do
          M.setS d w
          return .next }

/-- The core's flag of a group is set: its BARARR waits. -/
def Pkg.flagSet (p : Pkg) (bg core : Nat) : Bool := ((Tab.find? p.bars bg).map fun b => b.flags.contains core).getD true

/-- Nothing arrives (R262). -/
def execBararrTimeout (core slot : Nat) (s : State) : Host.Outcome State Fault Refusal :=
  s.run fun p =>
    let x : CtxRef := ⟨core, slot⟩
    match p.expired x .bararr Config.barTimeout, p.instrAt x with
    | true, some (.bararr _ d bg) => if !p.flagSet bg.toNat core then p else p.timeOut x true (fun w r => r.setS d w) (BitVec.allOnes 64)
    | _, _ => p

def execBarwait (g : Guard) (d a : SReg) (bg : BitVec 4) (s : State) : Host.Outcome State Fault Refusal :=
  s.issue
    { guard := g, srcs := [a.toNat], dsts := [d.toNat],
      body := do
        let b ← M.bar bg.toNat
        let put (v : Word) : M Flow := do
          M.setS d v
          return .next
        M.orWait .barwait 1 (if b.phase != ((← M.r).sr a).getLsbD 0 then some (put 0) else none) put }

/-- The phase that a BARWAIT waits for is complete. -/
def Pkg.phaseOver (p : Pkg) (bg : Nat) (v : Word) : Bool := ((Tab.find? p.bars bg).map fun b => b.phase != v.getLsbD 0).getD false

def execBarwaitTimeout (core slot : Nat) (s : State) : Host.Outcome State Fault Refusal :=
  s.run fun p =>
    let x : CtxRef := ⟨core, slot⟩
    match p.expired x .barwait Config.barTimeout, p.instrAt x with
    | true, some (.barwait _ d a bg) => if p.phaseOver bg.toNat ((p.ctx x).regs.sr a) then p else p.timeOut x false (fun w r => r.setS d w) 1
    | _, _ => p

def execBartest (g : Guard) (d : PReg) (a : SReg) (bg : BitVec 4) (s : State) : Host.Outcome State Fault Refusal :=
  s.issue
    { guard := g, srcs := [a.toNat],
      body := do
        let b ← M.bar bg.toNat
        M.setRegs fun r => r.setP d (b.phase != (r.sr a).getLsbD 0)
        return .next }

/-- Every member core's flag is set: the tree clears the flags and inverts G (R261). -/
def execBarrierPhaseComplete (bg : Nat) (s : State) : Host.Outcome State Fault Refusal :=
  s.run fun p =>
    match Tab.find? p.bars bg with
    | some b =>
      if !b.members.isEmpty && b.members.all (b.flags.contains ·) then
        { p with bars := p.bars.put bg { b with phase := !b.phase, flags := [] } }
      else p
    | none => p

/-! ### Memory waits (R264) -/

/-- The word at its home, after the checks of R235; no signature is entered. -/
def M.waitWord (m : MemOp) (n : Nat) : M (Nat × Nat) := do
  let x ← M.me
  let va := (memAddr (← M.r) m).toNat
  M.checkEl x rRD va n 0
  let p ← get
  match p.readAll (p.spaceOf x.core) rRD va n with
  | .ok (b, bad, q) =>
    if bad then throw (.poison (((p.route? (p.spaceOf x.core) va).map Route.key).getD 0))
    set q
    return (va, leNat b)
  | .error (.held h) => throw (.held h)
  | .error .wait => throw (.wait .ops)
  | .error (.refused a) => throw (.fault 2 a 0)

/-- The satisfying read takes its place (R113). -/
def M.waitDone (d : SReg) (va n : Nat) (v : Word) : M Flow := do
  let x ← M.me
  M.watch x va n 5
  M.count x cMemBytes n
  let w ← M.outcome 1 v
  M.setS d w
  return .next

/-- The loop of R264: `test` judges the word, `shown` extends it. `late` says that 2^24 cycles have passed. -/
def M.waitLoop (k : WaitKind) (d : SReg) (m : MemOp) (wide late : Bool) (test : Nat → Bool) (shown : Nat → Word) : M Flow := do
  let n := if wide then 8 else 4
  let (va, v) ← M.waitWord m n
  let p ← get
  match p.replayOutcome p.cur with
  | some (2, w) =>
    M.setS d (← M.outcome 2 w)
    return .next
  | some _ | none =>
    if test v then M.waitDone d va n (shown v)
    else if late then
      M.setS d (← M.outcome 2 (shown v))
      return .next
    else throw (.wait k)

def signWord (wide : Bool) (v : Nat) : Word := toWord (signExt v (if wide then 64 else 32))

def waitzIns (g : Guard) (wide : Bool) (d : SReg) (m : MemOp) (late : Bool) : Ins :=
  { guard := g, cut := true, srcs := memSrcs m, dsts := [d.toNat],
    body := M.waitLoop .waitz d m wide late (fun v => v == 0 || !(signWord wide v).msb) (signWord wide) }

def waitneIns (g : Guard) (wide : Bool) (d : SReg) (m : MemOp) (c : SReg) (late : Bool) : Ins :=
  { guard := g, cut := true, srcs := c.toNat :: memSrcs m, dsts := [d.toNat],
    body := do
      let w := ((← M.r).sr c).toNat % (if wide then 2 ^ 64 else 2 ^ 32)
      M.waitLoop .waitne d m wide late (fun v => v != w) (BitVec.ofNat 64) }

def execWaitz (g : Guard) (wide : Bool) (d : SReg) (m : MemOp) (s : State) : Host.Outcome State Fault Refusal :=
  s.issue (waitzIns g wide d m false)

def execWaitne (g : Guard) (wide : Bool) (d : SReg) (m : MemOp) (c : SReg) (s : State) : Host.Outcome State Fault Refusal :=
  s.issue (waitneIns g wide d m c false)

/-- The memory wait that a context is in, issued again. -/
def Pkg.waitAgain (p : Pkg) (x : CtxRef) (late : Bool) : Pkg :=
  match p.instrAt x with
  | some (.waitz g wide d m) => { p with cur := x }.issue (waitzIns g wide d m late)
  | some (.waitne g wide d m c) => { p with cur := x }.issue (waitneIns g wide d m c late)
  | _ => p

def Ctx.inMemWait (c : Ctx) : Bool :=
  c.st == .waiting && match c.wait with
    | some (.waitz, _) | some (.waitne, _) => true
    | _ => false

/-- The word is read again, after a write to its line or 256 cycles. -/
def execWaitRecheck (core slot : Nat) (s : State) : Host.Outcome State Fault Refusal :=
  s.run fun p => if (p.ctx ⟨core, slot⟩).inMemWait then p.waitAgain ⟨core, slot⟩ false else p

/-- 2^24 cycles have passed: the next read ends the wait. -/
def execWaitTimeout (core slot : Nat) (s : State) : Host.Outcome State Fault Refusal :=
  s.run fun p =>
    let x : CtxRef := ⟨core, slot⟩
    if p.expired x .waitz Config.waitTimeout || p.expired x .waitne Config.waitTimeout then p.waitAgain x true else p

end Sys2Proof.Machine
end

