-- ==== Sys2Proof/Machine/Trace.lean ====
section
/-! DEFINITION. The debug block, stops as the cores receive them, profiling, recording and replay: R405 to R423. -/

namespace Sys2Proof.Machine

/-- R406; where no grant is needed (Table 21.1), any space of the interface holds the right. -/
def Pkg.mayTrace (p : Pkg) (f : Fuses) (vi target bit : Nat) : Bool :=
  p.owns vi target ||
    match p.space? target with
    | some x => (x.rights.getLsbD bit && ((p.space? x.tool).map Space.owner) == some vi) ||
        (p.allRights f && p.spaces.any fun e => e.2.owner == vi)
    | none => false

/-! ### DRING and XTRIG (R407, R415) -/

def execDring (vi : Nat) (s : State) : Host.Outcome State Fault Refusal :=
  s.run fun p => p.command vi .debug 0x01 fun a =>
    if !p.owns vi (a 1) then .err 0x04
    else if ringBad (a 2) (a 3) then .err 0x05
    else .ok 0 (p.modSpace (a 1) fun x => { x with dring := some (.new (a 2) (a 1) (a 3) (a 4)) })

def execXtrig (vi : Nat) (s : State) : Host.Outcome State Fault Refusal :=
  s.run fun p => p.command vi .debug 0x06 fun _ =>
    if vi ≠ 0 then .err 0x02 else .ok (p.latch 1).snapSeq (p.latch 1)

/-! ### Snapshot images (R416) -/

/-- Code of a context state (Table 18.4). -/
def CState.code : CState → Nat
  | .free => 0
  | .running => 1
  | .waiting => 2
  | .held => 3
  | .halted => 4

/-- Context entry of Table 18.4. -/
def snapEntry (c : SnapCtx) : List Byte :=
  leBytes (c.pc.toNat <<< 192 + c.chunkseq.toNat <<< 144 + c.gen.toNat <<< 128 + c.retired.toNat <<< 64 +
    min (2 ^ 32 - 1) c.squash <<< 32 + c.space <<< 16 + c.st.code) 32

def snapSlot (s : Snapshot) (t core slot : Nat) : List Byte :=
  match s.ctxs.find? fun c => c.x == ⟨core, slot⟩ && (t == 0 || (c.st != .free && c.space == t)) with
  | some c => snapEntry c
  | none => leBytes 0 32

/-- The 512 bytes of a core. -/
def snapCore (s : Snapshot) (t core : Nat) : List Byte :=
  let fields := match s.cores.find? fun c => c.core == core && (t == 0 || c.space == some t) with
    | some c =>
      leBytes c.dropped 8 ++ leBytes c.squashes 8 ++ leBytes c.stamp0.toNat 4 ++ leBytes c.stamp1.toNat 4 ++
        leBytes (c.space.getD 0 + c.inbox <<< 16) 8
    | none => leBytes 0 32
  ((List.range Config.slots).flatMap fun i => snapSlot s t core i) ++ fields ++ leBytes 0 128

/-- A count of a unit, of one space or of all. -/
def unitCount (c : Tab Nat) (unit t : Nat) : Nat :=
  if t = 0 then c.foldl (fun a e => if e.1 / 2 ^ 16 = unit then a + e.2 else a) 0 else c.get 0 (unit * 2 ^ 16 + t)

def snapSlice (s : Snapshot) (t j : Nat) : List Byte :=
  leBytes (unitCount s.misses j t) 8 ++ leBytes (unitCount s.pans j t) 8 ++ leBytes (unitCount s.brine j t) 4 ++
    leBytes (min 65535 (unitCount s.depths j t)) 2 ++ leBytes 0 10

def snapMc (s : Snapshot) (t k : Nat) : List Byte :=
  leBytes (unitCount s.recs k t) 8 ++ leBytes (unitCount s.helds k t) 8 ++ leBytes (unitCount s.trans k t) 8 ++
    leBytes (Config.cacheMisses k t s.seq).toNat 8 ++ leBytes 0 32

/-- The image of Table 18.3 for a target space, 0 for the whole package. -/
def Snapshot.image (s : Snapshot) (t : Nat) : List Byte :=
  leBytes s.seq 8 ++ leBytes s.pt 8 ++ leBytes s.trig 8 ++ leBytes t 8 ++ leBytes 0 32 ++
    ((List.range 512).flatMap fun c => snapCore s t c) ++ ((List.range 512).flatMap fun j => snapSlice s t j) ++
    (List.range 32).flatMap fun k => snapMc s t k

/-- Write lines until the windows refuse one; none where a line has to wait. -/
def Pkg.writeLines (p : Pkg) (s : Nat) : Nat → Nat → List Byte → Option (Bool × Pkg)
  | 0, _, _ => some (true, p)
  | n + 1, va, b =>
    if b.isEmpty then some (true, p)
    else
      match p.moduleWrite s va (b.take 64) with
      | .ok p => p.writeLines s n (va + 64) (b.drop 64)
      | .error (.refused _) => some (false, p)
      | .error .wait | .error (.held _) => none

def snapshotBytes : Nat := 0x44840

/-- DESIGN CHOICE, log entry 75. -/
def Pkg.readSnap (p : Pkg) (f : Fuses) (vi t seq va os : Nat) : CmdEnd :=
  if (if t = 0 then vi != 0 else !p.mayTrace f vi t rightTrace) || !p.owns vi os then .err 0x04
  else if va % 64 ≠ 0 then .err 0x05
  else
    match p.snaps.find? fun s => s.seq == seq with
    | none => .err 0x0A
    | some s =>
      match p.writeLines os (snapshotBytes / 64) va (s.image t) with
      | none => .run p
      | some (true, p) => .ok snapshotBytes p
      | some (false, p) => .run (p.endCmd vi .debug (cmdErr 0x05))

def execSnaprd (vi : Nat) (s : State) : Host.Outcome State Fault Refusal :=
  s.run fun p => p.command vi .debug 0x02 fun a => p.readSnap s.fuses vi (a 1) (a 2) (a 3) (a 4)

/-! ### Profiling (R417, R418) -/

def execProfbuf (vi : Nat) (s : State) : Host.Outcome State Fault Refusal :=
  s.run fun p => p.command vi .debug 0x03 fun a =>
    if vi ≠ 0 then .err 0x02
    else if a 1 % 64 ≠ 0 ∨ a 1 ≥ vaTop ∨ a 3 < 16 ∨ a 3 > 40 ∨ (p.space? (a 2)).isNone then .err 0x05
    else .ok 0 { p with prof := some { ring := .new (a 1) (a 2) 0 0, cap := (2 ^ a 3 - 64) / 16448, sample := 0 } }

/-- Six counts that sum to `total`, the first five free but for that bound (R417). DESIGN CHOICE, log entry 74. -/
def splitCycles (seed : Nat) : Nat → Nat → List Nat
  | 0, total => [total]
  | n + 1, total =>
    let c := Config.profCycles (seed + n) % (total + 1)
    c :: splitCycles seed n (total - c)

/-- Busy cycles of an engine as the record scales them: free within the period (Table 18.5). -/
def busyCycles (seed k : Nat) : Nat :=
  let c := Config.profCycles seed % (2 ^ k + 1)
  min 65535 (if k > 16 then c / 2 ^ (k - 16) else c)

def profRecord (p : Pkg) (k core : Nat) : List Byte :=
  let seed := p.free * 4096 + 8 * core
  let c := p.core core
  let counts := splitCycles seed 5 (2 ^ k)
  leBytes ((c.task.map Task.space).getD 0 + min 65535 c.sqPeriod <<< 16 + busyCycles (seed + 7) k <<< 32 + busyCycles (seed + 6) k <<< 48) 8 ++
    counts.reverse.flatMap fun n => leBytes n 4

/-- A closed period's sample goes to the buffer. -/
def Pkg.closePeriod (p : Pkg) (k : Nat) : Pkg :=
  let p := match p.prof with
    | none => p
    | some f =>
      let e := leBytes p.pt 8 ++ leBytes f.sample 8 ++ leBytes 0 8 ++ leBytes k 8 ++ leBytes 0 32 ++
        (List.range 512).flatMap fun c => profRecord p k c
      { p with prof := some { f with sample := f.sample + 1, ring := { f.ring with queue := f.ring.queue ++ [e] } } }
  { p with profAt := p.pt, cores := p.cores.map fun (e : Nat × Core) => (e.1, { e.2 with sqPeriod := 0 }) }

/-- A change of PROFK takes place at multiples of this: of the longer period, an off value counting as the other (R417). -/
def profStride (k n : Nat) : Nat := 2 ^ (if k = 0 then n else if n = 0 then k else max k n)

/-- A new exponent applies; the first period that it turns on begins here (R417). -/
def Pkg.applyProfk (p : Pkg) : Pkg :=
  match p.profPend with
  | none => p
  | some v =>
    if p.pt % profStride p.profk.toNat v.toNat ≠ 0 then p
    else
      let q := { p with profk := v, profPend := none }
      if p.profk = 0 then { q with profAt := p.pt, cores := p.cores.map fun (e : Nat × Core) => (e.1, { e.2 with sqPeriod := 0 }) }
      else q

/-- What falls due at a package tick: a period closes, and a change of PROFK applies. -/
def Pkg.profilePeriod (p : Pkg) : Pkg :=
  let k := p.profk.toNat
  (if k ≥ 8 && p.pt % 2 ^ k == 0 && decide (p.profAt < p.pt) then p.closePeriod k else p).applyProfk

def execProfilePeriod (s : State) : Host.Outcome State Fault Refusal := s.run Pkg.profilePeriod

/-- The next package tick after the present one at which something falls due. -/
def Pkg.profDue (p : Pkg) : Option Nat :=
  let after (n : Nat) : Nat := (p.pt / n + 1) * n
  let close := if p.profk.toNat ≥ 8 then some (after (2 ^ p.profk.toNat)) else none
  match close, p.profPend with
  | some a, some v => some (min a (after (profStride p.profk.toNat v.toNat)))
  | none, some v => some (after (profStride p.profk.toNat v.toNat))
  | a, none => a

/-! ### Recording (R419) and replay (R421 to R423) -/

def Pkg.recordLog (p : Pkg) (f : Fuses) (vi t va ls size : Nat) : CmdEnd :=
  if !p.mayTrace f vi t rightReplay ∨ !p.owns vi ls then .err 0x04
  else if size = 0 then
    let p := p.modSpace t fun x => { x with recording := x.recording.map fun (r : RecLog) => { r with live := false } }
    match (p.space? t).bind Space.recording with
    | none => .ok 0 p
    | some r => if r.ring.queue.isEmpty then .ok r.entries p else .run p
  else if va % 64 ≠ 0 ∨ va ≥ vaTop ∨ size < 16 ∨ size > 40 then .err 0x05
  else
    let r : RecLog := { ring := .new va ls 0 0, size, truncated := false, entries := 0, live := true }
    .ok 0 ({ p with openLogs := p.openLogs.filter (· != (va, ls)) }.modSpace t fun x => { x with recording := some r })

def execReclog (vi : Nat) (s : State) : Host.Outcome State Fault Refusal :=
  s.run fun p => p.command vi .debug 0x04 fun a => p.recordLog s.fuses vi (a 1) (a 2) (a 3) (a 4)

/-- Entries of a log in memory, from `va` on. DEDUCED, log entry 76. -/
def Pkg.readLog (p : Pkg) (s : Nat) : Nat → Nat → Eng (List (BitVec 256) × Pkg)
  | 0, _ => .ok ([], p)
  | n + 1, va =>
    match p.readAll s (rENG + rWR) va 32 with
    | .error e => .error e
    | .ok (_, true, _) => .error (.refused va)
    | .ok (b, false, p) =>
      match p.readLog s n (va + 32) with
      | .error e => .error e
      | .ok (t, p) => .ok (BitVec.ofNat 256 (leNat b) :: t, p)

/-- Index of the entry that ends a context's chunk, where it ends at or past `r` and starts below it (R422). -/
def stopEntryAt (log : List (BitVec 256)) (name : Word) (chunk r : Nat) : Option Nat :=
  let mine (e : BitVec 256) : Bool :=
    (leKind e == 1 || leKind e == 2) && leGcid e == fld name.toNat 28 16 && fld e.toNat 143 128 == name.toNat % 2 ^ 16
  let endOf (n : Nat) : Option Nat := ((log.find? fun e => mine e && leChunk e == n).map leValue).map BitVec.toNat
  let start := if chunk = 0 then some 0 else endOf (chunk - 1)
  match start, (log.zipIdx.find? fun e => mine e.1 && leChunk e.1 == chunk) with
  | some b, some (e, i) => if b < r ∧ r ≤ (leValue e).toNat then some i else none
  | _, _ => none

/-- Whether a log was recorded while something from outside touched its space (R419). -/
def Pkg.logOpen (p : Pkg) (va ls : Nat) : Bool := p.openLogs.contains (va, ls)

def Pkg.rerun (p : Pkg) (f : Fuses) (vi t va ls name chunk count : Nat) : CmdEnd :=
  if !p.mayTrace f vi t rightReplay ∨ !p.owns vi ls then .err 0x04
  else if va % 64 ≠ 0 ∨ fld chunk 63 48 ≠ 0 ∨ fld name 63 29 ≠ 0 then .err 0x05
  else if p.logOpen va ls then .err 0x0B
  else
    match p.readAll ls (rENG + rWR) va 8 with
    | .error (.refused _) | .ok (_, true, _) => .err 0x05
    | .error .wait | .error (.held _) => .run p
    | .ok (b, false, p) =>
      match p.readLog ls (leNat b) (va + 64) with
      | .error (.refused _) => .err 0x05
      | .error .wait | .error (.held _) => .run p
      | .ok (log, p) =>
        match stopEntryAt log (BitVec.ofNat 64 name) chunk count with
        | none => .err 0x0C
        | some i =>
          let r : Replay :=
            { va := BitVec.ofNat 64 va, space := ls, log, next := 0, stopCtx := BitVec.ofNat 64 name, stopChunk := chunk,
              stopCount := BitVec.ofNat 64 count, stopAt := i, stopped := false, split := false, lidxBase := 0, outBase := 0, countBase := 0,
              names := [] }
          .ok 0 (p.modSpace t fun x => { x with replay := some r })

def execRerun (vi : Nat) (s : State) : Host.Outcome State Fault Refusal :=
  s.run fun p => p.command vi .debug 0x05 fun a => p.rerun s.fuses vi (a 1) (a 2) (a 3) (a 4) (a 5) (a 6)

/-- The cut instructions of Table 2.5 and of the instruction references (R56). -/
def isCutInstr : Instr → Bool
  | .panr .. | .panrv .. | .panvr .. | .bararr .. | .waitz .. | .waitne .. | .spawn .. | .exit .. | .bload .. | .mxsend .. | .cut ..
  | .trap .. | .eret .. | .spurge .. | .winset .. | .fmtset .. | .cntrd .. | .attest .. | .dbgwp .. | .dbgstep .. | .dbgstop ..
  | .snap .. | .keywipe .. | .fuserd .. | .unlock .. | .dbgcapGrant .. | .dbgcapRevoke .. | .syswr _ .profk _ => true
  | _ => false

/-- The live context that an entry names, on its core or in a saved image. -/
def Pkg.loggedCtx (p : Pkg) (r : Replay) (e : BitVec 256) : Option Ctx :=
  let x := ctxOfGcid (leGcid e)
  let mine (c : Ctx) : Bool := c.st != .free && r.names.all fun n => n.1 != x.gcid || n.2.1 != leGen e || n.2.2 == c.gen.toNat
  let here (k : Core) : Option Ctx := if mine (k.ctx x.slot) then some (k.ctx x.slot) else none
  (here (p.core x.core)).or ((p.saved.filter fun k => k.1 == x.core).findSome? fun k => here k.2)

/-- The instruction that a context stands at is a cut instruction. -/
def Pkg.atCut (p : Pkg) (x : CtxRef) : Bool := ((p.instrAt x).map isCutInstr).getD false

/-- Lane of the application that a returning pan instruction, at which a context stands, has next (R111). -/
def Pkg.returnLane (p : Pkg) (x : CtxRef) : Option Nat :=
  let r := (p.ctx x).regs
  match p.instrAt x with
  | some (.panr g ..) | some (.panrv g ..) => if guardHolds g r then some 0 else none
  | some (.panvr g _ _ a b c mask _) => if guardHolds g r then ((panvrLeft (p.ctx x) a b c mask).head?).map PanEl.lane else none
  | _ => none

/-- Whether an operation still has the event that a log's VALUE numbers (Table 18.6): a transfer or manifest entry, an access of a
remote command, a line of a record, the next lane of an invocation. -/
def Op.owesEvent (o : Op) (n : Nat) : Bool :=
  match o.kind, o.kind.shape with
  | .copy .., some x =>
    (List.range x.total).any (fun f => x.starts f && x.index f == n && decide (f < o.limit x) && !o.done.contains f) ||
      (List.range (o.shards x)).any fun e => x.index x.total + e == n && !o.done.contains (x.total + e)
  | .get .., some x =>
    (List.range x.total).any fun f =>
      x.starts f && x.index f == n && decide (f < (o.ack.map Prod.snd).getD x.total) && !o.done.contains f
  | .put .., some x => !o.sent && (List.range x.total).any fun f => x.starts f && x.index f == n && !o.done.contains f
  | .bput .., _ => n == o.lane
  | .bdrop .., _ => n == 0
  | .attest _ a, _ => n == 0 && a.code == 0
  | .pan .., _ => (o.panNext.map PanCall.lane) == some n
  | .copy .., none | .get .., none | .put .., none | .rpan .., _ | .msg .., _ => false

/-- Whether a context's own next event cannot be what the log has next: a chunk with its end, or, where `cut` holds, a cut
instruction. -/
def Ctx.strays (c : Ctx) (atCut cut : Bool) (end_ : Word) : Bool :=
  match c.req, cut with
  | some _, true => true
  | some _, false => c.ch.start.retired != end_
  | none, true => c.ch.count != 0
  | none, false => decide (end_.toNat < c.regs.retired.toNat) || (c.ch.count == 0 && atCut)

/-- Whether what the log's next entry names can no longer produce it (R423). DEDUCED, log entry 77. -/
def Pkg.diverged (p : Pkg) (s : Nat) (r : Replay) (e : BitVec 256) : Bool :=
  let x := ctxOfGcid (leGcid e)
  let chunk := leChunk e
  let index := (leValue e).toNat
  let strays (cut : Bool) (lane : Option Nat) : Bool :=
    match p.loggedCtx r e with
    | none => true
    | some c =>
      let at_ := c = p.ctx x && p.atCut x
      r.chunkNo x.gcid c.chunkseq.toNat != chunk || (cut && at_ && p.returnLane x != lane) ||
        c.strays at_ cut ((p.replayEnd s x.gcid c.chunkseq.toNat).getD (leValue e))
  let of (who : CtxRef) (n lidx : Nat) : Bool :=
    who == x && r.chunkNo x.gcid n == chunk && r.lidx x.gcid n lidx % 256 == leLidx e
  match leKind e with
  | 1 => strays false none
  | 2 => strays true none
  | 3 => !(p.ops.any fun o => of o.who o.chunk o.lidx && o.owesEvent index)
  | 4 => !(p.ops.any fun o => of o.who o.chunk o.lidx && o.owesEvent index) && strays true (some index)
  | 5 => !(p.flights.any fun f => of f.who (f.op / 64) (f.op % 64))
  | _ => false

/-- Replay stops: every core that runs the space is to halt, and the NOTE 0x11 entry that closes the stop has COUNT zero (R410,
R423). DESIGN CHOICE, log entry 116. -/
def execReplayDivergence (space : Nat) (s : State) : Host.Outcome State Fault Refusal :=
  s.run fun p =>
    match p.replayOf space with
    | none => p
    | some r =>
      match r.log[r.gate]? with
      | none => p
      | some e =>
        if !p.diverged space r e then p
        else
          let p := p.modSpace space fun x => { x with replay := none }
          let p := p.raiseStop (p.replayTool space) space (p.stopSet space 3 ⟨0, 0⟩)
          { p with stops := updWhere (fun (a : Stop) => a.seq == p.stopSeq) (fun a : Stop => { a with strayed := true }) p.stops }

/-! ### Stops (R409, R410) -/

/-- The broadcast reaches a core for a task of its set: the task halts, or the image in which it has been saved keeps the stop
(R411). -/
def Pkg.receiveStop (p : Pkg) (t : Stop) (r : TaskRef) : Pkg :=
  if (p.core r.core).runs r then ((coreCtxs r.core).foldl Pkg.abandonLoad p).stopCore t r else p.stopTask t r

/-- A core with a SPAWN in progress completes it first (R49). -/
def execStopBroadcast (seq core : Nat) (s : State) : Host.Outcome State Fault Refusal :=
  s.run fun p =>
    if (p.core core).spawning then p
    else
      match p.stops.find? (fun t => t.seq == seq) with
      | none => p
      | some t =>
        match t.tasks.find? fun r => r.core == core && t.reaching r with
        | some r => p.receiveStop t r
        | none => p

def execStopRecord (seq : Nat) (s : State) : Host.Outcome State Fault Refusal :=
  s.run fun p =>
    match p.stops.find? fun t => t.seq == seq && !t.recorded && t.tasks.all t.halted.contains with
    | some t => p.recordStop t
    | none => p

end Sys2Proof.Machine
end

