-- ==== Sys2Proof/Machine/Dispatch.lean ====
section
/-! DEFINITION. One arm per constructor of `Instr`, each one direct call of its meaning. -/

namespace Sys2Proof.Machine

def exec (i : Instr) (s : State) : Host.Outcome State Fault Refusal :=
  match i with
  | .nop g => Sys2Proof.Machine.execNop g s
  | .mov g d a => Sys2Proof.Machine.execMov g d a s
  | .movi g d imm => Sys2Proof.Machine.execMovi g d imm s
  | .movhi g d a imm => Sys2Proof.Machine.execMovhi g d a imm s
  | .add g d a b => Sys2Proof.Machine.execAdd g d a b s
  | .addi g d a imm => Sys2Proof.Machine.execAddi g d a imm s
  | .sub g d a b => Sys2Proof.Machine.execSub g d a b s
  | .neg g d a => Sys2Proof.Machine.execNeg g d a s
  | .mul g d a b => Sys2Proof.Machine.execMul g d a b s
  | .mulh g d a b => Sys2Proof.Machine.execMulh g d a b s
  | .mulhn g d a b => Sys2Proof.Machine.execMulhn g d a b s
  | .div g d a b => Sys2Proof.Machine.execDiv g d a b s
  | .divn g d a b => Sys2Proof.Machine.execDivn g d a b s
  | .rem g d a b => Sys2Proof.Machine.execRem g d a b s
  | .remn g d a b => Sys2Proof.Machine.execRemn g d a b s
  | .madd g d a b c => Sys2Proof.Machine.execMadd g d a b c s
  | .and g d a b => Sys2Proof.Machine.execAnd g d a b s
  | .andi g d a imm => Sys2Proof.Machine.execAndi g d a imm s
  | .or g d a b => Sys2Proof.Machine.execOr g d a b s
  | .ori g d a imm => Sys2Proof.Machine.execOri g d a imm s
  | .xor g d a b => Sys2Proof.Machine.execXor g d a b s
  | .xori g d a imm => Sys2Proof.Machine.execXori g d a imm s
  | .andn g d a b => Sys2Proof.Machine.execAndn g d a b s
  | .not g d a => Sys2Proof.Machine.execNot g d a s
  | .shl g d a b => Sys2Proof.Machine.execShl g d a b s
  | .shli g d a n => Sys2Proof.Machine.execShli g d a n s
  | .shr g d a b => Sys2Proof.Machine.execShr g d a b s
  | .shri g d a n => Sys2Proof.Machine.execShri g d a n s
  | .sar g d a b => Sys2Proof.Machine.execSar g d a b s
  | .sari g d a n => Sys2Proof.Machine.execSari g d a n s
  | .rol g d a b => Sys2Proof.Machine.execRol g d a b s
  | .roli g d a n => Sys2Proof.Machine.execRoli g d a n s
  | .cmp g c d a b => Sys2Proof.Machine.execCmp g c d a b s
  | .cmpi g c d a imm => Sys2Proof.Machine.execCmpi g c d a imm s
  | .sel g d a b c => Sys2Proof.Machine.execSel g d a b c s
  | .min g d a b => Sys2Proof.Machine.execMin g d a b s
  | .max g d a b => Sys2Proof.Machine.execMax g d a b s
  | .minn g d a b => Sys2Proof.Machine.execMinn g d a b s
  | .maxn g d a b => Sys2Proof.Machine.execMaxn g d a b s
  | .clz g d a => Sys2Proof.Machine.execClz g d a s
  | .ctz g d a => Sys2Proof.Machine.execCtz g d a s
  | .popc g d a => Sys2Proof.Machine.execPopc g d a s
  | .ext g t d a => Sys2Proof.Machine.execExt g t d a s
  | .bfx g d a pos len sx => Sys2Proof.Machine.execBfx g d a pos len sx s
  | .bfi g d a b pos len => Sys2Proof.Machine.execBfi g d a b pos len s
  | .lea g d m => Sys2Proof.Machine.execLea g d m s
  | .plog g d a b tt => Sys2Proof.Machine.execPlog g d a b tt s
  | .fadd g t rm d a b => Sys2Proof.Machine.execFadd g t rm d a b s
  | .fsub g t rm d a b => Sys2Proof.Machine.execFsub g t rm d a b s
  | .fmul g t rm d a b => Sys2Proof.Machine.execFmul g t rm d a b s
  | .ffma g t rm d a b c => Sys2Proof.Machine.execFfma g t rm d a b c s
  | .fdiv g t rm d a b => Sys2Proof.Machine.execFdiv g t rm d a b s
  | .fsqrt g t rm d a => Sys2Proof.Machine.execFsqrt g t rm d a s
  | .fmin g t d a b => Sys2Proof.Machine.execFmin g t d a b s
  | .fmax g t d a b => Sys2Proof.Machine.execFmax g t d a b s
  | .fcvt g t src rm d a => Sys2Proof.Machine.execFcvt g t src rm d a s
  | .fcvti g t src rm d a => Sys2Proof.Machine.execFcvti g t src rm d a s
  | .icvtf g t src rm d a => Sys2Proof.Machine.execIcvtf g t src rm d a s
  | .fcmp g t c d a b => Sys2Proof.Machine.execFcmp g t c d a b s
  | .br g off slot => Sys2Proof.Machine.execBr g off slot s
  | .bri g a => Sys2Proof.Machine.execBri g a s
  | .call g d off slot => Sys2Proof.Machine.execCall g d off slot s
  | .calli g d a => Sys2Proof.Machine.execCalli g d a s
  | .loop g lvl off slot a => Sys2Proof.Machine.execLoop g lvl off slot a s
  | .loopi g lvl off slot count => Sys2Proof.Machine.execLoopi g lvl off slot count s
  | .lbrk g lvl => Sys2Proof.Machine.execLbrk g lvl s
  | .lsave g d lvl => Sys2Proof.Machine.execLsave g d lvl s
  | .lrest g lvl a => Sys2Proof.Machine.execLrest g lvl a s
  | .exit g => Sys2Proof.Machine.execExit g s
  | .spawn g d a off slot => Sys2Proof.Machine.execSpawn g d a off slot s
  | .join g d a => Sys2Proof.Machine.execJoin g d a s
  | .joinTimeout core slot => Sys2Proof.Machine.execJoinTimeout core slot s
  | .cut g => Sys2Proof.Machine.execCut g s
  | .msgsend g d a b => Sys2Proof.Machine.execMsgsend g d a b s
  | .msgrecv g d a => Sys2Proof.Machine.execMsgrecv g d a s
  | .msgrecvTimeout core slot => Sys2Proof.Machine.execMsgrecvTimeout core slot s
  | .ld g t h inv d m => Sys2Proof.Machine.execLd g t h inv d m s
  | .st g t h d m => Sys2Proof.Machine.execSt g t h d m s
  | .ldv g w h inv d m c => Sys2Proof.Machine.execLdv g w h inv d m c s
  | .stv g w h d m c => Sys2Proof.Machine.execStv g w h d m c s
  | .ldvs g w h inv d a b disp c => Sys2Proof.Machine.execLdvs g w h inv d a b disp c s
  | .stvs g w h d a b disp c => Sys2Proof.Machine.execStvs g w h d a b disp c s
  | .ldvg g w h inv d a b scale disp c => Sys2Proof.Machine.execLdvg g w h inv d a b scale disp c s
  | .stvg g w h d a b scale disp c => Sys2Proof.Machine.execStvg g w h d a b scale disp c s
  | .ldt g h inv d m pw => Sys2Proof.Machine.execLdt g h inv d m pw s
  | .ldtCol g h inv d m pw => Sys2Proof.Machine.execLdtCol g h inv d m pw s
  | .stt g h d m pw => Sys2Proof.Machine.execStt g h d m pw s
  | .sttCol g h d m pw => Sys2Proof.Machine.execSttCol g h d m pw s
  | .pref g h m => Sys2Proof.Machine.execPref g h m s
  | .linewb g h m => Sys2Proof.Machine.execLinewb g h m s
  | .copy g col d a b c => Sys2Proof.Machine.execCopy g col d a b c s
  | .copyDigest g col d a b c => Sys2Proof.Machine.execCopyDigest g col d a b c s
  | .copy2 g col d a b c => Sys2Proof.Machine.execCopy2 g col d a b c s
  | .copy3 g col d a b c => Sys2Proof.Machine.execCopy3 g col d a b c s
  | .get g col d a b c => Sys2Proof.Machine.execGet g col d a b c s
  | .put g col d a b c => Sys2Proof.Machine.execPut g col d a b c s
  | .rpan g col m d a b c slot => Sys2Proof.Machine.execRpan g col m d a b c slot s
  | .fenceE g d cols classes => Sys2Proof.Machine.execFenceE g d cols classes s
  | .fenceETimeout core slot => Sys2Proof.Machine.execFenceETimeout core slot s
  | .fenceX g d cols => Sys2Proof.Machine.execFenceX g d cols s
  | .fenceXTimeout core slot => Sys2Proof.Machine.execFenceXTimeout core slot s
  | .chk g d a => Sys2Proof.Machine.execChk g d a s
  | .bararr g d bg => Sys2Proof.Machine.execBararr g d bg s
  | .bararrTimeout core slot => Sys2Proof.Machine.execBararrTimeout core slot s
  | .barwait g d a bg => Sys2Proof.Machine.execBarwait g d a bg s
  | .barwaitTimeout core slot => Sys2Proof.Machine.execBarwaitTimeout core slot s
  | .bartest g d a bg => Sys2Proof.Machine.execBartest g d a bg s
  | .barrierPhaseComplete bg => Sys2Proof.Machine.execBarrierPhaseComplete bg s
  | .waitz g wide d m => Sys2Proof.Machine.execWaitz g wide d m s
  | .waitne g wide d m c => Sys2Proof.Machine.execWaitne g wide d m c s
  | .waitRecheck core slot => Sys2Proof.Machine.execWaitRecheck core slot s
  | .waitTimeout core slot => Sys2Proof.Machine.execWaitTimeout core slot s
  | .panr g col m d a b c slot => Sys2Proof.Machine.execPanr g col m d a b c slot s
  | .panrv g col m d a b c slot => Sys2Proof.Machine.execPanrv g col m d a b c slot s
  | .pann g col m d a b slot => Sys2Proof.Machine.execPann g col m d a b slot s
  | .panv g col d a b c mask slot => Sys2Proof.Machine.execPanv g col d a b c mask slot s
  | .panvr g col d a b c mask slot => Sys2Proof.Machine.execPanvr g col d a b c mask slot s
  | .panld g a slot => Sys2Proof.Machine.execPanld g a slot s
  | .panq g d slot => Sys2Proof.Machine.execPanq g d slot s
  | .pandrop g slot => Sys2Proof.Machine.execPandrop g slot s
  | .vadd g t rm mk d a b => Sys2Proof.Machine.execVadd g t rm mk d a b s
  | .vsub g t rm mk d a b => Sys2Proof.Machine.execVsub g t rm mk d a b s
  | .vmul g t rm mk d a b => Sys2Proof.Machine.execVmul g t rm mk d a b s
  | .vfma g t rm mk d a b c => Sys2Proof.Machine.execVfma g t rm mk d a b c s
  | .vmin g t mk d a b => Sys2Proof.Machine.execVmin g t mk d a b s
  | .vmax g t mk d a b => Sys2Proof.Machine.execVmax g t mk d a b s
  | .vabs g t mk d a => Sys2Proof.Machine.execVabs g t mk d a s
  | .vneg g t mk d a => Sys2Proof.Machine.execVneg g t mk d a s
  | .vdiv g t rm mk d a b => Sys2Proof.Machine.execVdiv g t rm mk d a b s
  | .vsqrt g t rm mk d a => Sys2Proof.Machine.execVsqrt g t rm mk d a s
  | .vrsq g t rm mk d a => Sys2Proof.Machine.execVrsq g t rm mk d a s
  | .vexp2 g t rm mk d a => Sys2Proof.Machine.execVexp2 g t rm mk d a s
  | .vlog2 g t rm mk d a => Sys2Proof.Machine.execVlog2 g t rm mk d a s
  | .vand g t mk d a b => Sys2Proof.Machine.execVand g t mk d a b s
  | .vor g t mk d a b => Sys2Proof.Machine.execVor g t mk d a b s
  | .vxor g t mk d a b => Sys2Proof.Machine.execVxor g t mk d a b s
  | .vshl g t mk d a b => Sys2Proof.Machine.execVshl g t mk d a b s
  | .vshr g t mk d a b => Sys2Proof.Machine.execVshr g t mk d a b s
  | .vsar g t mk d a b => Sys2Proof.Machine.execVsar g t mk d a b s
  | .vcmp g t c mk d a b => Sys2Proof.Machine.execVcmp g t c mk d a b s
  | .vsel g mk d a b c => Sys2Proof.Machine.execVsel g mk d a b c s
  | .vcvt g t src rm mk d a => Sys2Proof.Machine.execVcvt g t src rm mk d a s
  | .vpack g t p mk d a b => Sys2Proof.Machine.execVpack g t p mk d a b s
  | .vunpk g t p mk d a => Sys2Proof.Machine.execVunpk g t p mk d a s
  | .vbcast g t mk d a => Sys2Proof.Machine.execVbcast g t mk d a s
  | .vmovs g t d a ix => Sys2Proof.Machine.execVmovs g t d a ix s
  | .vperm g mk d a b => Sys2Proof.Machine.execVperm g mk d a b s
  | .vshuf g mk d a pat => Sys2Proof.Machine.execVshuf g mk d a pat s
  | .vredsum g t rm mk d a => Sys2Proof.Machine.execVredsum g t rm mk d a s
  | .vredmax g t mk d a => Sys2Proof.Machine.execVredmax g t mk d a s
  | .vredmin g t mk d a => Sys2Proof.Machine.execVredmin g t mk d a s
  | .vscan g t rm op mk d a => Sys2Proof.Machine.execVscan g t rm op mk d a s
  | .vdot g t src rm mk d a b c => Sys2Proof.Machine.execVdot g t src rm mk d a b c s
  | .vclamp g t mk d a b c => Sys2Proof.Machine.execVclamp g t mk d a b c s
  | .vround g t rm mk d a => Sys2Proof.Machine.execVround g t rm mk d a s
  | .vmov g mk d a => Sys2Proof.Machine.execVmov g mk d a s
  | .vmovi g t mk d imm => Sys2Proof.Machine.execVmovi g t mk d imm s
  | .vpopc g t mk d a => Sys2Proof.Machine.execVpopc g t mk d a s
  | .vcomp g mk d a => Sys2Proof.Machine.execVcomp g mk d a s
  | .vexpnd g mk d a => Sys2Proof.Machine.execVexpnd g mk d a s
  | .bload g h fmt d m => Sys2Proof.Machine.execBload g h fmt d m s
  | .bquery g d b => Sys2Proof.Machine.execBquery g d b s
  | .mma g nmask af d a b => Sys2Proof.Machine.execMma g nmask af d a b s
  | .mmax g nmask af d a b => Sys2Proof.Machine.execMmax g nmask af d a b s
  | .accz g d => Sys2Proof.Machine.execAccz g d s
  | .accanch g d imm => Sys2Proof.Machine.execAccanch g d imm s
  | .accout g t rm mk d a row => Sys2Proof.Machine.execAccout g t rm mk d a row s
  | .accadd g d a => Sys2Proof.Machine.execAccadd g d a s
  | .accst g h d m row => Sys2Proof.Machine.execAccst g h d m row s
  | .accld g h d m row => Sys2Proof.Machine.execAccld g h d m row s
  | .tmov g d a => Sys2Proof.Machine.execTmov g d a s
  | .tmovTr g d a => Sys2Proof.Machine.execTmovTr g d a s
  | .tcvt g t src rm d a => Sys2Proof.Machine.execTcvt g t src rm d a s
  | .tzero g d => Sys2Proof.Machine.execTzero g d s
  | .tldv g d a row => Sys2Proof.Machine.execTldv g d a row s
  | .tstv g d a row => Sys2Proof.Machine.execTstv g d a row s
  | .tgetsc g d a row => Sys2Proof.Machine.execTgetsc g d a row s
  | .tsetsc g d a row => Sys2Proof.Machine.execTsetsc g d a row s
  | .mfence g => Sys2Proof.Machine.execMfence g s
  | .mxstat g d a => Sys2Proof.Machine.execMxstat g d a s
  | .mxsend g col kind n d a b c => Sys2Proof.Machine.execMxsend g col kind n d a b c s
  | .capmk g d a => Sys2Proof.Machine.execCapmk g d a s
  | .caprev g a => Sys2Proof.Machine.execCaprev g a s
  | .bputCommand op => Sys2Proof.Machine.execBputCommand op s
  | .bdropCommand op => Sys2Proof.Machine.execBdropCommand op s
  | .trap g imm => Sys2Proof.Machine.execTrap g imm s
  | .eret g => Sys2Proof.Machine.execEret g s
  | .sysrd g d sel => Sys2Proof.Machine.execSysrd g d sel s
  | .syswr g sel a => Sys2Proof.Machine.execSyswr g sel a s
  | .spurge g d a b c => Sys2Proof.Machine.execSpurge g d a b c s
  | .winset g d a b c => Sys2Proof.Machine.execWinset g d a b c s
  | .fmtset g d a b => Sys2Proof.Machine.execFmtset g d a b s
  | .cntrd g d a => Sys2Proof.Machine.execCntrd g d a s
  | .attest g d a b => Sys2Proof.Machine.execAttest g d a b s
  | .dbgwp g d a b c => Sys2Proof.Machine.execDbgwp g d a b c s
  | .dbgstep g d a b => Sys2Proof.Machine.execDbgstep g d a b s
  | .dbgstepTimeout core slot => Sys2Proof.Machine.execDbgstepTimeout core slot s
  | .stepEnd core slot => Sys2Proof.Machine.execStepEnd core slot s
  | .dbgstop g d a b => Sys2Proof.Machine.execDbgstop g d a b s
  | .snap g d => Sys2Proof.Machine.execSnap g d s
  | .keywipe g a => Sys2Proof.Machine.execKeywipe g a s
  | .fuserd g d a => Sys2Proof.Machine.execFuserd g d a s
  | .unlock g d a => Sys2Proof.Machine.execUnlock g d a s
  | .dbgcapGrant g a b => Sys2Proof.Machine.execDbgcapGrant g a b s
  | .dbgcapRevoke g => Sys2Proof.Machine.execDbgcapRevoke g s
  | .sluiceGrant core slot => Sys2Proof.Machine.execSluiceGrant core slot s
  | .commitComplete core slot => Sys2Proof.Machine.execCommitComplete core slot s
  | .exclusiveGrant core slot => Sys2Proof.Machine.execExclusiveGrant core slot s
  | .preemptionRequest core => Sys2Proof.Machine.execPreemptionRequest core s
  | .taskResume core => Sys2Proof.Machine.execTaskResume core s
  | .messageDelivery ix => Sys2Proof.Machine.execMessageDelivery ix s
  | .messageUndeliverable ix => Sys2Proof.Machine.execMessageUndeliverable ix s
  | .engineCommit op ix => Sys2Proof.Machine.execEngineCommit op ix s
  | .panApplication op => Sys2Proof.Machine.execPanApplication op s
  | .brineApplication op => Sys2Proof.Machine.execBrineApplication op s
  | .brineSendHome die key => Sys2Proof.Machine.execBrineSendHome die key s
  | .crystallize die key => Sys2Proof.Machine.execCrystallize die key s
  | .remoteGet src epoch space va n => Sys2Proof.Machine.execRemoteGet src epoch space va n s
  | .remotePut src epoch space va data => Sys2Proof.Machine.execRemotePut src epoch space va data s
  | .remoteRpan src epoch space va slot operand => Sys2Proof.Machine.execRemoteRpan src epoch space va slot operand s
  | .remoteAck op code count data => Sys2Proof.Machine.execRemoteAck op code count data s
  | .remoteAckTimeout op => Sys2Proof.Machine.execRemoteAckTimeout op s
  | .l1Eviction core key => Sys2Proof.Machine.execL1Eviction core key s
  | .l2Eviction key => Sys2Proof.Machine.execL2Eviction key s
  | .coreLoopTake core => Sys2Proof.Machine.execCoreLoopTake core s
  | .gangMemberStart core => Sys2Proof.Machine.execGangMemberStart core s
  | .taskComplete core => Sys2Proof.Machine.execTaskComplete core s
  | .entryTake q => Sys2Proof.Machine.execEntryTake q s
  | .queueSlotTake q => Sys2Proof.Machine.execQueueSlotTake q s
  | .queueEvict q => Sys2Proof.Machine.execQueueEvict q s
  | .arbiterVisit => Sys2Proof.Machine.execArbiterVisit s
  | .registerWrite vi off size value => Sys2Proof.Machine.execRegisterWrite vi off size value s
  | .hostMemoryAccess vi space va n data => Sys2Proof.Machine.execHostMemoryAccess vi space va n data s
  | .bridgeRelay modid vi m => Sys2Proof.Machine.execBridgeRelay modid vi m s
  | .queueEnable q => Sys2Proof.Machine.execQueueEnable q s
  | .queueDisable q => Sys2Proof.Machine.execQueueDisable q s
  | .stailWrite q value => Sys2Proof.Machine.execStailWrite q value s
  | .cheadWrite q value => Sys2Proof.Machine.execCheadWrite q value s
  | .queueReset q => Sys2Proof.Machine.execQueueReset q s
  | .resetLinkEpoch q => Sys2Proof.Machine.execResetLinkEpoch q s
  | .cmdUnassigned vi blk => Sys2Proof.Machine.execCmdUnassigned vi blk s
  | .mkspace vi => Sys2Proof.Machine.execMkspace vi s
  | .setpeer vi => Sys2Proof.Machine.execSetpeer vi s
  | .setqos vi => Sys2Proof.Machine.execSetqos vi s
  | .map vi => Sys2Proof.Machine.execMap vi s
  | .unmap vi => Sys2Proof.Machine.execUnmap vi s
  | .mapreg vi => Sys2Proof.Machine.execMapreg vi s
  | .replay vi => Sys2Proof.Machine.execReplay vi s
  | .kill vi => Sys2Proof.Machine.execKill vi s
  | .migrate vi => Sys2Proof.Machine.execMigrate vi s
  | .migrationLineCopy mc line => Sys2Proof.Machine.execMigrationLineCopy mc line s
  | .fring vi => Sys2Proof.Machine.execFring vi s
  | .rmspace vi => Sys2Proof.Machine.execRmspace vi s
  | .hotpol vi => Sys2Proof.Machine.execHotpol vi s
  | .rtwrite vi => Sys2Proof.Machine.execRtwrite vi s
  | .hotnessPeriod threshold => Sys2Proof.Machine.execHotnessPeriod threshold s
  | .dring vi => Sys2Proof.Machine.execDring vi s
  | .snaprd vi => Sys2Proof.Machine.execSnaprd vi s
  | .profbuf vi => Sys2Proof.Machine.execProfbuf vi s
  | .reclog vi => Sys2Proof.Machine.execReclog vi s
  | .rerun vi => Sys2Proof.Machine.execRerun vi s
  | .xtrig vi => Sys2Proof.Machine.execXtrig vi s
  | .stopBroadcast seq core => Sys2Proof.Machine.execStopBroadcast seq core s
  | .stopRecord seq => Sys2Proof.Machine.execStopRecord seq s
  | .replayDivergence space => Sys2Proof.Machine.execReplayDivergence space s
  | .profilePeriod => Sys2Proof.Machine.execProfilePeriod s
  | .pwrset vi => Sys2Proof.Machine.execPwrset vi s
  | .fwload vi => Sys2Proof.Machine.execFwload vi s
  | .fwswitch vi => Sys2Proof.Machine.execFwswitch vi s
  | .fwReady => Sys2Proof.Machine.execFwReady s
  | .handoverTimeout => Sys2Proof.Machine.execHandoverTimeout s
  | .rasring vi => Sys2Proof.Machine.execRasring vi s
  | .diereset vi => Sys2Proof.Machine.execDiereset vi s
  | .mreset vi => Sys2Proof.Machine.execMreset vi s
  | .moduleReset selfTestFails => Sys2Proof.Machine.execModuleReset selfTestFails s
  | .dieError die => Sys2Proof.Machine.execDieError die s
  | .dieResetTimeout die => Sys2Proof.Machine.execDieResetTimeout die s
  | .firmwareWatchdog => Sys2Proof.Machine.execFirmwareWatchdog s
  | .powerArbiterTick freqs budgets => Sys2Proof.Machine.execPowerArbiterTick freqs budgets s
  | .thermalHold die temp => Sys2Proof.Machine.execThermalHold die temp s
  | .thermalRelease die temp => Sys2Proof.Machine.execThermalRelease die temp s
  | .thermalTrip die temp => Sys2Proof.Machine.execThermalTrip die temp s
  | .patrolScrub mc line bad => Sys2Proof.Machine.execPatrolScrub mc line bad s
  | .jobset vi => Sys2Proof.Machine.execJobset vi s
  | .jobclr vi => Sys2Proof.Machine.execJobclr vi s
  | .engineInstructionCompleted core matrix => Sys2Proof.Machine.execEngineInstructionCompleted core matrix s
  | .attestRecordWritten op => Sys2Proof.Machine.execAttestRecordWritten op s
  | .laneRepair link lanes => Sys2Proof.Machine.execLaneRepair link lanes s

end Sys2Proof.Machine
end

