-- ==== Sys2Proof/Machine/Sched.lean ====
section
/-! DEFINITION. What a step does before an instruction or event runs: it takes the agenda's next choice, or one of its
own where the agenda is empty, and fetches; and how a program is placed for the next step. -/

namespace Sys2Proof.Machine

/-- The timeout event of a wait, where the wait has lasted its limit. -/
def Pkg.timeoutOf (p : Pkg) (x : CtxRef) (k : WaitKind) : Option Instr :=
  match k with
  | .join => if p.expired x k Config.joinTimeout then some (.joinTimeout x.core x.slot) else none
  | .bararr => if p.expired x k Config.barTimeout then some (.bararrTimeout x.core x.slot) else none
  | .barwait => if p.expired x k Config.barTimeout then some (.barwaitTimeout x.core x.slot) else none
  | .waitz | .waitne =>
    if p.expired x k Config.waitTimeout then some (.waitTimeout x.core x.slot) else none
  | .msgrecv => if p.expired x k Config.msgTimeout then some (.msgrecvTimeout x.core x.slot) else none
  | .fenceE => if p.expired x k Config.fenceETimeout then some (.fenceETimeout x.core x.slot) else none
  | .fenceX => if p.expired x k Config.fenceXTimeout then some (.fenceXTimeout x.core x.slot) else none
  | .step => if p.expired x k Config.stepTimeout then some (.dbgstepTimeout x.core x.slot) else none
  | .scoreboard | .engine | .exit | .mfence | .exclusive | .ops | .slot => none

/-- An event that brings an outstanding operation on, for an agenda that lists nothing. -/
def opEvent (p : Pkg) (o : Op) : Option Instr :=
  match o.kind with
  | .copy .. | .put .. | .get .. =>
    match o.kind.shape with
    | some x =>
      match List.find? (fun f => x.starts f && !o.done.contains f) (List.range (x.total + 1)) with
      | some f => some (.engineCommit o.id f)
      | none => some (.engineCommit o.id (x.total + (o.done.filter (x.total ≤ ·)).length))
    | none => none
  | .pan .. =>
    match o.panNext with
    | some c => some (if p.brineFits c then .brineApplication o.id else .panApplication o.id)
    | none => none
  | .bput .. => some (.bputCommand o.id)
  | .bdrop .. => some (.bdropCommand o.id)
  | .attest .. => some (.attestRecordWritten o.id)
  | .rpan .. | .msg .. => none

/-- First event of a list that one of its members brings. -/
def firstEvent {α : Type} (f : α → Option Instr) : List α → Option Choice
  | [] => none
  | a :: t =>
    match f a with
    | some i => some (.event i)
    | none => firstEvent f t

/-- First choice of a list that one of its members brings. -/
def firstChoice {α : Type} (f : α → Option Choice) : List α → Option Choice
  | [] => none
  | a :: t =>
    match f a with
    | some c => some c
    | none => firstChoice f t

/-- The next instruction of an engine's queue, of a context or of any. -/
def Core.engineEvent (k : Core) (core : Nat) (slot : Option Nat) : Option Instr :=
  let mine (q : QEntry) : Bool := slot.isNone || slot == some q.owner.slot
  if k.vq.any mine then some (.engineInstructionCompleted core false)
  else if k.mq.any mine then some (.engineInstructionCompleted core true)
  else none

/-- What brings a context's commit on: what it is in flight for, its engine instructions, its grant. -/
def Pkg.commitEvent (p : Pkg) (x : CtxRef) : Option Instr :=
  let c := p.ctx x
  if c.inflight.isSome then if (p.retryBack x).backDone x then some (.commitComplete x.core x.slot) else none
  else if c.req.isNone then none
  else
    match (p.core x.core).engineEvent x.core (some x.slot) with
    | some i => some i
    | none => if p.grantable x then some (.sluiceGrant x.core x.slot) else none

/-- What brings a context on that neither waits nor is held; of one that has halted or ended, its granted commit still finishes (R69). -/
def Pkg.forward (p : Pkg) (x : CtxRef) : Option Choice :=
  let c := p.ctx x
  if c.st = .free ∨ c.st = .halted then
    if c.inflight.isSome then (p.commitEvent x).map .event else none
  else
    match p.commitEvent x with
    | some i => some (.event i)
    | none =>
      if c.stepDone then some (.event (.stepEnd x.core x.slot))
      else if c.wait.isNone && c.st == .running && c.mayIssue then some (.run x.core x.slot)
      else none

/-- What ends a context's wait. -/
def Pkg.awaited (p : Pkg) (x : CtxRef) : Option Choice :=
  let c := p.ctx x
  match c.wait with
  | none => none
  | some (k, _) =>
    if c.st ≠ .waiting then none
    else if k = .exclusive && c.exclWant.isSome then some (.event (.exclusiveGrant x.core x.slot))
    else
      match (p.core x.core).engineEvent x.core none, p.timeoutOf x k with
      | some i, _ => some (.event i)
      | none, some i => some (.event i)
      | none, none => none

/-- What a core's loop does next. -/
def Pkg.coreEvent (p : Pkg) (c : Nat) : Option Instr :=
  let k := p.core c
  if p.taskDone c || (p.savedDone c).isSome then some (.taskComplete c)
  else if ((p.nextRecord c).map (p.mayTake c)) == some true then some (.coreLoopTake c)
  else if k.inbox.isEmpty && p.mayResume c then some (.taskResume c)
  else
    match k.task with
    | some t => if t.info.gang.isSome && !t.live && t.ended.isNone && p.slotReady ⟨c, 0⟩ && ((t.info.gang.map p.gangReady) == some true) then
        some (.gangMemberStart c) else none
    | none => none

/-- What the front end does next for a queue. -/
def Pkg.queueEvent (p : Pkg) (n : Nat) : Option Instr :=
  let q := p.queue n
  if p.slotTurn n then some (.queueSlotTake n)
  else if q.st == .active && q.graph.isNone && q.waiting.isEmpty && q.stail != q.shead && p.hasSlot n then some (.entryTake n)
  else if p.hasSlot n && (p.takeable n).isSome then some .arbiterVisit
  else none

/-- A barrier group whose members have all arrived. -/
def barEvent (e : Nat × Bar) : Option Instr :=
  if !e.2.members.isEmpty && e.2.members.all (e.2.flags.contains ·) then some (.barrierPhaseComplete e.1) else none

/-- Contexts from a place on, round to it. -/
def Pkg.rota (p : Pkg) : List CtxRef :=
  let l := p.allCtxs
  let n := p.free / 4 % max 1 l.length
  l.drop n ++ l.take n

/-- A message on its way, each in turn: delivered, or undeliverable when its time is over; in replay either, in turn. -/
def Pkg.messageEvent (p : Pkg) (l : List Flight) : Choice :=
  let n := max 1 l.length
  let i := p.free / 4 % n
  match l[i]? with
  | some f =>
    let late := if (p.replayOf f.space).isSome then p.free / 4 / n % 2 == 1 else f.late p
    .event (if late then .messageUndeliverable i else .messageDelivery i)
  | none => .tick 256

/-- A core's engine takes a command that waits for it. -/
def Pkg.engineTakes (p : Pkg) : Option Choice :=
  firstChoice (fun (e : Nat × Core) =>
    if e.2.commands .vector ≠ 0 then some (.accept e.1 false)
    else if e.2.commands .matrix ≠ 0 then some (.accept e.1 true)
    else none) p.cores

/-- What the agents beside the contexts do next: barrier groups, core loops, the front end. -/
def Pkg.background (p : Pkg) : Option Choice :=
  match firstEvent barEvent p.bars with
  | some c => some c
  | none =>
    match firstEvent p.coreEvent (p.cores.map Prod.fst) with
    | some c => some c
    | none => firstEvent p.queueEvent (p.queues.map Prod.fst)

/-- Outstanding operations, messages, contexts that wait, engines, and time, in turn. -/
def Pkg.pending (p : Pkg) (l : List CtxRef) : Choice :=
  match p.free % 4, p.flights, firstEvent (opEvent p) (p.ops.drop (p.free / 4 % max 1 p.ops.length)) with
  | 0, f :: t, _ => p.messageEvent (f :: t)
  | 1, _, some c => c
  | 2, _, _ =>
    match List.find? (fun x => (p.ctx x).st != .free && (p.ctx x).mayIssue) l with
    | some x => .run x.core x.slot
    | none => .tick 256
  | _, _, _ => ((if p.free / 4 % 2 = 0 then p.engineTakes else none).or (firstChoice p.awaited l)).getD (.tick 256)

/-- What moves where the agenda is empty: what the module owes, contexts in turn, the other agents,
what waits, and time; one step in eight, the others go first. DESIGN CHOICE, log entry 12. -/
def Pkg.auto (p : Pkg) : Choice :=
  let l := p.rota
  if p.duty.isSome then .owed
  else
    match p.free % 8, p.background, firstChoice p.forward l with
    | 7, some c, _ => c
    | 3, none, some _ => p.pending l
    | _, _, some c => c
    | _, some c, none => c
    | _, none, none => p.pending l

/-- The next choice, and the package without it. -/
def Pkg.choose (p : Pkg) : Choice × Pkg :=
  match p.agenda with
  | c :: t => (c, { p with agenda := t })
  | [] => (p.auto, p)

/-- What the fetch gives a step. -/
inductive Fetched where
  | issue (i : Instr) (p : Pkg)
  | stop (p : Pkg)
  deriving DecidableEq, Repr

/-- A core's cached copy of the line at a context's PC, where its parity fails: discarded (R174). -/
def Pkg.discardBad (p : Pkg) (x : CtxRef) : Pkg :=
  match p.route? (p.spaceOf x.core) (lineOfPc (p.ctx x).regs.pc) with
  | none => p
  | some r =>
    match Tab.find? (p.core x.core).icache r.key with
    | some l => if zeroBitsOk l && !parityOk l then p.modCore x.core fun k => { k with icache := k.icache.drop r.key } else p
    | none => p

/-- Fetch for a context that may issue (steps 1 and 2 of Table 7.11). -/
def Pkg.fetchFor (p : Pkg) (x : CtxRef) : Fetched :=
  let p := { p with cur := x, req := some x.core }
  if !(p.ctx x).mayIssue then .stop p
  else
    match (M.fetch x).run p with
    | .ok (i, q) => .issue i q
    | .error e => .stop ((p.discardBad x).settle x e)

/-- Time passes, as far as the next tick at which profiling has something to do (R417). DESIGN CHOICE, log entry 14. -/
def Pkg.tick (p : Pkg) (n : Nat) : Pkg :=
  let p := p.profilePeriod
  { p with pt := match p.profDue with
      | some t => min (p.pt + n) t
      | none => p.pt + n }

/-- Firmware sets QSHIFT, 10 to 24 (R378, R424). -/
def Pkg.setQshift (p : Pkg) (n : Nat) : Pkg := if 10 ≤ n ∧ n ≤ 24 then { p with fw := { p.fw with qshift := n } } else p

/-! ### Placing a program -/

/-- A fetch line with one instruction word in slot `k`, its parity right (R172, R173). -/
def placeLine (k : Nat) (w : BitVec 96) : Line :=
  let body : Nat := w.toNat <<< (96 * k)
  let par : Nat := (List.range 8).foldl (fun a j => a + (if parity (fld body (60 * j + 59) (60 * j)) 60 then 1 <<< j else 0)) 0
  BitVec.ofNat 512 (body + par <<< (480 + 16))

/-- A record that reserves everything a task can (Table 2.1): 32 vector registers for each of four contexts, four
accumulators, two B slots. -/
def placeRecord : BitVec 512 := BitVec.ofNat 512 (3 <<< 272 + 0xF <<< 268 + 3 <<< 264 + 3 <<< 262)

/-- A window over all of memory below the local-store window, with every right but INV, homed on core 0. -/
def placeWindow : BitVec 256 := BitVec.ofNat 256 (0xFEFFFFFFFF <<< 88 + 0x3F)

def placeTask : Task :=
  { info := { queue := 0, seq := 0, recva := 0, rcd := placeRecord, gang := none, doomed := none }, space := 0, start := 0, launched := 0, live := true,
    exited := false, ended := none, silent := false }

/-- Place an instruction word where the current context fetches its next instruction: a resident task, a context that
may issue, a window that grants EXEC, the line in its instruction cache, and nothing that moves before it.
DEDUCED, log entry 19. -/
def Pkg.place (p : Pkg) (w : BitVec 96) : Pkg :=
  let x := p.cur
  let p := { p with agenda := [.run x.core x.slot] }
  let p := p.modCore x.core fun k => { k with task := match k.task with
    | some t => some t
    | none => some placeTask }
  let p := if (p.ctx x).mayIssue ∧ (p.ctx x).req.isNone ∧ (p.ctx x).inflight.isNone ∧ (p.ctx x).wait.isNone then p
    else p.modCtx x fun c => { c with st := .running, phase := .open, due := none, req := none, inflight := none, owed := [],
                                      inCut := false, load := none, excl := none, exclWant := none, nextWant := none,
                                      stepping := none, wait := none, gen := if c.st = .free then c.gen + 1 else c.gen,
                                      ch := if c.st = .free then Chunk.new c.regs else c.ch }
  let pc := (p.ctx x).regs.pc
  let s := p.spaceOf x.core
  let p := match p.route s (lineOfPc pc) rEXEC with
    | some _ => p
    | none => p.modSpace s fun sp => { sp with windows := (31, placeWindow) :: (sp.windows.filter fun w => w.1 != 31) }
  let key := match p.route? s (lineOfPc pc) with
    | some r => r.key
    | none => lineKey s (lineOfPc pc)
  p.modCore x.core fun k => { k with icache := k.icache.put key (placeLine (slotOfPc pc) w) }

end Sys2Proof.Machine
end

