-- ==== Sys2Proof/Machine/Step.lean ====
section
/-! DEFINITION. One step: the agenda's next choice, or the machine's own where it lists none: an issue, an event, a write that
the module owes, or time. A SCRAPPED module stays in reset (Table 21.1). -/

namespace Sys2Proof.Machine

def step (s : State) : Host.Outcome State Fault Refusal :=
  if s.fuses.lcs = 4 then s.run id
  else
    match s.pkg.choose with
    | (.tick n, p) => s.run fun _ => p.tick n
    | (.qshift n, p) => s.run fun _ => p.setQshift n
    | (.upset u, p) => s.run fun _ => p.suffer u
    | (.accept c m, p) => s.run fun _ => p.modCore c (·.accept m)
    | (.owed, p) => s.run fun _ => p.duty.getD p
    | (.event i, p) => if i.guard?.isNone then exec i { s with pkg := p } else .fault .notAnEvent
    | (.run c k, p) =>
      match p.fetchFor ⟨c, k⟩ with
      | .issue i q => exec i { s with pkg := q }
      | .stop q => s.run fun _ => q

/-- The state with an instruction where `step` fetches its next one. -/
def State.withFetchWord (s : State) (_nbits w : Nat) : State := { s with pkg := s.pkg.place (BitVec.ofNat 96 w) }

end Sys2Proof.Machine
end

