-- ==== Sys2Proof/Safety.lean ====
section
/-! DEFINITION. The words that claims are stated in: canonical memory, the issuing context, when an instruction may
complete, and the state in which one has retired. -/

namespace Sys2Proof.Machine

/-- Memory's canonical form: addresses rising, no byte listed that equals what an unlisted one reads as. -/
def Memory.wf (m : List Host.Cell) : Bool := Tab.wf 0 m

/-- Between steps no physical write is outstanding and memory is canonical. -/
def Sealed (s : State) : Prop := Memory.wf s.pkg.mem = true ∧ s.pkg.log = []

/-- A step that neither faults nor refuses. -/
def Steps (s t : State) : Prop := step s = .next t

/-- One byte of physical memory. -/
def State.byte (s : State) (a : Nat) : Byte := Tab.get 0 s.pkg.mem a

/-- The issuing context, and its registers. -/
def State.ctx (s : State) : Ctx := s.pkg.ctx s.pkg.cur
def State.regs (s : State) : Regs := s.ctx.regs

/-- Nothing stands in the way of an instruction's own effect: the context may issue, the guard holds, no register read or
written waits for a token or an engine, the vector registers are allotted, the engine's queue has room, and the chunk
neither escalates (R65) nor is cut by its signatures (R55). -/
def Pkg.ready (p : Pkg) (g : Guard) (srcs dsts vsrcs vdsts : List Nat) (engine : Option Engine) : Bool :=
  let c := p.ctx p.cur
  let k := p.core p.cur.core
  c.mayIssue && guardHolds g c.regs && (srcs ++ dsts).all (fun r => (Tab.find? c.regs.pend r).isNone) &&
    (vsrcs ++ vdsts).all (fun v => decide (v < p.allotment p.cur.core)) && !k.owes p.cur.slot srcs vsrcs &&
    (match engine with
      | none => true
      | some e => decide (k.commands e < 2)) &&
    !p.overreaches p.cur && (c.ch.count == 0 || !(overThreshold c.ch.rlines || overThreshold c.ch.wlines))

/-- `Pkg.ready` for an instruction of scalar and predicate registers alone. -/
def State.ready (s : State) (g : Guard) (srcs dsts : List Nat) : Prop := s.pkg.ready g srcs dsts [] [] none = true

/-- As `Pkg.ready`, for a cut instruction: the chunk is empty and every commit before it is complete (R56). -/
def Pkg.readyEarly (p : Pkg) (g : Guard) (srcs dsts vsrcs vdsts : List Nat) : Bool :=
  p.ready g srcs dsts vsrcs vdsts none && (p.ctx p.cur).idle

/-- The same, where its completion is its one event: a replay allows it (R421). -/
def Pkg.readyCut (p : Pkg) (g : Guard) (srcs dsts vsrcs vdsts : List Nat) : Bool :=
  p.readyEarly g srcs dsts vsrcs vdsts &&
    p.replayAllows (p.spaceOf p.cur.core) 2 p.cur.gcid (p.ctx p.cur).chunkseq.toNat 0

def State.readyCut (s : State) (g : Guard) (srcs dsts : List Nat) : Prop := s.pkg.readyCut g srcs dsts [] [] = true

/-- What an instruction has made of the package neither escalates its chunk nor overflows its signatures: what `Pkg.ready`
says of the package before holds of the one after. -/
def Pkg.fits (p q : Pkg) : Bool :=
  let h := (q.ctx p.cur).ch
  !q.overreaches p.cur && ((p.ctx p.cur).ch.count == 0 || !(overThreshold h.rlines || overThreshold h.wlines))

/-- The package with a context's registers changed. -/
def Pkg.withRegs (p : Pkg) (x : CtxRef) (f : Regs → Regs) : Pkg := p.modCtx x fun c => { c with regs := f c.regs }

/-- The state in which the current context's instruction, having made `q` of the package, has retired: inside its chunk, or
as a cut instruction. -/
def State.retiredOn (s : State) (q : Pkg) (fl : Flow) : State := { s with pkg := (q.finishIn s.pkg.cur fl).seal }
def State.cutRetired (s : State) (q : Pkg) (fl : Flow) : State := { s with pkg := (q.finishCut s.pkg.cur fl).seal }

/-- The state in which an instruction has retired, its context's registers having become `f` of themselves. -/
def State.retired (s : State) (f : Regs → Regs) (fl : Flow) : State := s.retiredOn (s.pkg.withRegs s.pkg.cur f) fl

/-- Instruction `i` completes in `s`, its effect `f` on its context's registers. -/
def State.completes (s : State) (i : Instr) (f : Regs → Regs) : Prop := exec i s = .next (s.retired f .next)

/-- Instruction `i` does not complete: it takes a precise fault. -/
def State.faults (s : State) (i : Instr) (cause addr info : Nat) : Prop :=
  exec i s = .next { s with pkg := (s.pkg.fault s.pkg.cur cause (BitVec.ofNat 64 addr) info).seal }

/-- Instruction `i` does not complete: its context waits. -/
def State.waits (s : State) (i : Instr) (k : WaitKind) : Prop :=
  exec i s = .next { s with pkg := (s.pkg.settle s.pkg.cur (.wait k)).seal }

/-- The package after an operation has joined the current context's deferred-effect list, its token register pending (R57). -/
def Pkg.deferring (p : Pkg) (kind : EKind) (col : Nat) (tok : SReg) : Pkg :=
  p.modCtx p.cur fun c =>
    { c with ch := { c.ch with deferred := c.ch.deferred ++ [{ kind, col, tok := some tok.toNat, ret := c.regs.retired }] },
             regs := { c.regs with pend := c.regs.pend.put tok.toNat (c.tag c.ch.deferred.length) } }

/-- Fewer than 32 deferred effects stand in the open chunk (R57). -/
def State.canDefer (s : State) : Prop := s.ctx.ch.deferred.length < 32

/-- Instruction `i` defers an operation and retires. -/
def State.defers (s : State) (i : Instr) (kind : EKind) (col : Nat) (tok : SReg) : Prop :=
  exec i s = .next (s.retiredOn (s.pkg.deferring kind col tok) .next)

/-! ### What an instruction has made of the package -/

/-- Accesses counted, for the chunk's commit (R441). -/
def Pkg.counting (p : Pkg) (ix n : Nat) : Pkg :=
  if n = 0 then p else p.modCtx p.cur fun c => { c with ch := { c.ch with adv := c.ch.adv.put ix (c.ch.adv.get 0 ix + n) } }

/-- A time-dependent outcome of the current chunk, noted for the log (R420). -/
def Pkg.noting (p : Pkg) (out : Nat) (v : Word) : Pkg :=
  p.modCtx p.cur fun c => { c with ch := { c.ch with outs := c.ch.outs ++ [{ out, value := v, place := c.ch.count % 256 }] } }

/-- In replay the log says that the current instruction timed out, and what it then wrote (R420). -/
def State.timedOut (s : State) (v : Word) : Prop := s.pkg.replayOutcome s.pkg.cur = some (2, v)

/-- An engine instruction of the current context queued (R22, R274): `m` is the matrix engine's, `bslot` the B slot it uses. -/
def Pkg.queued (p : Pkg) (m : Bool) (sdst vdst : List Nat) (bslot : Option Nat := none) : Pkg :=
  p.modCore p.cur.core fun k =>
    let e : QEntry := { owner := (p.ctx p.cur).chunkId p.cur.slot, sdst, vdst, matrix := m, bslot, taken := false }
    if m then { k with mq := k.mq ++ [e] } else { k with vq := k.vq ++ [e] }

/-- A line entered in the current chunk's read, or write, signature. -/
def Pkg.enterR (p : Pkg) (key : Nat) : Pkg :=
  p.modCtx p.cur fun c => { c with ch := { c.ch with rlines := insertNat key c.ch.rlines } }
def Pkg.enterW (p : Pkg) (key : Nat) : Pkg :=
  p.modCtx p.cur fun c => { c with ch := { c.ch with wlines := insertNat key c.ch.wlines } }

/-- Key of a matrix register's line, or a capability slot's (R297), for the current context. -/
def Pkg.regLine (p : Pkg) (n : Nat) : Nat := lineKey (p.spaceOf p.cur.core) (regLineVa p.cur.core n)

/-- The chunk before the current one holds no uncommitted version of a line that this one is to write. -/
def Pkg.writable (p : Pkg) (key : Nat) : Prop := (p.ctx p.cur).reqWrote key = false

/-- The current context's running chunk. -/
def Pkg.chunk (p : Pkg) : ChunkId := (p.ctx p.cur).chunkId p.cur.slot

/-- A tile register as the current context reads it, and whether it may write it (R298). -/
def Pkg.tile (p : Pkg) (n : TReg) : Tile :=
  let t := (p.core p.cur.core).tiles.get .zero n.toNat
  match t.shadow with
  | some (k, old) => if k.slot = p.cur.slot then t.cur else old
  | none => t.cur
def Pkg.tileFree (p : Pkg) (n : TReg) : Prop :=
  p.writable (p.regLine n.toNat) ∧
    ∀ k old, ((p.core p.cur.core).tiles.get .zero n.toNat).shadow = some (k, old) → k.slot = p.cur.slot

/-- The package after the current context has written a tile register (R53, R298). -/
def Pkg.putTile (p : Pkg) (n : TReg) (v : Tile) : Pkg :=
  let p := p.enterW (p.regLine n.toNat)
  p.modCore p.cur.core fun k =>
    let t := k.tiles.get .zero n.toNat
    { k with tiles := k.tiles.set .zero n.toNat { cur := v, shadow := match t.shadow with
        | some s => some s
        | none => some (p.chunk, t.cur) } }

/-- An accumulator as the current context reads it, whether it is reserved, and whether the context may write it (R62, R298). -/
def Pkg.acc (p : Pkg) (n : Nat) : AccBank := ((p.core p.cur.core).accs.get .zero n).readBy p.cur.slot
def Pkg.accMine (p : Pkg) (n : Nat) : Prop := n < 4 ∧ p.rcdBit p.cur.core (268 + n) = true
def Pkg.accFree (p : Pkg) (n : Nat) : Prop :=
  p.writable (p.regLine (8 + n)) ∧ ∀ k, ((p.core p.cur.core).accs.get .zero n).w = some k → k.slot = p.cur.slot
def Pkg.putAcc (p : Pkg) (n : Nat) (f : AccBank → AccBank) : Pkg :=
  let p := p.enterW (p.regLine (8 + n))
  p.modCore p.cur.core fun k => { k with accs := k.accs.set .zero n ((k.accs.get .zero n).writeBy p.chunk f) }

/-- Instruction `i`, having made `q` of the package, retires inside its chunk; or is queued at an engine and retires; or
retires as a cut instruction. -/
def State.makes (s : State) (i : Instr) (q : Pkg) (fl : Flow := .next) : Prop :=
  s.pkg.fits q = true → exec i s = .next (s.retiredOn q fl)
def State.makesQueued (s : State) (i : Instr) (m : Bool) (sdst vdst : List Nat) (q : Pkg) (bslot : Option Nat := none) : Prop :=
  s.pkg.fits (q.queued m sdst vdst bslot) = true → exec i s = .next (s.retiredOn (q.queued m sdst vdst bslot) .next)
def State.makesCut (s : State) (i : Instr) (q : Pkg) : Prop := exec i s = .next (s.cutRetired q .next)

/-- What a checked transfer to a target whose line has been fetched does: the jump where TGT is set, an illegal target where not. -/
def State.jumps (s : State) (i : Instr) (l : Line) (t : Word) (q : Pkg) : Prop :=
  if targetBit l (slotOfPc t) = true then s.makes i q (.jump t) else s.faults i 5 t.toNat 0

/-- A vector instruction completes: `cnt` is what it counts for each active lane, `f` its effect on the registers. -/
def State.vector (s : State) (i : Instr) (mk : Option SReg) (cnt : Option Nat) (k : Nat) (sdst vdst : List Nat)
    (f : Regs → Regs) : Prop :=
  let p := match cnt with
    | some c => s.pkg.counting c (k * (lanesOn s.regs mk).length)
    | none => s.pkg
  exec i s = .next (s.retiredOn ((p.withRegs s.pkg.cur f).queued false sdst vdst) .next)

/-- `Pkg.ready` for a vector, or a matrix, instruction. -/
def State.readyV (s : State) (g : Guard) (mk : Option SReg) (srcs dsts vsrcs vdsts : List Nat) : Prop :=
  s.pkg.ready g (srcs ++ maskSrcs mk) dsts vsrcs vdsts (some .vector) = true
def State.readyM (s : State) (g : Guard) (srcs dsts vsrcs vdsts : List Nat) : Prop :=
  s.pkg.ready g srcs dsts vsrcs vdsts (some .matrix) = true

/-- An element of `n` bytes passes the checks of R235, or fails the first of them that gives `cause`. -/
def State.elOk (s : State) (need va n : Nat) : Prop :=
  va < 2 ^ 56 ∧ va % n = 0 ∧ (s.pkg.route (s.pkg.spaceOf s.pkg.cur.core) va need).isSome = true
def State.elBad (s : State) (need va n cause : Nat) : Prop :=
  (2 ^ 56 ≤ va ∧ cause = 2) ∨ (va < 2 ^ 56 ∧ va % n ≠ 0 ∧ cause = 6) ∨
    (va < 2 ^ 56 ∧ va % n = 0 ∧ s.pkg.route (s.pkg.spaceOf s.pkg.cur.core) va need = none ∧ cause = 2)

/-- A vector load: its elements are checked in lane order, then read, and its active lanes written. -/
def State.vectorLoads (s : State) (i : Instr) (n : Nat) (h : Hint) (inv : Bool) (d : VReg) (c : SReg) (addr : Nat → Word) : Prop :=
  (∀ pre j post cause, accessLanes s.regs c = pre ++ j :: post → (∀ k ∈ pre, s.elOk rRD (addr k).toNat n) →
    s.elBad rRD (addr j).toNat n cause → s.faults i cause (addr j).toNat (j * 2 ^ 16)) ∧
  ((∀ k ∈ accessLanes s.regs c, s.elOk rRD (addr k).toNat n) → ∀ l q,
    (M.loadEls s.pkg.cur n inv (h == .noalloc) addr (accessLanes s.regs c)).run s.pkg = .ok (l, q) →
      l.map Prod.fst = accessLanes s.regs c ∧ s.makes i (q.withRegs q.cur (·.setLanes d.toNat fun j => Tab.find? l j)))

/-- A vector store: its elements are checked, then stored, lane by lane, from the part it has reached (R100). -/
def State.vectorStores (s : State) (i : Instr) (n : Nat) (d : VReg) (c : SReg) (addr : Nat → Word) : Prop :=
  let js := (accessLanes s.regs c).filter fun j => decide (s.regs.part ≤ j)
  (∀ pre j post cause, js = pre ++ j :: post → (∀ k ∈ pre, s.elOk rWR (addr k).toNat n) →
    s.elBad rWR (addr j).toNat n cause → s.faults i cause (addr j).toNat (j * 2 ^ 16)) ∧
  ((∀ k ∈ js, s.elOk rWR (addr k).toNat n) → ∀ fl q,
    (M.storeParts s.pkg.cur (fun j => (addr j).toNat) (fun j => M.store s.pkg.cur (addr j).toNat n (s.regs.lane d.toNat j).toNat)
      s.regs.part (accessLanes s.regs c)).run s.pkg = .ok (fl, q) →
      s.makes i q fl)

/-- A copy's shape passes the checks of R248. -/
def State.copyOk (s : State) (h : Shape) : Prop :=
  h.total ≤ 2 ^ 40 - 1 ∧ (h.total ≠ 0 → ∀ w < h.n1 * h.n2, s.pkg.badRow (s.pkg.spaceOf s.pkg.cur.core) h w = none)

/-- An event, or an instruction, makes `q` of the package. -/
def State.does (s : State) (i : Instr) (q : Pkg) : Prop := exec i s = .next { s with pkg := q.seal }

/-- Block `b` of interface `vi` runs command `code`, and the firmware is not being switched (R370, R426); its arguments; how the
command completes, with a value or with an error code. -/
def State.runs (s : State) (vi : Nat) (b : Block) (code : Nat) : Prop :=
  ((s.pkg.vi vi).block b).running = true ∧ (((s.pkg.vi vi).block b).dw.get 0 0).toNat % 256 = code ∧ s.pkg.fw.switching = none
def State.arg (s : State) (vi : Nat) (b : Block) (n : Nat) : Nat := (((s.pkg.vi vi).block b).dw.get 0 n).toNat
def State.accepts (s : State) (i : Instr) (vi : Nat) (b : Block) (v : Nat) (q : Pkg) : Prop :=
  s.does i (q.endCmd vi b (2 ^ 62 + v % 2 ^ 56))
def State.rejects (s : State) (i : Instr) (vi : Nat) (b : Block) (e : Nat) : Prop :=
  s.does i (s.pkg.endCmd vi b (2 ^ 63 + e * 2 ^ 56))

end Sys2Proof.Machine
end

