-- ==== Sys2Proof/Certificates/Slice0/Obligations.lean ====
section
/-! DEFINITION. What is claimed of the model. A statement about an instruction holds for every state and operands that meet its
hypotheses; `Sys2Proof.Safety` says what the words of these hypotheses and conclusions mean. -/

namespace Sys2Proof.Machine

/-- Truth of a condition of Table 7.5 on two integers of one width: 0x00 to 0x05 signed, 0x06 to 0x09 unsigned (R184). -/
def condHolds {w : Nat} (c : Cond) (a b : BitVec w) : Prop :=
  match c with
  | .eq => a = b
  | .ne => a ≠ b
  | .lt => a.toInt < b.toInt
  | .le => a.toInt ≤ b.toInt
  | .gt => b.toInt < a.toInt
  | .ge => b.toInt ≤ a.toInt
  | .ltu => a.toNat < b.toNat
  | .leu => a.toNat ≤ b.toNat
  | .gtu => b.toNat < a.toNat
  | .geu => b.toNat ≤ a.toNat
  | .un => False

/-- Table 5.6 and R214: the default NaN of a scalar format. -/
def scalarNan (t : Ty) : Word := if t = .f64 then 0x7FF8000000000000 else 0x7FC00000

/-- R221's program: what the levels below `v` do to the count and the next address of an instruction at `pc`. -/
def backEdges (r : Regs) (next : Word) : Nat → Regs × Word
  | 0 => (r, next)
  | v + 1 =>
    if (r.lcOf v).toNat ≠ 0 ∧ r.leOf v = r.pc then
      if (r.lcOf v).toNat > 1 then (r.setLc v (BitVec.ofNat 64 ((r.lcOf v).toNat - 1)), r.lbOf v)
      else backEdges (r.setLc v 0) next v
    else backEdges r next v

/-- The integer element of a lane (R277), and an integer result as a lane (R271). -/
def laneElem (t : Ty) (r : Regs) (v : VReg) (j : Nat) : Int :=
  if t.signed = true then ((r.lane v.toNat j).setWidth t.width).toInt else (r.lane v.toNat j).toNat % 2 ^ t.width
def laneOf (t : Ty) (v : Int) : BitVec 32 :=
  if t.signed = true then (BitVec.ofInt t.width v).signExtend 32 else (BitVec.ofInt t.width v).setWidth 32

end Sys2Proof.Machine

open Sys2Proof Sys2Proof.Machine

/-! ### Scalar instructions -/

/-- R206, R208: the arithmetic rows of Table 8.2 and the divisions. In each, `a`, `b`, `c` name the registers, the result is
the table's, modulo 2^64, and nothing but S[D] changes beside the retirement. R206, R207: the logical rows, shifts and rotates
of Table 8.2; a rotated bit comes from `n` places below, modulo 64. -/
def Obligations.ArithmeticAndLogic : Prop :=
  (∀ (s : State) (g : Guard) (d a b c : SReg) (imm : BitVec 48) (hi : BitVec 16),
     (s.ready g [] [] → s.completes (.nop g) id) ∧
     (s.ready g [] [d.toNat] → s.completes (.movi g d imm) fun r => r.setS d (imm.signExtend 64)) ∧
     (s.ready g [a.toNat] [d.toNat] →
       s.completes (.mov g d a) (fun r => r.setS d (r.sr a)) ∧
       s.completes (.movhi g d a hi) (fun r => r.setS d (BitVec.ofNat 64 (hi.toNat * 2 ^ 48 + (r.sr a).toNat % 2 ^ 48))) ∧
       s.completes (.addi g d a imm) (fun r => r.setS d (BitVec.ofInt 64 ((r.sr a).toInt + imm.toInt))) ∧
       s.completes (.neg g d a) (fun r => r.setS d (BitVec.ofInt 64 (-(r.sr a).toInt)))) ∧
     (s.ready g [a.toNat, b.toNat] [d.toNat] →
       s.completes (.add g d a b) (fun r => r.setS d (BitVec.ofNat 64 ((r.sr a).toNat + (r.sr b).toNat))) ∧
       s.completes (.sub g d a b) (fun r => r.setS d (BitVec.ofInt 64 ((r.sr a).toNat - (r.sr b).toNat : Int))) ∧
       s.completes (.mul g d a b) (fun r => r.setS d (BitVec.ofNat 64 ((r.sr a).toNat * (r.sr b).toNat))) ∧
       s.completes (.mulh g d a b) (fun r => r.setS d (BitVec.ofInt 64 ((r.sr a).toInt * (r.sr b).toInt / 2 ^ 64))) ∧
       s.completes (.mulhn g d a b) (fun r => r.setS d (BitVec.ofNat 64 ((r.sr a).toNat * (r.sr b).toNat / 2 ^ 64))) ∧
       s.completes (.div g d a b) (fun r => r.setS d
         (if r.sr b = 0 then BitVec.ofInt 64 (-1) else BitVec.ofInt 64 ((r.sr a).toInt.tdiv (r.sr b).toInt))) ∧
       s.completes (.divn g d a b) (fun r => r.setS d
         (if r.sr b = 0 then BitVec.ofInt 64 (-1) else BitVec.ofNat 64 ((r.sr a).toNat / (r.sr b).toNat))) ∧
       s.completes (.rem g d a b) (fun r => r.setS d
         (if r.sr b = 0 then r.sr a else BitVec.ofInt 64 ((r.sr a).toInt.tmod (r.sr b).toInt))) ∧
       s.completes (.remn g d a b) (fun r => r.setS d
         (if r.sr b = 0 then r.sr a else BitVec.ofNat 64 ((r.sr a).toNat % (r.sr b).toNat)))) ∧
     (s.ready g [a.toNat, b.toNat, c.toNat] [d.toNat] →
       s.completes (.madd g d a b c)
         (fun r => r.setS d (BitVec.ofNat 64 ((r.sr a).toNat * (r.sr b).toNat + (r.sr c).toNat))))) ∧
  (∀ (s : State) (g : Guard) (d a b : SReg) (imm : BitVec 48) (n : BitVec 6),
     (s.ready g [a.toNat, b.toNat] [d.toNat] →
       s.completes (.and g d a b) (fun r => r.setS d (r.sr a &&& r.sr b)) ∧
       s.completes (.or g d a b) (fun r => r.setS d (r.sr a ||| r.sr b)) ∧
       s.completes (.xor g d a b) (fun r => r.setS d (r.sr a ^^^ r.sr b)) ∧
       s.completes (.andn g d a b) (fun r => r.setS d (r.sr a &&& ~~~r.sr b)) ∧
       s.completes (.shl g d a b) (fun r => r.setS d (BitVec.ofNat 64 ((r.sr a).toNat * 2 ^ ((r.sr b).toNat % 64)))) ∧
       s.completes (.shr g d a b) (fun r => r.setS d (BitVec.ofNat 64 ((r.sr a).toNat / 2 ^ ((r.sr b).toNat % 64)))) ∧
       s.completes (.sar g d a b) (fun r => r.setS d (BitVec.ofInt 64 ((r.sr a).toInt / 2 ^ ((r.sr b).toNat % 64)))) ∧
       ∃ v : Word, s.completes (.rol g d a b) (fun r => r.setS d v) ∧
         ∀ i < 64, v.getLsbD ((i + (s.regs.sr b).toNat) % 64) = (s.regs.sr a).getLsbD i) ∧
     (s.ready g [a.toNat] [d.toNat] →
       s.completes (.andi g d a imm) (fun r => r.setS d (r.sr a &&& imm.signExtend 64)) ∧
       s.completes (.ori g d a imm) (fun r => r.setS d (r.sr a ||| imm.signExtend 64)) ∧
       s.completes (.xori g d a imm) (fun r => r.setS d (r.sr a ^^^ imm.signExtend 64)) ∧
       s.completes (.not g d a) (fun r => r.setS d (~~~r.sr a)) ∧
       s.completes (.shli g d a n) (fun r => r.setS d (BitVec.ofNat 64 ((r.sr a).toNat * 2 ^ n.toNat))) ∧
       s.completes (.shri g d a n) (fun r => r.setS d (BitVec.ofNat 64 ((r.sr a).toNat / 2 ^ n.toNat))) ∧
       s.completes (.sari g d a n) (fun r => r.setS d (BitVec.ofInt 64 ((r.sr a).toInt / 2 ^ n.toNat))) ∧
       ∃ v : Word, s.completes (.roli g d a n) (fun r => r.setS d v) ∧
         ∀ i < 64, v.getLsbD ((i + n.toNat) % 64) = (s.regs.sr a).getLsbD i))

/-- R211, R212: CMP and CMPI set P[D] to the truth of their condition, SEL selects, PLOG looks its table up; p0 reads true and
a write to it is discarded (R180), which `setP` and `pr` say in `Obligations.RegisterFiles`. R206, R209, R210: smaller and
larger, bit counts, extension, bit fields and address arithmetic. -/
def Obligations.ComparisonsBitsAndFields : Prop :=
  (∀ (s : State) (g : Guard) (c : Cond) (d a b : SReg) (pd pa pb pc : PReg) (imm : BitVec 48) (tt : BitVec 4),
     (s.ready g [a.toNat, b.toNat] [] → ∃ t : Bool, s.completes (.cmp g c pd a b) (fun r => r.setP pd t) ∧
       (t = true ↔ condHolds c (s.regs.sr a) (s.regs.sr b))) ∧
     (s.ready g [a.toNat] [] → ∃ t : Bool, s.completes (.cmpi g c pd a imm) (fun r => r.setP pd t) ∧
       (t = true ↔ condHolds c (s.regs.sr a) (imm.signExtend 64))) ∧
     (s.ready g [a.toNat, b.toNat] [d.toNat] →
       s.completes (.sel g d a b pc) (fun r => r.setS d (if r.pr pc = true then r.sr a else r.sr b))) ∧
     (s.ready g [] [] → s.completes (.plog g pd pa pb tt) fun r =>
       r.setP pd (tt.getLsbD ((if r.pr pa = true then 2 else 0) + (if r.pr pb = true then 1 else 0))))) ∧
  (∀ (s : State) (g : Guard) (t : Ty) (d a b : SReg) (pos : BitVec 6) (len : BitVec 7) (sx : Bool) (m : MemOp),
     (s.ready g [a.toNat, b.toNat] [d.toNat] →
       s.completes (.min g d a b) (fun r => r.setS d (if (r.sr b).toInt < (r.sr a).toInt then r.sr b else r.sr a)) ∧
       s.completes (.max g d a b) (fun r => r.setS d (if (r.sr a).toInt < (r.sr b).toInt then r.sr b else r.sr a)) ∧
       s.completes (.minn g d a b) (fun r => r.setS d (if (r.sr b).toNat < (r.sr a).toNat then r.sr b else r.sr a)) ∧
       s.completes (.maxn g d a b) (fun r => r.setS d (if (r.sr a).toNat < (r.sr b).toNat then r.sr b else r.sr a)) ∧
       (pos.toNat + len.toNat ≤ 64 → 1 ≤ len.toNat → ∃ v : Word, s.completes (.bfi g d a b pos len) (fun r => r.setS d v) ∧
         ∀ i < 64, v.getLsbD i = if pos.toNat ≤ i ∧ i < pos.toNat + len.toNat then (s.regs.sr b).getLsbD (i - pos.toNat)
           else (s.regs.sr a).getLsbD i)) ∧
     (s.ready g [a.toNat] [d.toNat] →
       s.completes (.clz g d a) (fun r => r.setS d
         (BitVec.ofNat 64 ((List.range 64).takeWhile fun i => !(r.sr a).getLsbD (63 - i)).length)) ∧
       s.completes (.ctz g d a) (fun r => r.setS d
         (BitVec.ofNat 64 ((List.range 64).takeWhile fun i => !(r.sr a).getLsbD i).length)) ∧
       s.completes (.popc g d a) (fun r => r.setS d (BitVec.ofNat 64 ((List.range 64).filter fun i => (r.sr a).getLsbD i).length)) ∧
       (t.int64 = true → s.completes (.ext g t d a) (fun r => r.setS d
         (if t.signed = true then ((r.sr a).setWidth t.width).signExtend 64 else ((r.sr a).setWidth t.width).setWidth 64))) ∧
       (pos.toNat + len.toNat ≤ 64 → 1 ≤ len.toNat → s.completes (.bfx g d a pos len sx) (fun r => r.setS d
         (if sx = true then (((r.sr a) >>> pos.toNat).setWidth len.toNat).signExtend 64
           else (((r.sr a) >>> pos.toNat).setWidth len.toNat).setWidth 64)))) ∧
     (s.ready g (memSrcs m) [d.toNat] → m.ok = true → s.completes (.lea g d m) fun r => r.setS d
       (BitVec.ofInt 64 ((r.sr m.base).toInt + (if m.index = 0 then 0 else (r.sr m.index).toInt * 2 ^ m.scale.toNat) + m.disp.toInt))))

/-- R213 to R217: each SFP operation reads the low bits of its sources, rounds the exact result once and writes the code
zero-extended; FMIN and FMAX write one operand's code unrounded, or the default NaN, and FCMP sets a predicate. -/
def Obligations.FloatArithmetic : Prop :=
  ∀ (s : State) (g : Guard) (t u : Ty) (rm : RM) (cond : Cond) (pd : PReg) (d a b c : SReg),
    (s.ready g [a.toNat, b.toNat] [d.toNat] →
      s.completes (.fadd g t rm d a b) (fun r =>
        r.setS d (BitVec.ofNat 64 (sumRound t (rndScl r rm) [fop t r a, fop t r b]))) ∧
      s.completes (.fsub g t rm d a b) (fun r =>
        r.setS d (BitVec.ofNat 64 (sumRound t (rndScl r rm) [fop t r a, (fop t r b).neg]))) ∧
      s.completes (.fmul g t rm d a b) (fun r =>
        r.setS d (BitVec.ofNat 64 (packNum t (rndScl r rm) ((fop t r a).mul (fop t r b))))) ∧
      s.completes (.fdiv g t rm d a b) (fun r =>
        r.setS d (BitVec.ofNat 64 (divRound t (rndScl r rm) (fop t r a) (fop t r b)))) ∧
      s.completes (.fmin g t d a b) (fun r => r.setS d (BitVec.ofNat 64 (minMax t false (fcode t r a) (fcode t r b)))) ∧
      s.completes (.fmax g t d a b) (fun r => r.setS d (BitVec.ofNat 64 (minMax t true (fcode t r a) (fcode t r b))))) ∧
    (s.ready g [a.toNat, b.toNat] [] →
      s.completes (.fcmp g t cond pd a b) (fun r => r.setP pd (condNum cond (fop t r a) (fop t r b)))) ∧
    (s.ready g [a.toNat, b.toNat, c.toNat] [d.toNat] →
      s.completes (.ffma g t rm d a b c) (fun r =>
        r.setS d (BitVec.ofNat 64 (sumRound t (rndScl r rm) [(fop t r a).mul (fop t r b), fop t r c])))) ∧
    (s.ready g [a.toNat] [d.toNat] →
      s.completes (.fsqrt g t rm d a) (fun r =>
        r.setS d (BitVec.ofNat 64 (sqrtRound t (rndScl r rm) (fop t r a)))) ∧
      s.completes (.fcvt g t u rm d a) (fun r => r.setS d (BitVec.ofNat 64 (packNum t (rndScl r rm) (fop u r a)))) ∧
      s.completes (.fcvti g t u rm d a) (fun r => r.setS d (BitVec.ofInt 64 (numToInt t (rndScl r rm) (fop u r a)))) ∧
      s.completes (.icvtf g t u rm d a) (fun r =>
        r.setS d (BitVec.ofNat 64 (packNum t (rndScl r rm) (intToNum (intOf u (r.sr a).toNat))))))

/-- R214, NaN results: a NaN operand, 0 × ∞, ∞ − ∞, 0 / 0, ∞ / ∞ and the square root of a value below −0 give the default NaN.
R215 and R217: FMIN and FMAX give the other operand's code for one NaN and the default NaN for two; between numbers they give
one operand's code, none smaller (larger) than the other, −0 below +0; FCMP compares the values, zeros of both signs equal,
and a NaN operand makes every condition false except .ne and .un. -/
def Obligations.FloatNansAndOrder : Prop :=
  (∀ (s : State) (g : Guard) (t : Ty) (rm : RM) (d a b : SReg), t.scalarFloat = true →
     let x := fop t s.regs a
     let y := fop t s.regs b
     let zero (v : Machine.Num) : Prop := ∃ n e, v = .fin n 0 e
     let inf (v : Machine.Num) : Prop := ∃ n, v = .inf n
     (s.ready g [a.toNat, b.toNat] [d.toNat] →
       (x = .nan ∨ y = .nan ∨ (∃ n, x = .inf n ∧ y = .inf !n) → s.completes (.fadd g t rm d a b) (·.setS d (scalarNan t))) ∧
       (x = .nan ∨ y = .nan ∨ (∃ n, x = .inf n ∧ y = .inf n) → s.completes (.fsub g t rm d a b) (·.setS d (scalarNan t))) ∧
       (x = .nan ∨ y = .nan ∨ (zero x ∧ inf y) ∨ (inf x ∧ zero y) → s.completes (.fmul g t rm d a b) (·.setS d (scalarNan t))) ∧
       (x = .nan ∨ y = .nan ∨ (zero x ∧ zero y) ∨ (inf x ∧ inf y) → s.completes (.fdiv g t rm d a b) (·.setS d (scalarNan t)))) ∧
     (s.ready g [a.toNat] [d.toNat] →
       (x = .nan ∨ x = .inf true ∨ (∃ m e, x = .fin true (m + 1) e) → s.completes (.fsqrt g t rm d a) (·.setS d (scalarNan t))))) ∧
  (∀ (s : State) (g : Guard) (t : Ty) (c : Cond) (pd : PReg) (d a b : SReg), t.scalarFloat = true →
     let x := unpack t (fcode t s.regs a)
     let y := unpack t (fcode t s.regs b)
     let va : Word := BitVec.ofNat 64 (fcode t s.regs a)
     let vb : Word := BitVec.ofNat 64 (fcode t s.regs b)
     (s.ready g [a.toNat, b.toNat] [d.toNat] → ∃ lo hi : Word,
       s.completes (.fmin g t d a b) (·.setS d lo) ∧ s.completes (.fmax g t d a b) (·.setS d hi) ∧
       (x = .nan → y = .nan → lo = scalarNan t ∧ hi = scalarNan t) ∧
       (x = .nan → y ≠ .nan → lo = vb ∧ hi = vb) ∧
       (x ≠ .nan → y = .nan → lo = va ∧ hi = va) ∧
       (x ≠ .nan → y ≠ .nan → (x.lt y = true → lo = va ∧ hi = vb) ∧ (y.lt x = true → lo = vb ∧ hi = va)) ∧
       (lo = va ∨ lo = vb ∨ (x = .nan ∧ y = .nan)) ∧ (hi = va ∨ hi = vb ∨ (x = .nan ∧ y = .nan)) ∧
       (∀ e f, x = .fin true 0 e → y = .fin false 0 f → lo = va ∧ hi = vb) ∧
       (∀ e f, x = .fin false 0 e → y = .fin true 0 f → lo = vb ∧ hi = va)) ∧
     (s.ready g [a.toNat, b.toNat] [] →
       let x := fop t s.regs a
       let y := fop t s.regs b
       ∃ v : Bool, s.completes (.fcmp g t c pd a b) (·.setP pd v) ∧
         (x = .nan ∨ y = .nan → v = decide (c = .ne ∨ c = .un)) ∧
         (x ≠ .nan → y ≠ .nan → (c = .eq ∨ c = .ne ∨ c = .lt ∨ c = .le ∨ c = .gt ∨ c = .ge ∨ c = .un) → (v = true ↔ match c with
           | .eq => x.lt y = false ∧ y.lt x = false
           | .ne => x.lt y = true ∨ y.lt x = true
           | .lt => x.lt y = true
           | .le => y.lt x = false
           | .gt => y.lt x = true
           | .ge => x.lt y = false
           | _ => False)) ∧
         (∀ n e m f, x = .fin n 0 e → y = .fin m 0 f → x.lt y = false ∧ y.lt x = false)))

/-! ### Retirement and registers -/

/-- R175, R221: where an instruction that retires without a transfer goes on, and that RETIRED counts it once; a taken
transfer has no back edge. What a retirement inside a chunk leaves: every context but the issuing one, every field of the
package but the cores, and of its core all but that context; the context's chunk counts one instruction more, and where
CHUNKLEN is reached it is cut: it asks for its commit, and the next one begins, or waits for the chunk before it (R61); a next one
that four squashes have made exclusive asks for its reservation (R65). R56,
R58: a cut instruction that retires is a chunk of its own: its registers retire, CHUNKSEQ rises by one, and the next chunk
begins empty from what it left. -/
def Obligations.Retirement : Prop :=
  (∀ (r : Regs) (t : Word),
     let npc := if r.pc.toNat % 8 = 4 then r.pc + 60 else r.pc + 1
     r.retire .next = { (backEdges r npc 4).1 with pc := (backEdges r npc 4).2, retired := r.retired + 1, part := 0 } ∧
     r.retire (.skip t) = { (backEdges r t 4).1 with pc := (backEdges r t 4).2, retired := r.retired + 1, part := 0 } ∧
     r.retire (.jump t) = { r with pc := t, retired := r.retired + 1, part := 0 }) ∧
  (∀ (s : State) (f : Regs → Regs) (fl : Flow), s.pkg.log = [] →
     let t := s.retired f fl
     let x := s.pkg.cur
     t.regs = (f s.regs).retire fl ∧
     (let h := { s.ctx.ch with count := s.ctx.ch.count + 1 }
      (t.ctx.ch = h ∧ t.ctx.req = s.ctx.req ∧ (t.ctx.phase = .open → h.count < t.regs.chunklen.toNat)) ∨
      (t.ctx.req = some h ∧ t.ctx.phase = .open ∧ t.ctx.ch = { Chunk.new t.regs with began := s.pkg.free } ∧ s.ctx.req = none ∧
        s.ctx.inflight = none)) ∧
     (∀ y, y ≠ x → t.pkg.ctx y = s.pkg.ctx y) ∧
     (∀ c, { t.pkg.core c with ctxs := [] } = { s.pkg.core c with ctxs := [] }) ∧
     { t.pkg with cores := [], exclQ := [], free := 0, req := none } = { s.pkg with cores := [], exclQ := [], free := 0, req := none } ∧
     (t.pkg.exclQ = s.pkg.exclQ ∨
       ∃ l, s.ctx.nextWant = some l ∧ t.ctx.exclWant = some l ∧ t.ctx.st = .waiting ∧ t.pkg.exclQ = s.pkg.exclQ ++ [(x, l)]) ∧
     t.fuses = s.fuses ∧ t.prov = s.prov) ∧
  (∀ (s : State) (f : Regs → Regs) (fl : Flow),
     let x := s.pkg.cur
     let t := s.cutRetired (s.pkg.withRegs x f) fl
     let c := t.pkg.ctx x
     c.regs = (f s.regs).retire fl ∧ c.chunkseq = s.ctx.chunkseq + 1 ∧ c.st = .running ∧ c.ch.count = 0 ∧ c.ch.start = c.regs ∧
     c.ch.rlines = [] ∧ c.ch.wlines = [] ∧ c.ch.deferred = [] ∧ c.gen = s.ctx.gen ∧ c.inbox = s.ctx.inbox ∧
     (∀ y, y ≠ x → t.pkg.ctx y = s.pkg.ctx y) ∧ t.pkg.mem = (s.pkg.seal).mem ∧ t.pkg.l2 = s.pkg.l2 ∧ t.pkg.queues = s.pkg.queues)

/-- R180, R204: a register reads what was last written to it, and writing one leaves the others; p0 reads true, and a write to
it is discarded. R55, R204: a source whose token is pending cuts the chunk where that chunk made it so, else it waits for the
token, and a destination that is a pending token faults with nothing written, for an arithmetic, a load, a store, a copy and a
message alike. R271, R273: the lanes that a vector instruction writes are the active ones of its destination; every other
lane keeps its value, and no other register changes. R298: what a tile or accumulator that a context writes reads as, to it
and to another context; and what a squash brings back. -/
def Obligations.RegisterFiles : Prop :=
  (∀ (r : Regs) (d a : SReg) (p q : PReg) (v j w k : Nat) (x : Word) (y : BitVec 32) (b : Bool), j < 64 → k < 64 →
     (r.setS d x).sr a = (if a = d then x else r.sr a) ∧
     (r.setP p b).pr q = (if q = 0 then true else if q = p then b else r.pr q) ∧
     r.setP 0 b = r ∧ r.pr 0 = true ∧
     (r.setLane v j y).lane w k = if w = v ∧ k = j then y else r.lane w k) ∧
  (∀ (s : State) (g : Guard) (col : BitVec 3) (ty : Ty) (h : Hint) (inv : Bool) (rm : RM) (d a b c : SReg) (imm : BitVec 48) (m : MemOp),
     s.ctx.mayIssue = true → guardHolds g s.regs = true →
     let pending (r : Nat) : Prop := (Tab.find? s.regs.pend r).isSome = true
     let names (i : Instr) (srcs dsts : List Nat) : Prop :=
       ((∃ r ∈ srcs, s.ctx.pendsHere r = true) → exec i s = .next { s with pkg := (s.pkg.requestCut s.pkg.cur).seal }) ∧
       ((∀ r ∈ srcs, s.ctx.pendsHere r = false) → (∃ r ∈ srcs, pending r) → s.waits i .scoreboard) ∧
       ((∀ r ∈ srcs, ¬ pending r) → (s.pkg.core s.pkg.cur.core).owes s.pkg.cur.slot srcs [] = false →
         (∃ r ∈ dsts, pending r) → s.faults i 7 0 0)
     names (.add g d a b) [a.toNat, b.toNat] [d.toNat] ∧ names (.addi g d a imm) [a.toNat] [d.toNat] ∧
     names (.ffma g ty rm d a b c) [a.toNat, b.toNat, c.toNat] [d.toNat] ∧
     names (.ld g ty h inv d m) (m.base.toNat :: if m.index = 0 then [] else [m.index.toNat]) [d.toNat] ∧
     names (.st g ty h d m) (d.toNat :: m.base.toNat :: if m.index = 0 then [] else [m.index.toNat]) [] ∧
     names (.copy g col d a b c) [a.toNat, b.toNat, c.toNat] [d.toNat] ∧
     names (.msgsend g d a b) (a.toNat :: regRange b.toNat 8) [d.toNat]) ∧
  (∀ (r : Regs) (mk : Option SReg) (d : VReg) (f : Nat → BitVec 32) (k : Nat → Option (BitVec 32)) (v j : Nat), j < 64 →
     let active := ∀ m, mk = some m → (r.sr m).getLsbD j = true
     (active → (r.mapLanes mk d f).lane d.toNat j = f j) ∧
     (¬ active → (r.mapLanes mk d f).lane d.toNat j = r.lane d.toNat j) ∧
     (v ≠ d.toNat → (r.mapLanes mk d f).lane v j = r.lane v j) ∧
     (r.setLanes d.toNat k).lane d.toNat j = (k j).getD (r.lane d.toNat j) ∧
     (v ≠ d.toNat → (r.setLanes d.toNat k).lane v j = r.lane v j) ∧
     { r.setLanes d.toNat k with v := r.v } = r ∧ { r.mapLanes mk d f with v := r.v } = r) ∧
  (∀ (p : Pkg) (n : TReg) (a : Nat) (t : Tile) (f : AccBank → AccBank) (other : CtxRef), other.core = p.cur.core → other.slot ≠ p.cur.slot →
     let q := p.putTile n t
     let b := p.putAcc a f
     (p.tileFree n → q.tile n = t ∧ { q with cur := other }.tile n = match ((p.core p.cur.core).tiles.get .zero n.toNat).shadow with
       | some (_, old) => old
       | none => ((p.core p.cur.core).tiles.get .zero n.toNat).cur) ∧
     (∀ m : TReg, m ≠ n → q.tile m = p.tile m) ∧
     (p.accFree a → b.acc a = f (p.acc a) ∧ { b with cur := other }.acc a = { p with cur := other }.acc a) ∧
     (∀ c, c ≠ a → b.acc c = p.acc c) ∧
     (p.tileFree n → restoreTile (fun o => o.slot == p.cur.slot) ((q.core p.cur.core).tiles.get .zero n.toNat) =
       { cur := { q with cur := other }.tile n, shadow := none }))

/-- R187: with its predicate false an instruction inside a chunk only retires. R187: a cut instruction with a false predicate
still stands alone, and performs nothing. -/
def Obligations.PredicatedOff : Prop :=
  (∀ (s : State) (g : Guard) (i : Instr), i.guard? = some g → isCutInstr i = false → s.ctx.mayIssue = true →
     guardHolds g s.regs = false → exec i s = .next (s.retiredOn s.pkg .next)) ∧
  (∀ (s : State) (g : Guard) (i : Instr), i.guard? = some g → isCutInstr i = true → s.ctx.mayIssue = true → s.ctx.idle = true →
     s.pkg.replayAllows (s.pkg.spaceOf s.pkg.cur.core) 2 s.pkg.cur.gcid s.ctx.chunkseq.toNat 0 = true →
     guardHolds g s.regs = false → exec i s = .next (s.cutRetired s.pkg .next))

/-! ### Control, contexts and messages -/

/-- R175, R176, R219: where a taken transfer goes, its TGT check, its link, and the forms of a register target. A target line
that fails its own check is the next fetch's affair: the transfer retires, its link written. -/
def Obligations.Transfers : Prop :=
  ∀ (s : State) (g : Guard) (d a : SReg) (off : BitVec 45) (slot : BitVec 3),
    let pc := s.regs.pc
    let t := targetC pc off slot
    let u := s.regs.sr a
    let linked (q : Pkg) : Pkg := q.withRegs q.cur (·.setS d (if pc.toNat % 8 = 4 then pc + 60 else pc + 1))
    t = BitVec.ofInt 64 ((pc.toNat / 64 * 64 : Nat) + 64 * off.toInt + slot.toNat) ∧
    (∀ l q, (M.fetchLine s.pkg.cur t).run s.pkg = .ok (l, q) →
      (s.ready g [] [] → s.jumps (.br g off slot) l t q) ∧ (s.ready g [] [d.toNat] → s.jumps (.call g d off slot) l t (linked q))) ∧
    (∀ l q, addressForm u = true → (M.fetchLine s.pkg.cur u).run s.pkg = .ok (l, q) →
      (s.ready g [a.toNat] [] → s.jumps (.bri g a) l u q) ∧
      (s.ready g [a.toNat] [d.toNat] → s.jumps (.calli g d a) l u (linked q))) ∧
    (∀ c n i, (M.fetchLine s.pkg.cur t).run s.pkg = .error (.fault c n i) →
      (s.ready g [] [] → s.makes (.br g off slot) s.pkg (.jump t)) ∧
      (s.ready g [] [d.toNat] → s.makes (.call g d off slot) (linked s.pkg) (.jump t))) ∧
    (addressForm u = true ↔ u.toNat < 2 ^ 56 ∧ u.toNat / 8 % 8 = 0 ∧ u.toNat % 8 ≤ 4) ∧
    (∀ c n i, addressForm u = true → (M.fetchLine s.pkg.cur u).run s.pkg = .error (.fault c n i) →
      (s.ready g [a.toNat] [] → s.makes (.bri g a) s.pkg (.jump u)) ∧
      (s.ready g [a.toNat] [d.toNat] → s.makes (.calli g d a) (linked s.pkg) (.jump u))) ∧
    (addressForm u = false →
      (s.ready g [a.toNat] [] → s.faults (.bri g a) 5 u.toNat 0) ∧
      (s.ready g [a.toNat] [d.toNat] → s.faults (.calli g d a) 5 u.toNat 0))

/-- R174: the checks of an instruction's line, in the L1 instruction cache or fetched from its home, in their order: permission,
reserved bits, parity, and the slot's decoding. A line whose parity fails is fetched once more from its home: what comes is the line
that executes and that the cache keeps, where both checks hold of it, and an illegal line where one does not. R219: a fetch of a line
that a KILL has doomed faults, in the cache or not. -/
def Obligations.FetchChecks : Prop :=
  ∀ (p : Pkg) (x : CtxRef) (pc : Word),
    let va := lineOfPc pc
    (p.route (p.spaceOf x.core) va rEXEC = none → (M.fetchLine x pc).run p = .error (.fault 2 va 0)) ∧
    (∀ r v, p.route (p.spaceOf x.core) va rEXEC = some r → (p.ctx x).doomed r.key = some v →
      (M.fetchLine x pc).run p = .error (.fault 9 v.toNat 0)) ∧
    (∀ r, p.route (p.spaceOf x.core) va rEXEC = some r → (p.ctx x).doomed r.key = none →
      let p0 := p.noteFetch x r.key
      (∃ fl, p0.ctx x = { p.ctx x with ch := { (p.ctx x).ch with flines := fl } } ∧
        ∀ k, k ∈ fl ↔ k ∈ (p.ctx x).ch.flines ∨ (keySpace r.key = 0 ∧ k = r.key)) ∧
      (∀ y, y ≠ x → p0.ctx y = p.ctx y) ∧ { p0 with cores := [] } = { p with cores := [] } ∧
      (∀ e, Tab.find? (p.core x.core).icache r.key = none → (M.fetchHome r.key).run p0 = .error e → (M.fetchLine x pc).run p = .error e) ∧
      (∀ l q, (Tab.find? (p.core x.core).icache r.key = some l ∧ q = p0) ∨
          (Tab.find? (p.core x.core).icache r.key = none ∧ (M.fetchHome r.key).run p0 = .ok (l, q)) →
        (zeroBitsOk l = false → (M.fetchLine x pc).run p = .error (.fault 4 va 0)) ∧
        (zeroBitsOk l = true → parityOk l = true → ∃ q', (M.fetchLine x pc).run p = .ok (l, q') ∧
          Tab.find? (q'.core x.core).icache r.key = some l ∧ (∀ y, q'.ctx y = q.ctx y) ∧ { q' with cores := [] } = { q with cores := [] }) ∧
        (zeroBitsOk l = true → parityOk l = false →
          (∀ e, (M.fetchHome r.key).run q = .error e → (M.fetchLine x pc).run p = .error e) ∧
          (∀ l2 q2, (M.fetchHome r.key).run q = .ok (l2, q2) →
            (parityOk l2 = false ∨ zeroBitsOk l2 = false → (M.fetchLine x pc).run p = .error (.fault 4 va 0)) ∧
            (parityOk l2 = true → zeroBitsOk l2 = true → ∃ q', (M.fetchLine x pc).run p = .ok (l2, q') ∧
              Tab.find? (q'.core x.core).icache r.key = some l2))))) ∧
    (∀ r l, (p.ctx x).regs.pc = pc → p.route? (p.spaceOf x.core) va = some r → Tab.find? (p.core x.core).icache r.key = some l →
      (zeroBitsOk l = true → parityOk l = false → Tab.find? ((p.discardBad x).core x.core).icache r.key = none) ∧
      (parityOk l = true → p.discardBad x = p) ∧ ∀ y, (p.discardBad x).ctx y = p.ctx y) ∧
    (∀ l q, (M.fetchLine x pc).run p = .ok (l, q) →
      (∀ i, decode (slotOfPc pc) (slotWord l (slotOfPc pc)) = .ok i → (p.ctx x).regs.pc = pc → (M.fetch x).run p = .ok (i, q)) ∧
      (∀ e, decode (slotOfPc pc) (slotWord l (slotOfPc pc)) = .error e → (p.ctx x).regs.pc = pc →
        (M.fetch x).run p = .error (.fault 3 0 0)))

/-- R220, R222, R223: LOOP and LOOPI set their level and skip the body for a count of zero; LBRK leaves an active level; LSAVE
and LREST move a level's registers, and LREST refuses what is no instruction address; which of two bad ones its fault names is
the model's choice (log entry 117). -/
def Obligations.Loops : Prop :=
  ∀ (s : State) (g : Guard) (d a : SReg) (lvl : BitVec 2) (off : BitVec 24) (slot : BitVec 3) (count : BitVec 20),
    let r := s.regs
    let e := targetL r.pc off slot
    let next (pc : Word) : Word := if pc.toNat % 8 = 4 then pc + 60 else pc + 1
    let enter (c : Word) : Regs → Regs := (·.setLoop lvl.toNat (next r.pc) e c)
    let flow (c : Word) : Flow := if c = 0 then .skip (next e) else .next
    e = BitVec.ofInt 64 ((r.pc.toNat / 64 * 64 : Nat) + 64 * off.toInt + slot.toNat) ∧
    (s.ready g [a.toNat] [] → exec (.loop g lvl off slot a) s = .next (s.retired (enter (r.sr a)) (flow (r.sr a)))) ∧
    (s.ready g [] [] →
      exec (.loopi g lvl off slot count) s =
        .next (s.retired (enter (BitVec.ofNat 64 count.toNat)) (flow (BitVec.ofNat 64 count.toNat))) ∧
      (r.lcOf lvl.toNat = 0 → exec (.lbrk g lvl) s = .next (s.retiredOn s.pkg .next)) ∧
      (r.lcOf lvl.toNat ≠ 0 →
        exec (.lbrk g lvl) s = .next (s.retired (·.setLc lvl.toNat 0) (.jump (next (r.leOf lvl.toNat)))))) ∧
    (s.ready g [] [d.toNat, d.toNat + 1, d.toNat + 2] → ∃ f, s.completes (.lsave g d lvl) f ∧
      (f r).sn d.toNat = r.lbOf lvl.toNat ∧ (f r).sn (d.toNat + 1) = r.leOf lvl.toNat ∧ (f r).sn (d.toNat + 2) = r.lcOf lvl.toNat ∧
      (∀ n, n < d.toNat ∨ d.toNat + 3 ≤ n → (f r).sn n = r.sn n) ∧ { f r with s := r.s } = r) ∧
    (s.ready g [a.toNat, a.toNat + 1, a.toNat + 2] [] →
      let b := r.sn a.toNat
      let m := r.sn (a.toNat + 1)
      (addressForm b = true → addressForm m = true →
        s.completes (.lrest g lvl a) (·.setLoop lvl.toNat b m (r.sn (a.toNat + 2)))) ∧
      (addressForm b = false → s.faults (.lrest g lvl a) 5 b.toNat 0) ∧
      (addressForm b = true → addressForm m = false → s.faults (.lrest g lvl a) 5 m.toNat 0))

/-- R225 to R229, R332: SPAWN gives a helper its state, or all ones where none is free or the limit is reached; a helper may
not SPAWN or JOIN; a helper that a stepped context starts is born HALTED (R413); JOIN's code, or in replay the logged timeout
(R420); EXIT frees the slot; CUT only cuts. R230 to R232, R72, R73: MSGSEND defers a message of eight
registers, or faults on a name that is none; MSGRECV takes the oldest message, or waits. -/
def Obligations.ContextsAndMessages : Prop :=
  (∀ (s : State) (g : Guard) (d a : SReg) (off : BitVec 45) (slot : BitVec 3),
     let x := s.pkg.cur
     let t := targetC s.regs.pc off slot
     (s.readyCut g [a.toNat] [d.toNat] →
       (x.slot ≠ 0 → s.faults (.spawn g d a off slot) 8 0 0x27) ∧
       (x.slot = 0 → ∀ l q, (M.fetchLine x t).run s.pkg = .ok (l, q) →
         (targetBit l (slotOfPc t) = false → s.faults (.spawn g d a off slot) 5 t.toNat 0) ∧
         (targetBit l (slotOfPc t) = true →
           ((q.core x.core).freeSlot = none ∨ q.helperLimit x.core ≤ (q.core x.core).helpers →
             s.makesCut (.spawn g d a off slot) (q.withRegs q.cur (·.setS d (BitVec.allOnes 64)))) ∧
           (∀ n, (q.core x.core).freeSlot = some n → (q.core x.core).helpers < q.helperLimit x.core → q.slotReady ⟨x.core, n + 1⟩ = true →
             ∃ h r q' stepped, h = (⟨x.core, n + 1⟩ : CtxRef) ∧ (stepped = true ↔ (q.ctx x).stepping.isSome = true) ∧
               r = { ((Regs.zero.setSn 1 (s.regs.sr a)).setSn 2 (BitVec.ofNat 64 (x.gcid * 2 ^ 16 + (q.ctx x).gen.toNat))) with
                     pc := t, seed := s.regs.seed, ftz := s.regs.ftz, chunklen := s.regs.chunklen, trapvec := s.regs.trapvec } ∧
               q' = (if stepped = true then (q.goLive h r).modCtx h fun c => { c with st := .halted, stop := (q.ctx x).stop }
                 else q.goLive h r) ∧
               (q'.ctx h).regs = r ∧ (q'.ctx h).st = (if stepped = true then .halted else .running) ∧
               s.makesCut (.spawn g d a off slot)
                 (q'.withRegs q'.cur (·.setS d (BitVec.ofNat 64 ((x.core * 16 + n + 1) * 2 ^ 16 + (q'.ctx h).gen.toNat)))))))) ∧
     (∀ c n, s.pkg.joinCode c n =
       if 2 ^ 29 ≤ n.toNat ∨ (nameCtx n).core ≠ c ∨ (nameCtx n).slot = 0 ∨ 10 < (nameCtx n).slot then some 1
       else if (s.pkg.ctx (nameCtx n)).st ≠ .free ∧ (s.pkg.ctx (nameCtx n)).gen = n.setWidth 16 then none else some 0) ∧
     (s.ready g [a.toNat] [d.toNat] →
       (x.slot ≠ 0 → s.faults (.join g d a) 8 0 0x27) ∧
       (x.slot = 0 → ¬ s.timedOut 2 → ∀ v, s.pkg.joinCode x.core (s.regs.sr a) = some v → s.completes (.join g d a) (·.setS d v)) ∧
       (x.slot = 0 → s.timedOut 2 → s.makes (.join g d a) ((s.pkg.noting 2 2).withRegs x (·.setS d 2))) ∧
       (x.slot = 0 → s.pkg.joinCode x.core (s.regs.sr a) = none → s.pkg.replayOf (s.pkg.spaceOf x.core) = none →
         s.waits (.join g d a) .join)) ∧
     (s.readyCut g [] [] →
       s.makesCut (.cut g) s.pkg ∧
       (x.slot ≠ 0 ∨ (s.pkg.core x.core).helpers = 0 → ∃ u, exec (.exit g) s = .next u ∧ (u.pkg.ctx x).st = .free ∧
         (x.slot = 0 → ∀ k, (u.pkg.core x.core).task = some k → k.exited = true)) ∧
       (x.slot = 0 → (s.pkg.core x.core).helpers ≠ 0 → s.waits (.exit g) .exit))) ∧
  (∀ (s : State) (g : Guard) (d a b : SReg),
     let x := s.pkg.cur
     let n := s.regs.sr a
     (s.ready g (a.toNat :: regRange b.toNat 8) [d.toNat] →
       (nameZero n = true → n.toNat / 2 ^ 16 % 16 ≤ 10 → s.canDefer → ∃ m : BitVec 512,
         s.defers (.msgsend g d a b) (.msg n m) 0 d ∧ ∀ k < 8, (m >>> (64 * k)).setWidth 64 = s.regs.sn (b.toNat + k)) ∧
       (nameZero n = false ∨ 10 < n.toNat / 2 ^ 16 % 16 → s.faults (.msgsend g d a b) 8 0 0x2B)) ∧
     (s.ready g [] (a.toNat :: regRange d.toNat 8) → s.pkg.replayOf (s.pkg.spaceOf x.core) = none →
       (s.ctx.inbox = [] → s.waits (.msgrecv g d a) .msgrecv) ∧
       (∀ m t, s.ctx.inbox = m :: t → ∃ q, exec (.msgrecv g d a) s = .next (s.retiredOn q .next) ∧
         (q.ctx x).inbox = t ∧ (q.ctx x).ch.taken = s.ctx.ch.taken ++ [m] ∧
         (q.ctx x).regs = ((s.regs.scatter d.toNat m.payload.toNat 8).setS a m.sender))))

/-! ### Faults, traps and the system instructions -/

/-- R332: a precise fault outside a handler enters it, its registers written, the chunk new and every other context as it was;
inside one, or with none, it ends the task. R332, R69: a task that ends on a core leaves every context there FREE, its queued
engine work dropped, and its cause, context and pc for the completion record; ending a task releases its gang's barrier
groups. R74: a precise fault with nothing to commit before it is taken at once; else the chunk is cut before the instruction
and the fault stands until the prefix has committed. -/
def Obligations.FaultsAndTaskEnd : Prop :=
  (∀ (p : Pkg) (x : CtxRef) (cause info : Nat) (addr : Word),
     let r := (p.ctx x).regs
     let q := p.takeFault x cause addr info
     (r.trapcause.getLsbD 31 = false → r.trapvec ≠ 0 →
       (q.ctx x).regs = { r with trappc := r.pc, trapcause := BitVec.ofNat 64 (2 ^ 31 + cause), trapaddr := addr,
                                 trapinfo := BitVec.ofNat 64 info, pc := r.trapvec, part := 0 } ∧
       (q.ctx x).ch.count = 0 ∧ (q.ctx x).ch.start = (q.ctx x).regs ∧ (q.ctx x).due = none ∧
       (∀ y, y ≠ x → q.ctx y = p.ctx y) ∧ { q with cores := [] } = { p with cores := [] }) ∧
     (r.trapcause.getLsbD 31 = true ∨ r.trapvec = 0 →
       q = ((p.modCtx x (Ctx.endStepBy · 2)).breakStep x 2).endTask x.core cause x.gcid r.pc)) ∧
  (∀ (p : Pkg) (core cause gcid : Nat) (pc : Word) (silent : Bool),
     (∀ t, (p.core core).task = some t → t.ended = none →
       let q := p.endOne cause gcid pc silent core
       (∀ n < 11, (q.ctx ⟨core, n⟩).st = .free) ∧ (q.core core).vq = [] ∧ (q.core core).mq = [] ∧
         ∀ u, (q.core core).task = some u → u.ended = some (cause, gcid, pc) ∧ u.silent = silent) ∧
     (∀ b ∈ (p.endTask core cause gcid pc silent).bars, some b.2.gang ≠ p.gangOf core)) ∧
  (∀ (p : Pkg) (x : CtxRef) (cause info : Nat) (addr : Word),
     let c := p.ctx x
     let q := p.fault x cause addr info
     (c.idle = true ↔ c.ch.count = 0 ∧ c.req = none ∧ c.inflight = none) ∧
     (c.idle = true → q = p.takeFault x cause addr info) ∧
     (c.idle = false →
       (q.ctx x).due = some (cause, addr, info) ∧ (q.ctx x).regs = c.regs ∧ (∀ y, y ≠ x → q.ctx y = p.ctx y) ∧
       { q with cores := [], exclQ := [] } = { p with cores := [], exclQ := [] } ∧
       (q.exclQ = p.exclQ ∨ ∃ l, c.nextWant = some l ∧ (q.ctx x).exclWant = some l ∧ q.exclQ = p.exclQ ++ [(x, l)]) ∧
       (c.ch.count ≠ 0 → c.req = none → c.inflight = none → (q.ctx x).req = some c.ch ∧ (q.ctx x).ch.count = 0) ∧
       (c.ch.count = 0 → (q.ctx x).ch = c.ch ∧ (q.ctx x).req = c.req) ∧
       (c.ch.count ≠ 0 → c.req ≠ none ∨ c.inflight ≠ none →
         (q.ctx x).ch = c.ch ∧ (q.ctx x).req = c.req ∧ (q.ctx x).phase = .requested)))

/-- R333, R334: TRAP enters the handler with cause 1, its code, and TRAPPC at the next instruction; predicated off it does
nothing but retire; ERET clears ACTIVE and goes to TRAPPC; outside a handler it is an invocation fault. -/
def Obligations.TrapAndReturn : Prop :=
  ∀ (s : State) (g : Guard) (imm : BitVec 16),
    let x := s.pkg.cur
    let r := s.regs
    (s.readyCut g [] [] →
      (r.trapcause.getLsbD 31 = false → r.trapvec ≠ 0 → ∃ u, exec (.trap g imm) s = .next u ∧
        let n := r.retire .next
        (u.pkg.ctx x).regs = { n with trappc := n.pc, trapcause := 0x80000001, trapaddr := 0, trapinfo := imm.setWidth 64,
                                      pc := r.trapvec, part := 0 }) ∧
      (r.trapcause.getLsbD 31 = true → ∃ u, exec (.eret g) s = .next u ∧
        (u.pkg.ctx x).regs = { r with trapcause := r.trapcause &&& 0xFFFFFFFF7FFFFFFF, pc := r.trappc, retired := r.retired + 1,
                                      part := 0 }) ∧
      (r.trapcause.getLsbD 31 = false → s.faults (.eret g) 8 0 0x2F)) ∧
    (s.ctx.mayIssue = true → s.ctx.idle = true → guardHolds g r = false →
      s.pkg.replayAllows (s.pkg.spaceOf x.core) 2 x.gcid s.ctx.chunkseq.toNat 0 = true →
      exec (.trap g imm) s = .next (s.cutRetired s.pkg .next))

/-- R325, Table 12.1: below the privilege, or the debug right, that an instruction needs, it is an invocation fault with
reason 0x29. That an unlocked module holds every right is the model's reading (log entry 48). -/
def Obligations.PrivilegeFaults : Prop :=
  ∀ (s : State) (g : Guard) (d a b c : SReg),
    let p := s.pkg
    let k := p.cur.core
    let low (n : Nat) : Prop := p.privOf k < n
    (s.readyCut g [a.toNat, b.toNat, c.toNat] [d.toNat] → low 1 → s.faults (.winset g d a b c) 8 0 0x29) ∧
    (s.readyCut g (a.toNat :: b.toNat :: accessSrcs c) [d.toNat] →
      (low 1 → p.namedSpace c ≠ p.spaceOf k → s.faults (.spurge g d a b c) 8 0 0x29) ∧
      (p.mayDebug s.fuses k (p.namedSpace c) 0 = false → s.faults (.dbgwp g d a b c) 8 0 0x29)) ∧
    (s.readyCut g [a.toNat, b.toNat] [d.toNat] →
      (low 1 → s.faults (.fmtset g d a b) 8 0 0x29) ∧
      (∀ y t, p.subject (s.regs.sr a) = some (y, t) → p.mayDebug s.fuses k t 1 = false → s.faults (.dbgstop g d a b) 8 0 0x29) ∧
      (∀ y t, p.subject (s.regs.sr a) = some (y, t) → p.mayDebug s.fuses k t 2 = false → s.faults (.dbgstep g d a b) 8 0 0x29) ∧
      (∀ y, p.named? (s.regs.sr a) = some y → (p.subject (s.regs.sr a)).map Prod.snd = some (p.spaceOf y.core))) ∧
    (s.readyCut g [a.toNat] [d.toNat] →
      (low 1 → (s.regs.sr a).toNat / 2 ^ 16 % 2 ^ 16 ≠ p.spaceOf k → s.faults (.cntrd g d a) 8 0 0x29) ∧
      (low 2 → s.faults (.fuserd g d a) 8 0 0x29) ∧ (low 2 → s.faults (.unlock g d a) 8 0 0x29)) ∧
    (s.readyCut g [] [d.toNat] → low 1 → s.faults (.snap g d) 8 0 0x29) ∧
    (s.readyCut g [a.toNat] [] → (low 2 → s.faults (.keywipe g a) 8 0 0x29) ∧ (low 1 → s.faults (.syswr g .profk a) 8 0 0x29)) ∧
    (∀ target bit, (p.mayDebug s.fuses k target bit = true ↔
      target = p.spaceOf k ∨ 1 ≤ p.privOf k ∨ p.granted target (p.spaceOf k) bit = true ∨ p.allRights s.fuses = true))

/-- R55, R327 to R331: what SYSRD gives for each register of Table 12.2, and what SYSWR stores. -/
def Obligations.SystemRegisters : Prop :=
  ∀ (s : State) (g : Guard) (d a : SReg),
    let p := s.pkg
    let x := p.cur
    let r := s.regs
    let v := r.sr a
    let rd (sel : SysReg) (w : Word) : Prop := s.completes (.sysrd g d sel) (·.setS d w)
    let wr (sel : SysReg) (f : Regs → Regs) : Prop := s.completes (.syswr g sel a) f
    (s.ready g [] [d.toNat] →
      rd .spaceid (BitVec.ofNat 64 (p.privOf x.core * 2 ^ 16 + p.spaceOf x.core)) ∧ rd .ctxid (BitVec.ofNat 64 (x.core * 16 + x.slot)) ∧
      rd .ctxgen (s.ctx.gen.setWidth 64) ∧ rd .chunklen r.chunklen ∧ rd .chunkseq (BitVec.ofNat 64 s.ctx.seq) ∧
      rd .retired r.retired ∧ rd .trapvec r.trapvec ∧ rd .trapcause r.trapcause ∧ rd .trappc r.trappc ∧ rd .trapaddr r.trapaddr ∧
      rd .trapinfo r.trapinfo ∧ rd .seed r.seed ∧ rd .ftz r.ftz ∧
      (∀ sp, p.space? (p.spaceOf x.core) = some sp → rd .dbgcaps (BitVec.ofNat 64 (sp.tool * 2 ^ 32 + sp.rights.toNat))) ∧
      (p.profPend = none → rd .profk p.profk)) ∧
    (s.ready g [a.toNat] [] →
      wr .chunklen (fun r => { r with chunklen := BitVec.ofNat 64 (max 512 (min 16384 v.toNat)) }) ∧
      wr .trapcause (fun r => { r with trapcause := v &&& 0x800000FF }) ∧ wr .trapaddr (fun r => { r with trapaddr := v }) ∧
      wr .trapinfo (fun r => { r with trapinfo := BitVec.ofNat 64 (v.toNat % 2 ^ 24) }) ∧ wr .seed (fun r => { r with seed := v }) ∧
      wr .ftz (fun r => { r with ftz := BitVec.ofNat 64 (v.toNat % 8) }) ∧
      (addressForm v = true → wr .trapvec (fun r => { r with trapvec := v }) ∧ wr .trappc (fun r => { r with trappc := v })) ∧
      (addressForm v = false → s.faults (.syswr g .trapvec a) 5 v.toNat 0 ∧ s.faults (.syswr g .trappc a) 5 v.toNat 0)) ∧
    (s.readyCut g [a.toNat] [] → 1 ≤ p.privOf x.core →
      (v.toNat = 0 ∨ (8 ≤ v.toNat ∧ v.toNat ≤ 30) → s.makesCut (.syswr g .profk a) { p with profPend := some v }) ∧
      (1 ≤ v.toNat ∧ v.toNat ≤ 7 ∨ 30 < v.toNat → s.faults (.syswr g .profk a) 8 0 0x28))

/-- R335 to R337: SPURGE, once its range is clean, leaves no cached line, table or copy of it; WINSET and FMTSET give the
status of Table 12.3 and store an accepted descriptor; CNTRD reads a counter. -/
def Obligations.PurgeWindowsCounters : Prop :=
  ∀ (s : State) (g : Guard) (d a b c : SReg),
    let p := s.pkg
    let k := p.cur.core
    let va := (s.regs.sr a).toNat
    let vb := (s.regs.sr b).toNat
    let vc := (s.regs.sr c).toNat
    let status (q : Pkg) (n : Nat) : Pkg := q.withRegs q.cur (·.setS d (BitVec.ofNat 64 n))
    (s.readyCut g (a.toNat :: b.toNat :: accessSrcs c) [d.toNat] → p.ownOrSystem (p.namedSpace c) = true →
      let t := p.namedSpace c
      (p.space? t = none ∨ 2 ^ 48 < vb → s.faults (.spurge g d a b c) 8 0 0x28) ∧
      (p.space? t ≠ none → vb ≤ 2 ^ 48 →
        (vb = 0 → s.makesCut (.spurge g d a b c) (status p 0)) ∧
        (vb ≠ 0 → lsBase < va + vb → s.faults (.spurge g d a b c) 2 (max va lsBase) 0) ∧
        (vb ≠ 0 → va + vb ≤ lsBase → ∀ q, p.purge t va vb = (q, true) → s.makesCut (.spurge g d a b c) (status q 0) ∧
          (∀ e ∈ q.l2, keyIn t va vb e.1 = false) ∧ (∀ e ∈ q.brine, keyIn t va vb e.key = false) ∧
          ∀ n, (∀ e ∈ (q.core n).l1, keyIn t va vb e.1 = false) ∧ (∀ e ∈ (q.core n).icache, keyIn t va vb e.1 = false) ∧
            ∀ e ∈ (q.core n).invs, keyIn t va vb e.1 = false))) ∧
    (s.readyCut g [a.toNat, b.toNat, c.toNat] [d.toNat] → 1 ≤ p.privOf k → vb < 2 ^ 56 → (p.route (p.spaceOf k) vb rRD).isSome = true →
      (vb % 32 ≠ 0 → s.faults (.winset g d a b c) 6 vb 0) ∧
      (vb % 32 = 0 → 31 < vc → s.faults (.winset g d a b c) 8 0 0x28) ∧
      (vb % 32 = 0 → vc ≤ 31 → ∀ w q, (M.descriptor vb).run p = .ok (w, q) →
        let t := va % 2 ^ 16
        (q.space? t = none → s.makesCut (.winset g d a b c) (status q 8)) ∧
        (∀ sp, q.space? t = some sp → windowStatus sp vc w ≠ 0 → s.makesCut (.winset g d a b c) (status q (windowStatus sp vc w))) ∧
        (∀ sp, q.space? t = some sp → windowStatus sp vc w = 0 → q.windowBusy t (sp.windows.get 0 vc) = false →
          (q.windowUsers t).any (fun y => (q.ctx y).excl.isSome) = false →
          let q' := ((q.windowUsers t).foldl (fun p y => p.squash y) q).modSpace t fun sp =>
            { sp with windows := sp.windows.set 0 vc (if w.getLsbD 0 then w else 0) }
          s.makesCut (.winset g d a b c) (status q' 0) ∧
            (q'.space? t).map (·.windows.get 0 vc) = some (if w.getLsbD 0 then w else 0)))) ∧
    (s.readyCut g [a.toNat, b.toNat] [d.toNat] → 1 ≤ p.privOf k → va < 2 ^ 56 → (p.route (p.spaceOf k) va rRD).isSome = true →
      (va % 32 ≠ 0 → s.faults (.fmtset g d a b) 6 va 0) ∧
      (va % 32 = 0 → 15 < vb → s.faults (.fmtset g d a b) 8 0 0x28) ∧
      (va % 32 = 0 → vb ≤ 15 → ∀ w q, (M.descriptor va).run p = .ok (w, q) →
        (q.space? (w.toNat / 2 ^ 8 % 2 ^ 16) = none → s.makesCut (.fmtset g d a b) (status q 8)) ∧
        (q.space? (w.toNat / 2 ^ 8 % 2 ^ 16) ≠ none →
          let n := formatStatus q.fmtw vb w
          (n ≠ 0 → s.makesCut (.fmtset g d a b) (status q n)) ∧
          (n = 0 → s.makesCut (.fmtset g d a b) (status { q with fmtw := q.fmtw.set 0 vb (if w.getLsbD 0 then w else 0) } 0))))) ∧
    (s.readyCut g [a.toNat] [d.toNat] → p.ownOrSystem (va / 2 ^ 16 % 2 ^ 16) = true →
      (2 ^ 32 ≤ va ∨ va / 16 % 2 ^ 12 ≠ 0 ∨ p.space? (va / 2 ^ 16 % 2 ^ 16) = none → s.faults (.cntrd g d a) 8 0 0x28) ∧
      (va < 2 ^ 32 → va / 16 % 2 ^ 12 = 0 → ∀ sp, p.space? (va / 2 ^ 16) = some sp →
        s.makesCut (.cntrd g d a) (p.withRegs p.cur (·.setS d (if sp.totals.get 0 (va % 16) < 2 ^ 63 then
          BitVec.ofNat 64 (sp.totals.get 0 (va % 16)) else BitVec.allOnes 64)))))

/-- R338, R339, R344 to R347, R453: ATTEST hands a captured request over, its token pending, or faults where the request is
malformed or the context lacks the privilege that its kind needs; SNAP latches under the next
number; KEYWIPE wipes the classes named; FUSERD reads a word; UNLOCK's code, and what an unlock does. What an unlock leaves
restricted, and the drawn values, are log entries 48 and 3. -/
def Obligations.AttestKeysFuses : Prop :=
  ∀ (s : State) (g : Guard) (d a b : SReg),
    let p := s.pkg
    let x := p.cur
    let va := (s.regs.sr a).toNat
    let vb := (s.regs.sr b).toNat
    (s.readyCut g [a.toNat, b.toNat] [d.toNat] →
      (va % 64 ≠ 0 → s.faults (.attest g d a b) 6 va 0) ∧
      (va % 64 = 0 → vb % 64 ≠ 0 → s.faults (.attest g d a b) 6 vb 0) ∧
      (va % 64 = 0 → vb % 64 = 0 → p.badByte (p.spaceOf x.core) rRD va 64 = none →
        p.badByte (p.spaceOf x.core) (rENG + rWR) vb 4096 = none → ∀ w q, (M.attRequest va).run p = .ok (w, q) →
        (reqKind w > 2 ∨ w.toNat / 2 ^ 8 % 2 ^ 8 ≠ 0 ∨ w.toNat / 2 ^ 32 % 2 ^ 96 ≠ 0 → s.faults (.attest g d a b) 8 0 0x28) ∧
        (reqKind w ≤ 2 → w.toNat / 2 ^ 8 % 2 ^ 8 = 0 → w.toNat / 2 ^ 32 % 2 ^ 96 = 0 → q.privOf x.core = 0 →
          reqKind w = 2 ∨ (reqKind w = 0 ∧ reqSpace w ≠ q.spaceOf x.core) → s.faults (.attest g d a b) 8 0 0x29) ∧
        (reqKind w ≤ 2 → w.toNat / 2 ^ 8 % 2 ^ 8 = 0 → w.toNat / 2 ^ 32 % 2 ^ 96 = 0 →
          1 ≤ q.privOf x.core ∨ reqKind w = 1 ∨ (reqKind w = 0 ∧ reqSpace w = q.spaceOf x.core) → ∃ q',
          s.makesCut (.attest g d a b) q' ∧ Tab.find? (q'.ctx x).regs.pend d.toNat = some ((q.ctx x).tag 0) ∧
          ∃ o, q'.ops = q.ops ++ [o] ∧ o.kind = .attest (s.regs.sr b) (q.capture s.fuses w) ∧ o.tok = some d.toNat ∧ o.who = x))) ∧
    (s.readyCut g [] [d.toNat] → 1 ≤ p.privOf x.core → ∃ q : Pkg, s.makesCut (.snap g d) (q.withRegs q.cur (·.setS d (BitVec.ofNat 64 q.snapSeq))) ∧
      q.snapSeq = p.snapSeq + 1 ∧ ∃ (n : Snapshot) (rest : List Snapshot), q.snaps = n :: rest ∧ n.seq = q.snapSeq ∧ n.pt = p.pt ∧ n.trig = 0 ∧
        n.ctxs = p.snapCtxs ∧ n.cores = p.snapCores ∧ q.snaps.length ≤ 8) ∧
    (s.readyCut g [a.toNat] [] → 2 ≤ p.privOf x.core →
      (7 < va → s.faults (.keywipe g a) 8 0 0x28) ∧
      (va ≤ 7 → ∃ q, s.makesCut (.keywipe g a) q ∧ q.keyDraw = p.keyDraw + (if va.testBit 0 then 1 else 0) ∧
        q.sealWiped = (p.sealWiped || va.testBit 1) ∧ q.linkWiped = (p.linkWiped || va.testBit 2) ∧
        (∀ i < 16, q.epochs.get 0 i = p.epochs.get 0 i + (if va.testBit 2 then 1 else 0)) ∧ q.cores = p.cores ∧ q.spaces = p.spaces)) ∧
    (s.readyCut g [a.toNat] [d.toNat] → 2 ≤ p.privOf x.core →
      (255 < va → s.faults (.fuserd g d a) 8 0 0x28) ∧
      (va ≤ 255 → ∃ v : Word, s.makesCut (.fuserd g d a) (p.withRegs x (·.setS d v)) ∧
        (va = 0 → v = BitVec.ofNat 64 s.fuses.lcs) ∧ (1 ≤ va ∧ va ≤ 13 → v = s.fuses.words.get 0 va) ∧ (va = 254 → v = if p.unlk then 1 else 0) ∧
        (14 ≤ va ∧ va < 248 ∨ va = 255 → v = 0)) ∧
      (2 ^ 56 ≤ va → s.faults (.unlock g d a) 2 va 0) ∧
      (va < 2 ^ 56 → va % 64 ≠ 0 → s.faults (.unlock g d a) 6 va 0) ∧
      (va < 2 ^ 56 → va % 64 = 0 → p.badByte (p.spaceOf x.core) rRD va 1024 = none →
        ∀ t q, p.readAll (p.spaceOf x.core) rRD va 1024 = .ok (t, false, q) →
        let code := unlockCode s.fuses q t
        let q' := if code = 0 then { q with unlk := true, mdbg := BitVec.ofNat 384 (leNat (sha384 t)) } else q
        s.makesCut (.unlock g d a) (q'.withRegs q'.cur (·.setS d (BitVec.ofNat 64 code))) ∧ (s.fuses.lcs ≠ 2 → code = 1) ∧
          (s.fuses.lcs = 2 → q.sealWiped = false → code = 2)))

/-- R340 to R343: watchpoints, stops, steps and grants. A DBGWP squashes the running chunks of its space, as a window's write
does (R88, R341). The model's choices: that a grant drops rights bits 7:5 (log entry 50), that a DBGSTEP of a pre-empted target answers
all ones (`Pkg.steppable`, log entry 109), and when a release takes effect (`Pkg.releaseStop`, log entry 49). -/
def Obligations.DebugInstructions : Prop :=
  ∀ (s : State) (g : Guard) (d a b c : SReg),
    let p := s.pkg
    let k := p.cur.core
    let va := (s.regs.sr a).toNat
    let vb := (s.regs.sr b).toNat
    let result (q : Pkg) (v : Word) : Pkg := q.withRegs q.cur (·.setS d v)
    (s.readyCut g (a.toNat :: b.toNat :: accessSrcs c) [d.toNat] → p.mayDebug s.fuses k (p.namedSpace c) 0 = true →
      let t := p.namedSpace c
      let len := vb / 4 % 8
      (p.space? t = none ∨ 2 ^ 12 ≤ vb ∨ len = 7 ∨ va % 2 ^ len ≠ 0 → s.faults (.dbgwp g d a b c) 8 0 0x28) ∧
      (∀ sp, p.space? t = some sp → vb < 2 ^ 12 → len ≤ 6 → va % 2 ^ len = 0 →
        (p.spaceChunks t).any (fun y => (p.ctx y).excl.isSome) = false → ∃ q sp', s.makesCut (.dbgwp g d a b c) (result q 0) ∧
        q.cores = ((p.spaceChunks t).foldl (fun p y => p.squash y) p).cores ∧ q.space? t = some sp' ∧
        (∀ i, i ≠ vb % 4 → Tab.find? sp'.wps i = Tab.find? sp.wps i) ∧
        Tab.find? sp'.wps (vb % 4) = if vb.testBit 11 then some { va := s.regs.sr a, ctl := s.regs.sr b, tool := p.spaceOf k } else none)) ∧
    (s.readyCut g [a.toNat, b.toNat] [d.toNat] → p.mayDebugCtx s.fuses a 1 = true →
      (1 < vb → s.faults (.dbgstop g d a b) 8 0 0x28) ∧
      (vb ≤ 1 → p.subject (s.regs.sr a) = none → s.makesCut (.dbgstop g d a b) (result p 1)) ∧
      (∀ y t, p.subject (s.regs.sr a) = some (y, t) →
        (vb = 0 → p.stopsOn y ≠ [] → s.makesCut (.dbgstop g d a b) (result p 0)) ∧
        (vb = 0 → p.stopsOn y = [] → ∃ q st, s.makesCut (.dbgstop g d a b) (result q 0) ∧ q.stops = p.stops ++ [st] ∧
          st.tasks = p.stopSet t 0 y ∧ st.cause = 0x31 ∧ st.tool = p.spaceOf k ∧ st.target = t ∧ st.seq = p.stopSeq + 1 ∧
          q.cores = p.cores) ∧
        (vb = 1 → (p.stopsOn y).filter (fun (t : Stop) => t.tool == p.spaceOf k) = [] → s.makesCut (.dbgstop g d a b) (result p 2)) ∧
        (vb = 1 → (p.stopsOn y).filter (fun (t : Stop) => t.tool == p.spaceOf k) ≠ [] →
          s.makesCut (.dbgstop g d a b)
            (result (((p.stopsOn y).filter fun (t : Stop) => t.tool == p.spaceOf k).foldl Pkg.releaseStop p) 0)))) ∧
    (s.readyCut g [a.toNat, b.toNat] [d.toNat] → p.mayDebugCtx s.fuses a 2 = true →
      (vb = 0 ∨ 2 ^ 20 < vb → s.faults (.dbgstep g d a b) 8 0 0x28) ∧
      (1 ≤ vb → vb ≤ 2 ^ 20 →
        (∀ y, p.named? (s.regs.sr a) = some y → p.steppable y = false → s.makesCut (.dbgstep g d a b) (result p (BitVec.allOnes 64))) ∧
        (p.named? (s.regs.sr a) = none → s.makesCut (.dbgstep g d a b) (result p (BitVec.allOnes 64))) ∧
        (∀ y, p.named? (s.regs.sr a) = some y → y ≠ p.cur → (p.ctx y).st = .halted → (p.ctx y).stop.isSome = true →
          (p.ctx y).stepping = none → (p.core y.core).preempt = false → (p.ctx y).exclWant = none → s.ctx.stepping = none →
          ∃ u, exec (.dbgstep g d a b) s = .next u ∧ (u.pkg.ctx y).st = .running ∧
          (u.pkg.ctx y).stepping = some { issuer := p.cur, reg := d.toNat, left := vb, from_ := (p.ctx y).regs.retired, reason := none } ∧
          u.ctx.st = .waiting))) ∧
    (s.readyCut g [a.toNat, b.toNat] [] →
      (2 ^ 16 ≤ va ∨ 2 ^ 8 ≤ vb → s.faults (.dbgcapGrant g a b) 8 0 0x28) ∧
      (va < 2 ^ 16 → vb < 2 ^ 8 → ∀ sp, p.space? (p.spaceOf k) = some sp → ∃ q, s.makesCut (.dbgcapGrant g a b) q ∧
        q.space? (p.spaceOf k) = some { sp with tool := va, rights := BitVec.ofNat 8 (vb % 32) })) ∧
    (s.readyCut g [] [] → ∀ sp, p.space? (p.spaceOf k) = some sp → ∃ q sp', s.makesCut (.dbgcapRevoke g) q ∧
      q.space? (p.spaceOf k) = some sp' ∧ sp'.tool = 0 ∧ sp'.rights = 0 ∧
      (sp.tool ≠ 0 ∨ sp.rights ≠ 0 → ∀ w ∈ sp'.wps, w.2.tool ≠ sp.tool) ∧
      (∀ y t, p.spaceOf y.core = p.spaceOf k → (q.ctx y).stepping = some t → t.reason ≠ none))

/-! ### Loads and stores -/

/-- R235, R237, R238, R244, R245: scalar loads extend what they read, stores write the low bytes, both after the checks in
their order; PREF changes no context, no space, no byte of memory or of a line at its home, and no dirty byte, at most where a line is
held; LINEWB leaves its line to the commit. -/
def Obligations.ScalarAccesses : Prop :=
  ∀ (s : State) (g : Guard) (t : Ty) (h : Hint) (inv : Bool) (d : SReg) (m : MemOp),
    let x := s.pkg.cur
    let va := (memAddr s.regs m).toNat
    let n := t.width / 8
    (s.ready g (memSrcs m) [d.toNat] →
      (∀ cause, s.elBad rRD va n cause → s.faults (.ld g t h inv d m) cause va 0) ∧
      (va % n = 0 → ∀ v q, (M.load x rRD va n inv (h == .noalloc)).run s.pkg = .ok (v, q) →
        s.makes (.ld g t h inv d m) (q.withRegs q.cur (·.setS d
          (if t.signed = true then (BitVec.ofNat t.width v).signExtend 64 else (BitVec.ofNat t.width v).setWidth 64))))) ∧
    (s.ready g (d.toNat :: memSrcs m) [] →
      (∀ cause, s.elBad rWR va n cause → s.faults (.st g t h d m) cause va 0) ∧
      (va % n = 0 → ∀ q, (M.store x va n (s.regs.sr d).toNat).run s.pkg = .ok ((), q) → s.makes (.st g t h d m) q)) ∧
    (s.ready g (memSrcs m) [] →
      (let rt := s.pkg.route (s.pkg.spaceOf x.core) va rRD
       ((∀ k o r w, rt ≠ some ⟨k, r, .line o w⟩) → s.completes (.pref g h m) id) ∧
       (∀ k o r w, rt = some ⟨k, r, .line o w⟩ →
         let q := s.pkg.prefetch x.core k (h == .noalloc)
         s.makes (.pref g h m) q ∧ (∀ y, q.ctx y = s.pkg.ctx y) ∧
           (s.pkg.copied k = false → q.mem = s.pkg.mem ∧ q.log = s.pkg.log ∧ q.spaces = s.pkg.spaces ∧
             ∀ key l, Tab.find? s.pkg.l2 key = some l → ∃ l', Tab.find? q.l2 key = some l' ∧ l'.dirty = l.dirty ∧ l'.attrs = l.attrs ∧
               ∀ i < 64, l.have_.getLsbD i = true → l'.have_.getLsbD i = true ∧ lineByte l'.data i = lineByte l.data i))) ∧
      (∀ cause, s.elBad rRD va 1 cause → s.faults (.linewb g h m) cause va 0) ∧
      (s.elOk rRD va 1 → ∀ rt, s.pkg.route? (s.pkg.spaceOf x.core) va = some rt →
        (∀ o w, rt.place = .line o w → exec (.linewb g h m) s = .next (s.retiredOn (s.pkg.modCtx x fun c =>
          { c with ch := { c.ch with wbs := insertNat rt.key c.ch.wbs } }) .next)) ∧
        (∀ c o, rt.place = .lstore c o → exec (.linewb g h m) s = .next (s.retiredOn s.pkg .next))))

/-- R239, R240, Table 9.2: which lanes a vector access selects, where each element is, and what the access does. -/
def Obligations.VectorAccesses : Prop :=
  ∀ (s : State) (g : Guard) (w : VW) (h : Hint) (inv : Bool) (d bv : VReg) (a b c : SReg) (m : MemOp) (sc : BitVec 4)
    (disp : BitVec 32),
    let n := vwBytes w
    let r := s.regs
    let unit (j : Nat) : Word := memAddr r m + BitVec.ofNat 64 (j * n)
    let strided (j : Nat) : Word := BitVec.ofInt 64 ((r.sr a).toInt + disp.toInt + j * (r.sr b).toInt)
    let gathered (j : Nat) : Word := BitVec.ofInt 64 ((r.sr a).toInt + disp.toInt + (r.lane bv.toNat j).toInt * 2 ^ sc.toNat)
    let ready (srcs vsrcs vdsts : List Nat) : Prop := s.pkg.ready g (srcs ++ accessSrcs c) [] vsrcs vdsts none = true
    (∀ j, j ∈ accessLanes r c ↔ j < 64 ∧ (c = 0 ∨ (r.sr c).getLsbD j = true)) ∧ (accessLanes r c).Pairwise (· < ·) ∧
    (ready (memSrcs m) [] [d.toNat] → s.vectorLoads (.ldv g w h inv d m c) n h inv d c unit) ∧
    (ready [a.toNat, b.toNat] [] [d.toNat] → s.vectorLoads (.ldvs g w h inv d a b disp c) n h inv d c strided) ∧
    (ready [a.toNat] [bv.toNat] [d.toNat] → s.vectorLoads (.ldvg g w h inv d a bv sc disp c) n h inv d c gathered) ∧
    (ready (memSrcs m) [d.toNat] [] → s.vectorStores (.stv g w h d m c) n d c unit) ∧
    (ready [a.toNat, b.toNat] [d.toNat] [] → s.vectorStores (.stvs g w h d a b disp c) n d c strided) ∧
    (ready [a.toNat] [d.toNat, bv.toNat] [] → s.vectorStores (.stvg g w h d a bv sc disp c) n d c gathered)

/-- R98: a load reads the context's own uncommitted bytes of a line, and elsewhere the bytes at the line's home; of its own
core's local store, the bytes as its context sees them, and of another core's, elsewhere than in its own uncommitted bytes, those
that its core has committed. The line enters the read signature. What a store makes of its chunk and what it leaves: its line is in
the write signature, the bytes outside the stored ones keep what the chunk had written there, physical memory and every line at its
home keep their bytes, and no context but one it must squash changes. Into its own core's local store, the stored bytes are the
value's, little-endian, every other byte of that local store keeps its value, and so does every other core's local store. -/
def Obligations.LoadsAndStores : Prop :=
  (∀ (p q : Pkg) (x : CtxRef) (va n v : Nat) (noalloc : Bool) (r : Route),
     p.route (p.spaceOf x.core) va rRD = some r → va % 64 + n ≤ 64 → (M.load x rRD va n false noalloc).run p = .ok (v, q) →
     v < 2 ^ (8 * n) ∧ r.key ∈ (q.ctx x).ch.rlines ∧
     (∀ home w, r.place = .line home w → ∀ i < n,
       let own := ((p.ctx x).uline? r.key).getD (0, 0)
       let b := va % 64 + i
       (BitVec.ofNat 512 v).extractLsb' (8 * i) 8 = if own.1.getLsbD b = true then lineByte own.2 b else lineByte (q.lineData r.key) b) ∧
     (∀ off, r.place = .lstore x.core off → ∀ i < n,
       (BitVec.ofNat 512 v).extractLsb' (8 * i) 8 = (p.core x.core).lsByteFor (off / 64 * 64 + va % 64 + i) (some x.slot)) ∧
     (∀ c off, r.place = .lstore c off → c ≠ x.core → ∀ i < n,
       let own := ((p.ctx x).uline? r.key).getD (0, 0)
       let b := va % 64 + i
       (BitVec.ofNat 512 v).extractLsb' (8 * i) 8 =
         if own.1.getLsbD b = true then lineByte own.2 b else (p.core c).lsByteFor (off / 64 * 64 + b) none)) ∧
  (∀ (p q : Pkg) (x : CtxRef) (va n v : Nat) (r : Route),
     p.route (p.spaceOf x.core) va rWR = some r → 1 ≤ n → va % 64 + n ≤ 64 → p.copied r.key = false →
     (M.store x va n v).run p = .ok ((), q) →
     let bytes (c : Ctx) (key : Nat) : BitVec 64 × Line := (Tab.find? c.ch.ulines key).getD (0, 0)
     let home (p : Pkg) (key : Nat) : L2Line := (Tab.find? p.l2 key).getD (.new 0 false)
     r.key ∈ (q.ctx x).ch.wlines ∧ (q.ctx x).regs = (p.ctx x).regs ∧ (q.ctx x).ch.deferred = (p.ctx x).ch.deferred ∧
     q.mem = p.mem ∧ q.log = p.log ∧
     (∀ key, (home q key).have_ = (home p key).have_ ∧ (home q key).dirty = (home p key).dirty ∧
       ∀ i < 64, (home p key).have_.getLsbD i = true → lineByte (home q key).data i = lineByte (home p key).data i) ∧
     (∀ key, key ≠ r.key → bytes (q.ctx x) key = bytes (p.ctx x) key) ∧
     (∀ i, i < va % 64 ∨ va % 64 + n ≤ i → i < 64 →
       (bytes (q.ctx x) r.key).1.getLsbD i = (bytes (p.ctx x) r.key).1.getLsbD i ∧
       lineByte (bytes (q.ctx x) r.key).2 i = lineByte (bytes (p.ctx x) r.key).2 i) ∧
     (∀ i, va % 64 ≤ i → i < va % 64 + n → (bytes (q.ctx x) r.key).1.getLsbD i = true) ∧
     ((∀ off, r.place ≠ .lstore x.core off) → ∀ i < n,
       lineByte (bytes (q.ctx x) r.key).2 (va % 64 + i) = BitVec.ofNat 8 (v / 2 ^ (8 * i))) ∧
     (∀ off, r.place = .lstore x.core off →
       (p.ctx x).excl = none ∨ (∀ e ∈ (p.core x.core).ctxs, e.1 ≠ x.slot → ∀ h ∈ e.2.chunks, h.undo = []) →
       (∀ i < n, (q.core x.core).lsByteFor (lsOff va + i) (some x.slot) = BitVec.ofNat 8 (v / 2 ^ (8 * i))) ∧
       (∀ o, o < lsOff va ∨ lsOff va + n ≤ o →
         (q.core x.core).lsByteFor o (some x.slot) = (p.core x.core).lsByteFor o (some x.slot)) ∧
       ∀ c, c ≠ x.core → (q.core c).ls = (p.core c).ls) ∧
     ((∀ k, ∀ e ∈ (p.core k).ctxs, (⟨k, e.1⟩ : CtxRef) ≠ x → ∀ h ∈ e.2.chunks, h.undo = [] ∧ h.ulines = []) →
       ∀ y, y ≠ x → q.ctx y = p.ctx y))

/-- R98: within its chunk a load returns what the chunk's store to the same place wrote, wherever the line is. (An exclusive
chunk may meet another's uncommitted local-store bytes; that case is left to the claims about squashes.) -/
def Obligations.ReadAfterWrite : Prop :=
  ∀ (p q q' : Pkg) (x : CtxRef) (va n v w : Nat) (noalloc : Bool), 1 ≤ n → va % 64 + n ≤ 64 →
    ((p.ctx x).excl = none ∨ ∀ e ∈ (p.core x.core).ctxs, e.1 ≠ x.slot → ∀ h ∈ e.2.chunks, h.undo = []) →
    (M.store x va n v).run p = .ok ((), q) → (M.load x rRD va n false noalloc).run q = .ok (w, q') → w = v % 2 ^ (8 * n)

/-! ### Deferred operations, pans, fences, barriers and waits -/

/-- R57, R246 to R248, R253, R255, R256: a deferred operation that passes its checks joins the deferred-effect list with the
shape its registers give it, and its token becomes pending; one that fails faults; the thirty-third cuts the chunk. R57,
R266 to R269: PANN and PANV defer their active elements, each line checked for PAN in element order. The order of COPY.d's
checks is the model's reading (log entry 47). -/
def Obligations.DeferredOperations : Prop :=
  (∀ (s : State) (g : Guard) (col : BitVec 3) (m : BitVec 2) (d a b c : SReg) (slot : BitVec 8),
     let r := s.regs
     let f (i : Nat) : Word := r.sn (c.toNat + i)
     let sp := s.pkg.spaceOf s.pkg.cur.core
     let kind (h : Shape) (mf : Option Word) : EKind := .copy h.dst h.src h.n0 h.n1 h.n2 h.ss1 h.ds1 h.ss2 h.ds2 mf
     let h1 : Shape := ⟨r.sr a, r.sr b, (f 0).toNat, 1, 1, 0, 0, 0, 0⟩
     let h2 : Shape := ⟨r.sr a, r.sr b, (f 0).toNat, (f 1).toNat, 1, f 2, f 3, 0, 0⟩
     let h3 : Shape := ⟨r.sr a, r.sr b, (f 0).toNat, (f 1).toNat, (f 2).toNat, f 3, f 4, f 5, f 6⟩
     let checked (i : Instr) (h : Shape) : Prop :=
       (2 ^ 40 - 1 < h.total → s.faults i 8 0 0x28) ∧
       (∀ w va, h.total ≠ 0 → h.total ≤ 2 ^ 40 - 1 → w < h.n1 * h.n2 → (∀ k < w, s.pkg.badRow sp h k = none) →
         s.pkg.badRow sp h w = some va → s.faults i 2 va 0) ∧
       (s.copyOk h → ¬ s.canDefer → exec i s = .next { s with pkg := (s.pkg.settle s.pkg.cur .cut).seal })
     (s.ready g [a.toNat, b.toNat, c.toNat] [d.toNat] → checked (.copy g col d a b c) h1 ∧
       (s.copyOk h1 → s.canDefer → s.defers (.copy g col d a b c) (kind h1 none) col.toNat d)) ∧
     (s.ready g [a.toNat, b.toNat, c.toNat, c.toNat + 1] [d.toNat] → s.copyOk h1 → s.canDefer → (f 1).toNat < 2 ^ 56 →
       ((f 1).toNat % 64 ≠ 0 → s.faults (.copyDigest g col d a b c) 6 (f 1).toNat 0) ∧
       ((f 1).toNat % 64 = 0 → s.pkg.badByte sp (rENG + rWR) (f 1).toNat (64 * ((h1.total + 2 ^ 20 - 1) / 2 ^ 20)) = none →
         s.defers (.copyDigest g col d a b c) (kind h1 (some (f 1))) col.toNat d)) ∧
     (s.ready g (a.toNat :: b.toNat :: regRange c.toNat 4) [d.toNat] → checked (.copy2 g col d a b c) h2 ∧
       (s.copyOk h2 → s.canDefer → s.defers (.copy2 g col d a b c) (kind h2 none) col.toNat d)) ∧
     (s.ready g (a.toNat :: b.toNat :: regRange c.toNat 7) [d.toNat] → checked (.copy3 g col d a b c) h3 ∧
       (s.copyOk h3 → s.canDefer → s.defers (.copy3 g col d a b c) (kind h3 none) col.toNat d)) ∧
     (s.ready g (a.toNat :: b.toNat :: regRange c.toNat 2) [d.toNat] →
       let bad (need : Nat) : Option Nat := s.pkg.badByte sp need (r.sr a).toNat (f 0).toNat
       let remote (need : Nat) (i : Instr) (k : EKind) : Prop :=
         (∀ va, bad need = some va → s.faults i 2 va 0) ∧
         (bad need = none → 2 ^ 32 < (f 0).toNat ∨ 2 ^ 12 ≤ (f 1).toNat → s.faults i 8 0 0x28) ∧
         (bad need = none → (f 0).toNat ≤ 2 ^ 32 → (f 1).toNat < 2 ^ 12 → s.canDefer → s.defers i k col.toNat d)
       remote (rENG + rWR) (.get g col d a b c) (.get (r.sr a) (r.sr b) (f 0).toNat (f 1).toNat) ∧
       remote (rENG + rRD) (.put g col d a b c) (.put (r.sr a) (r.sr b) (f 0).toNat (f 1).toNat)) ∧
     (s.ready g (a.toNat :: c.toNat :: regRange b.toNat (2 ^ m.toNat)) [d.toNat] →
       ((r.sr a).toNat % 64 ≠ 0 → s.faults (.rpan g col m d a b c slot) 6 (r.sr a).toNat 0) ∧
       ((r.sr a).toNat % 64 = 0 → 2 ^ 12 ≤ (r.sr c).toNat → s.faults (.rpan g col m d a b c slot) 8 0 0x28) ∧
       ((r.sr a).toNat % 64 = 0 → (r.sr c).toNat < 2 ^ 12 → s.canDefer → s.defers (.rpan g col m d a b c slot)
         (.rpan (r.sr a) (r.sr c).toNat slot.toNat (BitVec.ofNat 512 (r.gather b.toNat (2 ^ m.toNat)))) col.toNat d))) ∧
  (∀ (s : State) (g : Guard) (col : BitVec 3) (m : BitVec 2) (d a b mask : SReg) (bv cv : VReg) (slot : BitVec 8),
     let r := s.regs
     let va := (r.sr a).toNat
     (s.ready g (a.toNat :: regRange b.toNat (2 ^ m.toNat)) [d.toNat] →
       (∀ cause, s.elBad rPAN va 64 cause → s.faults (.pann g col m d a b slot) cause va 0) ∧
       (s.elOk rPAN va 64 → s.canDefer → s.defers (.pann g col m d a b slot)
         (.pan slot.toNat [{ lane := 0, va := r.sr a, operand := BitVec.ofNat 512 (r.gather b.toNat (2 ^ m.toNat)) }]) col.toNat d)) ∧
     (s.pkg.ready g [a.toNat, mask.toNat] [d.toNat] [bv.toNat, cv.toNat, cv.toNat + 1] [] none = true →
       let adr (j : Nat) : Word := BitVec.ofInt 64 ((r.sr a).toInt + 64 * (r.lane bv.toNat j).toInt)
       let js := (List.range 64).filter fun j => (r.sr mask).getLsbD j
       (∀ pre j post cause, js = pre ++ j :: post → (∀ k ∈ pre, s.elOk rPAN (adr k).toNat 64) →
         s.elBad rPAN (adr j).toNat 64 cause → s.faults (.panv g col d a bv cv mask slot) cause (adr j).toNat (j * 2 ^ 16)) ∧
       ((∀ k ∈ js, s.elOk rPAN (adr k).toNat 64) → s.canDefer → s.defers (.panv g col d a bv cv mask slot)
         (.pan slot.toNat (js.map fun j =>
           { lane := j, va := adr j, operand := BitVec.ofNat 512 ((r.lane cv.toNat j).toNat + 2 ^ 32 * (r.lane (cv.toNat + 1) j).toNat) })) col.toNat d)))

/-- R111, R161, R267, R268: a returning pan is applied at the line's home as a cut instruction; its result is written where
the routine returned one, and its token register receives the status word of Table 6.9. A PANVR's elements are applied in
element order, each at a place of its own; what has been applied stands in the context meanwhile (log entry 41). -/
def Obligations.ReturningPans : Prop :=
  ∀ (s : State) (g : Guard) (col : BitVec 3) (m : BitVec 2) (d a b c mask : SReg) (dv bv cv : VReg) (slot : BitVec 8),
    let x := s.pkg.cur
    let r := s.regs
    let va := (r.sr a).toNat
    let sp := s.pkg.spaceOf x.core
    let call : PanCall :=
      { attr := s.pkg.ownAttr x, origin := x.core, slot := slot.toNat, lidx := 0, lane := 0, va,
        operand := BitVec.ofNat 512 (r.gather b.toNat (2 ^ m.toNat)), returning := true }
    let word (code lane n : Nat) : Word :=
      BitVec.ofNat 64 ((if code = 0 then 1 else 2) * 2 ^ 62 + code * 2 ^ 56 + lane * 2 ^ 48 + n)
    let seen (q : Pkg) (ran : Bool) : Pkg :=
      (if ran then q.watchFor sp (va / 64 * 64) 64 7 (hitOf 3 r.retired s.ctx.seq x.gcid s.ctx.gen (s.pkg.launchOf x.core) 0 0)
        else q).logReturn x 0
    -- the line is at hand, no earlier application of the context to it is outstanding, and a replay allows this one
    let up := (∀ rt, s.pkg.route? sp va = some rt → s.ctx.doomed rt.key = none ∧ s.pkg.down rt.key = false) ∧
      s.pkg.panBehind x s.ctx.gen s.pkg.nextOp va = false ∧ s.pkg.mayReturn x 0 = true
    let ends (q : Pkg) (code : Nat) (counted : Bool) (put : Regs → Regs) : Pkg :=
      let q := q.counting 9 counted.toNat
      let q := if code = 0 then q.withRegs q.cur put else q
      q.withRegs q.cur (·.setS c (word code 0 counted.toNat))
    (s.pkg.readyEarly g (a.toNat :: regRange b.toNat (2 ^ m.toNat)) [d.toNat, c.toNat] [] [] = true →
      (∀ cause, s.elBad rPAN va 64 cause → s.faults (.panr g col m d a b c slot) cause va 0) ∧
      (s.elOk rPAN va 64 → up → ∀ q code counted ran ret, s.pkg.panHome call = .done q code counted ran ret → code ≠ 4 →
        s.makesCut (.panr g col m d a b c slot) (ends (seen q ran) code counted (·.setS d (ret.setWidth 64))))) ∧
    (s.pkg.readyEarly g (a.toNat :: regRange b.toNat (2 ^ m.toNat)) [c.toNat] [] [dv.toNat] = true →
      (∀ cause, s.elBad rPAN va 64 cause → s.faults (.panrv g col m dv a b c slot) cause va 0) ∧
      (s.elOk rPAN va 64 → up → ∀ q code counted ran ret, s.pkg.panHome call = .done q code counted ran ret → code ≠ 4 →
        s.makesCut (.panrv g col m dv a b c slot) (ends (seen q ran) code counted fun r =>
          r.setLanes dv.toNat fun j => if j < 16 then some (ret.extractLsb' (32 * j) 32) else none))) ∧
    (s.pkg.readyEarly g [a.toNat, mask.toNat] [mask.toNat] [bv.toNat, cv.toNat, cv.toNat + 1] [dv.toNat, dv.toNat + 1] = true →
      let i : Instr := .panvr g col dv a bv cv mask slot
      let left := (panEls r a bv cv mask).drop s.ctx.panDone
      let ends (q : Pkg) : Pkg :=
        let k := q.ctx x
        (q.counting 9 k.panCount).withRegs x (·.setS mask (word k.panCode k.panLane k.panCount))
      (∀ pre e post cause, s.ctx.panDone = 0 → left = pre ++ e :: post → (∀ f ∈ pre, s.elOk rPAN f.va.toNat 64) →
        s.elBad rPAN e.va.toNat 64 cause → s.faults i cause e.va.toNat (e.lane * 2 ^ 16)) ∧
      ((∀ e ∈ left, s.elOk rPAN e.va.toNat 64) → left = [] → s.makesCut i (ends s.pkg)) ∧
      (∀ e post code n ret q, left = e :: post → (∀ f ∈ left, s.elOk rPAN f.va.toNat 64) →
        (M.panOnce slot.toNat e.lane e.va.toNat e.operand).run s.pkg = .ok ((code, n, ret), q) → q.cur = x →
        let q' := q.modCtx x (·.addPanLane dv.toNat e.lane code n ret)
        (post = [] → s.makesCut i (ends q')) ∧
        (post ≠ [] → exec i s = .next { s with pkg := ((q'.modCtx x Ctx.enterCut).settle x (.wait .ops)).seal }))) ∧
    (∀ (c : Ctx) (v lane code n : Nat) (ret : Line), lane < 64 →
      let c' := c.addPanLane v lane code n ret
      c'.panDone = c.panDone + 1 ∧ c'.panCount = c.panCount + n ∧
      (code = 0 → c'.regs.lane v lane = ret.extractLsb' 0 32 ∧ c'.regs.lane (v + 1) lane = ret.extractLsb' 32 32) ∧
      (code ≠ 0 → c'.regs = c.regs) ∧ (code ≠ 0 → c.panCode = 0 → c'.panCode = code ∧ c'.panLane = lane) ∧
      (code = 0 ∨ c.panCode ≠ 0 → c'.panCode = c.panCode ∧ c'.panLane = c.panLane))

/-- R158 to R164: how an application at a home ends: the codes of an entry that is EMPTY, DRAINING, unreadable or without RET;
and, on a line that is present and in order, what its routine makes of the line and returns. The entry is the slice's own copy
where it has one, and the table's where it has not; one that it has used it keeps. -/
def Obligations.PanAtHome : Prop :=
  ∀ (p₀ : Pkg) (c : PanCall) (r : Route),
    let s := c.attr.space
    let at_ := p₀.homeOf r.key
    let e := (p₀.cached? at_ s c.slot).getD (p₀.tableEntry s c.slot)
    let unreadable := p₀.cached? at_ s c.slot = none ∧ p₀.tableUnreadable s c.slot = true
    let p := p₀.useEntry at_ s c.slot e
    p₀.route? s c.va = some r →
    (p.cached? at_ s c.slot = some e) ∧
    (unreadable → p₀.panHome c = .done p₀ 5 false false 0) ∧
    (¬ unreadable →
      (entState e = 2 → p₀.panHome c = .done p₀ 2 false false 0) ∧
      (entState e ≠ 1 → entState e ≠ 2 → p₀.panHome c = .done p₀ 1 false false 0) ∧
      (entState e = 1 → c.returning = true → hdrRet (entHdr e) = false → p₀.panHome c = .done p₀ 3 false false 0) ∧
      (entState e = 1 → (c.returning = true → hdrRet (entHdr e) = true) → p.down r.key = false →
        p.copied r.key = false → p.hasRec r.key = false → ∀ q, p.fill r.key (BitVec.allOnes 64) = .ok q → q.linePoison r.key = false →
        let n := q.countPan at_ s
        let lvl := n.levelOf c.origin [] [r.key]
        (∀ code, runRoutine (entHdr e) (entWords e) (q.lineData r.key) c.operand = .fail code → p₀.panHome c = .done n code true true 0) ∧
        (∀ ret, runRoutine (entHdr e) (entWords e) (q.lineData r.key) c.operand = .done none ret → p₀.panHome c = .done n 0 true true ret) ∧
        (∀ l ret, runRoutine (entHdr e) (entWords e) (q.lineData r.key) c.operand = .done (some l) ret →
          n.exclusiveHolds lvl c.origin [r.key] none = false →
          p₀.panHome c = .done ((n.broadcast lvl c.origin [r.key] none).homeWrite r.key (BitVec.allOnes 64) l c.attr none)
            0 true true ret)))

/-- R155 to R157, R270: PANLD loads an image that passes its checks when the chunk commits; PANQ reads the slot as its chunk
sees it; PANDROP drains it at the commit. -/
def Obligations.RoutineTable : Prop :=
  ∀ (s : State) (g : Guard) (d a : SReg) (slot : BitVec 8),
    let x := s.pkg.cur
    let va := (s.regs.sr a).toNat
    let sp := s.pkg.spaceOf x.core
    let e := (s.ctx.chunks.reverse.flatMap Chunk.tabOps).foldl (tabEffect slot.toNat) (s.pkg.tableEntry sp slot.toNat)
    let key := lineKey sp (tableLineVa slot.toNat)
    (s.ready g [a.toNat] [] →
      (∀ cause, s.elBad rRD va 4 cause → s.faults (.panld g a slot) cause va 0) ∧
      (s.elOk rRD va 4 → s.pkg.badByte sp rRD va 4 = none →
        (entState e ≠ 0 → s.faults (.panld g a slot) 8 0 0x01) ∧
        (entState e = 0 → ∀ h q, (M.load x rRD va 4 false false).run s.pkg = .ok (h, q) →
          (headerOk h = false → s.faults (.panld g a slot) 8 0 0x02) ∧
          (headerOk h = true → q.badByte (q.spaceOf x.core) rRD (va + 4) (4 * hdrLen h) = none → ∀ bs q1,
            (M.loadBytes x rRD false false (4 * hdrLen h / 64 + 2) (va + 4) (4 * hdrLen h)).run q = .ok (bs, q1) →
            (∀ reason j, imageReason h ((wordsOf bs).map BitVec.toNat) = some (reason, j) →
              s.faults (.panld g a slot) 8 0 (j * 2 ^ 8 + reason)) ∧
            (imageReason h ((wordsOf bs).map BitVec.toNat) = none → ∀ q2,
              (M.tableChange slot.toNat (.load slot.toNat (BitVec.ofNat 32 h :: wordsOf bs))).run q1 = .ok ((), q2) →
              s.makes (.panld g a slot) q2 ∧
              (q1.cur = x → (q2.ctx x).ch.tabOps = (q1.ctx x).ch.tabOps ++ [.load slot.toNat (BitVec.ofNat 32 h :: wordsOf bs)])))))) ∧
    (s.ready g [] [d.toNat] → s.makes (.panq g d slot) ((s.pkg.withRegs x (·.setS d
      (if entState e = 0 then 0 else BitVec.ofNat 64 (entHdr e * 2 ^ 32 + entGen e * 2 ^ 16 + entState e)))).enterR key)) ∧
    (s.ready g [] [] → s.pkg.writable key → (∀ y ∈ (s.pkg.core x.core).ctxs, y.1 ≠ x.slot → ∀ h ∈ y.2.chunks, h.tabOps = []) →
      s.makes (.pandrop g slot) ((s.pkg.enterW key).modCtx x fun c =>
        { c with ch := { c.ch with tabOps := c.ch.tabOps ++ [.drop slot.toNat] } }))

/-- R107, R258 to R260, R204: a fence waits for the operations it names, cuts after one of its own chunk, and else writes 0;
CHK tests a token, and waits for it while the space is recorded or replayed (R420). R261 to R263: BARARR raises its core's
flag and returns the phase; BARWAIT and BARTEST compare phases; the phase inverts once every member has arrived; a core that
is no member faults. In replay each takes the logged timeout (R420). -/
def Obligations.FencesAndBarriers : Prop :=
  (∀ (s : State) (g : Guard) (d a : SReg) (pd : PReg) (cols : BitVec 8) (classes : BitVec 4),
     let x := s.pkg.cur
     let names (classes : BitVec 4) (k : EKind) (col : Nat) : Prop :=
       k.cls < 4 ∧ classes.getLsbD k.cls = true ∧ cols.getLsbD col = true
     let mine (o : Op) : Prop := o ∈ s.pkg.ops ∧ o.who = x ∧ o.gen = s.ctx.gen
     let cuts (i : Instr) : Prop := exec i s = .next { s with pkg := (s.pkg.settle x .cut).seal }
     let live := s.pkg.replayOf (s.pkg.spaceOf x.core) = none
     -- named operations of the chunk that asks for its commit, and named ones outstanding
     let opens (classes : BitVec 4) (outstanding : Op → Bool) : Prop :=
       (∃ h, s.ctx.req = some h ∧ ∃ e ∈ h.deferred, names classes e.kind e.col) ∨
         ∃ o, mine o ∧ names classes o.kind o.col ∧ outstanding o = true
     let fence (i : Instr) (k : WaitKind) (classes : BitVec 4) (outstanding : Op → Bool) : Prop :=
       ((∃ e ∈ s.ctx.ch.deferred, names classes e.kind e.col) → cuts i) ∧
       ((∀ e ∈ s.ctx.ch.deferred, ¬ names classes e.kind e.col) →
         (¬ s.timedOut 1 → ¬ opens classes outstanding → s.completes i (·.setS d 0)) ∧
         (live → opens classes outstanding → s.waits i k) ∧
         (s.timedOut 1 → s.makes i ((s.pkg.noting 2 1).withRegs x (·.setS d 1))))
     (s.ready g [] [d.toNat] → fence (.fenceE g d cols classes) .fenceE classes Op.localOpen ∧
       fence (.fenceX g d cols) .fenceX 4 fun _ => true) ∧
     (s.ready g [] [] →
       (Tab.find? s.regs.pend a.toNat = none → s.completes (.chk g pd a) (·.setP pd true)) ∧
       (∀ t, Tab.find? s.regs.pend a.toNat = some t →
         (s.pkg.logged (s.pkg.spaceOf x.core) = false ∨ t / 64 = s.ctx.seq → s.completes (.chk g pd a) (·.setP pd false)) ∧
         (s.pkg.logged (s.pkg.spaceOf x.core) = true → t / 64 ≠ s.ctx.seq → s.waits (.chk g pd a) .scoreboard)))) ∧
  (∀ (s : State) (g : Guard) (d a : SReg) (pd : PReg) (bg : BitVec 4),
     let x := s.pkg.cur
     let live := s.pkg.replayOf (s.pkg.spaceOf x.core) = none
     let bit (b : Bool) : Word := if b = true then 1 else 0
     let member (b : Bar) : Prop := Tab.find? s.pkg.bars bg.toNat = some b ∧ x.core ∈ b.members ∧ s.pkg.gangOf x.core = some b.gang
     (s.readyCut g [] [d.toNat] →
       ((¬ ∃ b, member b) → s.faults (.bararr g d bg) 8 0 0x2A) ∧
       (∀ b, member b →
         (¬ s.timedOut (BitVec.allOnes 64) → x.core ∉ b.flags → s.makesCut (.bararr g d bg)
           ({ s.pkg with bars := s.pkg.bars.put bg.toNat { b with flags := insertNat x.core b.flags } }.withRegs x (·.setS d (bit b.phase)))) ∧
         (x.core ∈ b.flags → live → s.waits (.bararr g d bg) .bararr) ∧
         (s.timedOut (BitVec.allOnes 64) →
           s.makesCut (.bararr g d bg) ((s.pkg.noting 2 (BitVec.allOnes 64)).withRegs x (·.setS d (BitVec.allOnes 64)))))) ∧
     (s.ready g [a.toNat] [d.toNat] →
       ((¬ ∃ b, member b) → s.faults (.barwait g d a bg) 8 0 0x2A) ∧
       (∀ b, member b →
         (¬ s.timedOut 1 → b.phase ≠ (s.regs.sr a).getLsbD 0 → s.completes (.barwait g d a bg) (·.setS d 0)) ∧
         (b.phase = (s.regs.sr a).getLsbD 0 → live → s.waits (.barwait g d a bg) .barwait) ∧
         (s.timedOut 1 → s.makes (.barwait g d a bg) ((s.pkg.noting 2 1).withRegs x (·.setS d 1))))) ∧
     (s.ready g [a.toNat] [] →
       ((¬ ∃ b, member b) → s.faults (.bartest g pd a bg) 8 0 0x2A) ∧
       (∀ b, member b → s.completes (.bartest g pd a bg) (·.setP pd (b.phase != (s.regs.sr a).getLsbD 0)))) ∧
     (∀ b n, Tab.find? s.pkg.bars n = some b → b.members ≠ [] → (∀ c ∈ b.members, c ∈ b.flags) → ∃ t,
       exec (.barrierPhaseComplete n) s = .next t ∧ Tab.find? t.pkg.bars n = some { b with phase := !b.phase, flags := [] } ∧
       t.pkg.cores = s.pkg.cores))

/-- R264: WAITZ and WAITNE end with the word, extended as each says, once their condition holds, and else wait. -/
def Obligations.MemoryWaits : Prop :=
  ∀ (s : State) (g : Guard) (wide : Bool) (d c : SReg) (m : MemOp) (va v : Nat) (q : Pkg),
    let x := s.pkg.cur
    let n := if wide = true then 8 else 4
    let shown : Word := if wide = true then BitVec.ofNat 64 v else (BitVec.ofNat 32 v).signExtend 64
    let other := (s.regs.sr c).toNat % 2 ^ (8 * n)
    let done (i : Instr) (w : Word) : Prop := ∃ q', s.makesCut i q' ∧ (q'.ctx x).regs = (q.ctx x).regs.setS d w
    s.pkg.replayOf (s.pkg.spaceOf x.core) = none → q.replayOf (q.spaceOf x.core) = none → q.cur = x →
    (M.waitWord m n).run s.pkg = .ok ((va, v), q) → v < 2 ^ (8 * n) →
    (s.readyCut g (memSrcs m) [d.toNat] →
      (v = 0 ∨ 0 ≤ shown.toInt → done (.waitz g wide d m) shown) ∧ (v ≠ 0 → shown.toInt < 0 → s.waits (.waitz g wide d m) .waitz)) ∧
    (s.readyCut g (c.toNat :: memSrcs m) [d.toNat] →
      (v ≠ other → done (.waitne g wide d m c) (BitVec.ofNat 64 v)) ∧ (v = other → s.waits (.waitne g wide d m c) .waitne))

/-- R227, R232, R258, R259, R262, R264, R420: a wait that has lasted its limit ends with the code that its instruction gives
a timeout, and the instruction retires: JOIN 2, MSGRECV all ones, the fences and BARWAIT 1, BARARR all ones with nothing
arrived; where what it waits for has come meanwhile, nothing happens, and the instruction when it issues again succeeds. R264:
a recheck issues the waiting instruction again, and it completes where its word satisfies it; at the limit the word as it then
reads is its result, whatever it is. R343: STEP_END reports to the issuer, whose DBGSTEP then completes with REASON and the
count, and halts the target again; so does the issuer's timeout, with REASON 3. The events that end waits are the agenda's (log entry 12). -/
def Obligations.WaitEnds : Prop :=
  (∀ (s : State) (core slot : Nat),
     let x : CtxRef := ⟨core, slot⟩
     let p := s.pkg
     let r := (p.ctx x).regs
     let late (k : WaitKind) (limit : Nat) : Prop :=
       (p.ctx x).mayIssue = true ∧ (p.ctx x).st = .waiting ∧ p.replayOf (p.spaceOf core) = none ∧
         ∃ t, (p.ctx x).wait = some (k, t) ∧ limit ≤ p.pt - t
     let ends (i : Instr) (f : Regs) : Prop :=
       ∃ t, exec i s = .next t ∧ (t.pkg.ctx x).regs = f.retire .next ∧ t.pkg.bars = p.bars ∧
         (((t.pkg.ctx x).st = .running ∧ (t.pkg.ctx x).wait = none) ∨
           -- its chunk has been cut, and the next one waits for its reservation (R65)
           ((p.ctx x).nextWant ≠ none ∧ (t.pkg.ctx x).req ≠ none ∧ (t.pkg.ctx x).st = .waiting ∧
             ∃ u, (t.pkg.ctx x).wait = some (.exclusive, u)))
     -- with what it waits for not come, it ends; else nothing happens
     let times (i : Instr) (open_ : Prop) (f : Regs) : Prop := (open_ → ends i f) ∧ (¬ open_ → s.does i p)
     (∀ g d a, p.instrAt x = some (.join g d a) → late .join (2 ^ 24) →
       times (.joinTimeout core slot) (p.joinCode core (r.sr a) = none) (r.setS d 2)) ∧
     (∀ g d a, p.instrAt x = some (.msgrecv g d a) → late .msgrecv (2 ^ 18) →
       times (.msgrecvTimeout core slot) ((p.ctx x).inbox = []) (r.setS a (BitVec.allOnes 64))) ∧
     (∀ g d c k, p.instrAt x = some (.fenceE g d c k) → late .fenceE (2 ^ 26) →
       times (.fenceETimeout core slot) (p.fenceOpen x c k Op.localOpen = true) (r.setS d 1)) ∧
     (∀ g d c, p.instrAt x = some (.fenceX g d c) → late .fenceX (2 ^ 30) →
       times (.fenceXTimeout core slot) (p.fenceOpen x c 4 (fun _ => true) = true) (r.setS d 1)) ∧
     (∀ g d b, p.instrAt x = some (.bararr g d b) → late .bararr (2 ^ 24) →
       times (.bararrTimeout core slot) (∀ y, Tab.find? p.bars b.toNat = some y → core ∈ y.flags) (r.setS d (BitVec.allOnes 64))) ∧
     (∀ g d a b, p.instrAt x = some (.barwait g d a b) → late .barwait (2 ^ 24) →
       times (.barwaitTimeout core slot) (∀ y, Tab.find? p.bars b.toNat = some y → y.phase = (r.sr a).getLsbD 0) (r.setS d 1))) ∧
  (∀ (s : State) (core slot : Nat) (g : Guard) (wide : Bool) (d : SReg) (m : MemOp) (t : Nat),
     let x : CtxRef := ⟨core, slot⟩
     let here : State := { s with pkg := { s.pkg with cur := x } }
     let c := s.pkg.ctx x
     s.pkg.instrAt x = some (.waitz g wide d m) → c.st = .waiting → c.wait = some (.waitz, t) →
     exec (.waitRecheck core slot) s = exec (.waitz g wide d m) here ∧
     (here.readyCut g (memSrcs m) [d.toNat] → s.pkg.replayOf (s.pkg.spaceOf core) = none → ∀ va v q,
       (M.waitWord m (if wide = true then 8 else 4)).run here.pkg = .ok ((va, v), q) → q.cur = x → q.replayOf (q.spaceOf core) = none →
       v = 0 → ∃ u, exec (.waitRecheck core slot) s = .next u ∧ (u.pkg.ctx x).regs = ((q.ctx x).regs.setS d 0).retire .next ∧
         (u.pkg.ctx x).st = .running) ∧
     (c.mayIssue = true → s.pkg.replayOf (s.pkg.spaceOf core) = none → 2 ^ 24 ≤ s.pkg.pt - t → here.readyCut g (memSrcs m) [d.toNat] →
       ∀ va v q, (M.waitWord m (if wide = true then 8 else 4)).run here.pkg = .ok ((va, v), q) → v < 2 ^ (if wide = true then 64 else 32) → q.cur = x →
         q.replayOf (q.spaceOf core) = none → ∃ u, exec (.waitTimeout core slot) s = .next u ∧
         (u.pkg.ctx x).regs = ((q.ctx x).regs.setS d (if wide = true then BitVec.ofNat 64 v else (BitVec.ofNat 32 v).signExtend 64)).retire .next)) ∧
  (∀ (s : State) (core slot : Nat) (k : Stepping),
     let x : CtxRef := ⟨core, slot⟩
     let p := s.pkg
     let c := p.ctx x
     let i := p.ctx k.issuer
     let word (reason : Nat) : Word := BitVec.ofNat 64 (reason * 2 ^ 62 + ((c.req.getD c.ch).start.retired - k.from_).toNat)
     c.stepping = some k → k.issuer ≠ x → c.st ≠ .free → c.stop.isSome = true → i.st = .waiting → (∃ t, i.wait = some (.step, t)) →
     (c.stepDone = true → p.replayAllows (p.spaceOf k.issuer.core) 2 k.issuer.gcid i.chunkseq.toNat 0 = true →
       ∃ t, exec (.stepEnd core slot) s = .next t ∧ (t.pkg.ctx x).st = .halted ∧ (t.pkg.ctx x).stepping = none ∧
         (t.pkg.ctx k.issuer).regs = (i.regs.setSn k.reg (word (k.reason.getD 0))).retire .next ∧
         (t.pkg.ctx k.issuer).st = .running) ∧
     (p.expired k.issuer .step (2 ^ 24) = true → p.steppedBy k.issuer = some x →
       ∃ t, exec (.dbgstepTimeout k.issuer.core k.issuer.slot) s = .next t ∧ (t.pkg.ctx x).st = .halted ∧
         (t.pkg.ctx k.issuer).regs = (i.regs.setSn k.reg (word 3)).retire .next))

/-! ### Vector instructions -/

/-- R277, R279, R281, R208: vector arithmetic, integers modulo 2^w, floats rounded once, sign and order operations never.
R279, R280, R282, R285: square root, its inverse, powers and logarithms of two, rounding to an integral value, and conversion:
each rounds its exact result once with the lane as RSH index, powers and logarithms of two from the value that log entry 18 (the
model's choice) takes for exact. -/
def Obligations.VectorArithmetic : Prop :=
  (∀ (s : State) (g : Guard) (t : Ty) (rm : RM) (mk : Option SReg) (d a b c : VReg),
     let r := s.regs
     let x := laneElem t r a
     let y := laneElem t r b
     let z := laneElem t r c
     let rnd (j : Nat) : Rnd := rndVec r t rm j
     let flt : Prop := Ty.flt t = true
     let int : Prop := Ty.int32 t = true
     let does (i : Instr) (f : Nat → BitVec 32) : Prop := s.vector i mk (some (vecClass t)) 1 [] [d.toNat] (·.mapLanes mk d f)
     let code (f : Nat → Nat) (j : Nat) : BitVec 32 := BitVec.ofNat 32 (f j)
     let res (f : Nat → Int) (j : Nat) : BitVec 32 := laneOf t (f j)
     (s.readyV g mk [] [] [a.toNat, b.toNat] [d.toNat] →
       (int → does (.vadd g t rm mk d a b) (res fun j => x j + y j) ∧ does (.vsub g t rm mk d a b) (res fun j => x j - y j) ∧
         does (.vmul g t rm mk d a b) (res fun j => x j * y j) ∧
         does (.vdiv g t rm mk d a b) (res fun j => if y j = 0 then -1 else (x j).tdiv (y j)) ∧
         does (.vmin g t mk d a b) (res fun j => min (x j) (y j)) ∧ does (.vmax g t mk d a b) (res fun j => max (x j) (y j))) ∧
       (flt →
         does (.vadd g t rm mk d a b) (code fun j => sumRound t (rnd j) [vnum t r a j, vnum t r b j]) ∧
         does (.vsub g t rm mk d a b) (code fun j => sumRound t (rnd j) [vnum t r a j, (vnum t r b j).neg]) ∧
         does (.vmul g t rm mk d a b) (code fun j => packNum t (rnd j) ((vnum t r a j).mul (vnum t r b j))) ∧
         does (.vdiv g t rm mk d a b) (code fun j => divRound t (rnd j) (vnum t r a j) (vnum t r b j)) ∧
         does (.vmin g t mk d a b) (code fun j => minMax t false (velem t r a j) (velem t r b j)) ∧
         does (.vmax g t mk d a b) (code fun j => minMax t true (velem t r a j) (velem t r b j)))) ∧
     (s.readyV g mk [] [] [a.toNat, b.toNat, c.toNat] [d.toNat] →
       (int → does (.vfma g t rm mk d a b c) (res fun j => x j * y j + z j) ∧
         does (.vclamp g t mk d a b c) (res fun j => min (max (x j) (y j)) (z j))) ∧
       (flt → does (.vfma g t rm mk d a b c)
           (code fun j => sumRound t (rnd j) [(vnum t r a j).mul (vnum t r b j), vnum t r c j]) ∧
         does (.vclamp g t mk d a b c)
           (code fun j => minMax t false (minMax t true (velem t r a j) (velem t r b j)) (velem t r c j)))) ∧
     (s.readyV g mk [] [] [a.toNat] [d.toNat] →
       (int → does (.vabs g t mk d a) (res fun j => (x j).natAbs) ∧ does (.vneg g t mk d a) (res fun j => -(x j))) ∧
       (flt → let e (j : Nat) : Nat := (r.lane a.toNat j).toNat % 2 ^ t.width
         does (.vabs g t mk d a) (code fun j => e j % 2 ^ (t.width - 1)) ∧
         does (.vneg g t mk d a) (code fun j => (e j + 2 ^ (t.width - 1)) % 2 ^ t.width)))) ∧
  (∀ (s : State) (g : Guard) (t src : Ty) (rm : RM) (mk : Option SReg) (d a : VReg),
     s.readyV g mk [] [] [a.toNat] [d.toNat] →
     let r := s.regs
     let rnd (j : Nat) : Rnd := rndVec r t rm j
     let does (i : Instr) (f : Nat → Nat) : Prop :=
       s.vector i mk (some (vecClass t)) 1 [] [d.toNat] (·.mapLanes mk d fun j => BitVec.ofNat 32 (f j))
     does (.vsqrt g t rm mk d a) (fun j => sqrtRound t (rnd j) (vnum t r a j)) ∧
     does (.vrsq g t rm mk d a) (fun j => rsqRound t (rnd j) (vnum t r a j)) ∧
     does (.vexp2 g t rm mk d a) (fun j => exp2Round t (rnd j) (vnum t r a j)) ∧
     does (.vlog2 g t rm mk d a) (fun j => log2Round t (rnd j) (vnum t r a j)) ∧
     does (.vround g t rm mk d a) (fun j => roundIntegral t (rnd j) (velem t r a j)) ∧
     (let wide := if t.width < src.width then src else t
      s.vector (.vcvt g t src rm mk d a) mk (some (vecClass wide)) 1 [] [d.toNat] (·.mapLanes mk d fun j =>
        let e := vcode src r a j
        let n := if Ty.whole src = true then intToNum (intOf src e) else unpack src e
        if src = .s4e ∧ Ty.int32 t = true then laneOf t (intOf src e)
        else if Ty.whole t = true then laneOf t (numToInt t (rnd j) n) else laneOf t (packNum t (rnd j) n))))

/-- R277, R278, R283, R284: bitwise operations, shifts, bit counts, comparisons and selection by lane. -/
def Obligations.VectorBits : Prop :=
  ∀ (s : State) (g : Guard) (t : Ty) (cond : Cond) (mk : Option SReg) (sd sc : SReg) (d a b : VReg) (n : BitVec 5), t.width ≤ 32 →
    let r := s.regs
    let e (v : VReg) (j : Nat) : BitVec t.width := (r.lane v.toNat j).setWidth t.width
    let ext (v : BitVec t.width) : BitVec 32 := if t.signed = true then v.signExtend 32 else v.setWidth 32
    let does (i : Instr) (f : Nat → BitVec t.width) : Prop :=
      s.vector i mk (some (vecClass t)) 1 [] [d.toNat] (·.mapLanes mk d fun j => ext (f j))
    let k (j : Nat) : Nat := (r.lane b.toNat j).toNat % t.width
    (Ty.int32 t = true →
      (s.readyV g mk [] [] [a.toNat, b.toNat] [d.toNat] →
        does (.vand g t mk d a b) (fun j => e a j &&& e b j) ∧ does (.vor g t mk d a b) (fun j => e a j ||| e b j) ∧
        does (.vxor g t mk d a b) (fun j => e a j ^^^ e b j) ∧ does (.vshl g t mk d a (.reg b)) (fun j => e a j <<< k j) ∧
        does (.vshr g t mk d a (.reg b)) (fun j => e a j >>> k j) ∧ does (.vsar g t mk d a (.reg b)) (fun j => (e a j).sshiftRight (k j))) ∧
      (s.readyV g mk [] [] [a.toNat] [d.toNat] →
        does (.vshl g t mk d a (.imm n)) (fun j => e a j <<< n.toNat) ∧ does (.vshr g t mk d a (.imm n)) (fun j => e a j >>> n.toNat) ∧
        does (.vsar g t mk d a (.imm n)) (fun j => (e a j).sshiftRight n.toNat) ∧
        does (.vpopc g t mk d a) (fun j => BitVec.ofNat t.width ((List.range t.width).filter fun i => (e a j).getLsbD i).length))) ∧
    (s.readyV g mk [] [sd.toNat] [a.toNat, b.toNat] [] → ∃ v : Word,
      s.vector (.vcmp g t cond mk sd a b) mk (some (vecClass t)) 1 [sd.toNat] [] (·.setS sd v) ∧
      ∀ j < 64, v.getLsbD j = true ↔ (∀ m, mk = some m → (r.sr m).getLsbD j = true) ∧
        if Ty.flt t = true then condNum cond (unpack t (velem t r a j)) (unpack t (velem t r b j)) = true else condHolds cond (e a j) (e b j)) ∧
    (s.readyV g mk [sc.toNat] [] [a.toNat, b.toNat] [d.toNat] →
      s.vector (.vsel g mk d a b sc) mk none 1 [] [d.toNat]
        (·.mapLanes mk d fun j => if (r.sr sc).getLsbD j = true then r.lane a.toNat j else r.lane b.toNat j))

/-- R286 to R292: packing, broadcasts, moves and permutes. Every source lane is read before a destination lane is written. -/
def Obligations.VectorMoves : Prop :=
  ∀ (s : State) (g : Guard) (t : Ty) (mk : Option SReg) (sd sa : SReg) (d a b : VReg) (p : BitVec 3) (n : BitVec 6)
    (imm : BitVec 32),
    let r := s.regs
    let src (v : VReg) (j : Nat) : BitVec 32 := r.lane v.toNat j
    let field (v : VReg) (f : Nat) : Nat := (src v (f / (32 / t.width))).toNat / 2 ^ (f % (32 / t.width) * t.width) % 2 ^ t.width
    let on (j : Nat) : Prop := ∀ m, mk = some m → (r.sr m).getLsbD j = true
    let moves (i : Instr) (f : Nat → BitVec 32) : Prop := s.vector i mk none 1 [] [d.toNat] (·.mapLanes mk d f)
    let one (i : Nat) : Word :=
      if t.signed = true then ((src a i).setWidth t.width).signExtend 64 else ((src a i).setWidth t.width).setWidth 64
    (s.readyV g mk [] [] [a.toNat] [d.toNat] →
      moves (.vmov g mk d a) (src a) ∧
      ((t.width = 4 ∨ t.width = 8 ∨ t.width = 16) → moves (.vunpk g t p mk d a) (fun j => laneOf t (field a (64 * p.toNat + j)))) ∧
      moves (.vshuf g mk d a (.rot n)) (fun j => src a ((j + n.toNat) % 64)) ∧ moves (.vshuf g mk d a .rev) (fun j => src a (63 - j)) ∧
      moves (.vshuf g mk d a (.xor n)) (fun j => src a (j ^^^ n.toNat)) ∧
      (∃ f : Nat → BitVec 32, s.vector (.vcomp g mk d a) mk none 1 [] [d.toNat] (·.setLanes d.toNat fun j => some (f j)) ∧
        ∀ j < 64, f j = match (lanesOn r mk)[j]? with
          | some i => src a i
          | none => 0) ∧
      moves (.vexpnd g mk d a) (fun j => src a ((lanesOn r mk).filter (· < j)).length) ∧
      (∀ j, j ∈ lanesOn r mk ↔ j < 64 ∧ on j)) ∧
    (s.readyV g mk [] [] [a.toNat, b.toNat] [d.toNat] →
      moves (.vperm g mk d a b) (fun j => src a ((src b j).toNat % 64)) ∧
      moves (.vshuf g mk d a (.ziplo b)) (fun j => src (if j % 2 = 0 then a else b) (j / 2)) ∧
      moves (.vshuf g mk d a (.ziphi b)) (fun j => src (if j % 2 = 0 then a else b) (32 + j / 2)) ∧
      moves (.vshuf g mk d a (.even b)) (fun j => if j < 32 then src a (2 * j) else src b (2 * (j - 32))) ∧
      moves (.vshuf g mk d a (.odd b)) (fun j => if j < 32 then src a (2 * j + 1) else src b (2 * (j - 32) + 1)) ∧
      ((t.width = 4 ∨ t.width = 8 ∨ t.width = 16) → ∃ f : Nat → BitVec 32,
        s.vector (.vpack g t p mk d a b) mk none 1 [] [d.toNat] (·.setLanes d.toNat fun j => some (f j)) ∧
        ∀ l < 64, ∀ i < 32 / t.width,
          let k := l * (32 / t.width) + i
          (on (k % 64) ∧ k / 64 = p.toNat → (f l).toNat / 2 ^ (i * t.width) % 2 ^ t.width = (src a (k % 64)).toNat % 2 ^ t.width) ∧
          (¬ (on (k % 64) ∧ k / 64 = p.toNat) → (f l).toNat / 2 ^ (i * t.width) % 2 ^ t.width = field b k))) ∧
    (s.readyV g mk [sa.toNat] [] [] [d.toNat] → moves (.vbcast g t mk d sa) (fun _ => laneOf t ((r.sr sa).toNat))) ∧
    (s.readyV g mk [] [] [] [d.toNat] → moves (.vmovi g t mk d imm) (fun _ => imm)) ∧
    (s.readyV g none [sa.toNat] [sd.toNat] [a.toNat] [] →
      s.vector (.vmovs g t sd a (.reg sa)) none none 1 [sd.toNat] [] (·.setS sd (one ((r.sr sa).toNat % 64)))) ∧
    (s.readyV g none [] [sd.toNat] [a.toNat] [] →
      s.vector (.vmovs g t sd a (.imm n)) none none 1 [sd.toNat] [] (·.setS sd (one n.toNat)))

/-- R146, R147, R293 to R295: reductions in the tree's fixed order, scans in lane order, and dot products rounded once. An
inactive lane joins a reduction or scan as the identity. -/
def Obligations.VectorReductions : Prop :=
  ∀ (s : State) (g : Guard) (t src : Ty) (rm : RM) (op : ScanOp) (mk : Option SReg) (sd : SReg) (d a b c : VReg),
    let r := s.regs
    let step (op : ScanOp) (rm : RM) (i x y : Nat) : Nat := redOp t op (rndVec r t rm i) x y
    let reduces (i : Instr) (op : ScanOp) (rm : RM) : Prop := ∃ v : Nat, s.vector i mk (some (vecClass t)) 1 [sd.toNat] []
        (·.setS sd (if t.signed = true then (BitVec.ofNat t.width v).signExtend 64 else (BitVec.ofNat t.width v).setWidth 64)) ∧
      -- R146: level l combines lane i with lane i + 64 / 2^l; RSH index 64 (l - 1) + i
      ∃ lev : Nat → Nat → Nat, (∀ j < 64, lev 0 j = redElem t op mk a r j) ∧
        (∀ l < 6, ∀ j < 64 / 2 ^ (l + 1), lev (l + 1) j = step op rm (64 * l + j) (lev l j) (lev l (j + 64 / 2 ^ (l + 1)))) ∧
        v = lev 6 0
    (∀ j, ¬ laneOn r mk j = true → redElem t op mk a r j = redIdentity t op) ∧
    (s.readyV g mk [] [sd.toNat] [a.toNat] [] →
      reduces (.vredsum g t rm mk sd a) .add rm ∧ reduces (.vredmax g t mk sd a) .max .rne ∧ reduces (.vredmin g t mk sd a) .min .rne) ∧
    (s.readyV g mk [] [] [a.toNat] [d.toNat] → ∃ run : Nat → Nat,
      run 0 = redElem t op mk a r 0 ∧ (∀ j < 63, run (j + 1) = step op rm (j + 1) (run j) (redElem t op mk a r (j + 1))) ∧
      s.vector (.vscan g t rm op mk d a) mk (some (vecClass t)) 1 [] [d.toNat] (·.mapLanes mk d fun j => laneOf t (run j))) ∧
    (s.readyV g mk [] [] [a.toNat, b.toNat, c.toNat] [d.toNat] → (src.width = 8 ∨ src.width = 16) →
      let k := 32 / src.width
      let fa (j i : Nat) : Nat := r.field a.toNat src.width (j * k + i)
      let fb (j i : Nat) : Nat := r.field b.toNat src.width (j * k + i)
      let dots (f : Nat → BitVec 32) : Prop :=
        s.vector (.vdot g t src rm mk d a b c) mk (some (vecClass src)) k [] [d.toNat] (·.mapLanes mk d f)
      (Ty.flt src = false → dots fun j => BitVec.ofInt 32 ((r.lane c.toNat j).toInt +
        ((List.range k).map fun i => intOf src (fa j i) * intOf src (fb j i)).sum)) ∧
      (Ty.flt src = true → dots fun j => BitVec.ofNat 32 (sumRound t (rndVec r t rm j)
        (unpack t ((r.lane c.toNat j).toNat % 2 ^ t.width) :: (List.range k).map fun i =>
          (operand src (ftzVec r) (fa j i)).mul (operand src (ftzVec r) (fb j i))))))

/-! ### Matrix instructions -/

/-- R303 to R306: TMOV copies a tile, TMOV.tr transposes its blocks, TCVT converts, TZERO clears, TLDV and TSTV move a row to
and from a vector register, TGETSC and TSETSC move a row's scales; each goes through the matrix engine's queue. -/
def Obligations.TileRegisters : Prop :=
  ∀ (s : State) (g : Guard) (t src : Ty) (rm : RM) (d a : TReg) (v : VReg) (sd : SReg) (row : BitVec 4),
    let p := s.pkg
    let r := s.regs
    let x := p.tile a
    let y := p.tile d
    let q := p.enterR (p.regLine a.toNat)
    let q' := p.enterR (p.regLine d.toNat)
    let makes (i : Instr) (n : Pkg) : Prop := s.makesQueued i true [] [] n
    (s.readyM g [] [] [] [] → p.tileFree d →
      makes (.tmov g d a) (q.putTile d x) ∧
      (x.oneScale = true → (x.fmt = 1 → ∀ e ∈ x.codes, e.2 ≠ 8) → makes (.tmovTr g d a) (q.putTile d x.transposed)) ∧
      (x.oneScale = false ∨ (x.fmt = 1 ∧ ∃ e ∈ x.codes, e.2 = 8) → s.faults (.tmovTr g d a) 8 0 0x25) ∧
      (∀ n < 16, ∀ j < 8, ∀ c < 16, x.transposed.code n (16 * j + c) = x.code c (16 * j + n)) ∧
      (∀ f, tcvtSource x src = some f → makes (.tcvt g t src rm d a)
        (q.putTile d (x.convert f t fun i => { rm, seed := r.seed.toNat, idx := i, ftz := false }))) ∧
      (tcvtSource x src = none → s.faults (.tcvt g t src rm d a) 8 0 0x22) ∧
      makes (.tzero g d) (p.putTile d .zero)) ∧
    (s.readyM g [] [] [v.toNat] [] → p.tileFree d → ∃ n, makes (.tldv g d v row) (q'.putTile d n) ∧
      (∀ c < 128, n.code row.toNat c = r.field v.toNat y.width c) ∧
      (∀ m < 16, ∀ c < 128, m ≠ row.toNat → n.code m c = y.code m c) ∧ n.fmt = y.fmt ∧ n.k = y.k ∧
      ∀ i < 128, n.sc.get 0x7F i = y.sc.get 0x7F i ∧ n.eb.get 0 i = y.eb.get 0 i) ∧
    (s.readyM g [] [] [] [v.toNat] → ∃ f : Nat → BitVec 32,
      s.makesQueued (.tstv g v a row) true [] [v.toNat] (q.withRegs q.cur (·.setLanes v.toNat fun l => some (f l))) ∧
      (x.width = 4 ∨ x.width = 8 ∨ x.width = 16 → ∀ l < 64, ∀ i < 32 / x.width,
        let c := l * (32 / x.width) + i
        (f l).toNat / 2 ^ (i * x.width) % 2 ^ x.width = if c < 128 then x.code row.toNat c % 2 ^ x.width else 0)) ∧
    (s.readyM g [] [sd.toNat] [] [] → ∃ w : Word, s.makesQueued (.tgetsc g sd a row) true [sd.toNat] [] (q.withRegs q.cur (·.setS sd w)) ∧
      ∀ i < 8, (w >>> (8 * i)).toNat % 256 = if x.fmt = 0 then 0x7F else x.sc.get 0x7F (8 * row.toNat + i) % 256) ∧
    (s.readyM g [sd.toNat] [] [] [] → p.tileFree d →
      (y.fmt = 0 → s.faults (.tsetsc g d sd row) 8 0 0x25) ∧
      (y.fmt ≠ 0 → ∃ n, makes (.tsetsc g d sd row) (q'.putTile d n) ∧
        (∀ i < 8, n.sc.get 0x7F (8 * row.toNat + i) = (r.sr sd).toNat / 2 ^ (8 * i) % 256) ∧
        (∀ i < 128, i / 8 ≠ row.toNat → n.sc.get 0x7F i = y.sc.get 0x7F i) ∧ ∀ i < 2048, n.codes.get 0 i = y.codes.get 0 i))

/-- R241 to R243: LDT and LDT.col write the tile their rows give: memory row `i` of the row port is tile row `i`, that of the column
port column `i` (Table 9.3), its element `c` the field of width w at bit w × c from the row's first byte; the rows are read in order. An
LDT that fails a check of R242, in their order, is an invocation fault, or for a row that begins inside a group an alignment fault.
STT and STT.col store the tile's rows or columns, placed likewise, in pieces that lie in one line each. STT's C field has no effect,
and the reason codes are as log entry 29 reads them. -/
def Obligations.TileMemory : Prop :=
  ∀ (s : State) (g : Guard) (h : Hint) (inv : Bool) (d : TReg) (m : MemOp) (pw : BitVec 2),
    let p := s.pkg
    let x := p.cur
    let r := s.regs
    let rows (n : Nat) : List Nat := (List.range n).map fun i => (memBase r m + BitVec.ofNat 64 i * memPitch r m).toNat
    let plain := if pw = 0 then none else some (plainWidth pw.toNat)
    let loaded (l : Loaded) : Tile := .ofRows l.fmt (if l.fmt = 0 then pw.toNat else 3) l.k l.rows
    let t := p.tile d
    let q := p.enterR (p.regLine d.toNat)
    let stores (i : Instr) (n c : Nat) (row : Tile → Nat → List Nat) : Prop := ∀ fl q',
      (M.checkRows x rWR t.width c 0 (rows n)).run q = .ok ((), q) →
      let ps := tilePieces t (rows n) c row
      (M.storeParts x (fun j => ((ps[j]?).map Prod.fst).getD 0) (M.putPiece x ps) r.part (List.range ps.length)).run q = .ok (fl, q') →
        s.makes i q' fl
    -- the bytes that those pieces store, and where
    let places (n c : Nat) (row : Tile → Nat → List Nat) : Prop :=
      let ps := tilePieces t (rows n) c row
      ∃ bytes : Nat → List Byte,
        (∀ j < n, (bytes j).length = c * t.width / 8 ∧
          ∀ k < c, leNat (bytes j) / 2 ^ (t.width * k) % 2 ^ t.width = ((row t j)[k]?).getD 0 % 2 ^ t.width) ∧
        ps.flatMap (fun e => e.2.zipIdx.map fun b => (e.1 + b.2, b.1)) =
          (rows n).zipIdx.flatMap (fun e => (bytes e.2).zipIdx.map fun b => (e.1 + b.2, b.1)) ∧
        ∀ e ∈ ps, e.2 ≠ [] ∧ e.1 % 64 + e.2.length ≤ 64
    let read (va n : Nat) : M (List Byte) := M.loadBytes x rRD inv (h == .noalloc) (n / 64 + 2) va n
    -- the sidecars of the lines that `n` rows of `c` elements read, once their addresses have passed
    let sided (n c : Nat) (sd : Tab Word) (w : Nat) : Prop := ∃ q0 q1,
      (M.rowWidth x ((rows n).headD 0) plain 0x23 inv).run p = .ok (w, q0) ∧
      (M.checkRows x rRD w c 0 (rows n)).run q0 = .ok ((), q0) ∧
      (M.sides x inv ((rows n).flatMap fun va => linesOf va (c * w / 8)) []).run q0 = .ok (sd, q1)
    let mixed (sd : Tab Word) : Prop := ∃ e ∈ sd, ∃ f ∈ sd, sideFmt e.2 ≠ sideFmt f.2 ∨ sideK e.2 ≠ sideK f.2
    let refused (sd : Tab Word) : Prop := ∃ e ∈ sd, if sideFmt e.2 = 0 then pw = 0 else pw ≠ 0 ∧ plainWidth pw.toNat ≠ fmtWidth (sideFmt e.2)
    (s.ready g (memSrcs m) [] →
      (∀ l q, (M.loadRows x (rows 16) plain (tileAccepts pw) 0x23 (pure ()) inv (h == .noalloc)).run p = .ok (l, q) →
        (q.tileFree d → s.makes (.ldt g h inv d m pw) (q.putTile d (loaded l))) ∧
        ∃ (at_ mid : Nat → Pkg) (before row : Nat → List Byte), at_ 16 = q ∧ ∀ i va, (rows 16)[i]? = some va →
          let n := if l.fmt = 1 then va % blockBytes l.w l.k else 0
          (read (va - n) n).run (at_ i) = .ok (before i, mid i) ∧
          (M.loadBytes x rRD inv (h == .noalloc) 8 va (16 * l.w)).run (mid i) = .ok (row i, at_ (i + 1)) ∧
          ∀ c < 128, (loaded l).code i c = leNat (row i) / 2 ^ (l.w * c) % 2 ^ l.w) ∧
      (∀ l q, (M.loadCols x (rows 128) plain (tileAccepts pw) inv (h == .noalloc)).run p = .ok (l, q) →
        (q.tileFree d → s.makes (.ldtCol g h inv d m pw) (q.putTile d (loaded l))) ∧
        ∃ (at_ : Nat → Pkg) (row : Nat → List Byte), at_ 128 = q ∧ ∀ i va, (rows 128)[i]? = some va →
          (M.loadBytes x rRD inv (h == .noalloc) 4 va (2 * l.w)).run (at_ i) = .ok (row i, at_ (i + 1)) ∧
          ∀ c < 16, (loaded l).code c i = leNat (row i) / 2 ^ (l.w * c) % 2 ^ l.w) ∧
      (∀ v q, p.badByte (p.spaceOf x.core) rRD ((rows 16).headD 0) 1 = none → (rows 16).headD 0 < 2 ^ 56 →
        (M.side x ((rows 16).headD 0) inv).run p = .ok (v, q) → sideFmt v = 0 → pw = 0 →
        s.faults (.ldt g h inv d m pw) 8 0 0x23 ∧ s.faults (.ldtCol g h inv d m pw) 8 0 0x23) ∧
      (∀ sd w, sided 16 128 sd w →
        (mixed sd ∨ refused sd → s.faults (.ldt g h inv d m pw) 8 0 0x23) ∧
        (¬ mixed sd → ¬ refused sd → ∀ pre va post, rows 16 = pre ++ va :: post → (∀ u ∈ pre, u % (2 * w) = 0) → va % (2 * w) ≠ 0 →
          s.faults (.ldt g h inv d m pw) 6 va (pre.length * 128 % 256 * 2 ^ 16))) ∧
      (∀ sd w, sided 128 16 sd w →
        (mixed sd ∨ refused sd ∨ (∃ e ∈ sd, sideFmt e.2 = 1 ∨ sideFmt e.2 = 2) → s.faults (.ldtCol g h inv d m pw) 8 0 0x23) ∧
        (∀ e ∈ sd, sideFmt e.2 ≠ 0 → (∃ va ∈ rows 128, ∃ j < 16,
          let a := va + j * w / 8
          sideScale (sd.get 0 (a / 64 * 64)) (blockOf w (sideK e.2) a) ≠ 0x7F) → s.faults (.ldtCol g h inv d m pw) 8 0 0x23)) ∧
      places 16 128 (fun t n => (List.range 128).map (t.code n)) ∧
      places 128 16 (fun t k => (List.range 16).map fun n => t.code n k) ∧
      stores (.stt g h d m pw) 16 128 (fun t n => (List.range 128).map (t.code n)) ∧
      stores (.sttCol g h d m pw) 128 16 (fun t k => (List.range 16).map fun n => t.code n k))

/-- R307 to R309, R323: BLOAD aligns its columns into the slot, which becomes LOADED under its next STAMP and carries its
blocks' scales; it waits while a BPUT is in progress on the slot, and while an MMA of its core uses it (R358); BQUERY gives Table 11.3's word; an unreserved slot is an
invocation fault. Reason codes 0x22 and 0x23 are as log entry 29 reads them. -/
def Obligations.BSlots : Prop :=
  ∀ (s : State) (g : Guard) (h : Hint) (fmt : BitVec 3) (b : BReg) (d : SReg) (m : MemOp),
    let p := s.pkg
    let x := p.cur
    let r := s.regs
    let code := fmt.toNat
    let plain := if code = 0 then none else some (fmtWidth code)
    let k := (p.core x.core).bslots.get .zero b.toNat
    (s.readyCut g (memSrcs m) [] → ∀ w q0 l q1 q, (M.rowWidth x (memBase r m).toNat plain 0x22 false).run p = .ok (w, q0) →
      (M.loadRows x ((List.range (if w = 16 then 128 else 256)).map fun i => (memBase r m + BitVec.ofNat 64 i * memPitch r m).toNat) plain
        (fun f => code == 0 || code == f) 0x22 (M.bloadWaits x b.toNat) false (h == .noalloc)).run q0 = .ok (l, q1) →
      q1.squashReaders x.core b.toNat (some x) = some q → q.cur = x →
      let f := if l.fmt = 0 then code else l.fmt
      let cols := l.rows.map fun gs => gs.map (BGrp.of f l.k)
      ∃ (q' : Pkg) (n : BSlot), s.makesCut (.bload g h fmt b m) (q'.counting 15 (roundsOf cols)) ∧ (q'.core x.core).bslots.get .zero b.toNat = n ∧
        n.st = .loaded ∧ n.fmt = f ∧ n.k = l.k ∧ n.ldcore = x.core ∧ n.stamp = ((q.core x.core).bslots.get .zero b.toNat).stamp + 1 ∧
        (∀ c < cols.length, c < 256 → ∀ i < 128, n.cells.get 0 (256 * i + c) = ((bgrpAt cols c (i / 16)).cells[i % 16]?).getD 0) ∧
        (∀ c < cols.length, c < 256 → ∀ g < 8, n.sc.get 0x7F (256 * g + c) = (bgrpAt cols c g).sc) ∧
        ∀ y, q'.ctx y = q.ctx y) ∧
    (∀ q : Pkg, q.cur = x → q.rcdBit x.core (272 + b.toNat) = true → ((q.core x.core).bslots.get .zero b.toNat).busy ≠ none ∨ (q.core x.core).slotInUse b.toNat = true →
      (M.bloadWaits x b.toNat).run q = .error (.wait .ops)) ∧
    (s.readyM g [] [d.toNat] [] [] →
      (p.rcdBit x.core (272 + b.toNat) = false → s.faults (.bquery g d b) 8 0 0x20) ∧
      (p.rcdBit x.core (272 + b.toNat) = true →
        let q := p.enterR (p.regLine (12 + b.toNat))
        s.makesQueued (.bquery g d b) true [d.toNat] [] (q.withRegs q.cur (·.setS d (BitVec.ofNat 64
          (k.stamp.toNat * 2 ^ 32 + k.ldcore * 2 ^ 23 + k.k * 2 ^ 8 + k.fmt * 2 ^ 4 + (if ∃ e ∈ k.inv, e.2 = true then 8 else 0) +
            (match k.st with
              | .empty => 0
              | .loaded => 1
              | .partly => 2)))))))

/-- R310, R311: with its checks passed, MMA, or MMAX with exact alignment, adds the product of each named quarter into the
next accumulator, whose line enters both signatures (R297), and is queued as a user of the B slot (R358); each check that fails is an invocation fault, in their order. -/
def Obligations.MatrixMultiply : Prop :=
  ∀ (s : State) (g : Guard) (exact : Bool) (nmask : BitVec 4) (af : BitVec 3) (d : AReg) (a : TReg) (b : BReg),
    s.readyM g [] [] [] [] →
    let p := s.pkg
    let x := p.cur
    let qs := (List.range 4).filter fun n => nmask.getLsbD n
    let i : Instr := if exact = true then .mmax g nmask af d a b else .mma g nmask af d a b
    let k := (p.core x.core).bslots.get .zero b.toNat
    let t := p.tile a
    let mine := ∀ n < qs.length, p.accMine (d.toNat + n)
    let held := p.rcdBit x.core (272 + b.toNat) = true
    let q := (p.enterR (p.regLine (12 + b.toNat))).enterR (p.regLine a.toNat)
    let cols : Nat := if k.fmt = 6 then 128 else 256
    (¬ mine ∨ ¬ held → s.faults i 8 0 0x20) ∧
    (mine → held →
      (k.st ≠ .loaded ∨ (∃ n ∈ qs, cols ≤ 64 * n) → s.faults i 8 0 0x21) ∧
      (k.st = .loaded → (∀ n ∈ qs, 64 * n < cols) →
        (effective t af.toNat = none → s.faults i 8 0 0x22) ∧
        (∀ f, effective t af.toNat = some f → (∀ n < qs.length, p.accFree (d.toNat + n)) →
          let rows := (List.range 16).map (t.alignRow f exact)
          let q' := qs.zipIdx.foldl (fun p e => (p.enterR (p.regLine (8 + d.toNat + e.2))).putAcc (d.toNat + e.2)
            (·.mma rows ((List.range 64).map fun c => k.col (64 * e.1 + c)))) q
          s.makesQueued i true [] [] ((q'.counting (macCounter (if fmtWidth f < fmtWidth k.fmt then k.fmt else f))
            (131072 * qs.length)).counting 15 (rows.foldl (fun n r => n + r.rounds) 0)) (some b.toNat))))

/-- R136, R138, R311: an element of a product: a sentinel, an invalid row or an invalid column makes it the sentinel; else
every term is added, modulo 2^128, floored to the anchor; with no term below the anchor and none clamped, nothing is lost.
R142: a readout of the sentinel is the default NaN, of an overflowed element the overflow's code, of zero +0; any other is
rounded once from element × 2^anchor. -/
def Obligations.ExactSumsAndReadout : Prop :=
  (∀ (x : BitVec 128) (anchor : Int) (a : ARow) (b : List (List Int × Int) × Bool) (d : Int) (u v : List Int),
     (x = sentinel ∨ a.bad = true ∨ b.2 = true → mmaElem x anchor a b = (sentinel, false)) ∧
     (x ≠ sentinel → a.bad = false → b.2 = false →
       (mmaElem x anchor a b).1 =
         x + BitVec.ofInt 128 ((a.gs.zip b.1).map fun e => (groupSum (e.1.2 + e.2.2 - anchor) e.1.1 e.2.1).1).sum) ∧
     ((∀ e ∈ u.zip v, (e.1 * e.2).natAbs * 2 ^ d.toNat < 2 ^ 104) →
       (0 ≤ d → groupSum d u v = (((u.zip v).map fun e => e.1 * e.2 * 2 ^ d.toNat).sum, false)) ∧
       (d < 0 → groupSum d u v = (((u.zip v).map fun e => e.1 * e.2 / 2 ^ (-d).toNat).sum, false)))) ∧
  (∀ (t : Ty) (rnd : Rnd) (x : BitVec 128) (anchor : BitVec 16),
     (x = sentinel → readout t rnd x anchor = defaultNan t) ∧
     (x ≠ sentinel → ¬ (-2 ^ 111 ≤ x.toInt ∧ x.toInt < 2 ^ 111) → readout t rnd x anchor = ovfNan t) ∧
     (x = 0 → readout t rnd x anchor = 0) ∧
     (x ≠ 0 → -2 ^ 111 ≤ x.toInt → x.toInt < 2 ^ 111 →
       readout t rnd x anchor = pack t rnd (decide (x.toInt < 0)) x.toInt.natAbs anchor.toInt))

/-- R314 to R318: the accumulator instructions on a reserved accumulator, through the bank that R62 gives to reads and to
writes; one that is not reserved is an invocation fault. That the address checks of ACCST and ACCLD come before that one is the
model's choice (log entry 104). -/
def Obligations.Accumulators : Prop :=
  ∀ (s : State) (g : Guard) (h : Hint) (t : Ty) (rm : RM) (mk : Option SReg) (d a : AReg) (sd : SReg) (v : VReg) (m : MemOp)
    (imm : BitVec 16) (row : BitVec 4) (r5 : BitVec 5),
    let p := s.pkg
    let x := p.cur
    let r := s.regs
    let y := p.acc a.toNat
    let z := p.acc d.toNat
    let ra := p.enterR (p.regLine (8 + a.toNat))
    let rd := p.enterR (p.regLine (8 + d.toNat))
    let va := (memAddr r m).toNat
    let n := if r5.toNat < 16 then 1024 else 64
    let makes (i : Instr) (q : Pkg) : Prop := s.makesQueued i true [] [] q
    (s.readyM g [] [] [] [] →
      (¬ p.accMine d.toNat → s.faults (.accz g d) 8 0 0x20 ∧ s.faults (.accanch g d imm) 8 0 0x20 ∧ s.faults (.accadd g d a) 8 0 0x20) ∧
      (p.accMine d.toNat → p.accFree d.toNat →
        makes (.accz g d) (p.putAcc d.toNat fun b => { b with x := [], clamped := false }) ∧
        makes (.accanch g d imm) (p.putAcc d.toNat fun b => { b with anchor := imm }) ∧
        (¬ p.accMine a.toNat → s.faults (.accadd g d a) 8 0 0x20) ∧
        (p.accMine a.toNat → y.anchor ≠ z.anchor → s.faults (.accadd g d a) 8 0 0x24) ∧
        (p.accMine a.toNat → y.anchor = z.anchor → ∃ f : AccBank → AccBank,
          makes (.accadd g d a) ((ra.enterR (p.regLine (8 + d.toNat))).putAcc d.toNat f) ∧
          (∀ i < 1024, (f z).x.get 0 i = if z.x.get 0 i = sentinel ∨ y.x.get 0 i = sentinel then sentinel else z.x.get 0 i + y.x.get 0 i) ∧
          (f z).clamped = (z.clamped || y.clamped) ∧ (f z).anchor = z.anchor))) ∧
    (s.readyM g (maskSrcs mk) [] [] [v.toNat] →
      (¬ p.accMine a.toNat → s.faults (.accout g t rm mk v a row) 8 0 0x20) ∧
      (p.accMine a.toNat → s.makesQueued (.accout g t rm mk v a row) true [] [v.toNat] (ra.withRegs ra.cur (·.mapLanes mk v fun c =>
        laneInt t (readout t { rm, seed := r.seed.toNat, idx := row.toNat * 64 + c, ftz := r.ftz.getLsbD 2 } (y.el row.toNat c)
          y.anchor))))) ∧
    (s.readyM g (memSrcs m) [] [] [] →
      (∀ cause, s.elBad rWR va 64 cause → s.faults (.accst g h d m r5) cause va 0) ∧
      (∀ cause, s.elBad rRD va 64 cause → s.faults (.accld g h d m r5) cause va 0) ∧
      (s.elOk rWR va 64 → ∀ u, p.badByte (p.spaceOf x.core) rWR va n = some u → s.faults (.accst g h d m r5) 2 u 0) ∧
      (s.elOk rRD va 64 → ∀ u, p.badByte (p.spaceOf x.core) rRD va n = some u → s.faults (.accld g h d m r5) 2 u 0) ∧
      (s.elOk rWR va 64 → p.badByte (p.spaceOf x.core) rWR va n = none → ¬ p.accMine d.toNat → s.faults (.accst g h d m r5) 8 0 0x20) ∧
      (s.elOk rRD va 64 → p.badByte (p.spaceOf x.core) rRD va n = none → ¬ p.accMine d.toNat → s.faults (.accld g h d m r5) 8 0 0x20) ∧
      (s.elOk rWR va 64 → p.badByte (p.spaceOf x.core) rWR va n = none → p.accMine d.toNat → ∀ q, q.cur = x →
        (M.storeBytes x 18 va (z.bytes r5.toNat)).run rd = .ok ((), q) → makes (.accst g h d m r5) q) ∧
      (s.elOk rRD va 64 → p.badByte (p.spaceOf x.core) rRD va n = none → p.accMine d.toNat → ∀ bs q, q.cur = x →
        (M.loadBytes x rRD false (h == .noalloc) 18 va n).run p = .ok (bs, q) →
        (r5.toNat = 16 → 2 ^ 17 ≤ leNat bs → s.faults (.accld g h d m r5) 8 0 0x24) ∧
        (r5.toNat < 16 ∨ leNat bs < 2 ^ 17 → q.accFree d.toNat → makes (.accld g h d m r5) (q.putAcc d.toNat (·.setRow r5.toNat bs))))) ∧
    (s.readyM g [] [sd.toNat] [] [] →
      (¬ p.accMine a.toNat → s.faults (.mxstat g sd a) 8 0 0x20) ∧
      (p.accMine a.toNat → s.makesQueued (.mxstat g sd a) true [sd.toNat] [] (ra.withRegs ra.cur (·.setS sd (BitVec.ofNat 64
        ((if ∃ e ∈ y.x, e.2 ≠ sentinel ∧ accOverflows e.2 = true then 2 ^ 18 else 0) + (if ∃ e ∈ y.x, e.2 = sentinel then 2 ^ 17 else 0) +
          (if y.clamped = true then 2 ^ 16 else 0) + y.anchor.toNat)))))) ∧
    (s.ready g [] [] →
      ((∀ e ∈ (p.core x.core).mq, e.owner.slot ≠ x.slot) → exec (.mfence g) s = .next (s.retiredOn p .next)) ∧
      ((∃ e ∈ (p.core x.core).mq, e.owner.slot = x.slot) → s.waits (.mfence g) .mfence))

/-- R319, R320, R322: CAPMK makes a slot valid under its next generation and gives the capability that names it; CAPREV ends
it; both at their chunk's commit. MXSEND hands its command over once, and waits for it. Keys are drawn and free (log entry
3). -/
def Obligations.Capabilities : Prop :=
  ∀ (s : State) (g : Guard) (col : BitVec 3) (kind : MxKind) (n : BReg) (d a b c : SReg),
    let p := s.pkg
    let x := p.cur
    let w := (s.regs.sr a).toNat
    let slot := w % 8
    let key := p.regLine (16 + slot)
    let mineOnly := p.writable key ∧ ∀ e ∈ (p.core x.core).ctxs, e.1 ≠ x.slot → ∀ h ∈ e.2.chunks, h.capOps = []
    let k := ((s.ctx.chunks.reverse.flatMap Chunk.capOps).foldl capCommit (p.core x.core)).caps.get .zero slot
    let added (o : CapOp) : Pkg := (p.enterW key).modCtx x fun c => { c with ch := { c.ch with capOps := c.ch.capOps ++ [o] } }
    (s.ready g [a.toNat] [d.toNat] → mineOnly →
      (w / 8 % 32 ≠ 0 ∨ 2 ^ 12 ≤ w → s.faults (.capmk g d a) 8 0 0x28) ∧
      (w / 8 % 32 = 0 → w < 2 ^ 12 →
        let gen := if k.valid = true then k.gen + 1 else k.gen
        let q := added (.mk slot (w / 2 ^ 8))
        let word := x.core * 2 ^ 55 + slot * 2 ^ 52 + gen.toNat * 2 ^ 32 + w / 2 ^ 8 * 2 ^ 24
        s.makes (.capmk g d a) (q.withRegs q.cur (·.setS d (BitVec.ofNat 64 (word + p.capCheck x.core word)))))) ∧
    (s.ready g [a.toNat] [] → mineOnly →
      (8 ≤ w → s.faults (.caprev g a) 8 0 0x28) ∧ (w < 8 → s.makes (.caprev g a) (added (.rev slot)))) ∧
    (∀ (k : Core) (m rights : Nat),
      let old := k.caps.get .zero m
      (capCommit k (.mk m rights)).caps.get .zero m = { valid := true, gen := if old.valid then old.gen + 1 else old.gen, rights } ∧
      (capCommit k (.rev m)).caps.get .zero m = if old.valid then { old with valid := false, gen := old.gen + 1 } else old) ∧
    (s.pkg.readyEarly g (mxSources kind a b c) [d.toNat] [] [] = true → s.ctx.stepping = none → (∀ o ∈ p.ops, o.sentBy x s.ctx = false) →
      (∀ va ∈ rowVas (s.regs.sr b) (s.regs.sr c) (mxRows kind), p.badByte (p.spaceOf x.core) (rENG + rRD) va (mxRowBytes kind) = none) →
      ∃ (u : State) (o : Op), exec (.mxsend g col kind n d a b c) s = .next u ∧ u.ctx.st = .waiting ∧ u.pkg.ops = p.ops ++ [o] ∧
        o.kind = mxCommand s.regs kind n a b c ∧ o.tok = some d.toNat ∧ o.col = col.toNat ∧ o.sentBy x u.ctx = true)

/-! ### Events of the other agents -/

/-- R61, R63, R65, R66, R22, R245, R397: the sluice grants the commit that a chunk asks for once it meets none in flight and its
engine instructions have completed. The context's next chunk stands as it was, unless the commit's write signature meets it: then it is
squashed, back to its beginning. Step 4 ends once what the commit writes back has been written; then a next chunk that has been cut asks
for its own commit, and a fault that the prefix was cut for is taken (R74). An exclusive reservation is granted to the running chunk;
an engine's oldest instruction completes. How the two chunks of a context share its core is the model's choice (log entries 13, 97). -/
def Obligations.SluiceEvents : Prop :=
  (∀ (s : State) (core slot : Nat),
    let p := s.pkg
    let x : CtxRef := ⟨core, slot⟩
    let c := p.ctx x
    let at_ : Pkg := { p with req := some core }
    (p.grantable x = true → c.inflight = none ∧ ∃ h, c.req = some h ∧
      let lvl := p.levelOf core h.rlines h.wlines
      (∀ e ∈ (p.core core).vq ++ (p.core core).mq, e.owner ≠ ⟨slot, c.chunkseq.toNat⟩) ∧ (∀ k ∈ h.wlines ++ h.wbs, p.down k = false) ∧
      (∀ y ∈ p.allCtxs, y ≠ x → ∀ w m, (p.ctx y).inflight = some (w, m) → overlaps lvl core m y.core = true →
        intersects h.rlines w = false ∧ intersects h.wlines w = false) ∧
      ∀ y ∈ p.allCtxs, y ≠ x → ∀ m, (p.ctx y).st ≠ .free → (p.ctx y).excl = some m → overlaps lvl core m y.core = true →
        ∀ g ∈ (p.ctx y).guarded, h.meets g.rlines = false ∧ h.meets g.wlines = false) ∧
    (∀ h, c.req = some h → p.grantable x = true →
      (p.escalates x c.chunkseq.toNat h = true → s.does (.sluiceGrant core slot) (at_.squash x)) ∧
      (p.escalates x c.chunkseq.toNat h = false → s.does (.sluiceGrant core slot) (at_.commit x) ∧
        let d := (at_.commit x).ctx x
        d.req = none ∧ d.inflight = some (h.wlines, p.levelOf core h.rlines h.wlines) ∧ d.chunkseq = c.chunkseq + 1 ∧
          d.excl = (if c.exclNo = c.chunkseq.toNat then none else c.excl) ∧
          (c.ch.meets h.wlines = false ∨ c.exclRuns = true → { d.ch with start := c.ch.start } = c.ch ∧ d.regs.pc = c.regs.pc) ∧
          (c.ch.meets h.wlines = true → c.exclRuns = false → d.ch.count = 0 ∧ d.regs.pc = c.ch.start.pc))) ∧
    (p.grantable x = false → s.does (.sluiceGrant core slot) p) ∧
    (c.inflight ≠ none →
      let q := at_.retryBack x
      s.does (.commitComplete core slot) (if q.backDone x = true then q.landed x else q)) ∧
    (∀ l, List.find? (fun (e : CtxRef × Level) => e.1 == x) p.exclQ = some (x, l) → c.st ≠ .halted →
      (∀ e ∈ p.exclQ.takeWhile (fun (e : CtxRef × Level) => e.1 != x), (p.ctx e.1).st ≠ .halted → overlaps l core e.2 e.1.core = false) →
      (∀ y ∈ p.allCtxs, ∀ m, (p.ctx y).excl = some m → overlaps l core m y.core = false) →
      s.does (.exclusiveGrant core slot)
        (({ p with exclQ := p.exclQ.filter fun (e : CtxRef × Level) => e.1 != x } : Pkg).modCtx x fun c =>
          { c with excl := some l, exclNo := c.seq, exclWant := none, wait := none, st := .running })) ∧
    (∀ m, s.does (.engineInstructionCompleted core m)
      (p.modCore core fun k => if m = true then { k with mq := k.mq.tail } else { k with vq := k.vq.tail }))) ∧
  (∀ (p : Pkg) (x : CtxRef),
    let c := p.ctx x
    let q := p.modCtx x fun c => { c with inflight := none, owed := [], counted := [] }
    (c.phase ≠ .requested ∨ c.req ≠ none →
      (c.due = none ∨ c.ch.count ≠ 0 ∨ c.req ≠ none → p.landed x = q) ∧
      (∀ k a i, c.due = some (k, a, i) → c.ch.count = 0 → c.req = none → p.landed x = q.takeFault x k a i)) ∧
    (c.phase = .requested → c.req = none →
      let d := (p.landed x).ctx x
      d.req = some c.ch ∧ d.phase = .open ∧ d.ch.count = 0 ∧ d.ch.deferred = [] ∧ d.ch.start = c.regs ∧ d.regs = c.regs ∧
        d.inflight = none ∧ d.due = c.due ∧ ∀ y, y ≠ x → (p.landed x).ctx y = p.ctx y))

/-- R77, R401, R402, R432: a cache gives up a line and nothing is lost: an L1's committed line, a line of an L2 whose dirty
bytes then stand in memory; a line of a migration is copied, its bit set, and the last one ends a migration whose command a firmware
restart has ended (log entry 90); the scrub corrects, or poisons, a line, and
reports it. How many bytes in error poison a line is log entry 89; when a merged entry is written, 88; a line turns
poisoned while every copy stands in order (21). -/
def Obligations.LineEvents : Prop :=
  ∀ (s : State) (core key mc a bad : Nat),
    let p := s.pkg
    ((Tab.find? (p.core core).l1 key).isSome = true → (p.core core).uncommittedBy key = [] → ∃ q, s.does (.l1Eviction core key) q ∧
      Tab.find? (q.core core).l1 key = none ∧ (∀ k, q.lineData k = p.lineData k) ∧ q.mem = p.mem ∧ q.log = p.log) ∧
    (p.uncommitted key = false → p.down key = false → p.copied key = false → ∀ l, Tab.find? p.l2 key = some l →
      (l.dirty = 0 → ∃ q, s.does (.l2Eviction key) q ∧ Tab.find? q.l2 key = none ∧ q.mem = p.mem ∧ q.log = p.log) ∧
      (∀ b, l.dirty ≠ 0 → p.phys? (keySpace key) (keyVa key) = some b → p.hasRec key = false → ∃ q, s.does (.l2Eviction key) q ∧
        Tab.find? q.l2 key = none ∧
        (∀ i < 64, q.physByte (b / 64 * 64 + i) = if l.dirty.getLsbD i = true then lineByte l.data i else p.physByte (b / 64 * 64 + i)) ∧
        ∀ e, e / 64 ≠ b / 64 → q.physByte e = p.physByte e)) ∧
    (∀ (l : Leaf) (m : Mig), List.find? (fun (l : Leaf) => l.holds key) p.leaves = some l →
      List.find? (fun (m : Mig) => m.space == keySpace key && m.vpn == l.vpn) p.migs = some m →
      let j := (keyVa key - l.vpn * 65536) / 64
      let u := keyVa key / 65536 - l.vpn
      let old := physOf l.far (l.frame + u) (keyVa key)
      let new := physOf m.far (m.frame + u) (keyVa key)
      mcOf (keyVa key) = mc → j ∉ m.done → p.down key = false → ∃ q m', s.does (.migrationLineCopy mc key) q ∧
        q.physLine new = p.physLine old ∧ (∀ e, e / 64 ≠ new / 64 → q.physByte e = p.physByte e) ∧
        j ∈ m'.done ∧ (∀ i ∈ m.done, i ∈ m'.done) ∧ { m' with done := m.done } = m ∧
        (m.live = true ∨ m'.done.length < m.lines → m' ∈ q.migs ∧ q.leaves = p.leaves) ∧
        (m.live = false → m.lines ≤ m'.done.length → q.migs.length + 1 = p.migs.length ∧
          ∀ u ∈ q.leaves, u.space = m.space → u.vpn = m.vpn → u.mig = false ∧ u.frame = m.frame ∧ u.far = m.far)) ∧
    (let line := a / 64 * 64
     let report (q : Pkg) (reason : Nat) : Pkg :=
      let (n, va) := (q.nameOf line).getD (0, 0)
      q.ras va n 0 (mc / 4) (if Config.nearFrames * 65536 ≤ line then 2 else 1) reason 1
     Tab.find? p.resetting (mc / 4) = none → line % 65536 / 2048 = mc → line < (Config.nearFrames + Config.farFrames) * 65536 →
      (bad = 1 ∨ bad = 2 → s.does (.patrolScrub mc a bad) (report p 1)) ∧
      (2 < bad → line ∉ p.poison → p.steady = true → s.does (.patrolScrub mc a bad)
        { report p 2 with poison := insertNat line p.poison }) ∧
      (bad = 0 → s.does (.patrolScrub mc a bad) p))

/-- R97, R105, R110, R167, R169, R251, R323, R339, R358, R433: the outstanding operations move: a transfer of a COPY, which an
unreadable source line stops, an element of a pan invocation at its home or at a brine copy, each access of a B-slot command, which
leaves the slot empty where it meets poison and waits to write a slot that an MMA uses, an attestation record; and a brine copy that
reaches its home is crystallized. The model's choices: the order of transfers is the agenda's (log entries 12, 21), as are poison's
checks (22); a BPUT's accesses are log entry 45, and its wait for another BPUT 129; a BDROP's wait is 46; an attestation's record, its
lines and its token are one event (55). -/
def Obligations.OperationEvents : Prop :=
  (∀ (s : State) (id : Nat) (o : Op), s.pkg.op? id = some o → s.pkg.replayOf o.space = none →
    let p : Pkg := { s.pkg with req := some o.who.core }
    (∀ (x : Shape) (f : Nat) (b : List Byte) (q q' : Pkg),
      o.kind = .copy x.dst x.src x.n0 x.n1 x.n2 x.ss1 x.ds1 x.ss2 x.ds2 none →
      let d := (x.at_ f).1.toNat
      let a := (x.at_ f).2.toNat
      let n := x.len f
      x.starts f = true → f < o.limit x → f ∉ o.done → p.anyPoison = false ∨ o.inOrder x f = true →
      p.behind o [d / 64 * 64, a / 64 * 64, (a + n - 1) / 64 * 64] = false →
      (p.readAll o.space (rENG + rRD) a n = .ok (b, true, q) → s.does (.engineCommit id f)
        ((q.ras (a / 64 * 64) o.space o.who.gcid (o.who.core / 64) 3 3 1).copyEnd { o with code := 1, lane := f } x)) ∧
      (p.readAll o.space (rENG + rRD) a n = .ok (b, false, q) →
      q.writePiece (some o.who.core) o.space (rENG + rWR) d b o.attr
          (match q.readPiece o.space (rENG + rRD) a n with
            | .ok (y, _) => if n = 64 ∧ a % 64 = 0 then y.side else 0
            | .error _ => 0) = .ok q' →
      s.does (.engineCommit id f) ((((q'.watchEvent o.space d n 8 2 o (x.index f % 256)).advance o.space cCopyBytes n).logOp o 3 (x.index f)).copyEnd
        { o.unheld f with done := insertNat f o.done } x))) ∧
    (∀ (c : PanCall) (q : Pkg) (code : Nat) (counted ran : Bool) (ret : Line), o.panNext = some c → p.panBehind o.who o.gen o.id c.va = false →
      let ended (i : Instr) : Prop :=
        let q := if counted = true then q.advance o.space cPanInv 1 else q
        let q := (if ran = true then q.watchEvent o.space (c.va / 64 * 64) 64 7 3 o c.lane else q).logOp o 4 c.lane
        let first := o.code = 0 ∧ code ≠ 0
        let o' := { o with done := o.done ++ [o.done.length], bytes := o.bytes + counted.toNat, held := [],
                           code := if first then code else o.code, lane := if first then c.lane else o.lane }
        s.does i (if o'.panNext.isSome = true then q.setOp o' else q.endOp o' o'.panWord)
      (p.brineFits c = false → p.panHome c = .done q code counted ran ret → ended (.panApplication id)) ∧
      (p.brineFits c = true → p.panBrine c = .done q code counted ran ret → ended (.brineApplication id))) ∧
    (∀ (cap base pitch : Word) (kind : MxKind) (n : Nat), o.kind = .bput cap base pitch kind n →
      let core := fld cap.toNat 63 55
      let vas := cmdVas kind base pitch o.done.length
      let b := (p.core core).bslots.get .zero n
      let access (q : Pkg) (o : Op) : Prop := ∀ va m x q',
        let side := (o.sides.headD (0, 0)).2
        let reads := cmdReads (sideFmt side) (sideK side) (mxWidth kind) (mxRowBytes kind) vas
        let i := o.pieces.length
        reads[i]? = some (va, m) → q.readPiece o.space (rENG + rRD) va m = .ok (x, q') →
        let o' := { o.unheld o.lane with pieces := o.pieces.put i x.bytes, lane := o.lane + 1 }
        (x.poison = true → q'.squashReaders core n none = none → s.does (.bputCommand id) (q.setOp o)) ∧
        (x.poison = true → ∀ u, q'.squashReaders core n none = some u →
          s.does (.bputCommand id) (((u.modBslot core n (·.emptied o.who.core)).logOp o 3 o.lane).mxRefuse o 1)) ∧
        (x.poison = false → i + 1 < reads.length → s.does (.bputCommand id) ((q'.logOp o' 3 o.lane).setOp o')) ∧
        (x.poison = false → i + 1 = reads.length → (∀ u, (q'.logOp o' 3 o.lane).bputWrite o' cap kind n vas = some u →
          s.does (.bputCommand id) u) ∧ ((q'.logOp o' 3 o.lane).bputWrite o' cap kind n vas = none →
          s.does (.bputCommand id) (q.setOp { o' with pieces := o'.pieces.drop i, lane := o.lane })))
      (o.sides ≠ [] → b.busy = some o.id → access p o) ∧
      (o.sides = [] ∨ b.busy ≠ some o.id →
        (∀ code, p.capRefuses cap n n = some code → s.does (.bputCommand id) (p.mxRefuse o code)) ∧
        (p.capRefuses cap n n = none → b.busy = some o.id ∨ (b.busy = none ∧ p.bloading core n = false) → ∀ sides q,
          p.cmdSides o.space ((cmdRowReads (mxRowBytes kind) vas).map Prod.fst) = .ok (sides, q) →
          let r := cmdRefuses (mxWidth kind) (if o.done.isEmpty = true then none else some (b.fmt, b.k)) sides vas
          (∀ code, r = some code → s.does (.bputCommand id) (q.mxRefuse o code)) ∧
          (r = none → access (q.modBslot core n fun b => { b with busy := some o.id }) { o with sides, pieces := [] }))) ∧
      (∀ (q q2 : Pkg) (o : Op),
        let j := o.done.length
        (j = 0 → q.squashReaders core n none = some q2) → (j ≠ 0 → q2 = q) →
        let side := (o.sides.headD (0, 0)).2
        let cols := cmdCols (sideFmt side) (sideK side) (mxWidth kind) (mxRowBytes kind) o.sides vas (o.pieces.map Prod.snd).flatten
        let last := decide (mxRows kind ≤ 16 * (j + 1))
        let q3 := (q2.modBslot core n fun b => b.bput o.id o.who.core (sideFmt side) (sideK side) (16 * j) cols (j == 0) last).advance o.space
          cRoundings (roundsOf cols)
        let o' := { o with done := o.done ++ [j], bytes := o.bytes + 16 * mxRowBytes kind, sides := [], pieces := [] }
        q.bputWrite o cap kind n vas = some (if last = true then q3.mxEnd o' (engineStatus 1 0 o'.bytes) else q3.setOp o'))) ∧
    (∀ (cap : Word) (n : Nat), o.kind = .bdrop cap n →
      let core := fld cap.toNat 63 55
      ((p.core core).bslots.get .zero n).busy = none → p.bloading core n = false →
      (∀ code, s.pkg.capRefuses cap (2 + n) n = some code → s.does (.bdropCommand id) (s.pkg.mxRefuse o code)) ∧
      (s.pkg.capRefuses cap (2 + n) n = none → ∀ q, s.pkg.squashReaders core n none = some q → s.does (.bdropCommand id)
        (((q.modBslot core n (·.emptied o.who.core)).logOp o 3 0).mxEnd o (engineStatus 1 0 0)))) ∧
    (∀ (out : Word) (a : AttRec), o.kind = .attest out a →
      (a.code ≠ 0 → s.does (.attestRecordWritten id) (p.endOp o (engineStatus 2 a.code 0))) ∧
      (a.code = 0 →
        let b := recordBytes s.fuses s.prov a (p.fw.rseq + 1)
        ∀ q, p.writeBytes (some o.who.core) o.space (rENG + rWR) o.attr (b.length / 64 + 2) out.toNat b = .ok q →
          let q := (List.range (b.length / 64)).foldl (fun q i => (q.watchEvent o.space (out.toNat + 64 * i) 64 8 2 o i).logOp o 3 i) q
          s.does (.attestRecordWritten id)
            (({ q with fw := { q.fw with rseq := q.fw.rseq + 1 } } : Pkg).endOp o (engineStatus 1 0 b.length))))) ∧
  (∀ (s : State) (die key : Nat) (b : Brine), List.find? (fun (b : Brine) => b.sameCopy die key) s.pkg.brine = some b →
    s.pkg.down key = false →
    s.does (.brineSendHome die key) (s.pkg.crystallize b) ∧ s.does (.crystallize die key) (s.pkg.crystallize b) ∧
    (let p : Pkg := { s.pkg with brine := s.pkg.brine.filter fun (c : Brine) => !(c.die == b.die && c.key == b.key) }
     let e := p.tableEntry b.space b.slot
     (b.bad = true → s.pkg.crystallize b = (p.lostCopy b).drainDone b.space b.slot) ∧
     ∀ q l v, b.bad = false → p.fill b.key (BitVec.allOnes 64) = .ok q → q.linePoison b.key = false →
      runRoutine (entHdr e) (entWords e) (q.lineData b.key) (BitVec.ofNat 512 (b.value.toNat % 2 ^ opwBits (entHdr e))) = .done (some l) v →
      s.pkg.crystallize b = (q.homeWrite b.key (BitVec.allOnes 64) l (.module_ b.space) none).drainDone b.space b.slot))

/-- R34, R112, R115, R116, R255 to R257, R382: requests of other modules are refused when stale, answered 0x15 (0x25) for a space
that is not here, and else performed, line by line, as far as the windows admit their bytes; answers end the issuer's
operations, and so do their timeout and a new link epoch. The model's choices: which port carries a peer's requests (log entry 23), in
what order requests move (60), and that an unanswered operation reports BYTES 0 (59). -/
def Obligations.RemoteEvents : Prop :=
  ∀ (s : State) (src epoch space va n slot : Nat) (data : List Byte) (operand : Line),
    let p := s.pkg
    let port := src % 16
    let get : Instr := .remoteGet src epoch space va n
    let put : Instr := .remotePut src epoch space va data
    let rpan : Instr := .remoteRpan src epoch space va slot operand
    (epoch < p.epochs.get 0 port → s.does get p ∧ s.does put p ∧ s.does rpan p) ∧
    (p.epochs.get 0 port ≤ epoch →
      (p.space? space = none → s.does get (p.answer src 0x15 0 []) ∧ s.does put (p.answer src 0x15 0 []) ∧
        s.does rpan (p.answer src 0x25 0 [])) ∧
      (p.space? space ≠ none →
        let asked (need : Nat) (what : Asked) : Inbound :=
          { who := .peer src, epoch, space, va, what, limit := p.admitted space need va what.size, done := 0, got := [] }
        let arrives (i : Instr) (r : Inbound) : Prop :=
          ((∃ a ∈ p.inbound, a.who = r.who) ∨ p.inboundStep r = none → s.does i { p with inbound := p.inbound ++ [r] }) ∧
          (∀ l q, (∀ a ∈ p.inbound, a.who ≠ r.who) → p.inboundStep r = some (l, q) → s.does i { q with inbound := q.inbound ++ l.toList })
        arrives get (asked (rENG + rRD) (.read n)) ∧ arrives put (asked (rENG + rWR) (.write data)) ∧
          arrives rpan (asked rPAN (.rpan slot operand)))) ∧
    (∀ need, (lsBase ≤ va → p.admitted space need va n = 0) ∧
      (va < lsBase → va + n ≤ lsBase → (p.badByte space need va n = none → p.admitted space need va n = n) ∧
        ∀ e, p.badByte space need va n = some e → p.admitted space need va n = e - va)) ∧
    (∀ r : Inbound, r.who = .peer src → p.stale src r.epoch = false → p.space? r.space ≠ none →
      let a := r.va + r.done
      let k := min (r.limit - r.done) (64 - a % 64)
      let goes (t : Inbound) (q : Pkg) : Prop := p.inboundStep r = some (
        if r.done + k < r.limit then (some { t with done := r.done + k }, q)
        else (none, q.answer src (if r.limit = r.what.size then 0 else 0x13) (r.done + k) t.got))
      (r.done < r.limit →
        (∀ m x q, r.what = .read m → p.readPiece r.space (rENG + rRD) a k = .ok (x, q) →
          (x.poison = true → p.inboundStep r = some (none, (q.openLog r.space).answer src 0x14 r.done r.got)) ∧
          (x.poison = false → goes { r with got := r.got ++ x.bytes } (q.openLog r.space))) ∧
        (∀ b q, r.what = .write b → p.writePiece none r.space (rENG + rWR) a ((b.drop r.done).take k) (.module_ r.space) = .ok q →
          goes r (q.endHolds.openLog r.space))) ∧
      (∀ m o, r.what = .rpan m o →
        (lsBase ≤ r.va ∨ p.route r.space r.va rPAN = none → p.inboundStep r = some (none, p.answer src 0x23 0 [])) ∧
        (∀ t q code counted ran ret, r.va < lsBase → p.route r.space r.va rPAN = some t →
          p.panHome { attr := .module_ r.space, origin := p.homeOf t.key, slot := m, lidx := 0, lane := 0, va := r.va, operand := o,
                      returning := false, outside := true } = .done q code counted ran ret →
          p.inboundStep r = some (none, (q.openLog r.space).answer src code counted.toNat [])))) ∧
    (∀ id o, p.op? id = some o →
      (∀ code count, o.sent = true →
        (∀ rem peer slot x, o.kind = .rpan rem peer slot x → s.does (.remoteAck id code count data)
          ((p.advance o.space cPanInv count).endOp o (panStatus (if code = 0 then 1 else 2) code 0 count))) ∧
        (∀ loc rem n peer, o.kind = .put loc rem n peer → s.does (.remoteAck id code count data)
          (p.endOp { o with ack := some (code, count), sent := true }
            (if o.code = 1 then engineStatus 2 1 (min count (o.moved ⟨rem, loc, n, 1, 1, 0, 0, 0, 0⟩))
             else engineStatus (if code = 0 then 1 else 2) code count))) ∧
        (∀ loc rem n peer, o.kind = .get loc rem n peer → (p.queues.get .reset o.queue).st = .resetting →
          s.does (.remoteAck id code count data) (p.endOp o (engineStatus 3 0 0))) ∧
        (∀ loc rem n peer, o.kind = .get loc rem n peer → o.ack = none → (p.queues.get .reset o.queue).st ≠ .resetting →
          s.does (.remoteAck id code count data) (p.remoteEnd
            { o with ack := some (code, min count (min data.length n)), pieces := o.pieces.put 0 data } ⟨loc, rem, n, 1, 1, 0, 0, 0, 0⟩))) ∧
      (o.kind.cls = 2 → o.ack = none → 2 ^ 30 ≤ p.pt - o.released →
        ((∀ rem peer slot x, o.kind ≠ .rpan rem peer slot x) → s.does (.remoteAckTimeout id) (p.endOp o (engineStatus 2 0x12 0))) ∧
        (∀ rem peer slot x, o.kind = .rpan rem peer slot x → s.does (.remoteAckTimeout id) (p.endOp o (panStatus 2 0x22 0 0))))) ∧
    (∀ q x, Tab.find? p.queues q = some x → x.st = .resetting → 2 ^ 30 ≤ p.pt - x.resetAt →
      s.does (.resetLinkEpoch q) ((p.portsOf q).eraseDups.foldl Pkg.newEpoch p)) ∧
    ((p.newEpoch port).epochs.get 0 port = p.epochs.get 0 port + 1 ∧
      (∀ k, k ≠ port → (p.newEpoch port).epochs.get 0 k = p.epochs.get 0 k) ∧
      ∀ o ∈ (p.newEpoch port).ops, o.kind.cls = 2 → o.ack = none → portOf o.peer ≠ port)

/-- R67, R72, R231: a message reaches its inbox within its time; one for no such context is dropped, counted, and answered
with code 1; a full inbox keeps it waiting, and after 2^18 cycles it ends with code 2. Its token receives the status word of Table 8.6. -/
def Obligations.MessageEvents : Prop :=
  ∀ (s : State) (ix : Nat) (f : Flight), s.pkg.flights[ix]? = some f → s.pkg.msgFirst ix f = true → s.pkg.replayOf f.space = none →
    let p := s.pkg
    let y : CtxRef := ctxOfGcid (fld f.dst.toNat 28 16)
    let c := p.ctx y
    let here := c.st ≠ .free ∧ c.gen = f.dst.setWidth 16 ∧ p.spaceOf y.core = f.space
    let used := c.inbox.length + (c.chunks.flatMap Chunk.taken).length
    let young := p.pt - f.released < 2 ^ 18
    (young → ¬ here → s.does (.messageDelivery ix) ((p.modCore y.core fun k => { k with dropped := k.dropped + 1 }).msgEnd ix f 1)) ∧
    (young → here → used < 8 →
      s.does (.messageDelivery ix) ((p.modCtx y fun c => { c with inbox := c.inbox ++ [f.msg] }).msgEnd ix f 0)) ∧
    (here → 8 ≤ used → s.does (.messageDelivery ix) p) ∧
    (¬ young → s.does (.messageDelivery ix) p) ∧
    (2 ^ 18 ≤ p.pt - f.released → s.does (.messageUndeliverable ix) (p.msgEnd ix f 2)) ∧
    (∀ (q : Pkg) (code : Nat), q.replayOf f.space = none → code < 4 →
      let t := q.msgEnd ix f code
      t.flights = q.flights.eraseIdx ix ∧
      (Tab.find? (q.ctx f.who).regs.pend f.tok = some f.op → (q.ctx f.who).gen = f.gen → (q.ctx f.who).st ≠ .free →
        (t.ctx f.who).regs.sn f.tok = BitVec.ofNat 64 ((if code = 0 then 1 else 2) * 2 ^ 62 + code * 2 ^ 56)))

/-- R42 to R45, R47, R69, R70, R376, R378, R379: a core takes the oldest record of its inbox and starts it; a gang starts
once it is whole; a task that is over leaves its core and its record goes to its queue; pre-emption halts, once no SPAWN
awaits its slot, and a resume lets the halted go on. Where and when a halted task is saved is the model's choice (log entries 61, 62). -/
def Obligations.TaskEvents : Prop :=
  ∀ (s : State) (core : Nat),
    let p := s.pkg
    let k := p.core core
    let x : CtxRef := ⟨core, 0⟩
    let up := Tab.find? p.resetting (core / 64) = none
    (∀ i, p.nextRecord core = some i → k.task = none → up → p.slotReady x = true → i.doomed = none →
      let n := (p.queue i.queue).space.toNat
      let t (live : Bool) : Task :=
        { info := i, space := n, start := p.pt, launched := p.free, live, exited := false, ended := none, silent := false }
      (i.gang = none → p.replayOf n = none → ∃ q, s.does (.coreLoopTake core) q ∧ (q.core core).task = some (t true) ∧
        (q.core core).inbox = k.inbox.erase i ∧ (q.ctx x).st = .running ∧ (q.ctx x).regs.pc = BitVec.ofNat 64 (TaskRec.entry i.rcd) ∧
        ∀ r : SReg, (q.ctx x).regs.sr r = if r = 1 then BitVec.ofNat 64 (TaskRec.arg i.rcd) else if r = 2 then i.recva else 0) ∧
      (i.gang ≠ none → ∃ q, s.does (.coreLoopTake core) q ∧ (q.core core).task = some (t false) ∧ (q.core core).inbox = k.inbox.erase i)) ∧
    (∀ t g, k.task = some t → t.info.gang = some g → t.live = false → t.ended = none → p.slotReady x = true → p.gangReady g = true →
      p.replayOf t.space = none → s.does (.gangMemberStart core) (p.goTask core t)) ∧
    (∀ t, k.task = some t → p.taskDone core = true → ∃ q rest, s.does (.taskComplete core) q ∧ (q.core core).task = none ∧
      (q.core core).extSize = 0 ∧
      ∀ g, (p.queue t.info.queue).graph = some g → g.seq = t.info.seq → t.silent = false →
        let w (info kind status gcid : Nat) : BitVec 256 :=
          completion (TaskRec.tag t.info.rcd) info t.info.recva.toNat kind status gcid g.seq.toNat
        let record := match t.ended with
          | none => w 0 0 0 (core * 16)
          | some (cause, gcid, pc) => w pc.toNat 2 cause gcid
        (q.queue t.info.queue).waiting = (p.queue t.info.queue).waiting ++ record :: rest) ∧
    (k.preemptible = true → (∀ c ∈ p.gangCores core, (p.core c).spawning = false) → ∃ q, s.does (.preemptionRequest core) q ∧
      (∀ c ∈ p.gangCores core, (p.core c).preemptible = true → (q.core c).preempt = true ∧
        ∀ n < 11, (q.ctx ⟨c, n⟩).st = .free ∨ (q.ctx ⟨c, n⟩).st = .halted)) ∧
    (∀ t, k.task = some t → k.preempt = true → t.info.gang = none → up → p.hasSlot t.info.queue = true →
      s.does (.taskResume core) (p.modCore core fun k =>
        { k with preempt := false, task := some { t with start := p.pt },
                 ctxs := k.ctxs.map fun (e : Nat × Ctx) => (e.1, if e.2.stop.isSome then e.2 else e.2.resume p.pt) }))

/-- R374, R376 to R379: a queue takes a slot in its turn, and may be evicted from it; the front end takes an entry, its
roots ready; the arbiter visits the slots in turn, and credits, rejects or launches. When an invalid record is rejected is
the model's choice (log entries 63, 67). -/
def Obligations.FrontEndEvents : Prop :=
  ∀ (s : State) (n : Nat),
    let p := s.pkg
    let x := p.queue n
    let turn (m : Nat) : Nat := (m + 1024 - p.slotPos) % 1024
    (∀ i, x.st = .active → p.hasSlot n = false →
      (∀ e ∈ p.queues, e.2.st = .active → p.hasSlot e.1 = false → turn n ≤ turn e.1) →
      (List.range 32).find? (fun i => (p.qslots.get .reset i).queue.isNone) = some i →
      s.does (.queueSlotTake n) { p with qslots := p.qslots.put i { queue := some n, deficit := 0 }, slotPos := (n + 1) % 1024 }) ∧
    (p.hasSlot n = true → x.st ≠ .resetting → (∀ c ∈ p.coresOf n, (p.core c).spawning = false) →
      ∃ q, s.does (.queueEvict n) q ∧ q.hasSlot n = false ∧ ∀ c ∈ p.coresOf n, (p.core c).preemptible = true → (q.core c).preempt = true) ∧
    (x.st = .active → x.graph = none → x.waiting = [] → x.stail ≠ x.shead → p.hasSlot n = true →
      let va := x.subva.toNat + 32 * (x.shead.toNat % 2 ^ x.slog2.toNat)
      let begun (q : Pkg) (w : Nat) (l : List (Word × TaskRec)) (bad : Bool) : Prop := s.does (.entryTake n) (q.beginGraph n
        (newGraph (BitVec.ofNat 64 (fld w 63 0)) (fld w 83 64) (BitVec.ofNat 64 (fld w 191 128)) x.shead l bad))
      (∀ b q, p.frontRead n va 32 = .got b q →
        (entryOk (leNat b) = false → begun q (leNat b) [] true) ∧
        (entryOk (leNat b) = true → ∀ l q', Pkg.rootsFrom n (fld (leNat b) 83 64) (fld (leNat b) 63 0) q = .inr (l, q') →
          begun q' (leNat b) l false)) ∧
      (p.frontRead n va 32 = .bad → begun p 0 [] true)) ∧
    (let at_ (q : Pkg) : Pkg := { q with arbPos := (p.arbPos + 1) % 32 }
     let sl := p.qslots.get .reset p.arbPos
     let put (d : Int) : Pkg := { p with qslots := p.qslots.put p.arbPos { sl with deficit := d } }
     (sl.queue = none → s.does .arbiterVisit (at_ p)) ∧
     (∀ m, sl.queue = some m → p.takeable m = none → s.does .arbiterVisit (at_ (put (min sl.deficit 0)))) ∧
     (∀ m u cores g, sl.queue = some m → p.takeable m = some (u, cores) → (p.queue m).graph = some g →
      (sl.deficit ≤ 0 → s.does .arbiterVisit (at_ (put (sl.deficit + ((p.queue m).weight * 2 ^ p.fw.qshift : Nat))))) ∧
      (0 < sl.deficit → u.fails = true → s.does .arbiterVisit (at_ (p.rejectUnit m g u))) ∧
      (0 < sl.deficit → u.fails = false → s.does .arbiterVisit (at_ (p.launchUnit m g u cores)))))

/-- R8, R9, R34, R367, R368, R372, R373, R376, R382, R463: a queue's enabling and its refusals, its disabling, its tail and head
writes, the begin of its reset; a host's access to a space's memory, line by line, and its reads of registers; the bridge.
R370, R405, R425, R449, R463: a write of doubleword 0 starts a block's command; a command that completes writes doubleword 7
and DONE, and changes nothing else; a code that the block's table does not list is refused; no command is served while the
firmware is switched. Command arguments are read when the event runs (log entry 69); EN follows STATE (82); reserved bits
that were written are refused at the enabling (107); requests of one asker move in turn (60). -/
def Obligations.HostEvents : Prop :=
  (∀ (s : State) (n : Nat) (v : BitVec 32),
     let p := s.pkg
     let x := p.queue n
     -- it holds no entry, no graph and no task (R376)
     let frees (q : Queue) : Prop := q.st ≠ .active ∧ (q.st = .resetting → q.graph = none ∧ q.stail = q.shead ∧ p.hasTask n = false)
     let legal : Prop :=
       (p.space? x.space.toNat).map Space.owner = some (n / 16) ∧ 4 ≤ x.slog2.toNat ∧ x.slog2.toNat ≤ 16 ∧ 4 ≤ x.clog2.toNat ∧
         x.clog2.toNat ≤ 16 ∧ x.subva.toNat % (32 * 2 ^ x.slog2.toNat) = 0 ∧ x.cmpva.toNat % (32 * 2 ^ x.clog2.toNat) = 0 ∧
         x.nmode ≠ 3 ∧ x.resv = 0
     (∀ q, (p.putQueue n q).queue n = q ∧ (frees q → (p.putQueue n q).hasSlot n = false) ∧
       (¬ frees q → p.putQueue n q = { p with queues := p.queues.put n q })) ∧
     (n < 1024 → x.st = .disabled ∨ x.st = .refused →
       (legal → s.does (.queueEnable n) (p.putQueue n { x with shead := 0, stail := 0, chead := 0, ctail := 0, st := .idle })) ∧
       (¬ legal → s.does (.queueEnable n) (p.putQueue n { x with st := .refused }))) ∧
     (x.st = .idle → s.does (.queueDisable n) (p.putQueue n { x with st := .disabled })) ∧
     (n < 1024 → (∀ a ∈ p.inbound, a.who ≠ .host (n / 16)) →
       ((x.stail - x.shead).toNat ≤ (v - x.shead).toNat → (v - x.shead).toNat ≤ 2 ^ x.slog2.toNat → ∃ q,
         s.does (.stailWrite n v) (p.putQueue n q) ∧ q = { x with stail := v, st := q.st } ∧
         (x.st = .idle → v ≠ x.shead → q.st = .active) ∧ (x.st ≠ .idle → x.st ≠ .active → q.st = x.st)) ∧
       ((v - x.shead).toNat < (x.stail - x.shead).toNat ∨ 2 ^ x.slog2.toNat < (v - x.shead).toNat → s.does (.stailWrite n v) p)) ∧
     (n < 1024 → (∃ a ∈ p.inbound, a.who = .host (n / 16)) → ∃ r : Inbound, r.who = .host (n / 16) ∧ r.what = .stail n v ∧
       s.does (.stailWrite n v) { p with inbound := p.inbound ++ [r] } ∧ p.inboundStep r = some (none, p.writeStail n v)) ∧
     (n < 1024 → (v - x.chead).toNat ≤ (x.ctail - x.chead).toNat →
       s.does (.cheadWrite n v) { p with queues := p.queues.put n { x with chead := v } }) ∧
     (n < 1024 → (x.ctail - x.chead).toNat < (v - x.chead).toNat → s.does (.cheadWrite n v) p) ∧
     (x.st = .idle ∨ x.st = .active → ∃ q, s.does (.queueReset n) q ∧ (q.queue n).st = .resetting ∧ (q.queue n).graph = none ∧
       (q.queue n).resetAt = p.pt ∧ (∀ c, ∀ i ∈ (q.core c).inbox, i.queue ≠ n) ∧
       ∀ c t, (q.core c).task = some t → t.info.queue = n → t.ended ≠ none ∧ t.silent = true) ∧
     (∀ vi space va len, let reply (q : Pkg) (ok : Bool) (b : List Byte) : Pkg := { q with out := q.out ++ [.hostReply vi ok b] }
       let asked (what : Asked) : Inbound := { who := .host vi, epoch := 0, space, va, what, limit := what.size, done := 0, got := [] }
       let arrives (d : Option (List Byte)) (r : Inbound) : Prop :=
         ((∃ a ∈ p.inbound, a.who = r.who) ∨ p.inboundStep r = none →
           s.does (.hostMemoryAccess vi space va len d) { p with inbound := p.inbound ++ [r] }) ∧
         (∀ l q, (∀ a ∈ p.inbound, a.who ≠ r.who) → p.inboundStep r = some (l, q) →
           s.does (.hostMemoryAccess vi space va len d) { q with inbound := q.inbound ++ l.toList })
       (64 ≤ vi ∨ p.owns vi space = false → ∀ d, s.does (.hostMemoryAccess vi space va len d) (reply p false [])) ∧
       (vi < 64 → p.owns vi space = true →
         (∀ b, p.admitted space (rENG + rWR) va b.length = b.length → arrives (some b) (asked (.write b))) ∧
         (p.admitted space (rENG + rRD) va len = len → arrives none (asked (.read len))) ∧
         (∀ b, p.admitted space (rENG + rWR) va b.length ≠ b.length → s.does (.hostMemoryAccess vi space va len (some b)) (reply p false [])) ∧
         (p.admitted space (rENG + rRD) va len ≠ len → s.does (.hostMemoryAccess vi space va len none) (reply p false []))) ∧
       (∀ r : Inbound, r.who = .host vi → p.space? r.space ≠ none → r.done < r.limit → r.limit = r.what.size →
         let a := r.va + r.done
         let k := min (r.limit - r.done) (64 - a % 64)
         (∀ m y q, r.what = .read m → p.readPiece r.space (rENG + rRD) a k = .ok (y, q) →
           (y.poison = true → p.inboundStep r = some (none, reply q false [])) ∧
           (y.poison = false → p.inboundStep r = some (
             if r.done + k < r.limit then (some { r with done := r.done + k, got := r.got ++ y.bytes }, q)
             else (none, reply q true (r.got ++ y.bytes))))) ∧
         (∀ b q, r.what = .write b → p.writePiece none r.space (rENG + rWR) a ((b.drop r.done).take k) (.module_ r.space) = .ok q →
           p.inboundStep r = some (
             if r.done + k < r.limit then (some { r with done := r.done + k }, q.endHolds.openLog r.space)
             else (none, reply (q.endHolds.openLog r.space) true []))))) ∧
     (∀ modid vi m,
       (s.prov.bridge = true → modid / 16 = s.prov.modid / 16 → modid ≠ s.prov.modid →
         s.does (.bridgeRelay modid vi m) { p with out := p.out ++ [.relay modid vi m] }) ∧
       (s.prov.bridge = false → s.does (.bridgeRelay modid vi m) p))) ∧
  (∀ (s : State) (vi : Nat) (b : Block) (p : Pkg) (n : Nat) (v : Word),
     let base := match b with
       | .cmd => 0x400
       | .job => 0x440
       | .debug => 0x800
       | .platform => 0xC00
     let listed : List Nat := match b with
       | .cmd => [2, 3, 4, 0x10, 0x11, 0x12, 0x13, 0x14, 0x15, 0x16, 0x17, 0x18, 0x19]
       | .job => [1, 2]
       | .debug | .platform => [1, 2, 3, 4, 5, 6]
     (let q := p.endCmd vi b n
      let r := (p.vi vi).block b
      let t := (q.vi vi).block b
      t.running = false ∧ t.dw.get 0 7 = BitVec.ofNat 64 n ∧ t.dw.get 0 0 = r.dw.get 0 0 ||| 0x100000000 ∧
       (∀ j, 1 ≤ j → j ≤ 6 → t.dw.get 0 j = r.dw.get 0 j) ∧ (∀ c, c ≠ b → (q.vi vi).block c = (p.vi vi).block c) ∧
       (∀ w, w ≠ vi → q.vi w = p.vi w) ∧ { q with vis := [] } = { p with vis := [] }) ∧
     (∀ code, s.runs vi b code → code ∉ listed → s.rejects (.cmdUnassigned vi b) vi b (if b = .job ∧ vi ≠ 0 then 2 else 1)) ∧
     (vi < 64 → ((s.pkg.vi vi).block b).running = false → ∃ q, s.does (.registerWrite vi base 8 (some v)) q ∧
       let t := (q.vi vi).block b
       t.running = true ∧ t.dw.get 0 0 = v &&& 0x1FFFF00FF ∧ t.dw.get 0 7 = 0 ∧
         ∀ j, 1 ≤ j → j ≤ 6 → t.dw.get 0 j = ((s.pkg.vi vi).block b).dw.get 0 j) ∧
     (vi < 64 → ∀ j, 1 ≤ j → j ≤ 6 → ∃ q, s.does (.registerWrite vi (base + 8 * j) 8 (some v)) q ∧
       let t := (q.vi vi).block b
       t.running = ((s.pkg.vi vi).block b).running ∧ t.dw.get 0 j = v ∧
         ∀ i, i ≠ j → t.dw.get 0 i = ((s.pkg.vi vi).block b).dw.get 0 i) ∧
     (64 ≤ vi → ∀ off size, s.does (.registerWrite vi off size (some v)) s.pkg) ∧
     (∀ off size, s.does (.registerWrite vi off size none)
       { s.pkg with out := s.pkg.out ++ [.regValue vi off (s.pkg.readReg vi off size)] }) ∧
     (∀ off size, 64 ≤ vi ∨ ¬ (size = 4 ∧ off % 4 = 0) ∧ ¬ (size = 8 ∧ off % 8 = 0) → p.readReg vi off size = 0) ∧
     (vi < 64 → (∀ j < 8, p.readReg vi (base + 8 * j) 8 = ((p.vi vi).block b).dw.get 0 j) ∧
       ∀ q < 16, let x := p.queue (16 * vi + q)
         p.readReg vi (64 * q + 4) 4 = 0 ∧ p.readReg vi (64 * q + 36) 4 = x.shead.setWidth 64 ∧
           p.readReg vi (64 * q + 40) 4 = x.stail.setWidth 64 ∧ p.readReg vi (64 * q + 44) 4 = x.ctail.setWidth 64 ∧
           p.readReg vi (64 * q + 48) 4 = x.chead.setWidth 64 ∧
           p.readReg vi (64 * q) 4 = BitVec.ofNat 64 (x.nmode.toNat * 64 + x.st.code * 8 +
             if x.st = .disabled ∨ x.st = .refused then 0 else 1)) ∧
     (∀ code f, s.pkg.fw.switching ≠ none → s.pkg.command vi b code f = s.pkg))

/-! ### Commands -/

/-- Table 16.1, R387, R391, R393, R394, R397, R400, R404: commands on spaces: the checks that refuse them, in order, and
what they do. Error codes that the tables do not separate are the model's choice (log entry 70), and so is an RMSPACE whose
report cannot be written (73). -/
def Obligations.SpaceCommands : Prop :=
  ∀ (s : State) (vi : Nat),
    let p := s.pkg
    let a (n : Nat) : Nat := s.arg vi .cmd n
    let own (n : Nat) : Prop := p.owns vi n = true
    let ok (i : Instr) (v : Nat) (q : Pkg) : Prop := s.accepts i vi .cmd v q
    let no (i : Instr) (e : Nat) : Prop := s.rejects i vi .cmd e
    (∀ n, own n ↔ ∃ sp, p.space? n = some sp ∧ (vi = 0 ∨ sp.owner = vi)) ∧
    (∀ used lo n i, lowestFree used lo n = some i → lo ≤ i ∧ i < lo + n ∧ i ∉ used ∧ ∀ j, lo ≤ j → j < i → j ∈ used) ∧
    (s.runs vi .cmd 0x02 →
      (2 < a 1 ∨ (a 1 ≠ 0 ∧ vi ≠ 0) → no (.mkspace vi) 0x02) ∧
      (a 1 ≤ 2 → a 1 = 0 ∨ vi = 0 → p.failed = true → no (.mkspace vi) 0x0F) ∧
      (a 1 ≤ 2 → a 1 = 0 ∨ vi = 0 → p.failed = false →
        let id := lowestFree (p.spaces.map Prod.fst) 1 65535
        let f := lowestFree (p.spaces.map fun e => e.2.frame) 0 Config.tableFrames
        (id = none ∨ f = none → no (.mkspace vi) 0x03) ∧
        (∀ n k, id = some n → f = some k → ok (.mkspace vi) n
          (({ p with spaces := p.spaces.put n (.new (a 1) vi k) } : Pkg).zeroPhys (k * 65536) 65536)))) ∧
    (s.runs vi .cmd 0x03 →
      let bad := 4095 < a 2 ∨ fld (a 3) 62 48 ≠ 0 ∨ fld (a 3) 23 16 ≠ 0
      (¬ own (a 1) → no (.setpeer vi) 0x04) ∧ (own (a 1) → bad → no (.setpeer vi) 0x05) ∧
      (own (a 1) → ¬ bad → ok (.setpeer vi) 0 (p.modSpace (a 1) fun x => { x with peers := x.peers.set 0 (a 2) (BitVec.ofNat 64 (a 3)) }))) ∧
    (s.runs vi .cmd 0x04 →
      let bad := 1023 < a 1 ∨ a 2 = 0 ∨ 255 < a 2
      (vi ≠ 0 → no (.setqos vi) 0x02) ∧ (vi = 0 → bad → no (.setqos vi) 0x05) ∧
      (vi = 0 → ¬ bad → ok (.setqos vi) 0 { p with queues := p.queues.put (a 1) { p.queue (a 1) with weight := a 2 } })) ∧
    (s.runs vi .cmd 0x14 →
      let bad := 2 ^ 13 ≤ a 2 ∨ 2 ^ 16 ≤ a 3
      let x := ctxOfGcid (a 2)
      let c := p.ctx x
      let ops := p.ops.filter fun (o : Op) => o.who == x && o.gen.toNat == a 3 && o.space == a 1 && !o.held.isEmpty
      let held := a 2 < 8192 ∧ x.slot < 11 ∧ c.gen.toNat = a 3 ∧ p.spaceOf x.core = a 1 ∧ c.st = .held ∧ c.held ≠ none
      (¬ own (a 1) → no (.kill vi) 0x04) ∧ (own (a 1) → bad → no (.kill vi) 0x05) ∧
      (own (a 1) → ¬ bad → ¬ held → ops = [] → no (.kill vi) 0x09) ∧
      (own (a 1) → ¬ bad → ¬ held → ops ≠ [] → ok (.kill vi) 0 (ops.foldl Pkg.cancelOp p)) ∧
      (∀ h, own (a 1) → ¬ bad → held → c.held = some h → ok (.kill vi) 0 ((ops.foldl Pkg.cancelOp p).killCtx x h))) ∧
    (s.runs vi .cmd 0x16 →
      let bad := a 2 % 64 ≠ 0 ∨ 2 ^ 56 ≤ a 2 ∨ a 3 < 4 ∨ 16 < a 3
      (¬ own (a 1) → no (.fring vi) 0x04) ∧ (own (a 1) → bad → no (.fring vi) 0x05) ∧
      (own (a 1) → ¬ bad → ok (.fring vi) 0 (p.modSpace (a 1) fun x => { x with fring := some (.new (a 2) (a 1) (a 3) (a 4)) }))) ∧
    (s.runs vi .cmd 0x18 →
      (¬ own (a 1) → no (.hotpol vi) 0x04) ∧ (own (a 1) → 1 < a 2 → no (.hotpol vi) 0x05) ∧
      (own (a 1) → a 2 ≤ 1 → ok (.hotpol vi) 0 (p.modSpace (a 1) fun x => { x with hotpol := a 2 == 1 }))) ∧
    (s.runs vi .cmd 0x17 →
      let busy := ∃ e ∈ p.queues, e.2.space.toNat = a 1 ∧ e.2.st ≠ .disabled
      (¬ (own (a 1) ∧ own (a 3)) → no (.rmspace vi) 0x04) ∧
      (own (a 1) → own (a 3) → a 1 = 0 ∨ a 2 % 64 ≠ 0 → no (.rmspace vi) 0x05) ∧
      (own (a 1) → own (a 3) → a 1 ≠ 0 → a 2 % 64 = 0 → busy → no (.rmspace vi) 0x08) ∧
      (own (a 1) → own (a 3) → a 1 ≠ 0 → a 2 % 64 = 0 → ¬ busy → (∀ b ∈ p.brine, ¬ (b.space = a 1 ∧ keySpace b.key = 0)) →
        let gone := p.recs.filter fun r => r.attr.space == a 1
        ∀ whole q, p.reportLines (a 3) (a 2) ((gone.take (a 4)).map discardEntry) = .ok (whole, q) →
          ok (.rmspace vi) gone.length (q.dropSpace (a 1)) ∧ (q.dropSpace (a 1)).space? (a 1) = none)) ∧
    (s.runs vi .cmd 0x19 → own (a 1) → own (a 4) →
      let busy := (∃ e ∈ p.cores, ∃ t, e.2.task = some t ∧ t.space = a 1) ∨ (∃ b ∈ p.brine, b.space = a 1) ∨ ∃ r ∈ p.recs, r.attr.space = a 1
      (busy → no (.rtwrite vi) 0x08) ∧ (¬ busy → 255 < a 2 ∨ a 3 % 64 ≠ 0 → no (.rtwrite vi) 0x05) ∧
      (¬ busy → a 2 ≤ 255 → a 3 % 64 = 0 → ∀ b q, p.moduleRead (a 4) (a 3) 256 = .ok (b, false, q) →
        (entryBad (leNat b) = true → no (.rtwrite vi) 0x05) ∧
        (entryBad (leNat b) = false → ok (.rtwrite vi) 0 (q.newTableEntry (a 1) (a 2) (leNat b)))))

/-- R388, R389, R392, R394, R398, R401, R402, R404: MAP, UNMAP, MAPREG, REPLAY, MIGRATE and the hotness period; a MAP, a
MAPREG and a REPLAY let the held accesses that they serve retry, and a MAP and a MAPREG squash the chunks that have read the lines
which they store (R98). The model's choices: error codes that the tables do not separate (log entry 70), a pan replayed on a poisoned
line is lost (71), rehoming rounds half up (72), which bucket takes an entry (123), and that a MIGRATE whose command a restart has ended
goes on and refuses another (90). -/
def Obligations.TranslationCommands : Prop :=
  ∀ (s : State) (vi : Nat),
    let p := s.pkg
    let a (n : Nat) : Nat := s.arg vi .cmd n
    let own (n : Nat) : Prop := p.owns vi n = true
    let ok (i : Instr) (v : Nat) (q : Pkg) : Prop := s.accepts i vi .cmd v q
    let no (i : Instr) (e : Nat) : Prop := s.rejects i vi .cmd e
    (s.runs vi .cmd 0x10 →
      let size := a 4 % 4
      let units := if size = 0 then 1 else if size = 1 then 32 else 16384
      let far := (a 4).testBit 2
      let vpn := a 2 / 65536
      let bad := 16 ≤ a 4 ∨ size = 3 ∨ 2 ^ 56 ≤ a 2 ∨ a 2 % (units * 65536) ≠ 0 ∨ frameBad s.prov.shf far (a 3) units = true
      (¬ own (a 1) → no (.map vi) 0x04) ∧ (own (a 1) → bad → no (.map vi) 0x05) ∧
      (own (a 1) → ¬ bad → p.covered (a 1) none (vpn, units) = true → no (.map vi) 0x06) ∧
      (own (a 1) → ¬ bad → p.covered (a 1) none (vpn, units) = false →
        (p.bucketFor s.prov.nbLog2 (a 1) vpn size = none → no (.map vi) 0x07) ∧
        (∀ b, p.bucketFor s.prov.nbLog2 (a 1) vpn size = some b → p.storeLines (keyIn (a 1) (a 2) (units * 65536)) = none →
          s.does (.map vi) p) ∧
        (∀ b p', p.bucketFor s.prov.nbLog2 (a 1) vpn size = some b → p.storeLines (keyIn (a 1) (a 2) (units * 65536)) = some p' →
          let l : Leaf := { bucket := b, size, far, mig := false, space := a 1, vpn, frame := a 3 }
          let q := Pkg.landPoison { p' with leaves := p'.leaves ++ [l] }
          let base := ((if far = true then Config.nearFrames else 0) + a 3) * 65536
          ok (.map vi) 0 (if (a 4).testBit 3 = true then q.zeroPhys base (units * 65536) else q).retryHeld ∧ q.leaves = p.leaves ++ [l] ∧
            ∀ k, base ≤ k → k < base + units * 65536 → (q.zeroPhys base (units * 65536)).physByte k = 0))) ∧
    (s.runs vi .cmd 0x11 →
      let bad := a 2 % 65536 ≠ 0 ∨ 2 ^ 56 ≤ a 2
      (¬ own (a 1) → no (.unmap vi) 0x04) ∧ (own (a 1) → bad → no (.unmap vi) 0x05) ∧
      (own (a 1) → ¬ bad →
        (p.leafAt (a 1) (a 2) = none → no (.unmap vi) 0x09) ∧
        (∀ l, p.leafAt (a 1) (a 2) = some l → (l.mig = true → no (.unmap vi) 0x08) ∧
          (l.mig = false → ok (.unmap vi) 0 { p with leaves := p.leaves.erase l })))) ∧
    (s.runs vi .cmd 0x12 →
      let old := p.regions.get 0 (a 2)
      let allowed := own (a 1) ∧ own (a 4) ∧ (old.getLsbD 0 = true → own (fld old.toNat 271 256))
      (¬ allowed → no (.mapreg vi) 0x04) ∧ (allowed → 63 < a 2 ∨ a 3 % 64 ≠ 0 → no (.mapreg vi) 0x05) ∧
      (allowed → a 2 ≤ 63 → a 3 % 64 = 0 → ∀ b q, p.moduleRead (a 4) (a 3) 64 = .ok (b, false, q) →
        let d : BitVec 512 := BitVec.ofNat 512 (leNat b)
        (q.regionCode s.prov (a 1) (a 2) d ≠ 0 → no (.mapreg vi) (q.regionCode s.prov (a 1) (a 2) d)) ∧
        (q.regionCode s.prov (a 1) (a 2) d = 0 → d.getLsbD 0 = false → ok (.mapreg vi) 0 { q with regions := q.regions.drop (a 2) }) ∧
        (q.regionCode s.prov (a 1) (a 2) d = 0 → d.getLsbD 0 = true →
          let stores (k : Nat) : Bool := keySpace k == a 1 && (regionFrame d (a 1) (keyVa k)).isSome
          (q.storeLines stores = none → s.does (.mapreg vi) q) ∧
          ∀ q', q.storeLines stores = some q' →
            ok (.mapreg vi) 0 (Pkg.landPoison { q' with regions := q'.regions.put (a 2) d }).retryHeld) ∧
        (d.toNat / 2 % 2 ^ 215 ≠ 0 → q.regionCode s.prov (a 1) (a 2) d = 5))) ∧
    (s.runs vi .cmd 0x13 →
      (¬ own (a 1) → no (.replay vi) 0x04) ∧ (own (a 1) → 2 ^ 56 < a 2 + a 3 → no (.replay vi) 0x05) ∧
      (own (a 1) → a 2 + a 3 ≤ 2 ^ 56 → (∀ k ∈ p.parkedLines (a 1) (a 2) (a 3), p.down k = false) →
        let q := (p.parkedLines (a 1) (a 2) (a 3)).foldl (fun q k => (q.replayLine k).getD q) p
        ok (.replay vi) ((p.recs.length - q.recs.length) % 2 ^ 32 +
          (q.recs.filter fun r => keyIn (a 1) (a 2) (a 3) r.key).length % 2 ^ 24 * 2 ^ 32) q.retryHeld)) ∧
    (s.runs vi .cmd 0x15 →
      let bad := a 2 % 65536 ≠ 0 ∨ 8 ≤ a 4 ∨ a 4 % 4 ≠ 0
      let far := (a 4).testBit 2
      (¬ own (a 1) → no (.migrate vi) 0x04) ∧ (own (a 1) → bad → no (.migrate vi) 0x05) ∧
      (own (a 1) → ¬ bad → p.leafAt (a 1) (a 2) = none → no (.migrate vi) 0x09) ∧
      (∀ l, own (a 1) → ¬ bad → p.leafAt (a 1) (a 2) = some l →
        let mig := List.find? (fun (m : Mig) => m.space == a 1 && m.vpn == l.vpn) p.migs
        let becomes (f : Leaf → Leaf) : List Leaf := updWhere (fun (k : Leaf) => k == l) f p.leaves
        (∀ m, mig = some m → m.live = false ∨ m.vi ≠ vi → no (.migrate vi) 0x08) ∧
        (∀ m, mig = some m → m.live = true → m.vi = vi → m.done.length < m.lines → s.does (.migrate vi) p) ∧
        (∀ m, mig = some m → m.live = true → m.vi = vi → m.lines ≤ m.done.length → ok (.migrate vi) 0
          { p with migs := p.migs.erase m,
                   leaves := updWhere (fun (k : Leaf) => k.space == m.space && k.vpn == m.vpn)
                     (fun k : Leaf => { k with mig := false, frame := m.frame, far := m.far }) p.leaves }) ∧
        (mig = none → frameBad s.prov.shf far (a 3) (sizeUnits l.size) = true → no (.migrate vi) 0x05) ∧
        (mig = none → frameBad s.prov.shf far (a 3) (sizeUnits l.size) = false → p.pageBusy l = true → no (.migrate vi) 0x08) ∧
        (mig = none → frameBad s.prov.shf far (a 3) (sizeUnits l.size) = false → p.pageBusy l = false → s.does (.migrate vi)
          { p with migs := p.migs ++ [{ vi, live := true, space := a 1, vpn := l.vpn, size := l.size, frame := a 3, far, done := [] }],
                   leaves := becomes fun k => { k with mig := true } }))) ∧
    (∀ threshold, (∃ q, s.does (.hotnessPeriod threshold) q ∧ q.hotness = []) ∧ (p.hotness = [] → s.does (.hotnessPeriod threshold) p)) ∧
    -- a mapping stores lines: it waits for a guarded chunk that has read one, and no chunk that has read one goes on (R98)
    (∀ (q : Pkg) (sel : Nat → Bool),
      let reads (h : Chunk) : Prop := ∃ k ∈ h.rlines, inLocal (keyVa k) = false ∧ sel k = true
      (q.storeLines sel = none ↔ ∃ x ∈ q.allCtxs, ∃ h ∈ (q.ctx x).guarded, reads h) ∧
      ∀ q', q.storeLines sel = some q' → ∀ x ∈ q.allCtxs, ∀ h ∈ (q'.ctx x).chunks, ¬ reads h)

/-- R405 to R411, R415 to R423: the debug block's commands; a stop reaches the tasks of its set and is recorded; a replay that
cannot go on stops its space; a profile period closes. The model's choices: the moment of a divergence (log entry 77), the owner of a
replay's stop (116), stop sets of tasks (78), PROFBUF's first sample (57), SNAPRD's image in one step (75), RERUN's reading of its log at
once (76), who holds the rights of an unlocked module (48); profile counts are free (6, 74). -/
def Obligations.TraceEvents : Prop :=
  ∀ (s : State) (vi : Nat),
    let p := s.pkg
    let a (n : Nat) : Nat := s.arg vi .debug n
    let own (n : Nat) : Prop := p.owns vi n = true
    let may (n bit : Nat) : Prop := p.mayTrace s.fuses vi n bit = true
    let ok (i : Instr) (v : Nat) (q : Pkg) : Prop := s.accepts i vi .debug v q
    let no (i : Instr) (e : Nat) : Prop := s.rejects i vi .debug e
    (∀ n bit, may n bit ↔ own n ∨ ∃ x, p.space? n = some x ∧
      ((x.rights.getLsbD bit = true ∧ ∃ t, p.space? x.tool = some t ∧ t.owner = vi) ∨
        (p.allRights s.fuses = true ∧ ∃ e ∈ p.spaces, e.2.owner = vi))) ∧
    (s.runs vi .debug 1 →
      let bad := a 2 % 64 ≠ 0 ∨ 2 ^ 56 ≤ a 2 ∨ a 3 < 4 ∨ 16 < a 3
      (¬ own (a 1) → no (.dring vi) 0x04) ∧ (own (a 1) → bad → no (.dring vi) 0x05) ∧
      (own (a 1) → ¬ bad → ok (.dring vi) 0 (p.modSpace (a 1) fun x => { x with dring := some (.new (a 2) (a 1) (a 3) (a 4)) }))) ∧
    (s.runs vi .debug 2 →
      let right := (if a 1 = 0 then vi = 0 else may (a 1) 3) ∧ own (a 4)
      (¬ right → no (.snaprd vi) 0x04) ∧ (right → a 3 % 64 ≠ 0 → no (.snaprd vi) 0x05) ∧
      (right → a 3 % 64 = 0 → List.find? (fun (n : Snapshot) => n.seq == a 2) p.snaps = none → no (.snaprd vi) 0x0A) ∧
      (right → a 3 % 64 = 0 → ∀ n q, List.find? (fun (n : Snapshot) => n.seq == a 2) p.snaps = some n →
        p.writeLines (a 4) (0x44840 / 64) (a 3) (n.image (a 1)) = some (true, q) → ok (.snaprd vi) 0x44840 q)) ∧
    (s.runs vi .debug 3 →
      let bad := a 1 % 64 ≠ 0 ∨ 2 ^ 56 ≤ a 1 ∨ a 3 < 16 ∨ 40 < a 3 ∨ p.space? (a 2) = none
      (vi ≠ 0 → no (.profbuf vi) 0x02) ∧ (vi = 0 → bad → no (.profbuf vi) 0x05) ∧
      (vi = 0 → ¬ bad → ok (.profbuf vi) 0
        { p with prof := some { ring := .new (a 1) (a 2) 0 0, cap := (2 ^ a 3 - 64) / 16448, sample := 0 } })) ∧
    (s.runs vi .debug 4 →
      let right := may (a 1) 4 ∧ own (a 3)
      let bad := a 2 % 64 ≠ 0 ∨ 2 ^ 56 ≤ a 2 ∨ a 4 < 16 ∨ 40 < a 4
      (¬ right → no (.reclog vi) 0x04) ∧
      (right → a 4 = 0 →
        let q := p.modSpace (a 1) fun x => { x with recording := x.recording.map fun (r : RecLog) => { r with live := false } }
        ((p.space? (a 1)).bind Space.recording = none → ok (.reclog vi) 0 q) ∧
        ∀ r, (p.space? (a 1)).bind Space.recording = some r →
          (r.ring.queue = [] → ok (.reclog vi) r.entries q) ∧ (r.ring.queue ≠ [] → s.does (.reclog vi) q)) ∧
      (right → a 4 ≠ 0 → bad → no (.reclog vi) 0x05) ∧
      (right → a 4 ≠ 0 → ¬ bad → ok (.reclog vi) 0
        (({ p with openLogs := p.openLogs.filter (· != (a 2, a 3)) } : Pkg).modSpace (a 1) fun x =>
          { x with recording := some ({ ring := .new (a 2) (a 3) 0 0, size := a 4, truncated := false, entries := 0,
                                        live := true } : RecLog) }))) ∧
    (s.runs vi .debug 5 → may (a 1) 4 → own (a 3) → a 2 % 64 = 0 → a 5 < 2 ^ 48 → a 4 < 2 ^ 29 →
      ((a 2, a 3) ∈ p.openLogs → no (.rerun vi) 0x0B) ∧
      ∀ b q log q', (a 2, a 3) ∉ p.openLogs → p.readAll (a 3) (rENG + rWR) (a 2) 8 = .ok (b, false, q) → q.readLog (a 3) (leNat b) (a 2 + 64) = .ok (log, q') →
        (stopEntryAt log (BitVec.ofNat 64 (a 4)) (a 5) (a 6) = none → no (.rerun vi) 0x0C) ∧
        (∀ i, stopEntryAt log (BitVec.ofNat 64 (a 4)) (a 5) (a 6) = some i → ok (.rerun vi) 0 (q'.modSpace (a 1) fun x =>
          { x with replay := some { va := BitVec.ofNat 64 (a 2), space := a 3, log, next := 0, stopCtx := BitVec.ofNat 64 (a 4),
                                    stopChunk := a 5, stopCount := BitVec.ofNat 64 (a 6), stopAt := i, stopped := false,
                                    split := false, lidxBase := 0, outBase := 0, countBase := 0, names := [] } }))) ∧
    (s.runs vi .debug 6 → (vi ≠ 0 → no (.xtrig vi) 0x02) ∧ (vi = 0 → ok (.xtrig vi) (p.snapSeq + 1) (p.latch 1))) ∧
    (∀ (seq core : Nat) (t : Stop),
      (∀ r, (p.core core).spawning = false → List.find? (fun (t : Stop) => t.seq == seq) p.stops = some t →
        List.find? (fun (r : TaskRef) => r.core == core && t.reaching r) t.tasks = some r → ∃ q, s.does (.stopBroadcast seq core) q ∧
          ((p.core core).runs r = true → ∀ n < 11, (q.ctx ⟨core, n⟩).st = .free ∨ (q.ctx ⟨core, n⟩).st = .halted) ∧
          ∀ u ∈ q.stops, u.seq = t.seq → r ∈ u.halted) ∧
      ((p.core core).spawning = true → s.does (.stopBroadcast seq core) p) ∧
      (List.find? (fun (t : Stop) => t.seq == seq && !t.recorded && t.tasks.all t.halted.contains) p.stops = some t →
        s.does (.stopRecord seq) (p.recordStop t))) ∧
    (∀ space r e, p.replayOf space = some r → r.log[r.gate]? = some e →
      (p.diverged space r e = true → ∃ q t, s.does (.replayDivergence space) q ∧ q.replayOf space = none ∧ q.cores = p.cores ∧
        t ∈ q.stops ∧ t.tool = p.replayTool space ∧ t.target = space ∧ t.cause = 0x31 ∧ t.seq = p.stopSeq + 1 ∧ t.strayed = true ∧
        t.recorded = false ∧ t.hits = [] ∧ t.tasks = p.stopSet space 3 ⟨0, 0⟩) ∧
      (p.diverged space r e = false → s.does (.replayDivergence space) p)) ∧
    (∀ t : Stop, stopEntry t (if t.strayed = true then 0 else t.notes.length) / 2 ^ 384 % 2 ^ 32 =
      if t.strayed = true then 0 else t.notes.length % 2 ^ 32) ∧
    (let zeroed : Tab Core := p.cores.map fun (e : Nat × Core) => (e.1, { e.2 with sqPeriod := 0 })
     (p.profPend = none → 8 ≤ p.profk.toNat → p.pt % 2 ^ p.profk.toNat = 0 → p.profAt < p.pt →
       s.does .profilePeriod (p.closePeriod p.profk.toNat) ∧ (p.closePeriod p.profk.toNat).profAt = p.pt ∧
         (p.closePeriod p.profk.toNat).cores = zeroed) ∧
     (∀ v, p.profPend = some v → p.profk = 0 → p.pt % 2 ^ v.toNat = 0 →
       s.does .profilePeriod { p with profk := v, profPend := none, profAt := p.pt, cores := zeroed }) ∧
     (∀ v, p.profPend = some v → p.profk ≠ 0 → p.pt % 2 ^ max p.profk.toNat v.toNat = 0 → p.profAt = p.pt →
       s.does .profilePeriod { p with profk := v, profPend := none }))

/-- R424 to R427, R429 to R431, R435, R14: power limits and the arbiter's grants, firmware images, the RAS ring, a die held
for its temperature, a link's lanes. The arbiter's division is an input (log entry 20); what a restart does to running
commands is the model's reading (90); where an image holds its key, its version and its signature is free (7). -/
def Obligations.PowerAndFirmware : Prop :=
  ∀ (s : State) (vi : Nat),
    let p := s.pkg
    let a (n : Nat) : Nat := s.arg vi .platform n
    let ok (i : Instr) (v : Nat) (q : Pkg) : Prop := s.accepts i vi .platform v q
    let no (i : Instr) (e : Nat) : Prop := s.rejects i vi .platform e
    (s.runs vi .platform 1 →
      let is := (List.range 32).filter (a 2).testBit
      let bad := powerBad (a 1) (a 2) (a 3) = true ∨ (a 3 = 0 ∧ ∃ i ∈ is, p.islandBusy i = true)
      (vi ≠ 0 → no (.pwrset vi) 0x02) ∧ (vi = 0 → p.failed = true → no (.pwrset vi) 0x0F) ∧
      (vi = 0 → p.failed = false → bad → no (.pwrset vi) 0x05) ∧
      (vi = 0 → p.failed = false → ¬ bad → ∃ q, ok (.pwrset vi) 0 { p with power := q } ∧ q.limit = fld (a 1) 15 0 ∧
        q.hbmMin = fld (a 1) 31 16 ∧ q.hbmMax = fld (a 1) 47 32 ∧ q.budget = p.power.budget ∧
        ∀ i, q.ceil.get 3300 i = (if i < 32 ∧ (a 2).testBit i = true then a 3 else p.power.ceil.get 3300 i) ∧
          (i < 32 → (a 2).testBit i = true → q.freq.get 3300 i = if a 3 = 0 then 800 else min (a 3) (p.power.freq.get 3300 i)))) ∧
    (∀ freqs budgets : List Nat, p.fw.switching ≠ none → s.does (.powerArbiterTick freqs budgets) p) ∧
    (∀ freqs budgets : List Nat, p.fw.switching = none → p.pt % 3300000 = 0 → p.pt ≠ 0 → freqs.length = 32 → budgets.length = 32 → ∃ q,
      s.does (.powerArbiterTick freqs budgets) { p with power := q } ∧ q.ceil = p.power.ceil ∧ q.limit = p.power.limit ∧
      ∀ i < 32, q.freq.get 3300 i = p.boundFreq i (freqs.getD i 0) ∧ q.budget.get 0 i = max (4 * 2 ^ 20) (budgets.getD i 0)) ∧
    (∀ i f, p.boundFreq i f = (if p.power.ceil.get 3300 i = 0 ∨ i / 4 ∈ p.hot then 800
      else min (p.power.ceil.get 3300 i) (max 800 (f / 100 * 100)))) ∧
    (s.runs vi .platform 2 →
      (vi ≠ 0 → no (.fwload vi) 0x02) ∧
      (vi = 0 → ((p.space? (a 2)).map Space.priv) ≠ some 2 ∨ 64 * 2 ^ 20 < a 3 → no (.fwload vi) 0x05) ∧
      (vi = 0 → ((p.space? (a 2)).map Space.priv) = some 2 → a 3 ≤ 64 * 2 ^ 20 → ∀ b q, p.moduleRead (a 2) (a 1) (a 3) = .ok (b, false, q) →
        let valid := sha384 (Config.imageKey b) = s.fuses.bytes 2 6 ∧
          ecdsaVerify (Config.imageKey b) (sha384 (Config.imageBody b)) (Config.imageSig b) = true
        (¬ valid → no (.fwload vi) 0x0D) ∧
        (valid → let v := Config.imageVersion b % 2 ^ 32
          ok (.fwload vi) v { q with fw := { q.fw with pend := some (v, BitVec.ofNat 384 (leNat (sha384 b))) } }))) ∧
    (s.runs vi .platform 3 →
      (vi ≠ 0 → no (.fwswitch vi) 0x02) ∧ (vi = 0 → p.fw.pend = none → no (.fwswitch vi) 0x0E) ∧
      (vi = 0 → p.fw.pend ≠ none → (∀ m ∈ p.migs, m.live = false) → (∀ e ∈ p.resetting, e.2.cmd = false) →
        ok (.fwswitch vi) 0 { p with fw := { p.fw with switching := some p.pt } })) ∧
    (∀ t v m, p.fw.switching = some t → p.fw.pend = some (v, m) → p.pt - t < Config.handoverTimeout →
      s.does .fwReady (({ p with fw := { p.fw with version := v, mfw := m, pend := none, switching := none } } : Pkg).rasFirmware 0x0A)) ∧
    (∀ t, p.fw.switching = some t → Config.handoverTimeout ≤ p.pt - t → s.does .handoverTimeout
      ((({ p with fw := { p.fw with pend := none, switching := none } } : Pkg).abortCommands).rasFirmware 0x0B)) ∧
    (s.does .firmwareWatchdog p.abortCommands ∧ ∀ w ∈ p.vis, ∀ b, ((p.abortCommands.vi w.1).block b).running = false) ∧
    (s.runs vi .platform 4 →
      let bad := a 1 % 64 ≠ 0 ∨ 2 ^ 56 ≤ a 1 ∨ a 3 < 4 ∨ 16 < a 3
      (p.owns vi (a 2) = false → no (.rasring vi) 0x04) ∧ (p.owns vi (a 2) = true → bad → no (.rasring vi) 0x05) ∧
      (p.owns vi (a 2) = true → ¬ bad → ok (.rasring vi) 0
        { p with vis := p.vis.put vi { p.vi vi with ras := some (.new (a 1) (a 2) (a 3) (a 4)) } })) ∧
    (∀ die temp, die ≤ 7 → 105 ≤ temp → die ∉ p.hot → ∃ q r, s.does (.thermalHold die temp) q ∧ q = { p with hot := q.hot, power := q.power, vis := r } ∧
      die ∈ q.hot ∧ ∀ i, q.power.freq.get 3300 i = if i / 4 = die then 800 else p.power.freq.get 3300 i) ∧
    (∀ die temp, temp < 100 → (∀ r, Tab.find? p.resetting die = some r → r.trip = false) →
      s.does (.thermalRelease die temp) { p with hot := p.hot.filter (· != die) }) ∧
    (∀ link lanes, s.does (.laneRepair link lanes) { p with lanes := p.lanes.put link lanes })

/-- R428, R431, R436 to R438: a module reset keeps only the fuses, the current image and the counts of resets; a die reset
ends the die's tasks and drains it; a die error does so disorderly; a trip is an orderly reset that ends when the die is
cool. The model's choices: a die reset begins and ends by separate events, and begins while every copy stands in order (log entries
21, 83); what is lost in a disorderly one (5, 10, 85). -/
def Obligations.Resets : Prop :=
  ∀ (s : State) (vi die temp : Nat) (fails : Bool),
    let p := s.pkg
    let d := s.arg vi .platform 1
    let begun (d : Nat) (q : Pkg) (trip cmd : Bool) : Prop :=
      Tab.find? q.resetting d = some { since := p.pt, orderly := true, trip, cmd } ∧
        ∀ c t, c / 64 = d → (q.core c).task = some t → t.ended ≠ none
    (let q := p.moduleReset fails
     s.does (.moduleReset fails) q ∧ (∀ k, q.physByte k = 0) ∧ q.cores = [] ∧ q.saved = [] ∧ q.queues = Pkg.reset.queues ∧
      q.spaces = Pkg.reset.spaces ∧ q.leaves = [] ∧ q.recs = [] ∧ q.l2 = [] ∧ q.brine = [] ∧ q.ops = [] ∧ q.poison = [] ∧
      q.vis = Pkg.reset.vis ∧ q.unlk = false ∧ q.fw.version = p.fw.version ∧ q.fw.mfw = p.fw.mfw ∧ q.fw.pend = none ∧ q.failed = fails ∧
      ∀ i < 16, q.epochs.get 0 i = p.epochs.get 0 i + 1) ∧
    (s.runs vi .platform 6 →
      (vi ≠ 0 → s.rejects (.mreset vi) vi .platform 0x02) ∧
      (vi = 0 → s.does (.mreset vi) (p.moduleReset (Config.selfTestFails p.resets)))) ∧
    (∀ r, Tab.find? p.resetting die = some r → 2 ^ 26 ≤ p.pt - r.since →
      s.does (.dieResetTimeout die) (p.moduleReset (Config.selfTestFails p.resets))) ∧
    (s.runs vi .platform 5 →
      (vi ≠ 0 → s.rejects (.diereset vi) vi .platform 0x02) ∧ (vi = 0 → p.failed = true → s.rejects (.diereset vi) vi .platform 0x0F) ∧
      (vi = 0 → p.failed = false → 7 < d → s.rejects (.diereset vi) vi .platform 0x05) ∧
      (vi = 0 → p.failed = false → d ≤ 7 →
        (Tab.find? p.resetting d = none → p.steady = true → ∃ q, s.does (.diereset vi) q ∧ begun d q false true) ∧
        (Tab.find? p.resetting d = none → p.steady = false → s.does (.diereset vi) p) ∧
        (∀ r, Tab.find? p.resetting d = some r → r.cmd = true → r.orderly = true → s.does (.diereset vi) (p.returnDie d false)))) ∧
    (die ≤ 7 →
      (∀ r, Tab.find? p.resetting die = some r → r.orderly = false → s.does (.dieError die) (p.returnDie die false)) ∧
      ((∀ r, Tab.find? p.resetting die = some r → r.orderly = true) → (p.steady = true ∨ Tab.find? p.resetting die ≠ none →
          s.does (.dieError die) (p.failDie die)) ∧
        ∃ r, Tab.find? (p.failDie die).resetting die = some r ∧ r.orderly = false) ∧
      (Tab.find? p.resetting die = none → p.steady = false → s.does (.dieError die) p) ∧
      (120 ≤ temp →
        (Tab.find? p.resetting die = none → p.steady = true → ∃ q, s.does (.thermalTrip die temp) q ∧ begun die q true false) ∧
        (Tab.find? p.resetting die = none → p.steady = false → s.does (.thermalTrip die temp) p) ∧
        (∀ r, Tab.find? p.resetting die = some r → s.does (.thermalTrip die temp)
          { p with resetting := p.resetting.put die { r with trip := true } }))) ∧
    (∀ r, Tab.find? p.resetting die = some r → r.trip = true → temp < 100 → s.does (.thermalRelease die temp)
      (({ p with hot := p.hot.filter (· != die) } : Pkg).returnDie die true)) ∧
    (∀ r cool, Tab.find? p.resetting die = some r → r.trip = false ∨ cool = true → (p.dieSteps die).dieDrained die = true →
      Tab.find? (p.returnDie die cool).resetting die = none)

/-- R449, R450: JOBSET binds a space to a job: the list is checked, the epoch rises, the digest chain grows; JOBCLR unbinds
it. Error codes that Table 20.4 does not separate are log entry 70. -/
def Obligations.JobCommands : Prop :=
  ∀ (s : State) (vi : Nat),
    let p := s.pkg
    let a (n : Nat) : Nat := s.arg vi .job n
    let ok (i : Instr) (v : Nat) (q : Pkg) : Prop := s.accepts i vi .job v q
    let no (i : Instr) (e : Nat) : Prop := s.rejects i vi .job e
    (s.runs vi .job 1 →
      let bad := a 2 = 0 ∨ a 3 % 4 ≠ 0 ∨ a 5 = 0 ∨ 65536 < a 5
      (vi ≠ 0 → no (.jobset vi) 0x02) ∧ (vi = 0 → p.space? (a 1) = none → no (.jobset vi) 0x04) ∧
      (∀ sp, vi = 0 → p.space? (a 1) = some sp → bad → no (.jobset vi) 0x05) ∧
      (∀ sp b q, vi = 0 → p.space? (a 1) = some sp → ¬ bad → p.moduleRead (a 4) (a 3) (4 * a 5) = .ok (b, false, q) →
        let l := words32 b
        let sorted := l.Pairwise (· < ·) ∧ ∀ m ∈ l, m < 2 ^ 24
        (¬ sorted → no (.jobset vi) 0x05) ∧ (sorted → s.prov.modid ∉ l → no (.jobset vi) 0x11) ∧
        (sorted → s.prov.modid ∈ l →
          (∀ j, sp.job = some j → j.jobid ≠ BitVec.ofNat 64 (a 2) → no (.jobset vi) 0x12) ∧
          ((∀ j, sp.job = some j → j.jobid = BitVec.ofNat 64 (a 2)) → ∃ n : Job,
            ok (.jobset vi) n.epoch (q.modSpace (a 1) fun x => { x with job := some n }) ∧ n.jobid = BitVec.ofNat 64 (a 2) ∧ n.list = l ∧
            n.epoch = ((sp.job.map Job.epoch).getD 0) + 1 ∧ n.mdigest = BitVec.ofNat 384 (leNat (sha384 b)) ∧ n.basePt = q.pt ∧
            n.base = (List.range 16).map sp.counter ∧
            n.chain = BitVec.ofNat 384 (leNat (sha384 (bytes48 ((sp.job.map Job.chain).getD 0) ++ leBytes (a 2) 8 ++ leBytes n.epoch 4 ++
              sha384 b))))))) ∧
    (s.runs vi .job 2 →
      (vi ≠ 0 → no (.jobclr vi) 0x02) ∧ (vi = 0 → p.space? (a 1) = none → no (.jobclr vi) 0x04) ∧
      (∀ sp, vi = 0 → p.space? (a 1) = some sp → (sp.job = none → no (.jobclr vi) 0x09) ∧
        ∀ j, sp.job = some j → ok (.jobclr vi) j.epoch (p.modSpace (a 1) fun x => { x with job := none })))

/-! ### Encoding and steps -/

/-- Words of the spec's examples, from the encodings of R179 to R189, are the instructions they are listed as. -/
def Obligations.DecodingWords : Prop :=
  let g : Guard := ⟨false, 0⟩
  decode 0 0x020003000000000000000000 = .ok (.movi g 3 0) ∧
  decode 0 0x0500030C0000000000000003 = .ok (.addi g 3 3 3) ∧
  decode 0 0x060004101000000000000000 = .ok (.sub g 4 4 1) ∧
  decode 0 0x0F00040C3100000000000000 = .ok (.madd g 4 3 3 4) ∧
  decode 0 0x2100010C000200000000000C = .ok (.cmpi g .lt 1 3 12) ∧
  decode 0 0x2F2403100002200000000009 = .ok (.fcvti g .i32 .f32 .rtz 3 4) ∧
  decode 0 0x300040000000000000000001 = .ok (.br ⟨false, 1⟩ 0 1) ∧
  decode 0 0x350000000000000003400003 = .ok (.loopi g 0 3 2 3) ∧
  decode 0 0x3A0006140000000000000008 = .ok (.spawn g 6 5 1 0) ∧
  decode 0 0x3D000C083000000000000000 = .ok (.msgsend g 12 2 3) ∧
  decode 0 0x40080A146003000000402100 = .ok (.ld g .i32 .keep true 10 ⟨5, 6, 3, 0x40⟩) ∧
  decode 0 0x4B0000100000000000400000 = .ok (.linewb g .normal ⟨4, 0, 0, 0x40⟩) ∧
  decode 0 0x4D000A1031C0000000000200 = .ok (.copy g 1 10 4 3 7) ∧
  decode 0 0x53000B000000000000000102 = .ok (.fenceE g 11 2 1) ∧
  decode 0 0x600008147240040000000000 = .ok (.panr g 0 0 8 5 7 9 4) ∧
  decode 0 0x6300080C1086040000000000 = .ok (.panv g 0 8 3 1 2 6 4) ∧
  decode 0 0x9C000A0C0009000000000000 = .ok (.vredsum g .f32 .rne none 10 3) ∧
  decode 0 0x9500050C000D000000000009 = .ok (.vcvt g .e4m3 .f32 .rne none 5 3) ∧
  decode 0 0xA4000100000211C000000020 = .ok (.vmovi g .i32 (some 7) 1 32) ∧
  decode 0 0x99000B10000900000000013F = .ok (.vmovs g .f32 11 4 (.imm 63)) ∧
  decode 0 0x4800010C5080000000000000 = .ok (.ldt g .normal false 1 ⟨3, 5, 0, 0⟩ 2) ∧
  decode 0 0xC000001050C0000000000000 = .ok (.bload g .normal 3 0 ⟨4, 5, 0, 0⟩) ∧
  decode 0 0xC20000040000130000000000 = .ok (.mma g 1 3 0 1 0) ∧
  decode 0 0xC30001040000131000000000 = .ok (.mmax g 1 3 1 1 0) ∧
  decode 0 0xC6000000000B000000000000 = .ok (.accout g .bf16 .rne none 0 0 0) ∧
  decode 0 0x68000C515590000000000000 = .ok (.mxsend g 0 .bput4 1 12 20 21 22) ∧
  decode 0 0xE300000C0000000000000006 = .ok (.syswr g .trapvec 3) ∧
  decode 0 0xE70003100000000000000000 = .ok (.cntrd g 3 4) ∧
  decode 0 0xE70407556000000000000000 = .ok (.attest g 7 21 22) ∧
  decode 0 0xE800060C4140000000000000 = .ok (.dbgwp g 6 3 4 5)

/-- R179 to R189: an instruction's words decode to it, and a word that decodes is that instruction's: no bit of a word is
dropped, and a word has one meaning. `own` is the slot the word stands in (R220). -/
def Obligations.DecodeAndEncodeAgree : Prop :=
  ∀ (own : Nat) (w : BitVec 96) (i : Instr), decode own w = .ok i ↔ i.wf own = true ∧ encode i = some w

/-- What a step does: a context's next instruction is fetched, decoded and executed (Table 7.11); an event of another agent
takes place; a core's engine takes a command that waits (R22, R353); a write the module owes is made; time passes, and stops where a profile period ends; firmware sets QSHIFT (R424);
check bits find an error (R432 to R434, log entry 113). A module whose lifecycle is SCRAPPED does nothing (Table 21.1).
The agenda is the model's choice (log entry 12), as is SCRAPPED's reading (94). -/
def Obligations.StepRuns : Prop :=
  ∀ (s : State),
    (s.fuses.lcs = 4 → Steps s { s with pkg := s.pkg.seal }) ∧
    (s.fuses.lcs ≠ 4 →
      (∀ c k t, s.pkg.agenda = .run c k :: t →
        let x : CtxRef := ⟨c, k⟩
        let p : Pkg := { s.pkg with agenda := t, cur := x, req := some c }
        let pc := (p.ctx x).regs.pc
        ((p.ctx x).mayIssue = true →
          (∀ l q i, (M.fetchLine x pc).run p = .ok (l, q) → decode (slotOfPc pc) (slotWord l (slotOfPc pc)) = .ok i →
            step s = exec i { s with pkg := q }) ∧
          (∀ l q e, (M.fetchLine x pc).run p = .ok (l, q) → decode (slotOfPc pc) (slotWord l (slotOfPc pc)) = .error e →
            Steps s { s with pkg := ((p.discardBad x).fault x 3 0 0).seal }) ∧
          (∀ n a i, (M.fetchLine x pc).run p = .error (.fault n a i) →
            Steps s { s with pkg := ((p.discardBad x).fault x n (BitVec.ofNat 64 a) i).seal })) ∧
        ((p.ctx x).mayIssue = false → Steps s { s with pkg := p.seal })) ∧
      (∀ i t, s.pkg.agenda = .event i :: t → i.guard? = none → step s = exec i { s with pkg := { s.pkg with agenda := t } }) ∧
      (∀ t q, s.pkg.agenda = .owed :: t → ({ s.pkg with agenda := t } : Pkg).duty = some q → Steps s { s with pkg := q.seal }) ∧
      (∀ n t, s.pkg.agenda = .tick n :: t → Steps s { s with pkg := (({ s.pkg with agenda := t } : Pkg).tick n).seal }) ∧
      (∀ n t, s.pkg.agenda = .qshift n :: t → 10 ≤ n → n ≤ 24 →
        Steps s { s with pkg := ({ s.pkg with agenda := t, fw := { s.pkg.fw with qshift := n } } : Pkg).seal }) ∧
      (∀ c m t, s.pkg.agenda = .accept c m :: t →
        Steps s { s with pkg := (({ s.pkg with agenda := t } : Pkg).modCore c (·.accept m)).seal }) ∧
      (∀ u t, s.pkg.agenda = .upset u :: t → Steps s { s with pkg := (({ s.pkg with agenda := t } : Pkg).suffer u).seal }) ∧
      (s.pkg.agenda = [] → step s = step { s with pkg := { s.pkg with agenda := [s.pkg.auto] } })) ∧
    (∀ (p : Pkg) (n : Nat), (p.profk = 0 → p.profPend = none → p.tick n = { p with pt := p.pt + n }) ∧
      p.pt ≤ (p.tick n).pt ∧ (p.tick n).pt ≤ p.pt + n) ∧
    ∀ (k : Core) (m : Bool),
      (k.accept m).commands (if m = true then .matrix else .vector) = k.commands (if m = true then .matrix else .vector) - 1

/-- Every instruction and every event answers a next state; a step stops only where the agenda names an instruction word as
another agent's event. This is a property of the model (log entry 12), not a rule of the spec. -/
def Obligations.NothingIsRefused : Prop :=
  (∀ (i : Instr) (s : State), ∃ t, exec i s = .next t) ∧
  ∀ (s : State), (∃ t, Steps s t) ∨ (step s = .fault .notAnEvent ∧ ∃ i t, s.pkg.agenda = .event i :: t ∧ i.guard? ≠ none)

/-- From every state in which memory is canonical and no write is outstanding, a step leaves them so; and no step changes a
fuse or what the module was provisioned with (R452). The form of memory is the model's own (log entry 2). -/
def Obligations.StepsKeepMemoryCanonical : Prop :=
  ∀ (s t : State), Sealed s → Steps s t → Sealed t ∧ t.fuses = s.fuses ∧ t.prov = s.prov

/-- R49, R428, R372, R417, R430, R464: the machine after reset: memory zero and canonical, every context FREE with
generation 0, space 0 alone, queues DISABLED with weight 16, profiling off, time zero. Registers before launch are the
model's choice (log entry 1). -/
def Obligations.ResetState : Prop :=
  let s := State.reset
  Sealed s ∧ (∀ a, s.byte a = 0) ∧ s.pkg.pt = 0 ∧ s.pkg.profk = 0 ∧ (∀ x, s.pkg.ctx x = .reset) ∧
    (Ctx.reset.st = .free ∧ Ctx.reset.gen = 0 ∧ Ctx.reset.regs.chunklen = 4096 ∧ Ctx.reset.regs.pr 0 = true) ∧
    (∀ n, s.pkg.space? n = if n = 0 then some (.new 1 0 0) else none) ∧
    (∀ n, (s.pkg.queue n).st = .disabled ∧ (s.pkg.queue n).weight = 16 ∧ (s.pkg.queue n).stail = 0) ∧
    (∀ c, (s.pkg.core c).task = none ∧ (s.pkg.core c).inbox = []) ∧ s.pkg.leaves = [] ∧ s.pkg.regions = [] ∧ s.pkg.bars = []
end

