-- ==== Sys2Proof/Laws/Tab.lean ====
section
/-! SUPPORT. The sparse table: what a read gives after a write, and that writes keep the canonical form. -/

namespace Sys2Proof

variable {α : Type}

@[simp] theorem Tab.find?_nil (i : Nat) : Tab.find? ([] : Tab α) i = none := rfl
@[simp] theorem Tab.get_nil (d : α) (i : Nat) : Tab.get d [] i = d := rfl

/-- What a table lists at an index after a write there or elsewhere. -/
theorem Tab.find?_put (t : Tab α) (i j : Nat) (a : α) : Tab.find? (t.put i a) j = if i = j then some a else Tab.find? t j := by
  fun_induction Tab.put t i a with
  | case1 => rfl
  | case2 | case3 => grind [Tab.find?]
  | case4 => grind [Tab.find?]

theorem Tab.find?_drop (t : Tab α) (i j : Nat) : Tab.find? (t.drop i) j = if i = j then none else Tab.find? t j := by
  fun_induction Tab.drop t i <;> grind [Tab.find?]

@[simp] theorem Tab.find?_put_same (t : Tab α) (i : Nat) (a : α) : Tab.find? (t.put i a) i = some a := by simp [Tab.find?_put]
@[simp] theorem Tab.find?_drop_same (t : Tab α) (i : Nat) : Tab.find? (t.drop i) i = none := by simp [Tab.find?_drop]

/-- Read after write. -/
theorem Tab.get_set [DecidableEq α] (d : α) (t : Tab α) (i j : Nat) (a : α) :
    (t.set d i a).get d j = if i = j then a else t.get d j := by
  unfold Tab.set Tab.get
  by_cases ha : a = d <;> by_cases h : i = j <;> simp [Tab.find?_put, Tab.find?_drop, ha, h]

@[simp] theorem Tab.get_set_same [DecidableEq α] (d : α) (t : Tab α) (i : Nat) (a : α) : (t.set d i a).get d i = a := by
  simp [Tab.get_set]
theorem Tab.get_set_other [DecidableEq α] (d : α) (t : Tab α) {i j : Nat} (h : j ≠ i) (a : α) :
    (t.set d i a).get d j = t.get d j := by
  simp [Tab.get_set, Ne.symm h]

/-- A table lists nothing at an index that none of its entries has. -/
theorem Tab.get_of_notMem {d : α} {t : Tab α} {i : Nat} (h : i ∉ t.map Prod.fst) : t.get d i = d := by
  have : Tab.find? t i = none := by
    fun_induction Tab.find? t i <;> grind
  simp [Tab.get, this]

/-- The canonical form, said of all entries: none is the default, and their indices rise. -/
theorem Tab.wf_iff [DecidableEq α] (d : α) (t : Tab α) :
    Tab.wf d t = true ↔ (∀ e ∈ t, e.2 ≠ d) ∧ t.Pairwise fun x y => x.1 < y.1 := by
  fun_induction Tab.wf d t with
  | case1 => simp
  | case2 => simp
  | case3 i a j b t ih =>
    simp only [Bool.and_eq_true, decide_eq_true_eq, ih, List.pairwise_cons, List.forall_mem_cons]
    exact ⟨fun h => ⟨⟨h.1.1, h.2.1⟩, ⟨h.1.2, fun e he => h.1.2.trans (h.2.2.1 e he)⟩, h.2.2⟩, fun h => ⟨⟨h.1.1, h.2.1.1⟩, h.1.2, h.2.2⟩⟩

theorem Tab.wf_filter [DecidableEq α] {d : α} (p : Nat × α → Bool) {t : Tab α} (h : Tab.wf d t = true) :
    Tab.wf d (List.filter p t) = true := by
  rw [Tab.wf_iff] at *
  exact ⟨fun e he => h.1 e (List.mem_of_mem_filter he), h.2.filter p⟩

theorem Tab.drop_eq_filter (t : Tab α) (i : Nat) : t.drop i = List.filter (fun e => e.1 != i) t := by
  fun_induction Tab.drop t i <;> simp_all

/-- A write lists no entry but its own and those that were there. -/
theorem Tab.mem_put {e : Nat × α} {i : Nat} {a : α} {t : Tab α} : e ∈ t.put i a → e = (i, a) ∨ e ∈ t := by
  fun_induction Tab.put t i a <;> grind

theorem Tab.put_wf [DecidableEq α] {d : α} {i : Nat} {a : α} {t : Tab α} (ha : a ≠ d) (h : Tab.wf d t = true) :
    Tab.wf d (t.put i a) = true := by
  rw [Tab.wf_iff] at *
  refine ⟨fun e he => (Tab.mem_put he).elim (fun h => h ▸ ha) (h.1 e), ?_⟩
  have hp := h.2
  clear h
  fun_induction Tab.put t i a with
  | case1 => simp
  | case2 => grind [List.pairwise_cons]
  | case3 => grind [List.pairwise_cons]
  | case4 =>
    rw [List.pairwise_cons] at hp ⊢
    rename_i ih
    exact ⟨fun e he => (Tab.mem_put he).elim (fun h => by subst h; grind) (hp.1 e), ih ha hp.2⟩

/-- A write keeps the canonical form. -/
theorem Tab.set_wf [DecidableEq α] {d : α} {i : Nat} {a : α} {t : Tab α} (h : Tab.wf d t = true) :
    Tab.wf d (t.set d i a) = true := by
  unfold Tab.set
  split
  · rw [Tab.drop_eq_filter]
    exact Tab.wf_filter _ h
  · exact Tab.put_wf ‹_› h

end Sys2Proof

namespace Sys2Proof.Machine

/-- The physical writes of a step, in whatever number, keep memory canonical. -/
theorem applyLog_wf (l : List PhysOp) {m : List Host.Cell} (h : Memory.wf m = true) : Memory.wf (applyLog l m) = true := by
  induction l with
  | nil => exact h
  | cons o t ih =>
    cases o with
    | byte a b => exact Tab.set_wf ih
    | zero a n => exact Tab.wf_filter _ ih
    | clear => rfl

end Sys2Proof.Machine
end

