-- ==== Sys2Proof/Laws/State.lean ====
section
/-! SUPPORT. One lemma for each field under each update: what it changes and what it leaves. `modCore`, `setCtx` and `modCtx` are
`setCore`. -/

namespace Sys2Proof.Machine

theorem Pkg.modCore_eq (p : Pkg) (c : Nat) (f : Core → Core) : p.modCore c f = p.setCore c (f (p.core c)) := rfl
theorem Pkg.setCtx_eq (p : Pkg) (x : CtxRef) (c : Ctx) : p.setCtx x c = p.setCore x.core ((p.core x.core).setCtx x.slot c) := rfl
theorem Pkg.modCtx_eq (p : Pkg) (x : CtxRef) (f : Ctx → Ctx) :
    p.modCtx x f = p.setCore x.core ((p.core x.core).setCtx x.slot (f ((p.core x.core).ctx x.slot))) := rfl
theorem Pkg.ctx_eq (p : Pkg) (x : CtxRef) : p.ctx x = (p.core x.core).ctx x.slot := rfl

@[simp] theorem Pkg.core_setCore_same (p : Pkg) (c : Nat) (k : Core) : (p.setCore c k).core c = k := by
  simp [Pkg.core, Pkg.setCore]
theorem Pkg.core_setCore_other (p : Pkg) {c d : Nat} (h : d ≠ c) (k : Core) : (p.setCore c k).core d = p.core d :=
  Tab.get_set_other _ _ h _
@[simp] theorem Core.ctx_setCtx_same (k : Core) (n : Nat) (x : Ctx) : (k.setCtx n x).ctx n = x := by
  simp [Core.ctx, Core.setCtx]
theorem Core.ctx_setCtx_other (k : Core) {n m : Nat} (h : m ≠ n) (x : Ctx) : (k.setCtx n x).ctx m = k.ctx m :=
  Tab.get_set_other _ _ h _
@[simp] theorem Pkg.ctx_modCtx_same (p : Pkg) (x : CtxRef) (f : Ctx → Ctx) : (p.modCtx x f).ctx x = f (p.ctx x) := by
  simp [Pkg.modCtx_eq, Pkg.ctx_eq]
theorem Pkg.ctx_modCtx_other (p : Pkg) {x y : CtxRef} (h : y ≠ x) (f : Ctx → Ctx) : (p.modCtx x f).ctx y = p.ctx y := by
  rw [Pkg.modCtx_eq, Pkg.ctx_eq, Pkg.ctx_eq]
  by_cases hc : y.core = x.core
  · rw [hc, Pkg.core_setCore_same]
    refine Core.ctx_setCtx_other _ (fun hs => h ?_) _
    cases x; cases y; simp_all
  · rw [Pkg.core_setCore_other _ hc]

@[simp] theorem Pkg.setCore_pt (p : Pkg) (c : Nat) (k : Core) : (p.setCore c k).pt = p.pt := rfl
@[simp] theorem Pkg.setCore_mem (p : Pkg) (c : Nat) (k : Core) : (p.setCore c k).mem = p.mem := rfl
@[simp] theorem Pkg.setCore_log (p : Pkg) (c : Nat) (k : Core) : (p.setCore c k).log = p.log := rfl
@[simp] theorem Pkg.setCore_poison (p : Pkg) (c : Nat) (k : Core) : (p.setCore c k).poison = p.poison := rfl
@[simp] theorem Pkg.setCore_vpoison (p : Pkg) (c : Nat) (k : Core) : (p.setCore c k).vpoison = p.vpoison := rfl
@[simp] theorem Pkg.setCore_cur (p : Pkg) (c : Nat) (k : Core) : (p.setCore c k).cur = p.cur := rfl
@[simp] theorem Pkg.setCore_agenda (p : Pkg) (c : Nat) (k : Core) : (p.setCore c k).agenda = p.agenda := rfl
@[simp] theorem Pkg.setCore_free (p : Pkg) (c : Nat) (k : Core) : (p.setCore c k).free = p.free := rfl
@[simp] theorem Pkg.setCore_spaces (p : Pkg) (c : Nat) (k : Core) : (p.setCore c k).spaces = p.spaces := rfl
@[simp] theorem Pkg.setCore_l2 (p : Pkg) (c : Nat) (k : Core) : (p.setCore c k).l2 = p.l2 := rfl
@[simp] theorem Pkg.setCore_l2miss (p : Pkg) (c : Nat) (k : Core) : (p.setCore c k).l2miss = p.l2miss := rfl
@[simp] theorem Pkg.setCore_missed (p : Pkg) (c : Nat) (k : Core) : (p.setCore c k).missed = p.missed := rfl
@[simp] theorem Pkg.setCore_panApps (p : Pkg) (c : Nat) (k : Core) : (p.setCore c k).panApps = p.panApps := rfl
@[simp] theorem Pkg.setCore_transl (p : Pkg) (c : Nat) (k : Core) : (p.setCore c k).transl = p.transl := rfl
@[simp] theorem Pkg.setCore_leaves (p : Pkg) (c : Nat) (k : Core) : (p.setCore c k).leaves = p.leaves := rfl
@[simp] theorem Pkg.setCore_regions (p : Pkg) (c : Nat) (k : Core) : (p.setCore c k).regions = p.regions := rfl
@[simp] theorem Pkg.setCore_migs (p : Pkg) (c : Nat) (k : Core) : (p.setCore c k).migs = p.migs := rfl
@[simp] theorem Pkg.setCore_fmtw (p : Pkg) (c : Nat) (k : Core) : (p.setCore c k).fmtw = p.fmtw := rfl
@[simp] theorem Pkg.setCore_scale (p : Pkg) (c : Nat) (k : Core) : (p.setCore c k).scale = p.scale := rfl
@[simp] theorem Pkg.setCore_recs (p : Pkg) (c : Nat) (k : Core) : (p.setCore c k).recs = p.recs := rfl
@[simp] theorem Pkg.setCore_brine (p : Pkg) (c : Nat) (k : Core) : (p.setCore c k).brine = p.brine := rfl
@[simp] theorem Pkg.setCore_ops (p : Pkg) (c : Nat) (k : Core) : (p.setCore c k).ops = p.ops := rfl
@[simp] theorem Pkg.setCore_nextOp (p : Pkg) (c : Nat) (k : Core) : (p.setCore c k).nextOp = p.nextOp := rfl
@[simp] theorem Pkg.setCore_flights (p : Pkg) (c : Nat) (k : Core) : (p.setCore c k).flights = p.flights := rfl
@[simp] theorem Pkg.setCore_bars (p : Pkg) (c : Nat) (k : Core) : (p.setCore c k).bars = p.bars := rfl
@[simp] theorem Pkg.setCore_queues (p : Pkg) (c : Nat) (k : Core) : (p.setCore c k).queues = p.queues := rfl
@[simp] theorem Pkg.setCore_vis (p : Pkg) (c : Nat) (k : Core) : (p.setCore c k).vis = p.vis := rfl
@[simp] theorem Pkg.setCore_qslots (p : Pkg) (c : Nat) (k : Core) : (p.setCore c k).qslots = p.qslots := rfl
@[simp] theorem Pkg.setCore_arbPos (p : Pkg) (c : Nat) (k : Core) : (p.setCore c k).arbPos = p.arbPos := rfl
@[simp] theorem Pkg.setCore_slotPos (p : Pkg) (c : Nat) (k : Core) : (p.setCore c k).slotPos = p.slotPos := rfl
@[simp] theorem Pkg.setCore_gangs (p : Pkg) (c : Nat) (k : Core) : (p.setCore c k).gangs = p.gangs := rfl
@[simp] theorem Pkg.setCore_profk (p : Pkg) (c : Nat) (k : Core) : (p.setCore c k).profk = p.profk := rfl
@[simp] theorem Pkg.setCore_profPend (p : Pkg) (c : Nat) (k : Core) : (p.setCore c k).profPend = p.profPend := rfl
@[simp] theorem Pkg.setCore_profAt (p : Pkg) (c : Nat) (k : Core) : (p.setCore c k).profAt = p.profAt := rfl
@[simp] theorem Pkg.setCore_prof (p : Pkg) (c : Nat) (k : Core) : (p.setCore c k).prof = p.prof := rfl
@[simp] theorem Pkg.setCore_snaps (p : Pkg) (c : Nat) (k : Core) : (p.setCore c k).snaps = p.snaps := rfl
@[simp] theorem Pkg.setCore_snapSeq (p : Pkg) (c : Nat) (k : Core) : (p.setCore c k).snapSeq = p.snapSeq := rfl
@[simp] theorem Pkg.setCore_stops (p : Pkg) (c : Nat) (k : Core) : (p.setCore c k).stops = p.stops := rfl
@[simp] theorem Pkg.setCore_stopSeq (p : Pkg) (c : Nat) (k : Core) : (p.setCore c k).stopSeq = p.stopSeq := rfl
@[simp] theorem Pkg.setCore_exclQ (p : Pkg) (c : Nat) (k : Core) : (p.setCore c k).exclQ = p.exclQ := rfl
@[simp] theorem Pkg.setCore_fw (p : Pkg) (c : Nat) (k : Core) : (p.setCore c k).fw = p.fw := rfl
@[simp] theorem Pkg.setCore_power (p : Pkg) (c : Nat) (k : Core) : (p.setCore c k).power = p.power := rfl
@[simp] theorem Pkg.setCore_hot (p : Pkg) (c : Nat) (k : Core) : (p.setCore c k).hot = p.hot := rfl
@[simp] theorem Pkg.setCore_resetting (p : Pkg) (c : Nat) (k : Core) : (p.setCore c k).resetting = p.resetting := rfl
@[simp] theorem Pkg.setCore_corrected (p : Pkg) (c : Nat) (k : Core) : (p.setCore c k).corrected = p.corrected := rfl
@[simp] theorem Pkg.setCore_failed (p : Pkg) (c : Nat) (k : Core) : (p.setCore c k).failed = p.failed := rfl
@[simp] theorem Pkg.setCore_epochs (p : Pkg) (c : Nat) (k : Core) : (p.setCore c k).epochs = p.epochs := rfl
@[simp] theorem Pkg.setCore_lanes (p : Pkg) (c : Nat) (k : Core) : (p.setCore c k).lanes = p.lanes := rfl
@[simp] theorem Pkg.setCore_resets (p : Pkg) (c : Nat) (k : Core) : (p.setCore c k).resets = p.resets := rfl
@[simp] theorem Pkg.setCore_keyDraw (p : Pkg) (c : Nat) (k : Core) : (p.setCore c k).keyDraw = p.keyDraw := rfl
@[simp] theorem Pkg.setCore_unlk (p : Pkg) (c : Nat) (k : Core) : (p.setCore c k).unlk = p.unlk := rfl
@[simp] theorem Pkg.setCore_mdbg (p : Pkg) (c : Nat) (k : Core) : (p.setCore c k).mdbg = p.mdbg := rfl
@[simp] theorem Pkg.setCore_sealWiped (p : Pkg) (c : Nat) (k : Core) : (p.setCore c k).sealWiped = p.sealWiped := rfl
@[simp] theorem Pkg.setCore_linkWiped (p : Pkg) (c : Nat) (k : Core) : (p.setCore c k).linkWiped = p.linkWiped := rfl
@[simp] theorem Pkg.setCore_saved (p : Pkg) (c : Nat) (k : Core) : (p.setCore c k).saved = p.saved := rfl
@[simp] theorem Pkg.setCore_hotness (p : Pkg) (c : Nat) (k : Core) : (p.setCore c k).hotness = p.hotness := rfl
@[simp] theorem Pkg.setCore_req (p : Pkg) (c : Nat) (k : Core) : (p.setCore c k).req = p.req := rfl
@[simp] theorem Pkg.setCore_out (p : Pkg) (c : Nat) (k : Core) : (p.setCore c k).out = p.out := rfl
@[simp] theorem Pkg.setCore_past (p : Pkg) (c : Nat) (k : Core) : (p.setCore c k).past = p.past := rfl
@[simp] theorem Pkg.setCore_modHeld (p : Pkg) (c : Nat) (k : Core) : (p.setCore c k).modHeld = p.modHeld := rfl
@[simp] theorem Pkg.setCore_entries (p : Pkg) (c : Nat) (k : Core) : (p.setCore c k).entries = p.entries := rfl
@[simp] theorem Pkg.setCore_drains (p : Pkg) (c : Nat) (k : Core) : (p.setCore c k).drains = p.drains := rfl
@[simp] theorem Pkg.setCore_inbound (p : Pkg) (c : Nat) (k : Core) : (p.setCore c k).inbound = p.inbound := rfl
@[simp] theorem Pkg.setCore_openLogs (p : Pkg) (c : Nat) (k : Core) : (p.setCore c k).openLogs = p.openLogs := rfl

@[simp] theorem Pkg.modCtx_pt (p : Pkg) (x : CtxRef) (f : Ctx → Ctx) : (p.modCtx x f).pt = p.pt := rfl
@[simp] theorem Pkg.modCtx_mem (p : Pkg) (x : CtxRef) (f : Ctx → Ctx) : (p.modCtx x f).mem = p.mem := rfl
@[simp] theorem Pkg.modCtx_log (p : Pkg) (x : CtxRef) (f : Ctx → Ctx) : (p.modCtx x f).log = p.log := rfl
@[simp] theorem Pkg.modCtx_poison (p : Pkg) (x : CtxRef) (f : Ctx → Ctx) : (p.modCtx x f).poison = p.poison := rfl
@[simp] theorem Pkg.modCtx_vpoison (p : Pkg) (x : CtxRef) (f : Ctx → Ctx) : (p.modCtx x f).vpoison = p.vpoison := rfl
@[simp] theorem Pkg.modCtx_cur (p : Pkg) (x : CtxRef) (f : Ctx → Ctx) : (p.modCtx x f).cur = p.cur := rfl
@[simp] theorem Pkg.modCtx_agenda (p : Pkg) (x : CtxRef) (f : Ctx → Ctx) : (p.modCtx x f).agenda = p.agenda := rfl
@[simp] theorem Pkg.modCtx_free (p : Pkg) (x : CtxRef) (f : Ctx → Ctx) : (p.modCtx x f).free = p.free := rfl
@[simp] theorem Pkg.modCtx_spaces (p : Pkg) (x : CtxRef) (f : Ctx → Ctx) : (p.modCtx x f).spaces = p.spaces := rfl
@[simp] theorem Pkg.modCtx_l2 (p : Pkg) (x : CtxRef) (f : Ctx → Ctx) : (p.modCtx x f).l2 = p.l2 := rfl
@[simp] theorem Pkg.modCtx_l2miss (p : Pkg) (x : CtxRef) (f : Ctx → Ctx) : (p.modCtx x f).l2miss = p.l2miss := rfl
@[simp] theorem Pkg.modCtx_missed (p : Pkg) (x : CtxRef) (f : Ctx → Ctx) : (p.modCtx x f).missed = p.missed := rfl
@[simp] theorem Pkg.modCtx_panApps (p : Pkg) (x : CtxRef) (f : Ctx → Ctx) : (p.modCtx x f).panApps = p.panApps := rfl
@[simp] theorem Pkg.modCtx_transl (p : Pkg) (x : CtxRef) (f : Ctx → Ctx) : (p.modCtx x f).transl = p.transl := rfl
@[simp] theorem Pkg.modCtx_leaves (p : Pkg) (x : CtxRef) (f : Ctx → Ctx) : (p.modCtx x f).leaves = p.leaves := rfl
@[simp] theorem Pkg.modCtx_regions (p : Pkg) (x : CtxRef) (f : Ctx → Ctx) : (p.modCtx x f).regions = p.regions := rfl
@[simp] theorem Pkg.modCtx_migs (p : Pkg) (x : CtxRef) (f : Ctx → Ctx) : (p.modCtx x f).migs = p.migs := rfl
@[simp] theorem Pkg.modCtx_fmtw (p : Pkg) (x : CtxRef) (f : Ctx → Ctx) : (p.modCtx x f).fmtw = p.fmtw := rfl
@[simp] theorem Pkg.modCtx_scale (p : Pkg) (x : CtxRef) (f : Ctx → Ctx) : (p.modCtx x f).scale = p.scale := rfl
@[simp] theorem Pkg.modCtx_recs (p : Pkg) (x : CtxRef) (f : Ctx → Ctx) : (p.modCtx x f).recs = p.recs := rfl
@[simp] theorem Pkg.modCtx_brine (p : Pkg) (x : CtxRef) (f : Ctx → Ctx) : (p.modCtx x f).brine = p.brine := rfl
@[simp] theorem Pkg.modCtx_ops (p : Pkg) (x : CtxRef) (f : Ctx → Ctx) : (p.modCtx x f).ops = p.ops := rfl
@[simp] theorem Pkg.modCtx_nextOp (p : Pkg) (x : CtxRef) (f : Ctx → Ctx) : (p.modCtx x f).nextOp = p.nextOp := rfl
@[simp] theorem Pkg.modCtx_flights (p : Pkg) (x : CtxRef) (f : Ctx → Ctx) : (p.modCtx x f).flights = p.flights := rfl
@[simp] theorem Pkg.modCtx_bars (p : Pkg) (x : CtxRef) (f : Ctx → Ctx) : (p.modCtx x f).bars = p.bars := rfl
@[simp] theorem Pkg.modCtx_queues (p : Pkg) (x : CtxRef) (f : Ctx → Ctx) : (p.modCtx x f).queues = p.queues := rfl
@[simp] theorem Pkg.modCtx_vis (p : Pkg) (x : CtxRef) (f : Ctx → Ctx) : (p.modCtx x f).vis = p.vis := rfl
@[simp] theorem Pkg.modCtx_qslots (p : Pkg) (x : CtxRef) (f : Ctx → Ctx) : (p.modCtx x f).qslots = p.qslots := rfl
@[simp] theorem Pkg.modCtx_arbPos (p : Pkg) (x : CtxRef) (f : Ctx → Ctx) : (p.modCtx x f).arbPos = p.arbPos := rfl
@[simp] theorem Pkg.modCtx_slotPos (p : Pkg) (x : CtxRef) (f : Ctx → Ctx) : (p.modCtx x f).slotPos = p.slotPos := rfl
@[simp] theorem Pkg.modCtx_gangs (p : Pkg) (x : CtxRef) (f : Ctx → Ctx) : (p.modCtx x f).gangs = p.gangs := rfl
@[simp] theorem Pkg.modCtx_profk (p : Pkg) (x : CtxRef) (f : Ctx → Ctx) : (p.modCtx x f).profk = p.profk := rfl
@[simp] theorem Pkg.modCtx_profPend (p : Pkg) (x : CtxRef) (f : Ctx → Ctx) : (p.modCtx x f).profPend = p.profPend := rfl
@[simp] theorem Pkg.modCtx_profAt (p : Pkg) (x : CtxRef) (f : Ctx → Ctx) : (p.modCtx x f).profAt = p.profAt := rfl
@[simp] theorem Pkg.modCtx_prof (p : Pkg) (x : CtxRef) (f : Ctx → Ctx) : (p.modCtx x f).prof = p.prof := rfl
@[simp] theorem Pkg.modCtx_snaps (p : Pkg) (x : CtxRef) (f : Ctx → Ctx) : (p.modCtx x f).snaps = p.snaps := rfl
@[simp] theorem Pkg.modCtx_snapSeq (p : Pkg) (x : CtxRef) (f : Ctx → Ctx) : (p.modCtx x f).snapSeq = p.snapSeq := rfl
@[simp] theorem Pkg.modCtx_stops (p : Pkg) (x : CtxRef) (f : Ctx → Ctx) : (p.modCtx x f).stops = p.stops := rfl
@[simp] theorem Pkg.modCtx_stopSeq (p : Pkg) (x : CtxRef) (f : Ctx → Ctx) : (p.modCtx x f).stopSeq = p.stopSeq := rfl
@[simp] theorem Pkg.modCtx_exclQ (p : Pkg) (x : CtxRef) (f : Ctx → Ctx) : (p.modCtx x f).exclQ = p.exclQ := rfl
@[simp] theorem Pkg.modCtx_fw (p : Pkg) (x : CtxRef) (f : Ctx → Ctx) : (p.modCtx x f).fw = p.fw := rfl
@[simp] theorem Pkg.modCtx_power (p : Pkg) (x : CtxRef) (f : Ctx → Ctx) : (p.modCtx x f).power = p.power := rfl
@[simp] theorem Pkg.modCtx_hot (p : Pkg) (x : CtxRef) (f : Ctx → Ctx) : (p.modCtx x f).hot = p.hot := rfl
@[simp] theorem Pkg.modCtx_resetting (p : Pkg) (x : CtxRef) (f : Ctx → Ctx) : (p.modCtx x f).resetting = p.resetting := rfl
@[simp] theorem Pkg.modCtx_corrected (p : Pkg) (x : CtxRef) (f : Ctx → Ctx) : (p.modCtx x f).corrected = p.corrected := rfl
@[simp] theorem Pkg.modCtx_failed (p : Pkg) (x : CtxRef) (f : Ctx → Ctx) : (p.modCtx x f).failed = p.failed := rfl
@[simp] theorem Pkg.modCtx_epochs (p : Pkg) (x : CtxRef) (f : Ctx → Ctx) : (p.modCtx x f).epochs = p.epochs := rfl
@[simp] theorem Pkg.modCtx_lanes (p : Pkg) (x : CtxRef) (f : Ctx → Ctx) : (p.modCtx x f).lanes = p.lanes := rfl
@[simp] theorem Pkg.modCtx_resets (p : Pkg) (x : CtxRef) (f : Ctx → Ctx) : (p.modCtx x f).resets = p.resets := rfl
@[simp] theorem Pkg.modCtx_keyDraw (p : Pkg) (x : CtxRef) (f : Ctx → Ctx) : (p.modCtx x f).keyDraw = p.keyDraw := rfl
@[simp] theorem Pkg.modCtx_unlk (p : Pkg) (x : CtxRef) (f : Ctx → Ctx) : (p.modCtx x f).unlk = p.unlk := rfl
@[simp] theorem Pkg.modCtx_mdbg (p : Pkg) (x : CtxRef) (f : Ctx → Ctx) : (p.modCtx x f).mdbg = p.mdbg := rfl
@[simp] theorem Pkg.modCtx_sealWiped (p : Pkg) (x : CtxRef) (f : Ctx → Ctx) : (p.modCtx x f).sealWiped = p.sealWiped := rfl
@[simp] theorem Pkg.modCtx_linkWiped (p : Pkg) (x : CtxRef) (f : Ctx → Ctx) : (p.modCtx x f).linkWiped = p.linkWiped := rfl
@[simp] theorem Pkg.modCtx_saved (p : Pkg) (x : CtxRef) (f : Ctx → Ctx) : (p.modCtx x f).saved = p.saved := rfl
@[simp] theorem Pkg.modCtx_hotness (p : Pkg) (x : CtxRef) (f : Ctx → Ctx) : (p.modCtx x f).hotness = p.hotness := rfl
@[simp] theorem Pkg.modCtx_req (p : Pkg) (x : CtxRef) (f : Ctx → Ctx) : (p.modCtx x f).req = p.req := rfl
@[simp] theorem Pkg.modCtx_out (p : Pkg) (x : CtxRef) (f : Ctx → Ctx) : (p.modCtx x f).out = p.out := rfl
@[simp] theorem Pkg.modCtx_past (p : Pkg) (x : CtxRef) (f : Ctx → Ctx) : (p.modCtx x f).past = p.past := rfl
@[simp] theorem Pkg.modCtx_modHeld (p : Pkg) (x : CtxRef) (f : Ctx → Ctx) : (p.modCtx x f).modHeld = p.modHeld := rfl
@[simp] theorem Pkg.modCtx_entries (p : Pkg) (x : CtxRef) (f : Ctx → Ctx) : (p.modCtx x f).entries = p.entries := rfl
@[simp] theorem Pkg.modCtx_drains (p : Pkg) (x : CtxRef) (f : Ctx → Ctx) : (p.modCtx x f).drains = p.drains := rfl
@[simp] theorem Pkg.modCtx_inbound (p : Pkg) (x : CtxRef) (f : Ctx → Ctx) : (p.modCtx x f).inbound = p.inbound := rfl
@[simp] theorem Pkg.modCtx_openLogs (p : Pkg) (x : CtxRef) (f : Ctx → Ctx) : (p.modCtx x f).openLogs = p.openLogs := rfl

@[simp] theorem Pkg.seal_pt (p : Pkg) : p.seal.pt = p.pt := rfl
@[simp] theorem Pkg.seal_poison (p : Pkg) : p.seal.poison = p.poison := rfl
@[simp] theorem Pkg.seal_vpoison (p : Pkg) : p.seal.vpoison = p.vpoison := rfl
@[simp] theorem Pkg.seal_cur (p : Pkg) : p.seal.cur = p.cur := rfl
@[simp] theorem Pkg.seal_agenda (p : Pkg) : p.seal.agenda = p.agenda := rfl
@[simp] theorem Pkg.seal_spaces (p : Pkg) : p.seal.spaces = p.spaces := rfl
@[simp] theorem Pkg.seal_cores (p : Pkg) : p.seal.cores = p.cores := rfl
@[simp] theorem Pkg.seal_l2 (p : Pkg) : p.seal.l2 = p.l2 := rfl
@[simp] theorem Pkg.seal_l2miss (p : Pkg) : p.seal.l2miss = p.l2miss := rfl
@[simp] theorem Pkg.seal_missed (p : Pkg) : p.seal.missed = p.missed := rfl
@[simp] theorem Pkg.seal_panApps (p : Pkg) : p.seal.panApps = p.panApps := rfl
@[simp] theorem Pkg.seal_transl (p : Pkg) : p.seal.transl = p.transl := rfl
@[simp] theorem Pkg.seal_leaves (p : Pkg) : p.seal.leaves = p.leaves := rfl
@[simp] theorem Pkg.seal_regions (p : Pkg) : p.seal.regions = p.regions := rfl
@[simp] theorem Pkg.seal_migs (p : Pkg) : p.seal.migs = p.migs := rfl
@[simp] theorem Pkg.seal_fmtw (p : Pkg) : p.seal.fmtw = p.fmtw := rfl
@[simp] theorem Pkg.seal_scale (p : Pkg) : p.seal.scale = p.scale := rfl
@[simp] theorem Pkg.seal_recs (p : Pkg) : p.seal.recs = p.recs := rfl
@[simp] theorem Pkg.seal_brine (p : Pkg) : p.seal.brine = p.brine := rfl
@[simp] theorem Pkg.seal_ops (p : Pkg) : p.seal.ops = p.ops := rfl
@[simp] theorem Pkg.seal_nextOp (p : Pkg) : p.seal.nextOp = p.nextOp := rfl
@[simp] theorem Pkg.seal_flights (p : Pkg) : p.seal.flights = p.flights := rfl
@[simp] theorem Pkg.seal_bars (p : Pkg) : p.seal.bars = p.bars := rfl
@[simp] theorem Pkg.seal_queues (p : Pkg) : p.seal.queues = p.queues := rfl
@[simp] theorem Pkg.seal_vis (p : Pkg) : p.seal.vis = p.vis := rfl
@[simp] theorem Pkg.seal_qslots (p : Pkg) : p.seal.qslots = p.qslots := rfl
@[simp] theorem Pkg.seal_arbPos (p : Pkg) : p.seal.arbPos = p.arbPos := rfl
@[simp] theorem Pkg.seal_slotPos (p : Pkg) : p.seal.slotPos = p.slotPos := rfl
@[simp] theorem Pkg.seal_gangs (p : Pkg) : p.seal.gangs = p.gangs := rfl
@[simp] theorem Pkg.seal_profk (p : Pkg) : p.seal.profk = p.profk := rfl
@[simp] theorem Pkg.seal_profPend (p : Pkg) : p.seal.profPend = p.profPend := rfl
@[simp] theorem Pkg.seal_profAt (p : Pkg) : p.seal.profAt = p.profAt := rfl
@[simp] theorem Pkg.seal_prof (p : Pkg) : p.seal.prof = p.prof := rfl
@[simp] theorem Pkg.seal_snaps (p : Pkg) : p.seal.snaps = p.snaps := rfl
@[simp] theorem Pkg.seal_snapSeq (p : Pkg) : p.seal.snapSeq = p.snapSeq := rfl
@[simp] theorem Pkg.seal_stops (p : Pkg) : p.seal.stops = p.stops := rfl
@[simp] theorem Pkg.seal_stopSeq (p : Pkg) : p.seal.stopSeq = p.stopSeq := rfl
@[simp] theorem Pkg.seal_exclQ (p : Pkg) : p.seal.exclQ = p.exclQ := rfl
@[simp] theorem Pkg.seal_fw (p : Pkg) : p.seal.fw = p.fw := rfl
@[simp] theorem Pkg.seal_power (p : Pkg) : p.seal.power = p.power := rfl
@[simp] theorem Pkg.seal_hot (p : Pkg) : p.seal.hot = p.hot := rfl
@[simp] theorem Pkg.seal_resetting (p : Pkg) : p.seal.resetting = p.resetting := rfl
@[simp] theorem Pkg.seal_corrected (p : Pkg) : p.seal.corrected = p.corrected := rfl
@[simp] theorem Pkg.seal_failed (p : Pkg) : p.seal.failed = p.failed := rfl
@[simp] theorem Pkg.seal_epochs (p : Pkg) : p.seal.epochs = p.epochs := rfl
@[simp] theorem Pkg.seal_lanes (p : Pkg) : p.seal.lanes = p.lanes := rfl
@[simp] theorem Pkg.seal_resets (p : Pkg) : p.seal.resets = p.resets := rfl
@[simp] theorem Pkg.seal_keyDraw (p : Pkg) : p.seal.keyDraw = p.keyDraw := rfl
@[simp] theorem Pkg.seal_unlk (p : Pkg) : p.seal.unlk = p.unlk := rfl
@[simp] theorem Pkg.seal_mdbg (p : Pkg) : p.seal.mdbg = p.mdbg := rfl
@[simp] theorem Pkg.seal_sealWiped (p : Pkg) : p.seal.sealWiped = p.sealWiped := rfl
@[simp] theorem Pkg.seal_linkWiped (p : Pkg) : p.seal.linkWiped = p.linkWiped := rfl
@[simp] theorem Pkg.seal_saved (p : Pkg) : p.seal.saved = p.saved := rfl
@[simp] theorem Pkg.seal_hotness (p : Pkg) : p.seal.hotness = p.hotness := rfl
@[simp] theorem Pkg.seal_out (p : Pkg) : p.seal.out = p.out := rfl
@[simp] theorem Pkg.seal_past (p : Pkg) : p.seal.past = p.past := rfl
@[simp] theorem Pkg.seal_modHeld (p : Pkg) : p.seal.modHeld = p.modHeld := rfl
@[simp] theorem Pkg.seal_entries (p : Pkg) : p.seal.entries = p.entries := rfl
@[simp] theorem Pkg.seal_drains (p : Pkg) : p.seal.drains = p.drains := rfl
@[simp] theorem Pkg.seal_inbound (p : Pkg) : p.seal.inbound = p.inbound := rfl
@[simp] theorem Pkg.seal_openLogs (p : Pkg) : p.seal.openLogs = p.openLogs := rfl
@[simp] theorem Pkg.seal_mem (p : Pkg) : p.seal.mem = applyLog p.log p.mem := rfl
@[simp] theorem Pkg.seal_log (p : Pkg) : p.seal.log = [] := rfl
@[simp] theorem Pkg.seal_free (p : Pkg) : p.seal.free = p.free + 1 := rfl
@[simp] theorem Pkg.seal_req (p : Pkg) : p.seal.req = none := rfl
@[simp] theorem Pkg.seal_core (p : Pkg) (c : Nat) : p.seal.core c = p.core c := rfl
@[simp] theorem Pkg.seal_ctx (p : Pkg) (x : CtxRef) : p.seal.ctx x = p.ctx x := rfl

@[simp] theorem Core.setCtx_task (k : Core) (n : Nat) (x : Ctx) : (k.setCtx n x).task = k.task := rfl
@[simp] theorem Core.setCtx_inbox (k : Core) (n : Nat) (x : Ctx) : (k.setCtx n x).inbox = k.inbox := rfl
@[simp] theorem Core.setCtx_l1 (k : Core) (n : Nat) (x : Ctx) : (k.setCtx n x).l1 = k.l1 := rfl
@[simp] theorem Core.setCtx_invs (k : Core) (n : Nat) (x : Ctx) : (k.setCtx n x).invs = k.invs := rfl
@[simp] theorem Core.setCtx_icache (k : Core) (n : Nat) (x : Ctx) : (k.setCtx n x).icache = k.icache := rfl
@[simp] theorem Core.setCtx_ls (k : Core) (n : Nat) (x : Ctx) : (k.setCtx n x).ls = k.ls := rfl
@[simp] theorem Core.setCtx_lsSide (k : Core) (n : Nat) (x : Ctx) : (k.setCtx n x).lsSide = k.lsSide := rfl
@[simp] theorem Core.setCtx_lsPoison (k : Core) (n : Nat) (x : Ctx) : (k.setCtx n x).lsPoison = k.lsPoison := rfl
@[simp] theorem Core.setCtx_extSize (k : Core) (n : Nat) (x : Ctx) : (k.setCtx n x).extSize = k.extSize := rfl
@[simp] theorem Core.setCtx_extSpace (k : Core) (n : Nat) (x : Ctx) : (k.setCtx n x).extSpace = k.extSpace := rfl
@[simp] theorem Core.setCtx_lsw (k : Core) (n : Nat) (x : Ctx) : (k.setCtx n x).lsw = k.lsw := rfl
@[simp] theorem Core.setCtx_tiles (k : Core) (n : Nat) (x : Ctx) : (k.setCtx n x).tiles = k.tiles := rfl
@[simp] theorem Core.setCtx_accs (k : Core) (n : Nat) (x : Ctx) : (k.setCtx n x).accs = k.accs := rfl
@[simp] theorem Core.setCtx_bslots (k : Core) (n : Nat) (x : Ctx) : (k.setCtx n x).bslots = k.bslots := rfl
@[simp] theorem Core.setCtx_caps (k : Core) (n : Nat) (x : Ctx) : (k.setCtx n x).caps = k.caps := rfl
@[simp] theorem Core.setCtx_capDraw (k : Core) (n : Nat) (x : Ctx) : (k.setCtx n x).capDraw = k.capDraw := rfl
@[simp] theorem Core.setCtx_vq (k : Core) (n : Nat) (x : Ctx) : (k.setCtx n x).vq = k.vq := rfl
@[simp] theorem Core.setCtx_mq (k : Core) (n : Nat) (x : Ctx) : (k.setCtx n x).mq = k.mq := rfl
@[simp] theorem Core.setCtx_dropped (k : Core) (n : Nat) (x : Ctx) : (k.setCtx n x).dropped = k.dropped := rfl
@[simp] theorem Core.setCtx_squashes (k : Core) (n : Nat) (x : Ctx) : (k.setCtx n x).squashes = k.squashes := rfl
@[simp] theorem Core.setCtx_sqPeriod (k : Core) (n : Nat) (x : Ctx) : (k.setCtx n x).sqPeriod = k.sqPeriod := rfl
@[simp] theorem Core.setCtx_preempt (k : Core) (n : Nat) (x : Ctx) : (k.setCtx n x).preempt = k.preempt := rfl
@[simp] theorem Core.setCtx_lastGen (k : Core) (n : Nat) (x : Ctx) : (k.setCtx n x).lastGen = k.lastGen := rfl
@[simp] theorem Core.setCtx_liveAt (k : Core) (n : Nat) (x : Ctx) : (k.setCtx n x).liveAt = k.liveAt := rfl

@[simp] theorem Regs.setSn_p (r : Regs) (n : Nat) (v : Word) : (r.setSn n v).p = r.p := rfl
@[simp] theorem Regs.setSn_lb (r : Regs) (n : Nat) (v : Word) : (r.setSn n v).lb = r.lb := rfl
@[simp] theorem Regs.setSn_le (r : Regs) (n : Nat) (v : Word) : (r.setSn n v).le = r.le := rfl
@[simp] theorem Regs.setSn_lc (r : Regs) (n : Nat) (v : Word) : (r.setSn n v).lc = r.lc := rfl
@[simp] theorem Regs.setSn_pc (r : Regs) (n : Nat) (v : Word) : (r.setSn n v).pc = r.pc := rfl
@[simp] theorem Regs.setSn_part (r : Regs) (n : Nat) (v : Word) : (r.setSn n v).part = r.part := rfl
@[simp] theorem Regs.setSn_pend (r : Regs) (n : Nat) (v : Word) : (r.setSn n v).pend = r.pend := rfl
@[simp] theorem Regs.setSn_v (r : Regs) (n : Nat) (v : Word) : (r.setSn n v).v = r.v := rfl
@[simp] theorem Regs.setSn_seed (r : Regs) (n : Nat) (v : Word) : (r.setSn n v).seed = r.seed := rfl
@[simp] theorem Regs.setSn_ftz (r : Regs) (n : Nat) (v : Word) : (r.setSn n v).ftz = r.ftz := rfl
@[simp] theorem Regs.setSn_chunklen (r : Regs) (n : Nat) (v : Word) : (r.setSn n v).chunklen = r.chunklen := rfl
@[simp] theorem Regs.setSn_trapvec (r : Regs) (n : Nat) (v : Word) : (r.setSn n v).trapvec = r.trapvec := rfl
@[simp] theorem Regs.setSn_trapcause (r : Regs) (n : Nat) (v : Word) : (r.setSn n v).trapcause = r.trapcause := rfl
@[simp] theorem Regs.setSn_trappc (r : Regs) (n : Nat) (v : Word) : (r.setSn n v).trappc = r.trappc := rfl
@[simp] theorem Regs.setSn_trapaddr (r : Regs) (n : Nat) (v : Word) : (r.setSn n v).trapaddr = r.trapaddr := rfl
@[simp] theorem Regs.setSn_trapinfo (r : Regs) (n : Nat) (v : Word) : (r.setSn n v).trapinfo = r.trapinfo := rfl
@[simp] theorem Regs.setSn_retired (r : Regs) (n : Nat) (v : Word) : (r.setSn n v).retired = r.retired := rfl
@[simp] theorem Regs.setS_p (r : Regs) (d : SReg) (v : Word) : (r.setS d v).p = r.p := rfl
@[simp] theorem Regs.setS_lb (r : Regs) (d : SReg) (v : Word) : (r.setS d v).lb = r.lb := rfl
@[simp] theorem Regs.setS_le (r : Regs) (d : SReg) (v : Word) : (r.setS d v).le = r.le := rfl
@[simp] theorem Regs.setS_lc (r : Regs) (d : SReg) (v : Word) : (r.setS d v).lc = r.lc := rfl
@[simp] theorem Regs.setS_pc (r : Regs) (d : SReg) (v : Word) : (r.setS d v).pc = r.pc := rfl
@[simp] theorem Regs.setS_part (r : Regs) (d : SReg) (v : Word) : (r.setS d v).part = r.part := rfl
@[simp] theorem Regs.setS_pend (r : Regs) (d : SReg) (v : Word) : (r.setS d v).pend = r.pend := rfl
@[simp] theorem Regs.setS_v (r : Regs) (d : SReg) (v : Word) : (r.setS d v).v = r.v := rfl
@[simp] theorem Regs.setS_seed (r : Regs) (d : SReg) (v : Word) : (r.setS d v).seed = r.seed := rfl
@[simp] theorem Regs.setS_ftz (r : Regs) (d : SReg) (v : Word) : (r.setS d v).ftz = r.ftz := rfl
@[simp] theorem Regs.setS_chunklen (r : Regs) (d : SReg) (v : Word) : (r.setS d v).chunklen = r.chunklen := rfl
@[simp] theorem Regs.setS_trapvec (r : Regs) (d : SReg) (v : Word) : (r.setS d v).trapvec = r.trapvec := rfl
@[simp] theorem Regs.setS_trapcause (r : Regs) (d : SReg) (v : Word) : (r.setS d v).trapcause = r.trapcause := rfl
@[simp] theorem Regs.setS_trappc (r : Regs) (d : SReg) (v : Word) : (r.setS d v).trappc = r.trappc := rfl
@[simp] theorem Regs.setS_trapaddr (r : Regs) (d : SReg) (v : Word) : (r.setS d v).trapaddr = r.trapaddr := rfl
@[simp] theorem Regs.setS_trapinfo (r : Regs) (d : SReg) (v : Word) : (r.setS d v).trapinfo = r.trapinfo := rfl
@[simp] theorem Regs.setS_retired (r : Regs) (d : SReg) (v : Word) : (r.setS d v).retired = r.retired := rfl
@[simp] theorem Regs.setLane_s (r : Regs) (v j : Nat) (x : BitVec 32) : (r.setLane v j x).s = r.s := rfl
@[simp] theorem Regs.setLane_p (r : Regs) (v j : Nat) (x : BitVec 32) : (r.setLane v j x).p = r.p := rfl
@[simp] theorem Regs.setLane_lb (r : Regs) (v j : Nat) (x : BitVec 32) : (r.setLane v j x).lb = r.lb := rfl
@[simp] theorem Regs.setLane_le (r : Regs) (v j : Nat) (x : BitVec 32) : (r.setLane v j x).le = r.le := rfl
@[simp] theorem Regs.setLane_lc (r : Regs) (v j : Nat) (x : BitVec 32) : (r.setLane v j x).lc = r.lc := rfl
@[simp] theorem Regs.setLane_pc (r : Regs) (v j : Nat) (x : BitVec 32) : (r.setLane v j x).pc = r.pc := rfl
@[simp] theorem Regs.setLane_part (r : Regs) (v j : Nat) (x : BitVec 32) : (r.setLane v j x).part = r.part := rfl
@[simp] theorem Regs.setLane_pend (r : Regs) (v j : Nat) (x : BitVec 32) : (r.setLane v j x).pend = r.pend := rfl
@[simp] theorem Regs.setLane_seed (r : Regs) (v j : Nat) (x : BitVec 32) : (r.setLane v j x).seed = r.seed := rfl
@[simp] theorem Regs.setLane_ftz (r : Regs) (v j : Nat) (x : BitVec 32) : (r.setLane v j x).ftz = r.ftz := rfl
@[simp] theorem Regs.setLane_chunklen (r : Regs) (v j : Nat) (x : BitVec 32) : (r.setLane v j x).chunklen = r.chunklen := rfl
@[simp] theorem Regs.setLane_trapvec (r : Regs) (v j : Nat) (x : BitVec 32) : (r.setLane v j x).trapvec = r.trapvec := rfl
@[simp] theorem Regs.setLane_trapcause (r : Regs) (v j : Nat) (x : BitVec 32) : (r.setLane v j x).trapcause = r.trapcause := rfl
@[simp] theorem Regs.setLane_trappc (r : Regs) (v j : Nat) (x : BitVec 32) : (r.setLane v j x).trappc = r.trappc := rfl
@[simp] theorem Regs.setLane_trapaddr (r : Regs) (v j : Nat) (x : BitVec 32) : (r.setLane v j x).trapaddr = r.trapaddr := rfl
@[simp] theorem Regs.setLane_trapinfo (r : Regs) (v j : Nat) (x : BitVec 32) : (r.setLane v j x).trapinfo = r.trapinfo := rfl
@[simp] theorem Regs.setLane_retired (r : Regs) (v j : Nat) (x : BitVec 32) : (r.setLane v j x).retired = r.retired := rfl
@[simp] theorem Regs.setLoop_s (r : Regs) (v : Nat) (b e c : Word) : (r.setLoop v b e c).s = r.s := rfl
@[simp] theorem Regs.setLoop_p (r : Regs) (v : Nat) (b e c : Word) : (r.setLoop v b e c).p = r.p := rfl
@[simp] theorem Regs.setLoop_pc (r : Regs) (v : Nat) (b e c : Word) : (r.setLoop v b e c).pc = r.pc := rfl
@[simp] theorem Regs.setLoop_part (r : Regs) (v : Nat) (b e c : Word) : (r.setLoop v b e c).part = r.part := rfl
@[simp] theorem Regs.setLoop_pend (r : Regs) (v : Nat) (b e c : Word) : (r.setLoop v b e c).pend = r.pend := rfl
@[simp] theorem Regs.setLoop_v (r : Regs) (v : Nat) (b e c : Word) : (r.setLoop v b e c).v = r.v := rfl
@[simp] theorem Regs.setLoop_seed (r : Regs) (v : Nat) (b e c : Word) : (r.setLoop v b e c).seed = r.seed := rfl
@[simp] theorem Regs.setLoop_ftz (r : Regs) (v : Nat) (b e c : Word) : (r.setLoop v b e c).ftz = r.ftz := rfl
@[simp] theorem Regs.setLoop_chunklen (r : Regs) (v : Nat) (b e c : Word) : (r.setLoop v b e c).chunklen = r.chunklen := rfl
@[simp] theorem Regs.setLoop_trapvec (r : Regs) (v : Nat) (b e c : Word) : (r.setLoop v b e c).trapvec = r.trapvec := rfl
@[simp] theorem Regs.setLoop_trapcause (r : Regs) (v : Nat) (b e c : Word) : (r.setLoop v b e c).trapcause = r.trapcause := rfl
@[simp] theorem Regs.setLoop_trappc (r : Regs) (v : Nat) (b e c : Word) : (r.setLoop v b e c).trappc = r.trappc := rfl
@[simp] theorem Regs.setLoop_trapaddr (r : Regs) (v : Nat) (b e c : Word) : (r.setLoop v b e c).trapaddr = r.trapaddr := rfl
@[simp] theorem Regs.setLoop_trapinfo (r : Regs) (v : Nat) (b e c : Word) : (r.setLoop v b e c).trapinfo = r.trapinfo := rfl
@[simp] theorem Regs.setLoop_retired (r : Regs) (v : Nat) (b e c : Word) : (r.setLoop v b e c).retired = r.retired := rfl
@[simp] theorem Regs.setLc_s (r : Regs) (v : Nat) (c : Word) : (r.setLc v c).s = r.s := rfl
@[simp] theorem Regs.setLc_p (r : Regs) (v : Nat) (c : Word) : (r.setLc v c).p = r.p := rfl
@[simp] theorem Regs.setLc_lb (r : Regs) (v : Nat) (c : Word) : (r.setLc v c).lb = r.lb := rfl
@[simp] theorem Regs.setLc_le (r : Regs) (v : Nat) (c : Word) : (r.setLc v c).le = r.le := rfl
@[simp] theorem Regs.setLc_pc (r : Regs) (v : Nat) (c : Word) : (r.setLc v c).pc = r.pc := rfl
@[simp] theorem Regs.setLc_part (r : Regs) (v : Nat) (c : Word) : (r.setLc v c).part = r.part := rfl
@[simp] theorem Regs.setLc_pend (r : Regs) (v : Nat) (c : Word) : (r.setLc v c).pend = r.pend := rfl
@[simp] theorem Regs.setLc_v (r : Regs) (v : Nat) (c : Word) : (r.setLc v c).v = r.v := rfl
@[simp] theorem Regs.setLc_seed (r : Regs) (v : Nat) (c : Word) : (r.setLc v c).seed = r.seed := rfl
@[simp] theorem Regs.setLc_ftz (r : Regs) (v : Nat) (c : Word) : (r.setLc v c).ftz = r.ftz := rfl
@[simp] theorem Regs.setLc_chunklen (r : Regs) (v : Nat) (c : Word) : (r.setLc v c).chunklen = r.chunklen := rfl
@[simp] theorem Regs.setLc_trapvec (r : Regs) (v : Nat) (c : Word) : (r.setLc v c).trapvec = r.trapvec := rfl
@[simp] theorem Regs.setLc_trapcause (r : Regs) (v : Nat) (c : Word) : (r.setLc v c).trapcause = r.trapcause := rfl
@[simp] theorem Regs.setLc_trappc (r : Regs) (v : Nat) (c : Word) : (r.setLc v c).trappc = r.trappc := rfl
@[simp] theorem Regs.setLc_trapaddr (r : Regs) (v : Nat) (c : Word) : (r.setLc v c).trapaddr = r.trapaddr := rfl
@[simp] theorem Regs.setLc_trapinfo (r : Regs) (v : Nat) (c : Word) : (r.setLc v c).trapinfo = r.trapinfo := rfl
@[simp] theorem Regs.setLc_retired (r : Regs) (v : Nat) (c : Word) : (r.setLc v c).retired = r.retired := rfl
@[simp] theorem Regs.setP_s (r : Regs) (d : PReg) (b : Bool) : (r.setP d b).s = r.s := by unfold Regs.setP; split <;> rfl
@[simp] theorem Regs.setP_lb (r : Regs) (d : PReg) (b : Bool) : (r.setP d b).lb = r.lb := by unfold Regs.setP; split <;> rfl
@[simp] theorem Regs.setP_le (r : Regs) (d : PReg) (b : Bool) : (r.setP d b).le = r.le := by unfold Regs.setP; split <;> rfl
@[simp] theorem Regs.setP_lc (r : Regs) (d : PReg) (b : Bool) : (r.setP d b).lc = r.lc := by unfold Regs.setP; split <;> rfl
@[simp] theorem Regs.setP_pc (r : Regs) (d : PReg) (b : Bool) : (r.setP d b).pc = r.pc := by unfold Regs.setP; split <;> rfl
@[simp] theorem Regs.setP_part (r : Regs) (d : PReg) (b : Bool) : (r.setP d b).part = r.part := by unfold Regs.setP; split <;> rfl
@[simp] theorem Regs.setP_pend (r : Regs) (d : PReg) (b : Bool) : (r.setP d b).pend = r.pend := by unfold Regs.setP; split <;> rfl
@[simp] theorem Regs.setP_v (r : Regs) (d : PReg) (b : Bool) : (r.setP d b).v = r.v := by unfold Regs.setP; split <;> rfl
@[simp] theorem Regs.setP_seed (r : Regs) (d : PReg) (b : Bool) : (r.setP d b).seed = r.seed := by unfold Regs.setP; split <;> rfl
@[simp] theorem Regs.setP_ftz (r : Regs) (d : PReg) (b : Bool) : (r.setP d b).ftz = r.ftz := by unfold Regs.setP; split <;> rfl
@[simp] theorem Regs.setP_chunklen (r : Regs) (d : PReg) (b : Bool) : (r.setP d b).chunklen = r.chunklen := by unfold Regs.setP; split <;> rfl
@[simp] theorem Regs.setP_trapvec (r : Regs) (d : PReg) (b : Bool) : (r.setP d b).trapvec = r.trapvec := by unfold Regs.setP; split <;> rfl
@[simp] theorem Regs.setP_trapcause (r : Regs) (d : PReg) (b : Bool) : (r.setP d b).trapcause = r.trapcause := by unfold Regs.setP; split <;> rfl
@[simp] theorem Regs.setP_trappc (r : Regs) (d : PReg) (b : Bool) : (r.setP d b).trappc = r.trappc := by unfold Regs.setP; split <;> rfl
@[simp] theorem Regs.setP_trapaddr (r : Regs) (d : PReg) (b : Bool) : (r.setP d b).trapaddr = r.trapaddr := by unfold Regs.setP; split <;> rfl
@[simp] theorem Regs.setP_trapinfo (r : Regs) (d : PReg) (b : Bool) : (r.setP d b).trapinfo = r.trapinfo := by unfold Regs.setP; split <;> rfl
@[simp] theorem Regs.setP_retired (r : Regs) (d : PReg) (b : Bool) : (r.setP d b).retired = r.retired := by unfold Regs.setP; split <;> rfl

theorem Regs.sn_setSn (r : Regs) (n m : Nat) (v : Word) : (r.setSn n v).sn m = if m = n then v else r.sn m := by
  simp only [Regs.sn, Regs.setSn, Tab.get_set, eq_comm]
theorem Regs.sr_setS (r : Regs) (d a : SReg) (v : Word) : (r.setS d v).sr a = if a = d then v else r.sr a := by
  unfold Regs.sr Regs.setS Regs.setSn
  rw [Tab.get_set]
  by_cases h : a = d
  · simp [h]
  · rw [if_neg h, if_neg fun h' => h (BitVec.eq_of_toNat_eq h'.symm)]
theorem Regs.lane_setLane (r : Regs) (v j w k : Nat) (x : BitVec 32) :
    (r.setLane v j x).lane w k = if 64 * w + k = 64 * v + j then x else r.lane w k := by
  simp only [Regs.lane, Regs.setLane, Tab.get_set, eq_comm]

end Sys2Proof.Machine
end

