-- ==== Sys2Proof/Laws/Ops.lean ====
section
/-! SUPPORT. What the shared operations do, once: a step's end, the checks of issue, an instruction that completes. -/

namespace Sys2Proof.Machine

/-! ### The monad of an instruction's body -/

@[simp] theorem M.run_pure {α : Type} (a : α) (p : Pkg) : (pure a : M α).run p = .ok (a, p) := rfl
@[simp] theorem M.run_bind {α β : Type} (m : M α) (f : α → M β) (p : Pkg) :
    (m >>= f).run p = match m.run p with
      | .ok (a, q) => (f a).run q
      | .error e => .error e := by
  simp only [StateT.run_bind]
  cases m.run p <;> rfl
@[simp] theorem M.run_get (p : Pkg) : (get : M Pkg).run p = .ok (p, p) := rfl
@[simp] theorem M.run_set (p q : Pkg) : (set q : M PUnit).run p = .ok ((), q) := rfl
@[simp] theorem M.run_modify (f : Pkg → Pkg) (p : Pkg) : (modify f : M PUnit).run p = .ok ((), f p) := rfl
@[simp] theorem M.run_throw {α : Type} (e : Stop_) (p : Pkg) : (throw e : M α).run p = .error e := rfl

/-! ### Issue -/

theorem State.issue_eq (s : State) (i : Ins) : s.issue i = .next { s with pkg := (s.pkg.issue i).seal } := rfl

/-- What the sources' check does: a token of the open chunk cuts it, another one waits on the scoreboard (R55, R204). -/
theorem M.sources_run (p : Pkg) (x : CtxRef) (srcs : List Nat) :
    (M.sources x srcs).run p =
      if srcs.any (p.ctx x).pendsHere then .error .cut
      else if srcs.any fun r => (Tab.find? (p.ctx x).regs.pend r).isSome then .error (.wait .scoreboard)
      else .ok ((), p) := by
  simp only [M.sources, M.ctx, M.run_bind, M.run_get, M.run_pure]
  split
  · rfl
  · split <;> rfl

/-- Sources that no token is pending in are no obstacle. -/
theorem M.sources_ok {p : Pkg} {x : CtxRef} {srcs : List Nat} (h : ∀ r ∈ srcs, (Tab.find? (p.ctx x).regs.pend r).isNone = true) :
    (M.sources x srcs).run p = .ok ((), p) := by
  have h1 : (srcs.any fun r => (Tab.find? (p.ctx x).regs.pend r).isSome) = false := by
    simp only [List.any_eq_false]
    intro r hr
    simpa using h r hr
  have h0 : srcs.any (p.ctx x).pendsHere = false := by
    simp only [List.any_eq_false]
    intro r hr
    have := h r hr
    simp only [Option.isNone_iff_eq_none] at this
    simp [Ctx.pendsHere, this]
  simp only [M.sources_run, h0, h1, Bool.false_eq_true, ↓reduceIte]

/-- What `Pkg.ready` says, part by part. -/
theorem Pkg.ready_iff {p : Pkg} {g : Guard} {srcs dsts vsrcs vdsts : List Nat} {e : Option Engine} :
    p.ready g srcs dsts vsrcs vdsts e = true ↔
      (p.ctx p.cur).mayIssue = true ∧ guardHolds g (p.ctx p.cur).regs = true ∧
        (∀ r ∈ srcs ++ dsts, (Tab.find? (p.ctx p.cur).regs.pend r).isNone = true) ∧ (∀ v ∈ vsrcs ++ vdsts, v < p.allotment p.cur.core) ∧
        (p.core p.cur.core).owes p.cur.slot srcs vsrcs = false ∧ (∀ m, e = some m → (p.core p.cur.core).commands m < 2) ∧
        p.overreaches p.cur = false ∧
        ((p.ctx p.cur).ch.count = 0 ∨
          overThreshold (p.ctx p.cur).ch.rlines = false ∧ overThreshold (p.ctx p.cur).ch.wlines = false) := by
  cases e <;> simp [Pkg.ready, or_imp, forall_and, and_assoc]

theorem Pkg.ready_issues {p : Pkg} {g : Guard} {srcs dsts vsrcs vdsts : List Nat} {e : Option Engine}
    (h : p.ready g srcs dsts vsrcs vdsts e = true) : (p.ctx p.cur).mayIssue = true ∧ guardHolds g (p.ctx p.cur).regs = true :=
  (Pkg.ready_iff.mp h).imp_right And.left

/-- The checks of issue pass where `Pkg.ready` says so. -/
theorem M.checks_ok {p : Pkg} {i : Ins} (h : p.ready i.guard i.srcs i.dsts i.vsrcs i.vdsts i.engine = true) (hp : i.priv p = true) :
    (M.checks p.cur i).run p = .ok ((), p) := by
  have h := Pkg.ready_iff.mp h
  have ha : ((i.vsrcs ++ i.vdsts).any fun v => decide (p.allotment p.cur.core ≤ v)) = false := by
    simpa [or_imp, forall_and] using h.2.2.2.1
  have hs := M.sources_ok (p := p) (x := p.cur) (srcs := i.srcs) fun r hr => h.2.2.1 r (List.mem_append_left _ hr)
  have hd : (i.dsts.any fun r => (Tab.find? (p.ctx p.cur).regs.pend r).isSome) = false := by
    simpa using fun r hr => h.2.2.1 r (List.mem_append_right _ hr)
  simp only [M.checks, M.run_bind, M.run_get, ha, hs, h.2.2.2.2.1, hp, hd, Bool.false_eq_true, Bool.not_true, ↓reduceIte]
  cases he : i.engine with
  | none => rfl
  | some m =>
    simp only [ge_iff_le, Nat.not_le.mpr (h.2.2.2.2.2.1 m he), ↓reduceIte]
    rfl

/-- Issue of an instruction inside a chunk whose body completes. -/
theorem Pkg.issue_ok {p q : Pkg} {i : Ins} {fl : Flow} (h : p.ready i.guard i.srcs i.dsts i.vsrcs i.vdsts i.engine = true)
    (hp : i.priv p = true) (hc : i.cut = false) (hb : i.body.run p = .ok (fl, q)) {q' : Pkg}
    (he : (M.enqueue p.cur i).run q = .ok ((), q')) (h1 : q'.overreaches p.cur = false)
    (h2 : (p.ctx p.cur).ch.count = 0 ∨
      (overThreshold (q'.ctx p.cur).ch.rlines = false ∧ overThreshold (q'.ctx p.cur).ch.wlines = false)) :
    p.issue i = i.after (q'.finishIn p.cur fl) := by
  have hr : (i.run p.cur).run p = .ok (fl, q') := by
    simp only [Ins.run, M.run_bind, M.checks_ok h hp, hb, he, M.run_pure]
  have ht : ((p.ctx p.cur).ch.count != 0 && true &&
      (overThreshold (q'.ctx p.cur).ch.rlines || overThreshold (q'.ctx p.cur).ch.wlines)) = false := by
    rcases h2 with h2 | ⟨h2, h3⟩ <;> simp [*]
  obtain ⟨hm, hg⟩ := Pkg.ready_issues h
  simp only [Pkg.issue, hm, hc, hg, hr, h1, ht, Pkg.finish, Bool.false_eq_true, Bool.not_true, Bool.not_false, Bool.false_and,
    Bool.true_and, ↓reduceIte]

/-- A core holds a line where its L1 does, or where some context's uncommitted chunk has touched it. -/
theorem Core.holds_iff (k : Core) (key : Nat) : k.holds key = true ↔ (Tab.find? k.l1 key).isSome = true ∨ ∃ n, key ∈ (k.ctx n).lines := by
  simp only [Core.holds, Bool.or_eq_true, List.any_eq_true, List.contains_iff_mem]
  refine or_congr_right ⟨fun ⟨n, _, h⟩ => ⟨n, h⟩, fun ⟨n, h⟩ => ⟨n, ?_, h⟩⟩
  by_contra hn
  rw [Core.ctx, Tab.get_of_notMem hn] at h
  exact absurd h (by simp [Ctx.lines, Ctx.chunks, Ctx.reset, Chunk.lines, Chunk.new])

theorem Ctx.lines_congr {c d : Ctx} (hq : d.req = c.req) (hr : d.ch.rlines = c.ch.rlines) (hw : d.ch.wlines = c.ch.wlines) :
    d.lines = c.lines := by
  simp only [Ctx.lines, Ctx.chunks, hq, List.flatMap_cons, Chunk.lines, hr, hw]

/-- A change that leaves the spaces, the L1s and the lines of each context's chunks leaves every level. -/
theorem Pkg.levelOf_congr {p q : Pkg} (hs : q.spaces = p.spaces) (hl : ∀ c, (q.core c).l1 = (p.core c).l1)
    (hx : ∀ c n, ((q.core c).ctx n).lines = ((p.core c).ctx n).lines) (core : Nat) (rl wl : List Nat) :
    q.levelOf core rl wl = p.levelOf core rl wl := by
  have h1 : ∀ key, q.recorded key = p.recorded key := fun key => by
    unfold Pkg.recorded
    congr 1
    funext c
    rw [Bool.eq_iff_iff, Core.holds_iff, Core.holds_iff, hl]
    simp only [hx]
  have h2 : ∀ key, q.homeOf key = p.homeOf key := fun key => by simp only [Pkg.homeOf, Pkg.window?, Pkg.space?, hs]
  simp only [Pkg.levelOf, funext h1, funext h2]

/-- A change that leaves a context's reservation, its chunks' numbers and lines, and every level leaves whether its running chunk
overreaches its reservation. -/
theorem Pkg.overreaches_congr {p q : Pkg} {x : CtxRef} (he : (q.ctx x).excl = (p.ctx x).excl)
    (hn : (q.ctx x).exclNo = (p.ctx x).exclNo) (hq : (q.ctx x).req = (p.ctx x).req) (hc : (q.ctx x).chunkseq = (p.ctx x).chunkseq)
    (hr : (q.ctx x).ch.rlines = (p.ctx x).ch.rlines) (hw : (q.ctx x).ch.wlines = (p.ctx x).ch.wlines) (hs : q.spaces = p.spaces)
    (hl : ∀ c, (q.core c).l1 = (p.core c).l1) (hx : ∀ c n, ((q.core c).ctx n).lines = ((p.core c).ctx n).lines) :
    q.overreaches x = p.overreaches x := by
  have hv := Pkg.levelOf_congr hs hl hx
  simp only [Pkg.overreaches, Pkg.escalates, Ctx.seq, he, hn, hq, hc, hr, hw, hv]

/-- A change of a context that keeps its chunks' numbers and lines and its reservation keeps whether its running chunk
overreaches it. -/
theorem Pkg.overreaches_modCtx (p : Pkg) (x : CtxRef) (f : Ctx → Ctx) (he : (f (p.ctx x)).excl = (p.ctx x).excl)
    (hn : (f (p.ctx x)).exclNo = (p.ctx x).exclNo) (hq : (f (p.ctx x)).req = (p.ctx x).req)
    (hc : (f (p.ctx x)).chunkseq = (p.ctx x).chunkseq) (hr : (f (p.ctx x)).ch.rlines = (p.ctx x).ch.rlines)
    (hw : (f (p.ctx x)).ch.wlines = (p.ctx x).ch.wlines) : (p.modCtx x f).overreaches x = p.overreaches x := by
  refine Pkg.overreaches_congr (by simp [he]) (by simp [hn]) (by simp [hq]) (by simp [hc]) (by simp [hr]) (by simp [hw]) rfl (fun c => ?_) fun c n => ?_
  · by_cases hc : c = x.core
    · subst hc
      simp [Pkg.modCtx_eq]
    · rw [Pkg.modCtx_eq, Pkg.core_setCore_other _ hc]
  · by_cases hc : (⟨c, n⟩ : CtxRef) = x
    · subst hc
      exact (congrArg Ctx.lines (Pkg.ctx_modCtx_same p _ f)).trans (Ctx.lines_congr hq hr hw)
    · exact congrArg Ctx.lines (Pkg.ctx_modCtx_other p hc f)

/-- Issue of an instruction inside a chunk, no engine's: what its body makes of the package, retired. -/
theorem State.issue_body {s : State} {i : Ins} {q : Pkg} {fl : Flow}
    (h : s.pkg.ready i.guard i.srcs i.dsts i.vsrcs i.vdsts i.engine = true) (hp : i.priv s.pkg = true) (hc : i.cut = false)
    (ha : i.after = id) (hn : i.engine = none) (hb : i.body.run s.pkg = .ok (fl, q)) (hf : s.pkg.fits q = true) :
    s.issue i = .next (s.retiredOn q fl) := by
  simp only [Pkg.fits, Bool.and_eq_true, Bool.or_eq_true, Bool.not_eq_true', beq_iff_eq, Bool.or_eq_false_iff] at hf
  rw [State.issue_eq, Pkg.issue_ok h hp hc hb (q' := q) (by rw [M.enqueue, hn]; rfl) hf.1 hf.2, ha]
  rfl

/-- Issue of a cut instruction: what its body makes of the package, retired, and then what follows. -/
theorem State.issue_cut {s : State} {i : Ins} {q : Pkg} {fl : Flow}
    (h : s.pkg.readyCut i.guard i.srcs i.dsts i.vsrcs i.vdsts = true) (hp : i.priv s.pkg = true) (hc : i.cut = true)
    (hn : i.engine = none) (hb : i.body.run s.pkg = .ok (fl, q)) :
    s.issue i = .next { s with pkg := (i.after (q.finishCut s.pkg.cur fl)).seal } := by
  simp only [Pkg.readyCut, Pkg.readyEarly, Bool.and_eq_true] at h
  obtain ⟨⟨h, hi⟩, hr⟩ := h
  have h0 : (s.pkg.ctx s.pkg.cur).ch.count = 0 := by
    simp only [Ctx.idle, Bool.and_eq_true, beq_iff_eq] at hi
    exact hi.1.1
  have hrun : (i.run s.pkg.cur).run s.pkg = .ok (fl, q) := by
    simp only [Ins.run, M.run_bind, M.checks_ok (i := i) (p := s.pkg) (by rw [hn]; exact h) hp, hb, M.enqueue, hn, M.run_pure]
  obtain ⟨hm, hg⟩ := Pkg.ready_issues h
  rw [State.issue_eq]
  congr 3
  simp only [Pkg.issue, hm, hc, hg, hrun, h0, hi, hr, Pkg.finish, Bool.not_true, Bool.and_false, bne_self_eq_false,
    Bool.false_and, Bool.false_eq_true, ↓reduceIte]

/-- A context that may issue, whose instruction fails a check or stops in its body: what `settle` makes of the package. -/
theorem State.issue_error {s : State} {i : Ins} {e : Stop_} (hm : s.ctx.mayIssue = true) (hc : i.cut = false)
    (hg : guardHolds i.guard s.regs = true) (hs : i.stopped = fun _ p => p) (hr : (i.run s.pkg.cur).run s.pkg = .error e) :
    s.issue i = .next { s with pkg := (s.pkg.settle s.pkg.cur e).seal } := by
  have hm' : (s.pkg.ctx s.pkg.cur).mayIssue = true := hm
  have hg' : guardHolds i.guard (s.pkg.ctx s.pkg.cur).regs = true := hg
  rw [State.issue_eq]
  congr 3
  simp only [Pkg.issue, hm', hc, hg', hr, hs, Bool.not_true, Bool.false_and, Bool.false_eq_true, ↓reduceIte]

/-- An instruction whose body stops, of a context that may issue: what `settle` makes of the package. -/
theorem State.issue_stops {s : State} {i : Ins} {e : Stop_}
    (h : s.pkg.ready i.guard i.srcs i.dsts i.vsrcs i.vdsts i.engine = true) (hp : i.priv s.pkg = true) (hc : i.cut = false)
    (hs : i.stopped = fun _ p => p) (hb : i.body.run s.pkg = .error e) :
    s.issue i = .next { s with pkg := (s.pkg.settle s.pkg.cur e).seal } := by
  have hrun : (i.run s.pkg.cur).run s.pkg = .error e := by simp only [Ins.run, M.run_bind, M.checks_ok h hp, hb]
  exact State.issue_error (Pkg.ready_issues h).1 hc (Pkg.ready_issues h).2 hs hrun

/-- A change of registers alone fits where the instruction is ready. -/
theorem Pkg.fits_withRegs {p : Pkg} {g : Guard} {srcs dsts vsrcs vdsts : List Nat} {e : Option Engine}
    (h : p.ready g srcs dsts vsrcs vdsts e = true) (f : Regs → Regs) : p.fits (p.withRegs p.cur f) = true := by
  have h := Pkg.ready_iff.mp h
  unfold Pkg.fits Pkg.withRegs
  rw [Pkg.overreaches_modCtx _ _ _ rfl rfl rfl rfl rfl rfl, h.2.2.2.2.2.2.1]
  simpa using h.2.2.2.2.2.2.2

/-- Issue of an instruction whose only effect is on its context's registers. -/
theorem State.issue_regOp {s : State} {g : Guard} {srcs dsts : List Nat} (h : s.ready g srcs dsts) (f : Regs → Regs) :
    s.issue (.regOp g srcs dsts f) = .next (s.retired f .next) :=
  State.issue_body (i := .regOp g srcs dsts f) h rfl rfl rfl rfl rfl (Pkg.fits_withRegs h f)

/-- A retirement depends on the effect only at the context's registers. -/
theorem State.retired_congr {s : State} {f f' : Regs → Regs} (fl : Flow) (h : f s.regs = f' s.regs) : s.retired f fl = s.retired f' fl := by
  have hm : s.pkg.withRegs s.pkg.cur f = s.pkg.withRegs s.pkg.cur f' :=
    congrArg (fun r => s.pkg.setCtx s.pkg.cur { s.pkg.ctx s.pkg.cur with regs := r }) h
  simp only [State.retired, hm]

/-- Completion of an instruction that issues as a register operation. -/
theorem State.completes_regOp {s : State} {i : Instr} {g : Guard} {srcs dsts : List Nat} {f f' : Regs → Regs}
    (h : s.ready g srcs dsts) (he : exec i s = s.issue (.regOp g srcs dsts f)) (hf : f s.regs = f' s.regs) : s.completes i f' := by
  unfold State.completes
  rw [he, State.issue_regOp h, State.retired_congr .next hf]

/-- Issue of an instruction that goes through an engine's queue: what its body makes of the package, queued and retired. -/
theorem State.issue_engine {s : State} {i : Ins} {q : Pkg} {m : Bool}
    (h : s.pkg.ready i.guard i.srcs i.dsts i.vsrcs i.vdsts i.engine = true) (hp : i.priv s.pkg = true) (hc : i.cut = false)
    (ha : i.after = id) (hn : i.engine = some (if m then .matrix else .vector)) (hb : i.body.run s.pkg = .ok (.next, q))
    (hq : q.cur = s.pkg.cur) (hf : s.pkg.fits (q.queued m i.dsts i.vdsts i.bslot) = true) :
    s.issue i = .next (s.retiredOn (q.queued m i.dsts i.vdsts i.bslot) .next) := by
  simp only [Pkg.fits, Bool.and_eq_true, Bool.or_eq_true, Bool.not_eq_true', beq_iff_eq, Bool.or_eq_false_iff] at hf
  rw [State.issue_eq, Pkg.issue_ok h hp hc hb (q' := q.queued m i.dsts i.vdsts i.bslot) _ hf.1 hf.2, ha]
  · rfl
  · cases m <;> simp only [M.enqueue, hn, Pkg.queued, hq] <;> rfl

/-- An instruction whose guard is false retires without effect (R187). -/
theorem State.issue_off {s : State} {i : Ins} (hm : s.ctx.mayIssue = true) (hc : i.cut = false)
    (hg : guardHolds i.guard s.regs = false) : s.issue i = .next (s.retiredOn s.pkg .next) := by
  rw [State.issue_eq]
  have hm' : (s.pkg.ctx s.pkg.cur).mayIssue = true := hm
  have hg' : guardHolds i.guard (s.pkg.ctx s.pkg.cur).regs = false := hg
  simp only [Pkg.issue, hm', hc, hg', Pkg.finish, Bool.not_true, Bool.not_false, Bool.false_and, Bool.false_eq_true, ↓reduceIte]
  rfl

end Sys2Proof.Machine
end

