-- ==== Sys2Proof/Tests/Slice0.lean ====
section
/-! SUPPORT. Words of every family decode to their instructions and ill-formed or illegal ones are refused; for each obligation,
states and operands that meet its hypotheses; single steps whose results the spec's tables and examples give. -/

namespace Sys2Proof.Tests
open Sys2Proof.Machine

set_option Elab.async false

/-- The always-true predicate. -/
abbrev g : Guard := ⟨false, 0⟩

/-- A word decodes to its instruction, is that instruction's encoding, and the instruction is well-formed. -/
def reads (e : Nat × Instr) : Bool :=
  let w := BitVec.ofNat 96 e.1
  decide ((decode 0 w).toOption = some e.2) && decide (encode e.2 = some w) && e.2.wf 0

/-! ### Words composed field by field from the encoding tables of the spec -/

/-- Words from Tables 7.6 and 8.2. -/
def wordsInteger : List (Nat × Instr) := [
  (0x000040000000000000000000, .nop ⟨false, 1⟩),
  (0x000280000000000000000000, .nop ⟨true, 2⟩),
  (0x010007240000000000000000, .mov g 7 9),
  (0x020003000000FFFFFFFFFFFB, .movi g 3 (-5)),
  (0x0300041400000000000000FF, .movhi g 4 5 0xFF),
  (0x040001083000000000000000, .add g 1 2 3),
  (0x050003100000FFFFFFFFFFFF, .addi g 3 4 (-1)),
  (0x06003FFBD000000000000000, .sub g 63 62 61),
  (0x070008240000000000000000, .neg g 8 9),
  (0x080001083000000000000000, .mul g 1 2 3),
  (0x090001083000000000000000, .mulh g 1 2 3),
  (0x0A0001083000000000000000, .mulhn g 1 2 3),
  (0x0B0001083000000000000000, .div g 1 2 3),
  (0x0C0001083000000000000000, .divn g 1 2 3),
  (0x0D0001083000000000000000, .rem g 1 2 3),
  (0x0E0001083000000000000000, .remn g 1 2 3),
  (0x0F0001083100000000000000, .madd g 1 2 3 4),
  (0x100001083000000000000000, .and g 1 2 3),
  (0x110001080000000000000070, .andi g 1 2 0x70),
  (0x120001083000000000000000, .or g 1 2 3),
  (0x130001080000000000000070, .ori g 1 2 0x70),
  (0x140001083000000000000000, .xor g 1 2 3),
  (0x150001080000000000000070, .xori g 1 2 0x70),
  (0x160001083000000000000000, .andn g 1 2 3),
  (0x170001080000000000000000, .not g 1 2)]

theorem test_decodes_integer : wordsInteger.all reads = true := by decide +kernel

/-- Words from Tables 7.6 and 8.2, R207, R209 to R212. -/
def wordsShiftAndField : List (Nat × Instr) := [
  (0x180001083000000000000000, .shl g 1 2 3),
  (0x19000108000000000000003F, .shli g 1 2 63),
  (0x1A0001083000000000000000, .shr g 1 2 3),
  (0x1B0001080000000000000001, .shri g 1 2 1),
  (0x1C0001083000000000000000, .sar g 1 2 3),
  (0x1D0001080000000000000005, .sari g 1 2 5),
  (0x1E0001083000000000000000, .rol g 1 2 3),
  (0x1F0001080000000000000007, .roli g 1 2 7),
  (0x200007083009000000000000, .cmp g .geu 7 2 3),
  (0x2100010C000200000000000C, .cmpi g .lt 1 3 12),
  (0x220001083180000000000000, .sel g 1 2 3 6),
  (0x230001083000000000000000, .min g 1 2 3),
  (0x240001083000000000000000, .max g 1 2 3),
  (0x250001083000000000000000, .minn g 1 2 3),
  (0x260001083000000000000000, .maxn g 1 2 3),
  (0x270001080000000000000000, .clz g 1 2),
  (0x280001080000000000000000, .ctz g 1 2),
  (0x290001080000000000000000, .popc g 1 2),
  (0x2A0001080007000000000000, .ext g .w64 1 2),
  (0x2B0001080000000000002238, .bfx g 1 2 56 8 true),
  (0x2C0001083000000000001000, .bfi g 1 2 3 0 64),
  (0x2D000A146003000000400000, .lea g 10 ⟨5, 6, 3, 0x40⟩),
  (0x2E0001083008000000000000, .plog g 1 2 3 8)]

theorem test_decodes_shift_and_field : wordsShiftAndField.all reads = true := by decide +kernel

/-- Words from Tables 7.10 and 8.4. -/
def wordsScalarFloat : List (Nat × Instr) := [
  (0x2F0001083009800000000000, .fadd g .f32 .rsh 1 2 3),
  (0x2F040108300A200000000000, .fsub g .f64 .rtz 1 2 3),
  (0x2F0801083009400000000000, .fmul g .f32 .rdn 1 2 3),
  (0x2F0C01083109600000000000, .ffma g .f32 .rup 1 2 3 4),
  (0x2F1001083009000000000000, .fdiv g .f32 .rne 1 2 3),
  (0x2F140108000A000000000000, .fsqrt g .f64 .rne 1 2),
  (0x2F1801083009000000000000, .fmin g .f32 1 2 3),
  (0x2F1C01083009000000000000, .fmax g .f32 1 2 3),
  (0x2F200108000B00000000000A, .fcvt g .bf16 .f64 .rne 1 2),
  (0x2F2403100002200000000009, .fcvti g .i32 .f32 .rtz 3 4),
  (0x2F2803100008200000000007, .icvtf g .f16 .w64 .rtz 3 4),
  (0x2F2C0710500900000000000A, .fcmp g .f32 .un 7 4 5)]

theorem test_decodes_scalar_float : wordsScalarFloat.all reads = true := by decide +kernel

/-- Words from Tables 7.6 and 7.3, R218 to R232. -/
def wordsControl : List (Nat × Instr) := [
  (0x300000000000FFFFFFFFFFFC, .br g (-1) 4),
  (0x310000240000000000000000, .bri g 9),
  (0x320009000000000000000013, .call g 9 2 3),
  (0x330009200000000000000000, .calli g 9 8),
  (0x340000240003000001400000, .loop g 3 1 2 9),
  (0x350000000001000000800005, .loopi g 1 0 4 5),
  (0x360000000002000000000000, .lbrk g 2),
  (0x37003D000003000000000000, .lsave g 61 3),
  (0x380000F40003000000000000, .lrest g 3 61),
  (0x390000000000000000000000, .exit g),
  (0x3A0006140000000000000008, .spawn g 6 5 1 0),
  (0x3B0006140000000000000000, .join g 6 5),
  (0x3C0000000000000000000000, .cut g),
  (0x3D000C083000000000000000, .msgsend g 12 2 3),
  (0x3E00080C0000000000000000, .msgrecv g 8 3)]

theorem test_decodes_control : wordsControl.all reads = true := by decide +kernel

/-- Words from Tables 7.7, 7.10 and 9.2, R236 to R245. -/
def wordsMemory : List (Nat × Instr) := [
  (0x40080A146003000000402100, .ld g .i32 .keep true 10 ⟨5, 6, 3, 0x40⟩),
  (0x411C0A146003000000401000, .st g .w64 .stream 10 ⟨5, 6, 3, 0x40⟩),
  (0x42080A146243000000403000, .ldv g .b32 .noalloc false 10 ⟨5, 6, 3, 0x40⟩ 9),
  (0x43040A146243000000400000, .stv g .b16 .normal 10 ⟨5, 6, 3, 0x40⟩ 9),
  (0x44000A146240FFFFFFF80000, .ldvs g .b8 .normal false 10 5 6 (-8) 9),
  (0x45080A146240FFFFFFF80000, .stvs g .b32 .normal 10 5 6 (-8) 9),
  (0x46080A146242FFFFFFF80100, .ldvg g .b32 .normal true 10 5 6 2 (-8) 9),
  (0x47080A146242FFFFFFF80000, .stvg g .b32 .normal 10 5 6 2 (-8) 9),
  (0x480007146043000000400000, .ldt g .normal false 7 ⟨5, 6, 3, 0x40⟩ 1),
  (0x480407146043000000400000, .ldtCol g .normal false 7 ⟨5, 6, 3, 0x40⟩ 1),
  (0x490007146043000000400000, .stt g .normal 7 ⟨5, 6, 3, 0x40⟩ 1),
  (0x490407146043000000400000, .sttCol g .normal 7 ⟨5, 6, 3, 0x40⟩ 1),
  (0x4A0000146003000000403000, .pref g .noalloc ⟨5, 6, 3, 0x40⟩),
  (0x4B0000146003000000400000, .linewb g .normal ⟨5, 6, 3, 0x40⟩)]

theorem test_decodes_memory : wordsMemory.all reads = true := by decide +kernel

/-- Words from Tables 7.7 and 9.8, R246 to R270. -/
def wordsEngineAndSync : List (Nat × Instr) := [
  (0x4D000A1031C0000000000200, .copy g 1 10 4 3 7),
  (0x4D040A1031C0000000000E00, .copyDigest g 7 10 4 3 7),
  (0x4E000A103F00000000000200, .copy2 g 1 10 4 3 60),
  (0x4F000A103E40000000000200, .copy3 g 1 10 4 3 57),
  (0x50000A103F80000000000200, .get g 1 10 4 3 62),
  (0x51000A103F80000000000200, .put g 1 10 4 3 62),
  (0x52000A138243FE0000000200, .rpan g 1 3 10 4 56 9 0xFE),
  (0x53000B000000000000000102, .fenceE g 11 2 1),
  (0x54000B000000000000000080, .fenceX g 11 0x80),
  (0x55000B00000000000000000F, .bararr g 11 15),
  (0x56000B30000000000000000F, .barwait g 11 12 15),
  (0x57000730000000000000000F, .bartest g 7 12 15),
  (0x58180A146003000000400000, .waitz g false 10 ⟨5, 6, 3, 0x40⟩),
  (0x591C0A146243000000400000, .waitne g true 10 ⟨5, 6, 3, 0x40⟩ 9),
  (0x5A0007240000000000000000, .chk g 7 9),
  (0x600008147240040000000000, .panr g 0 0 8 5 7 9 4),
  (0x610008147241040000000600, .panrv g 3 1 8 5 7 9 4),
  (0x620008147002040000000600, .pann g 3 2 8 5 7 4),
  (0x6300080C1086040000000000, .panv g 0 8 3 1 2 6 4),
  (0x6400080C1086040000000000, .panvr g 0 8 3 1 2 6 4),
  (0x6500000C0000040000000000, .panld g 3 4),
  (0x660008000000040000000000, .panq g 8 4),
  (0x670000000000FF0000000000, .pandrop g 255),
  (0x68000C515580000000000000, .mxsend g 0 .bput4 0 12 20 21 22),
  (0x68000C500013000000000A00, .mxsend g 5 .bdrop 1 12 20 0 0),
  (0x69000C500000000000000000, .capmk g 12 20),
  (0x6A0000500000000000000000, .caprev g 20)]

theorem test_decodes_engine_and_sync : wordsEngineAndSync.all reads = true := by decide +kernel

/-- Words from Tables 7.8 and 10.1. -/
def wordsVectorArithmetic : List (Nat × Instr) := [
  (0x800001083009924000000000, .vadd g .f32 .rsh (some 9) 1 2 3),
  (0x810001083008324000000000, .vsub g .f16 .rtz (some 9) 1 2 3),
  (0x82000108300B524000000000, .vmul g .bf16 .rdn (some 9) 1 2 3),
  (0x830001083109724000000000, .vfma g .f32 .rup (some 9) 1 2 3 4),
  (0x840001083000124000000000, .vmin g .i8 (some 9) 1 2 3),
  (0x850001083005124000000000, .vmax g .w16 (some 9) 1 2 3),
  (0x860001080002124000000000, .vabs g .i32 (some 9) 1 2),
  (0x870001080009124000000000, .vneg g .f32 (some 9) 1 2),
  (0x880001083002124000000000, .vdiv g .i32 .rne (some 9) 1 2 3),
  (0x890001080009324000000000, .vsqrt g .f32 .rtz (some 9) 1 2),
  (0x8A0001080009124000000000, .vrsq g .f32 .rne (some 9) 1 2),
  (0x8B0001080008124000000000, .vexp2 g .f16 .rne (some 9) 1 2),
  (0x8C0001080009724000000000, .vlog2 g .f32 .rup (some 9) 1 2),
  (0x8D0001083002124000000000, .vand g .i32 (some 9) 1 2 3),
  (0x8E0001083000124000000000, .vor g .i8 (some 9) 1 2 3),
  (0x8F0001083005124000000000, .vxor g .w16 (some 9) 1 2 3),
  (0x900001083002000000000000, .vshl g .i32 none 1 2 (.reg 3)),
  (0x91000108000200000000011F, .vshr g .i32 none 1 2 (.imm 31)),
  (0x920001080000000000000107, .vsar g .i8 none 1 2 (.imm 7)),
  (0x93003F08300912400000000A, .vcmp g .f32 .un (some 9) 63 2 3),
  (0xA10001083109124000000000, .vclamp g .f32 (some 9) 1 2 3 4),
  (0xA20001080009524000000000, .vround g .f32 .rdn (some 9) 1 2),
  (0xA50001080005124000000000, .vpopc g .w16 (some 9) 1 2)]

theorem test_decodes_vector_arithmetic : wordsVectorArithmetic.all reads = true := by decide +kernel

/-- Words from Tables 7.8, 10.1, 10.3 and 10.4. -/
def wordsVectorMovement : List (Nat × Instr) := [
  (0x940001083FC0124000000000, .vsel g (some 9) 1 2 3 63),
  (0x9500050C000D000000000009, .vcvt g .e4m3 .f32 .rne none 5 3),
  (0x96000108300C000000000007, .vpack g .e2m1 7 none 1 2 3),
  (0x97000108000D000000000003, .vunpk g .e4m3 3 none 1 2),
  (0x980001FC0002124000000000, .vbcast g .i32 (some 9) 1 63),
  (0x99003F0BE009000000000000, .vmovs g .f32 63 2 (.reg 62)),
  (0x99000B10000900000000013F, .vmovs g .f32 11 4 (.imm 63)),
  (0x9A0001083000124000000000, .vperm g (some 9) 1 2 3),
  (0x9B0001083000000000000000, .vshuf g none 1 2 (.ziplo 3)),
  (0x9B0001083000000000000001, .vshuf g none 1 2 (.ziphi 3)),
  (0x9B0001083000000000000002, .vshuf g none 1 2 (.even 3)),
  (0x9B0001083000000000000003, .vshuf g none 1 2 (.odd 3)),
  (0x9B0001080000000000003F04, .vshuf g none 1 2 (.rot 63)),
  (0x9B0001080000000000000005, .vshuf g none 1 2 .rev),
  (0x9B0001080000000000000106, .vshuf g none 1 2 (.xor 1)),
  (0x9C003F080009924000000000, .vredsum g .f32 .rsh (some 9) 63 2),
  (0x9D003F080009124000000000, .vredmax g .f32 (some 9) 63 2),
  (0x9E003F080009124000000000, .vredmin g .f32 (some 9) 63 2),
  (0x9F0001080009324000000000, .vscan g .f32 .rtz .add (some 9) 1 2),
  (0x9F0001080009124000000002, .vscan g .f32 .rne .min (some 9) 1 2),
  (0xA00001083109000000000008, .vdot g .f32 .f16 .rne none 1 2 3 4),
  (0xA30001080000124000000000, .vmov g (some 9) 1 2),
  (0xA4000100000011C0FFFFFF80, .vmovi g .i8 (some 7) 1 0xFFFFFF80),
  (0xA60001080000124000000000, .vcomp g (some 9) 1 2),
  (0xA70001080000124000000000, .vexpnd g (some 9) 1 2)]

theorem test_decodes_vector_movement : wordsVectorMovement.all reads = true := by decide +kernel

/-- Words from Tables 7.9 and 11.1. -/
def wordsMatrix : List (Nat × Instr) := [
  (0xC00001146183000000402000, .bload g .keep 6 1 ⟨5, 6, 3, 0x40⟩),
  (0xC1003F040000000000000000, .bquery g 63 1),
  (0xC200011C1000700000000000, .mma g 7 0 1 7 1),
  (0xC300001C1000F61000000000, .mmax g 15 6 0 7 1),
  (0xC40003000000000000000000, .accz g 3),
  (0xC50003000000FFFFFFFFFFFD, .accanch g 3 (-3)),
  (0xC6001F0C000B92400000000F, .accout g .bf16 .rsh (some 9) 31 3 15),
  (0xC70003080000000000000000, .accadd g 3 2),
  (0xC80003146403000000401000, .accst g .stream 3 ⟨5, 6, 3, 0x40⟩ 16),
  (0xC80403146403000000400000, .accld g .normal 3 ⟨5, 6, 3, 0x40⟩ 16),
  (0xC90007180000000000000000, .tmov g 7 6),
  (0xC90407180000000000000000, .tmovTr g 7 6),
  (0xCA000718000D80000000000B, .tcvt g .e4m3 .bf16 .rsh 7 6),
  (0xCB0007000000000000000000, .tzero g 7),
  (0xCC00077C03C0000000000000, .tldv g 7 31 15),
  (0xCD001F1C03C0000000000000, .tstv g 31 7 15),
  (0xCE003F1C03C0000000000000, .tgetsc g 63 7 15),
  (0xCF0007FC03C0000000000000, .tsetsc g 7 63 15),
  (0xD00000000000000000000000, .mfence g),
  (0xD1003F0C0000000000000000, .mxstat g 63 3)]

theorem test_decodes_matrix : wordsMatrix.all reads = true := by decide +kernel

/-- Words from Tables 7.9, 12.1 and 12.2. -/
def wordsSystem : List (Nat × Instr) := [
  (0xE0000000000000000000FFFF, .trap g 0xFFFF),
  (0xE10000000000000000000000, .eret g),
  (0xE2003F00000000000000000D, .sysrd g 63 .dbgcaps),
  (0xE300000C0000000000000006, .syswr g .trapvec 3),
  (0xE40001083100000000000000, .spurge g 1 2 3 4),
  (0xE50001083100000000000000, .winset g 1 2 3 4),
  (0xE60001083000000000000000, .fmtset g 1 2 3),
  (0xE70003100000000000000000, .cntrd g 3 4),
  (0xE70407556000000000000000, .attest g 7 21 22),
  (0xE800060C4140000000000000, .dbgwp g 6 3 4 5),
  (0xE90001083000000000000000, .dbgstep g 1 2 3),
  (0xEA0001083000000000000000, .dbgstop g 1 2 3),
  (0xEB003F000000000000000000, .snap g 63),
  (0xEC0000FC0000000000000000, .keywipe g 63),
  (0xED0001080000000000000000, .fuserd g 1 2),
  (0xEE0001080000000000000000, .unlock g 1 2),
  (0xEF0000083000000000000000, .dbgcapGrant g 2 3),
  (0xEF0400000000000000000000, .dbgcapRevoke g)]

theorem test_decodes_system : wordsSystem.all reads = true := by decide +kernel

/-! ### Well-formedness: each check refuses a term that breaks it alone -/

/-- One term for each check of `Instr.wf`, all else in it as it may be. -/
def illFormed : List Instr := [
  .nop ⟨true, 0⟩,                                            -- R181: PN with PRED 0
  .ext g .f32 1 2,                                           -- R209: EXT's integer types
  .ld g .f32 .normal false 1 ⟨2, 0, 0, 0⟩,
  .fadd g .f16 .rne 1 2 3,                                   -- Table 8.4: f32 and f64
  .fcvt g .i32 .f32 .rne 1 2,                                -- Table 8.4: float types
  .fcvti g .f32 .f32 .rne 1 2,
  .icvtf g .f32 .e4m3 .rne 1 2,
  .cmp g .un 1 2 3,                                          -- R184: `.un` is a float condition
  .fcmp g .f32 .ltu 1 2 3,                                   -- R184: unsigned conditions are integer ones
  .vcmp g .f32 .geu none 1 2 3,
  .vcmp g .i32 .un none 1 2 3,
  .bfx g 1 2 63 2 false,                                     -- R209: POS + LEN > 64
  .bfi g 1 2 3 0 0,                                          -- R209: LEN 0
  .lea g 1 ⟨2, 3, 9, 0⟩,                                     -- R182: SCALE over 8
  .ld g .i8 .normal false 1 ⟨2, 0, 1, 0⟩,                    -- R195: a scale without an index
  .st g .i8 .noalloc 1 ⟨2, 0, 0, 0⟩,                         -- R236: a load's hint
  .br g 0 5,                                                 -- R182: SLOT over 4
  .loop g 0 0 0 1,                                           -- R220: a body end not after the loop
  .loopi g 0 (-1) 4 1,
  .lsave g 62 0,                                             -- three registers from s62
  .lrest g 0 62,
  .msgsend g 1 2 57,                                         -- eight registers from s57
  .msgrecv g 3 10,                                           -- A among D to D + 7
  .copy g 0 5 1 2 5,                                         -- D is C
  .copyDigest g 0 6 1 2 5,
  .copy2 g 0 1 2 3 61,
  .copy3 g 0 9 1 2 3,
  .get g 0 1 2 3 63,
  .put g 0 1 2 3 63,
  .rpan g 0 3 1 2 57 4 0,
  .panr g 0 1 1 2 63 4 0,
  .panv g 0 1 2 3 31 4 0,                                    -- R266: a pair from v31
  .panvr g 0 31 1 2 3 4 0,
  .ldvg g .b32 .normal false 1 2 3 9 0 0,
  .stvs g .b32 .noalloc 1 2 3 0 0,
  .vadd g .f64 .rne none 1 2 3,                              -- R276: a lane type
  .vadd g .i32 .rtz none 1 2 3,                              -- R276: RM with an integer type
  .vsqrt g .i32 .rne none 1 2,
  .vand g .f32 none 1 2 3,
  .vshl g .i16 none 1 2 (.imm 16),                           -- R278: a count of the width
  .vcvt g .e4m3 .e5m2 .rne none 1 2,                         -- Table 10.3
  .vcvt g .i32 .i32 .rne none 1 2,
  .vpack g .i32 0 none 1 2 3,                                -- R287
  .vunpk g .i16 2 none 1 2,
  .vmovi g .w8 none 1 0x100,                                 -- R289
  .vscan g .f32 .rup .max none 1 2,                          -- R294
  .vdot g .f32 .i8 .rne none 1 2 3 4,                        -- R295
  .bload g .normal 7 0 ⟨1, 2, 0, 0⟩,
  .mma g 0 0 0 0 0,                                          -- R300: no quarter
  .mma g 3 0 3 0 0,                                          -- R300: past ACC3
  .mmax g 1 7 0 0 0,
  .accout g .f16 .rne none 1 0 0,
  .accst g .normal 0 ⟨1, 0, 0, 0⟩ 17,
  .tcvt g .f32 .bf16 .rne 1 2,
  .mxsend g 0 .bdrop 0 1 2 3 0,                              -- R322: BDROP names no source
  .syswr g .retired 1,                                       -- Table 12.2: read only
  .joinTimeout 0 0]                                          -- an event has no word

theorem test_ill_formed_is_refused : illFormed.all (fun i => !i.wf 0) = true := by decide +kernel

/-- A loop in slot 3 may end its body in slot 4 of its own line, one in slot 4 may not (R220). -/
theorem test_loop_body_after : (Instr.loopi g 0 0 4 1).wf 3 = true ∧ (Instr.loopi g 0 0 4 1).wf 4 = false := by decide

/-! ### Words that are illegal instructions (R180 to R189) -/

/-- A word with fields OP, MIN, PN, PRED, D, A, B, C, MOD and the low 48 bits (Table 7.2). -/
def word (op mn pn pred d a b c md low : Nat) : Nat :=
  op * 2 ^ 88 + mn * 2 ^ 82 + pn * 2 ^ 81 + pred * 2 ^ 78 + d * 2 ^ 72 + a * 2 ^ 66 + b * 2 ^ 60 + c * 2 ^ 54 + md * 2 ^ 48 + low

/-- Pairs of a legal word and one that differs from it in the field that makes it illegal. -/
def illegal : List (Nat × Nat) := [
  (word 0x04 0 0 0 1 2 3 0 0 0, word 0x04 1 0 0 1 2 3 0 0 0),              -- ADD with a MIN
  (word 0x04 0 1 1 1 2 3 0 0 0, word 0x04 0 1 0 1 2 3 0 0 0),              -- PN with PRED 0
  (word 0x04 0 0 0 1 2 3 0 0 0, word 0x04 0 0 0 1 2 3 4 0 0),              -- ADD with C
  (word 0x04 0 0 0 1 2 3 0 0 0, word 0x04 0 0 0 1 2 3 0 0 1),              -- ADD with a low field
  (word 0x00 0 0 0 0 0 0 0 0 0, word 0x00 0 0 0 1 0 0 0 0 0),              -- NOP with D
  (word 0x01 0 0 0 1 2 0 0 0 0, word 0x01 0 0 0 1 2 3 0 0 0),              -- MOV with B
  (word 0x20 0 0 0 7 1 2 0 0 0, word 0x20 0 0 0 8 1 2 0 0 0),              -- CMP of p8
  (word 0x20 0 0 0 1 1 2 0 9 0, word 0x20 0 0 0 1 1 2 0 10 0),             -- CMP with `.un`
  (word 0x2A 0 0 0 1 2 0 0 7 0, word 0x2A 0 0 0 1 2 0 0 0x10 0),           -- EXT with type 0x10
  (word 0x19 0 0 0 1 2 0 0 0 63, word 0x19 0 0 0 1 2 0 0 0 64),            -- SHLI by 64
  (word 0x2D 0 0 0 1 2 3 0 8 0, word 0x2D 0 0 0 1 2 3 0 9 0),              -- LEA with scale 9
  (word 0x2D 0 0 0 1 2 0 0 0 0, word 0x2D 0 0 0 1 2 0 0 1 0),              -- LEA with a scale and no index
  (word 0x40 2 0 0 1 2 0 0 0 (3 * 2 ^ 12), word 0x40 2 0 0 1 2 0 0 0 (4 * 2 ^ 12)),  -- LD with hint 4
  (word 0x40 2 0 0 1 2 0 0 0 (2 ^ 8), word 0x40 2 0 0 1 2 0 0 0 (2 ^ 9)),  -- LD with COL
  (word 0x30 0 0 0 0 0 0 0 0 4, word 0x30 0 0 0 0 0 0 0 0 5),              -- BR to slot 5
  (word 0x80 0 0 0 1 2 3 0 9 (4 * 2 ^ 45), word 0x80 0 0 0 1 2 3 0 9 (5 * 2 ^ 45)),  -- rounding mode 5
  (word 0x80 0 0 0 1 2 3 0 9 (65 * 2 ^ 38), word 0x80 0 0 0 1 2 3 0 9 (2 ^ 38)),     -- MS without MK
  (word 0x80 0 0 0 31 2 3 0 9 0, word 0x80 0 0 0 32 2 3 0 9 0),            -- VADD of v32
  (word 0x80 0 0 0 1 2 3 0 9 0, word 0x80 0 0 0 1 2 3 0 10 0),             -- VADD of f64
  (word 0xC2 0 0 0 0 0 0 0 0 (2 ^ 44 + 6 * 2 ^ 40), word 0xC2 0 0 0 0 0 0 0 0 (2 ^ 44 + 7 * 2 ^ 40)),  -- AFMT 7
  (word 0xC2 0 0 0 0 0 0 0 0 (2 ^ 44), word 0xC2 0 0 0 0 0 0 0 0 (2 ^ 44 + 2 ^ 36)),  -- MMA with MMAX's MODE
  (word 0xC2 0 0 0 3 0 0 0 0 (2 ^ 44), word 0xC2 0 0 0 4 0 0 0 0 (2 ^ 44)),            -- MMA of ACC4
  (word 0xE3 0 0 0 0 1 0 0 0 6, word 0xE3 0 0 0 0 1 0 0 0 5),              -- SYSWR of RETIRED
  (word 0xE2 0 0 0 1 0 0 0 0 14, word 0xE2 0 0 0 1 0 0 0 0 15),            -- SYSRD of no register
  (0, word 0x3F 0 0 0 0 0 0 0 0 0),                                        -- an OP of no row
  (0, 2 ^ 96 - 1)]                                                         -- all ones

theorem test_illegal_words_are_refused :
    illegal.all (fun e => (decode 0 (BitVec.ofNat 96 e.1)).toOption.isSome && (decode 0 (BitVec.ofNat 96 e.2)).toOption.isNone) = true := by decide +kernel

/-- A loop ending at or before itself is an illegal instruction in slot 4, and none in slot 3 (R220). -/
theorem test_loop_word_of_its_slot :
    let w := (encode (.loopi g 0 0 4 1)).getD 0
    (decode 3 w).toOption = some (.loopi g 0 0 4 1) ∧ (decode 4 w).toOption = none := by decide +kernel

/-! ### Witnesses: states and operands that meet the hypotheses of the obligations

`live` is the machine after reset with a NOP placed where it fetches next (`withFetchWord`): context 0 of core 0 issues in
space 0, which has privilege 1 (R369); its task allots 3 helpers, 32 vector registers, 4 accumulators and 2 B slots. -/

def live : State := State.reset.withFetchWord 96 0

/-- Changes of a state: of its package, of the current context, of its registers, of core 0, of space 0, of a line at home. -/
def put (f : Pkg → Pkg) (s : State) : State := { s with pkg := f s.pkg }
def ctx (f : Ctx → Ctx) (s : State) : State := put (·.modCtx s.pkg.cur f) s
def regs (f : Regs → Regs) (s : State) : State := ctx (fun c => { c with regs := f c.regs }) s
def reg (n v : Nat) (s : State) : State := regs (·.setSn n (BitVec.ofNat 64 v)) s
def core0 (f : Core → Core) (s : State) : State := put (·.modCore 0 f) s
def space0 (f : Space → Space) (s : State) : State := put (·.modSpace 0 f) s
def lineAt (space va data : Nat) (s : State) : State :=
  let l : L2Line := { data := BitVec.ofNat 512 data, home := 0, have_ := BitVec.allOnes 64, dirty := 0, side := 0, poison := false, holders := [],
                      dirtyAt := none, attrs := [] }
  put (fun p => { p with l2 := p.l2.put (lineKey space va) l }) s
def linesAt (space va n : Nat) (s : State) : State := (List.range n).foldl (fun s i => lineAt space (va + 64 * i) (i + 1) s) s
/-- A command in a block. -/
def command (vi : Nat) (b : Block) (code : Nat) (args : List Nat) (s : State) : State :=
  let r : BlockRegs := { dw := (0, BitVec.ofNat 64 code) :: args.zipIdx.map fun e => (e.2 + 1, BitVec.ofNat 64 e.1), running := true }
  put (fun p => { p with vis := p.vis.put vi (match b with
    | .cmd => { p.vi vi with cmd := r }
    | .job => { p.vi vi with job := r }
    | .debug => { p.vi vi with debug := r }
    | .platform => { p.vi vi with platform := r }) }) s

/-- A monadic read answers, and its answer and the package after it meet `P`; or it stops with a fault. -/
def gives {α : Type} (m : M α) (s : State) (P : α → Pkg → Bool) : Bool :=
  match m.run s.pkg with
  | .ok (a, q) => P a q
  | .error _ => false
def answers {α : Type} (m : M α) (s : State) : Bool := gives m s fun _ _ => true
def faultOf {α : Type} (m : M α) (s : State) : Option (Nat × Nat × Nat) :=
  match m.run s.pkg with
  | .error (.fault c a i) => some (c, a, i)
  | .error _ | .ok _ => none

theorem gives_iff {α : Type} (m : M α) (s : State) (P : α → Pkg → Bool) :
    gives m s P = true ↔ ∃ a q, m.run s.pkg = .ok (a, q) ∧ P a q = true := by
  unfold gives
  cases m.run s.pkg with
  | ok e => exact ⟨fun h => ⟨e.1, e.2, rfl, h⟩, fun ⟨a, q, h, k⟩ => by cases h; exact k⟩
  | error e => simp

theorem witness_arithmetic_and_logic :
    live.ready g [] [] ∧ live.ready g [] [63] ∧ live.ready g [63] [0] ∧ live.ready g [0, 63] [63] ∧ live.ready g [1, 2, 63] [3] := by
  unfold State.ready; decide +kernel

theorem witness_comparisons_bits_and_fields :
    live.ready g [62, 63] [] ∧ live.ready g [63] [] ∧ live.ready g [62, 63] [0] ∧ live.ready g [] [] ∧ live.ready g [63] [0] ∧
    (63#6).toNat + (1#7).toNat ≤ 64 ∧ (0#6).toNat + (64#7).toNat ≤ 64 ∧ 1 ≤ (1#7).toNat ∧ Ty.int64 .w64 = true ∧ Ty.int64 .i8 = true ∧
    live.ready g (memSrcs ⟨1, 2, 8, 0⟩) [3] ∧ MemOp.ok ⟨1, 2, 8, 0⟩ = true ∧ MemOp.ok ⟨1, 0, 0, 0⟩ = true := by
  unfold State.ready; decide +kernel

theorem witness_float_arithmetic : live.ready g [1, 2] [3] ∧ live.ready g [1, 2] [] ∧ live.ready g [1, 2, 3] [3] ∧
    live.ready g [1] [3] := by
  unfold State.ready; decide +kernel

/-- Codes of f32: a NaN, both infinities, both zeros, -1 and 1, as operands. -/
def floats (x y : Nat) : Regs := (reg 1 x (reg 2 y live)).regs

theorem witness_float_nans_and_order :
    Ty.scalarFloat .f32 = true ∧ Ty.scalarFloat .f64 = true ∧ (reg 1 0x7FC00000 live).ready g [1, 2] [3] ∧
    (reg 1 0x7FC00000 live).ready g [1, 2] [] ∧ (reg 1 0x7FC00000 live).ready g [1] [3] ∧
    fop .f32 (floats 0x7FC00000 0) 1 = .nan ∧ fop .f32 (floats 0 0x7FC00000) 2 = .nan ∧
    (fop .f32 (floats 0x7F800000 0xFF800000) 1 = .inf false ∧ fop .f32 (floats 0x7F800000 0xFF800000) 2 = .inf !false) ∧
    (fop .f32 (floats 0xFF800000 0xFF800000) 1 = .inf true ∧ fop .f32 (floats 0xFF800000 0xFF800000) 2 = .inf true) ∧
    (fop .f32 (floats 0 0x7F800000) 1 = .fin false 0 (-149) ∧ fop .f32 (floats 0 0x7F800000) 2 = .inf false) ∧
    fop .f32 (floats 0x80000000 0) 1 = .fin true 0 (-149) ∧
    fop .f32 (floats 0xBF800000 0) 1 = .fin true (0x7FFFFF + 1) (-23) ∧
    unpack .f32 (fcode .f32 (floats 0x7FC00000 0x3F800000) 1) = .nan ∧ unpack .f32 (fcode .f32 (floats 0x7FC00000 0x3F800000) 2) ≠ .nan ∧
    (unpack .f32 (fcode .f32 (floats 0xBF800000 0x3F800000) 1)).lt (unpack .f32 (fcode .f32 (floats 0xBF800000 0x3F800000) 2)) = true ∧
    (unpack .f32 (fcode .f32 (floats 0x80000000 0) 1) = .fin true 0 (-149) ∧ unpack .f32 (fcode .f32 (floats 0x80000000 0) 2) = .fin false 0 (-149)) ∧
    (unpack .f32 (fcode .f32 (floats 0 0x80000000) 1) = .fin false 0 (-149) ∧ unpack .f32 (fcode .f32 (floats 0 0x80000000) 2) = .fin true 0 (-149)) ∧
    fop .f32 (floats 0 0x80000000) 1 = .fin false 0 (-149) ∧ fop .f32 (floats 0 0x80000000) 2 = .fin true 0 (-149) ∧
    fop .f32 (floats 0xBF800000 0x3F800000) 1 ≠ .nan ∧ fop .f32 (floats 0xBF800000 0x3F800000) 2 ≠ .nan := by
  unfold State.ready; decide +kernel

theorem witness_retirement : live.pkg.log = [] ∧ (⟨0, 1⟩ : CtxRef) ≠ live.pkg.cur ∧
    (live.retired (·.setS 5 9) .next).ctx.phase = .open := by decide +kernel

/-- Tile registers and accumulators of `live` have been written by no open chunk. -/
theorem tile_free (n : TReg) : live.pkg.tileFree n := by
  have h : (live.pkg.core live.pkg.cur.core).tiles = [] := by decide +kernel
  refine ⟨rfl, fun k old e => ?_⟩
  rw [h] at e
  simp [Tab.get, Tab.find?, TileReg.zero] at e
theorem acc_free (n : Nat) : live.pkg.accFree n := by
  have h : (live.pkg.core live.pkg.cur.core).accs = [] := by decide +kernel
  refine ⟨rfl, fun k e => ?_⟩
  rw [h] at e
  simp [Tab.get, Tab.find?, AccReg.zero] at e

/-- `live`, a token of its open chunk pending in s3, and one of an earlier chunk's. -/
def tokened (t : Nat) (s : State) : State := regs (fun r => { r with pend := [(3, t)] }) s
def pendingHere : State := tokened (64 * live.ctx.seq) live
def pendingElse : State := tokened (64 * (live.ctx.seq + 5)) live

theorem witness_register_files :
    (pendingHere.ctx.mayIssue = true ∧ guardHolds g pendingHere.regs = true ∧ pendingHere.ctx.pendsHere 3 = true) ∧
    (pendingElse.ctx.mayIssue = true ∧ guardHolds g pendingElse.regs = true ∧ (∀ r ∈ [1, 3], pendingElse.ctx.pendsHere r = false) ∧
      (Tab.find? pendingElse.regs.pend 3).isSome = true ∧ (∀ r ∈ [1, 2], ¬ (Tab.find? pendingElse.regs.pend r).isSome = true) ∧
      (pendingElse.pkg.core pendingElse.pkg.cur.core).owes pendingElse.pkg.cur.slot [1, 2] [] = false) ∧
    (63 : Nat) < 64 ∧ (∀ m, some (1 : SReg) = some m → ((reg 1 (2 ^ 63) live).regs.sr m).getLsbD 63 = true) ∧
    ¬ (∀ m, some (1 : SReg) = some m → ((reg 1 (2 ^ 63) live).regs.sr m).getLsbD 0 = true) ∧ (1 : Nat) ≠ (2 : VReg).toNat ∧
    ((⟨0, 1⟩ : CtxRef).core = live.pkg.cur.core ∧ (⟨0, 1⟩ : CtxRef).slot ≠ live.pkg.cur.slot) ∧ (1 : TReg) ≠ 2 ∧
    live.pkg.tileFree 7 ∧ live.pkg.accFree 3 := by
  refine ⟨by decide +kernel, by decide +kernel, by decide, ?_, ?_, by decide, by decide +kernel, by decide, tile_free 7, acc_free 3⟩
  · intro m h; cases h; decide +kernel
  · intro h; exact absurd (h 1 rfl) (by decide +kernel)

theorem witness_predicated_off :
    Instr.guard? (.add ⟨false, 1⟩ 1 2 3) = some ⟨false, 1⟩ ∧ isCutInstr (.add ⟨false, 1⟩ 1 2 3) = false ∧
    Instr.guard? (.cut ⟨false, 1⟩) = some ⟨false, 1⟩ ∧ isCutInstr (.cut ⟨false, 1⟩) = true ∧
    Instr.guard? (.trap ⟨true, 0⟩ 1) = some ⟨true, 0⟩ ∧ guardHolds ⟨true, 0⟩ live.regs = false ∧
    live.ctx.mayIssue = true ∧ guardHolds ⟨false, 1⟩ live.regs = false ∧ live.ctx.idle = true ∧
    live.pkg.replayAllows (live.pkg.spaceOf live.pkg.cur.core) 2 live.pkg.cur.gcid live.ctx.chunkseq.toNat 0 = true := by
  decide +kernel

/-- `live` at the last slot of its line, in a chunk, with a register target. -/
def aside (u : Nat) : State := reg 1 u live

theorem witness_transfers :
    live.ready g [] [] ∧ live.ready g [] [2] ∧ (aside 4).ready g [1] [] ∧ (aside 4).ready g [1] [2] ∧
    answers (M.fetchLine live.pkg.cur (targetC live.regs.pc 0 4)) live = true ∧
    (addressForm (BitVec.ofNat 64 4) = true ∧ answers (M.fetchLine live.pkg.cur 4) (aside 4) = true) ∧
    faultOf (M.fetchLine live.pkg.cur (targetC live.regs.pc (-1) 0)) live = some (2, 2 ^ 64 - 64, 0) ∧
    (addressForm (BitVec.ofNat 64 (2 ^ 56 - 64)) = true ∧
      faultOf (M.fetchLine live.pkg.cur (BitVec.ofNat 64 (2 ^ 56 - 64))) (aside (2 ^ 56 - 64)) = some (2, 2 ^ 56 - 64, 0)) ∧
    addressForm 5 = false ∧ addressForm 8 = false ∧ addressForm (BitVec.ofNat 64 (2 ^ 56)) = false := by
  unfold State.ready; decide +kernel

/-- A fetch line of NOPs: its parity bits are zero; and one whose reserved bits are not. -/
theorem witness_fetch_checks :
    (live.pkg.route (live.pkg.spaceOf 0) (lineOfPc (BitVec.ofNat 64 (2 ^ 56 - 64))) rEXEC = none) ∧
    (live.pkg.route (live.pkg.spaceOf 0) (lineOfPc live.regs.pc) rEXEC).isSome = true ∧
    (∃ r l, live.pkg.route (live.pkg.spaceOf 0) (lineOfPc live.regs.pc) rEXEC = some r ∧
      Tab.find? (live.pkg.core 0).icache r.key = some l ∧ zeroBitsOk l = true ∧ parityOk l = true) ∧
    zeroBitsOk (2 ^ 511) = false ∧
    -- the cached line is one that fails its parity check, or its reserved bits; its home has a good one, a bad one, or cannot be read
    (let bad (v : Nat) : State := core0 (fun k => { k with icache := k.icache.put (lineKey 0 0) (BitVec.ofNat 512 v) }) live
     zeroBitsOk 1 = true ∧ parityOk 1 = false ∧ (bad 1).regs.pc = live.regs.pc ∧
       ((bad 1).pkg.route? ((bad 1).pkg.spaceOf 0) (lineOfPc live.regs.pc)).map Route.key = some (lineKey 0 0) ∧
       Tab.find? ((bad 1).pkg.core 0).icache (lineKey 0 0) = some 1 ∧
       gives (M.fetchHome (lineKey 0 0)) (lineAt 0 0 0 (bad 1)) (fun l _ => parityOk l && zeroBitsOk l) = true ∧
       gives (M.fetchHome (lineKey 0 0)) (lineAt 0 0 1 (bad 1)) (fun l _ => !parityOk l) = true ∧
       gives (M.fetchHome (lineKey 0 0)) (lineAt 0 0 (2 ^ 511) (bad 1)) (fun l _ => !zeroBitsOk l) = true ∧
       answers (M.fetchHome (lineKey 0 0)) (bad 1) = false) ∧
    -- a KILL has doomed the line
    (let k := lineKey 0 0
     let c := (ctx (fun c => { c with killed := some ({ va := 0, key := k, mask := 1, line := k }, c.regs.retired) }) live).ctx
     c.doomed k = some 0 ∧ live.ctx.doomed k = none) ∧
    (Tab.find? (live.pkg.core 0).icache (lineKey 0 0x1000) = none ∧ answers (M.fetchHome (lineKey 0 0x1000)) live = false ∧ ((live.pkg.route (live.pkg.spaceOf 0) 0x1000 rEXEC).map Route.key) = some (lineKey 0 0x1000) ∧
      answers (M.fetchHome (lineKey 0 0x1000)) (lineAt 0 0x1000 0 live) = true) ∧
    answers (M.fetchLine live.pkg.cur live.regs.pc) live = true ∧
    (decode (slotOfPc live.regs.pc) (slotWord 0 (slotOfPc live.regs.pc))).toOption = some (.nop g) ∧
    (decode 4 (slotWord (BitVec.allOnes 512) 4)).toOption = none ∧ (live.pkg.ctx live.pkg.cur).regs.pc = live.regs.pc := by
  refine ⟨by decide +kernel, by decide +kernel, ?_, by decide +kernel, by decide +kernel, by decide +kernel, by decide +kernel, by decide +kernel,
    by decide +kernel, by decide +kernel, rfl⟩
  refine ⟨(live.pkg.route (live.pkg.spaceOf 0) (lineOfPc live.regs.pc) rEXEC).get (by decide +kernel), placeLine 0 0, ?_⟩
  refine ⟨by simp, by decide +kernel, by decide +kernel, by decide +kernel⟩

theorem witness_loops :
    live.ready g [5] [] ∧ live.ready g [] [] ∧ live.regs.lcOf 3 = 0 ∧ (regs (·.setLc 3 1) live).regs.lcOf 3 ≠ 0 ∧
    (regs (·.setLc 3 1) live).ready g [] [] ∧ live.ready g [] [61, 62, 63] ∧ live.ready g [61, 62, 63] [] ∧
    (addressForm ((reg 61 4 (reg 62 64 live)).regs.sn 61) = true ∧ addressForm ((reg 61 4 (reg 62 64 live)).regs.sn 62) = true) ∧
    addressForm ((reg 61 5 live).regs.sn 61) = false ∧
    (addressForm ((reg 61 4 (reg 62 5 live)).regs.sn 61) = true ∧ addressForm ((reg 61 4 (reg 62 5 live)).regs.sn 62) = false) := by
  unfold State.ready; decide +kernel

/-- `live`, its task allotted no helper; and with a helper running in slot 1. -/
def alone : State := core0 (fun k => { k with task := k.task.map fun t => { t with info := { t.info with rcd := 0 } } }) live
def helped : State := put (·.goLive ⟨0, 1⟩ .zero) live
def inHelper : State := put (fun p => { p with cur := ⟨0, 1⟩ }) helped
/-- `live` in a replay whose log gives the current chunk's first outcome as a timeout with the given value; the chunk is a cut. -/
def replays (v : Nat) (s : State) : State :=
  let log := [logEntry (BitVec.ofNat 64 v) 0 1 0 5 0 2, logEntry 1 0 1 0 2 0 0]
  space0 (fun x => { x with replay := some { va := 0, space := 0, log, next := 0, stopCtx := 0, stopChunk := 9, stopCount := 0, stopAt := 9,
                                             stopped := false, split := false, lidxBase := 0, outBase := 0, countBase := 0, names := [] } }) s
/-- A line of NOPs whose slots are all transfer targets. -/
def targets : State := core0 (fun k => { k with icache := k.icache.put (lineKey 0 0) (BitVec.ofNat 512 (31 * 2 ^ 480 + 2 ^ 504)) }) live

theorem witness_contexts_and_messages :
    (inHelper.readyCut g [1] [2] ∧ inHelper.pkg.cur.slot ≠ 0 ∧ inHelper.ready g [1] [2]) ∧ (live.readyCut g [1] [2] ∧ live.pkg.cur.slot = 0) ∧
    answers (M.fetchLine live.pkg.cur (targetC live.regs.pc 0 1)) live = true ∧
    gives (M.fetchLine live.pkg.cur (targetC live.regs.pc 0 4)) live (fun l _ => !targetBit l 4) = true ∧
    gives (M.fetchLine targets.pkg.cur (targetC targets.regs.pc 0 4)) targets (fun l q => targetBit l 4 &&
      decide ((q.core 0).freeSlot = some 0) && decide ((q.core 0).helpers < q.helperLimit 0) && q.slotReady ⟨0, 1⟩) = true ∧
    alone.pkg.helperLimit 0 ≤ (alone.pkg.core 0).helpers ∧
    (live.ready g [1] [2] ∧ live.pkg.joinCode 0 (live.regs.sr 1) = some 1 ∧ live.pkg.replayOutcome live.pkg.cur = none) ∧
    ((replays 2 live).ready g [1] [2] ∧ (replays 2 live).timedOut 2) ∧
    ((reg 1 0x10001 helped).ready g [1] [2] ∧ (reg 1 0x10001 helped).pkg.joinCode 0 0x10001 = none ∧
      (reg 1 0x10001 helped).pkg.replayOf 0 = none) ∧
    live.readyCut g [] [] ∧ ((helped.pkg.core 0).helpers ≠ 0 ∧ helped.readyCut g [] []) ∧
    ((reg 1 0xA0000 live).ready g (1 :: regRange 56 8) [2] ∧ nameZero ((reg 1 0xA0000 live).regs.sr 1) = true ∧
      ((reg 1 0xA0000 live).regs.sr 1).toNat / 2 ^ 16 % 16 ≤ 10 ∧ (reg 1 0xA0000 live).ctx.ch.deferred.length < 32) ∧
    (10 < ((reg 1 0xB0000 live).regs.sr 1).toNat / 2 ^ 16 % 16 ∧ nameZero ((reg 1 (2 ^ 63) live).regs.sr 1) = false) ∧
    (live.ready g [] (9 :: regRange 56 8) ∧ live.pkg.replayOf (live.pkg.spaceOf 0) = none ∧ live.ctx.inbox = []) ∧
    (ctx (fun c => { c with inbox := [{ sender := 1, payload := 2 }] }) live).ctx.inbox = [{ sender := 1, payload := 2 }] := by
  unfold State.readyCut State.ready State.timedOut; decide +kernel

/-- A state with a handler; in a handler; with the privilege of space 0 changed; with a task of space 1 on core 1. -/
def handled : State := regs (fun r => { r with trapvec := 64 }) live
def trapped : State := regs (fun r => { r with trapvec := 64, trapcause := 0x80000006, trappc := 3 }) live
def priv (n : Nat) (s : State) : State := space0 (fun sp => { sp with priv := n }) s
def user : State := priv 0 live
def firmware : State := priv 2 live
def neighbour (s : State) : State :=
  put (fun p => (({ p with spaces := p.spaces.put 1 (.new 0 0 1) } : Pkg).modCore 1 fun k =>
    { k with task := some { placeTask with space := 1 } }).goLive ⟨1, 0⟩ .zero) s
/-- The name of context 0 of core 1, generation 1. -/
def name1 : Nat := 16 * 2 ^ 16 + 1

theorem witness_faults_and_task_end :
    (handled.regs.trapcause.getLsbD 31 = false ∧ handled.regs.trapvec ≠ 0) ∧ trapped.regs.trapcause.getLsbD 31 = true ∧ live.regs.trapvec = 0 ∧
    (live.pkg.core 0).task = some placeTask ∧ placeTask.ended = none ∧
    live.ctx.idle = true ∧
    (let c := (ctx (fun c => { c with ch := { c.ch with count := 1 } }) live).ctx; c.ch.count ≠ 0 ∧ c.req = none ∧ c.inflight = none) ∧
    (let c := (ctx (fun c => { c with req := some { c.ch with count := 1 } }) live).ctx; c.idle = false ∧ c.ch.count = 0) ∧
    (let c := (ctx (fun c => { c with ch := { c.ch with count := 1 }, inflight := some ([], .cluster) }) live).ctx
     c.ch.count ≠ 0 ∧ (c.req ≠ none ∨ c.inflight ≠ none)) := by
  decide +kernel

theorem witness_trap_and_return :
    handled.readyCut g [] [] ∧ (handled.regs.trapcause.getLsbD 31 = false ∧ handled.regs.trapvec ≠ 0) ∧
    guardHolds ⟨true, 0⟩ live.regs = false ∧ live.ctx.mayIssue = true ∧ live.ctx.idle = true ∧
    live.pkg.replayAllows (live.pkg.spaceOf live.pkg.cur.core) 2 live.pkg.cur.gcid live.ctx.chunkseq.toNat 0 = true ∧
    trapped.readyCut g [] [] ∧ trapped.regs.trapcause.getLsbD 31 = true ∧ live.readyCut g [] [] ∧ live.regs.trapcause.getLsbD 31 = false := by
  unfold State.readyCut; decide +kernel

theorem witness_privilege_faults :
    user.readyCut g [1, 2, 3] [4] ∧ user.readyCut g (1 :: 2 :: accessSrcs 0) [4] ∧ user.readyCut g [1, 2] [4] ∧ user.readyCut g [1] [4] ∧ user.readyCut g [] [4] ∧ user.readyCut g [1] [] ∧
    user.pkg.privOf 0 < 1 ∧ live.pkg.privOf 0 < 2 ∧ live.readyCut g [1] [4] ∧ live.readyCut g [1] [] ∧
    ((reg 3 1 user).pkg.namedSpace 3 ≠ (reg 3 1 user).pkg.spaceOf 0 ∧ (reg 3 1 user).readyCut g [1, 2, 3] [4] ∧
      (reg 3 1 user).pkg.mayDebug user.fuses 0 ((reg 3 1 user).pkg.namedSpace 3) 0 = false) ∧
    (let s := reg 1 name1 (neighbour user)
     s.readyCut g [1, 2] [4] ∧ s.pkg.named? (s.regs.sr 1) = some ⟨1, 0⟩ ∧ (s.pkg.subject (s.regs.sr 1)).map Prod.snd = some 1 ∧
       s.pkg.mayDebug s.fuses 0 1 1 = false ∧ s.pkg.mayDebug s.fuses 0 1 2 = false) ∧
    ((reg 1 (2 ^ 16) user).regs.sr 1).toNat / 2 ^ 16 % 2 ^ 16 ≠ (reg 1 (2 ^ 16) user).pkg.spaceOf 0 := by
  unfold State.readyCut; decide +kernel

theorem witness_system_registers :
    live.ready g [] [1] ∧ (live.pkg.space? (live.pkg.spaceOf 0)).isSome = true ∧ live.pkg.profPend = none ∧ live.ready g [1] [] ∧
    addressForm 4 = true ∧ addressForm (BitVec.ofNat 64 (2 ^ 56 - 60)) = true ∧ addressForm 5 = false ∧
    live.readyCut g [1] [] ∧ 1 ≤ live.pkg.privOf 0 ∧
    ([0, 8, 30].all fun v => ((reg 1 v live).regs.sr 1).toNat == v && (v == 0 || (8 ≤ v && v ≤ 30))) ∧
    ([1, 7, 31].all fun v => ((reg 1 v live).regs.sr 1).toNat == v && ((1 ≤ v && v ≤ 7) || 30 < v)) := by
  unfold State.ready State.readyCut; decide +kernel

/-- Registers 1 to 3 of `live`. -/
def abc (a b c : Nat) (s : State) : State := reg 1 a (reg 2 b (reg 3 c s))
/-- A window descriptor: valid, pages 1 to 1, all rights but INV; and a format-window descriptor of S4E. -/
def aWindow : Nat := 1 * 2 ^ 88 + 1 * 2 ^ 24 + 0x3F
def aFormat : Nat := 1 * 2 ^ 88 + 2 * 2 ^ 76 + 1 * 2 ^ 24 + 1

theorem witness_purge_windows_counters :
    live.readyCut g [1, 2, 3] [4] ∧ live.pkg.ownOrSystem (live.pkg.namedSpace 3) = true ∧
    ((abc 0 0 9 live).pkg.space? ((abc 0 0 9 live).pkg.namedSpace 3) = none ∧ (abc 0 0 9 live).pkg.ownOrSystem 9 = true) ∧
    2 ^ 48 < ((abc 0 (2 ^ 48 + 1) 0 live).regs.sr 2).toNat ∧
    (live.pkg.space? 0).isSome = true ∧ (let s := abc (lsBase - 64) 65 0 live
     (s.regs.sr 2).toNat ≠ 0 ∧ lsBase < (s.regs.sr 1).toNat + (s.regs.sr 2).toNat) ∧
    (let s := abc 4096 8192 0 (lineAt 0 4096 7 live)
     (s.regs.sr 1).toNat + (s.regs.sr 2).toNat ≤ lsBase ∧ (s.pkg.purge 0 4096 8192).2 = true) ∧
    (1 ≤ live.pkg.privOf 0 ∧ (live.pkg.route (live.pkg.spaceOf 0) (2 ^ 15) rRD).isSome = true) ∧
    ((abc 0 33 0 live).regs.sr 2).toNat % 32 ≠ 0 ∧ 31 < ((abc 0 32 32 live).regs.sr 3).toNat ∧
    (let s := abc 0 (2 ^ 15) 31 (lineAt 0 (2 ^ 15) aWindow live)
     (s.regs.sr 3).toNat ≤ 31 ∧
       gives (M.descriptor (2 ^ 15)) s (fun w q => match q.space? 0 with
        | some sp => windowStatus sp 31 w == 0 && !q.windowBusy 0 (sp.windows.get 0 31) &&
            !(q.windowUsers 0).any fun y => (q.ctx y).excl.isSome
        | none => false) = true) ∧
    (let s := abc 0 (2 ^ 15) 0 (lineAt 0 (2 ^ 15) (aWindow + 2 ^ 7) live)
     gives (M.descriptor (2 ^ 15)) s (fun w q => match q.space? 0 with
        | some sp => windowStatus sp 0 w != 0
        | none => false) = true) ∧
    (let s := abc 9 (2 ^ 15) 0 (lineAt 0 (2 ^ 15) aWindow live)
     gives (M.descriptor (2 ^ 15)) s (fun _ q => (q.space? 9).isNone) = true) ∧
    (live.readyCut g [1, 2] [4] ∧ ((abc 33 0 0 live).regs.sr 1).toNat % 32 ≠ 0 ∧ 15 < ((abc 32 16 0 live).regs.sr 2).toNat) ∧
    gives (M.descriptor (2 ^ 15)) (lineAt 0 (2 ^ 15) aFormat live) (fun w q => (q.space? (w.toNat / 2 ^ 8 % 2 ^ 16)).isSome &&
      formatStatus q.fmtw 15 w == 0) = true ∧
    gives (M.descriptor (2 ^ 15)) (lineAt 0 (2 ^ 15) (aFormat + 2) live) (fun w q => (q.space? (w.toNat / 2 ^ 8 % 2 ^ 16)).isSome &&
      formatStatus q.fmtw 15 w != 0) = true ∧
    gives (M.descriptor (2 ^ 15)) (lineAt 0 (2 ^ 15) (aFormat + 2 ^ 8) live) (fun w q => (q.space? (w.toNat / 2 ^ 8 % 2 ^ 16)).isNone) = true ∧
    (live.readyCut g [1] [4] ∧ live.pkg.ownOrSystem (15 / 2 ^ 16 % 2 ^ 16) = true ∧ (live.pkg.space? (15 / 2 ^ 16)).isSome = true) ∧
    live.pkg.ownOrSystem (0x10 / 2 ^ 16 % 2 ^ 16) = true ∧ 0x10 / 16 % 2 ^ 12 ≠ 0 ∧ live.pkg.space? (0x90000 / 2 ^ 16 % 2 ^ 16) = none := by
  unfold State.readyCut; decide +kernel

theorem witness_attest_keys_fuses :
    live.readyCut g [1, 2] [3] ∧ ((abc 65 0 0 live).regs.sr 1).toNat % 64 ≠ 0 ∧
    (((abc 64 66 0 live).regs.sr 1).toNat % 64 = 0 ∧ ((abc 64 66 0 live).regs.sr 2).toNat % 64 ≠ 0) ∧
    (let s := abc (2 ^ 15) (2 ^ 16) 0 (lineAt 0 (2 ^ 15) 2 live)
     s.readyCut g [1, 2] [3] ∧ s.pkg.badByte (s.pkg.spaceOf 0) rRD (2 ^ 15) 64 = none ∧
       s.pkg.badByte (s.pkg.spaceOf 0) (rENG + rWR) (2 ^ 16) 4096 = none ∧
       gives (M.attRequest (2 ^ 15)) s (fun w q => decide (reqKind w ≤ 2 ∧ w.toNat / 2 ^ 8 % 2 ^ 8 = 0 ∧ w.toNat / 2 ^ 32 % 2 ^ 96 = 0 ∧
         1 ≤ q.privOf 0)) = true) ∧
    gives (M.attRequest (2 ^ 15)) (lineAt 0 (2 ^ 15) 3 live) (fun w _ => decide (reqKind w > 2)) = true ∧
    -- an unprivileged context asks for the module's record, and for another space's
    (∀ d ∈ [2, 5 * 2 ^ 16],
      let s := abc (2 ^ 15) (2 ^ 16) 0 (lineAt 0 (2 ^ 15) d user)
      s.readyCut g [1, 2] [3] ∧ s.pkg.badByte (s.pkg.spaceOf 0) rRD (2 ^ 15) 64 = none ∧
        s.pkg.badByte (s.pkg.spaceOf 0) (rENG + rWR) (2 ^ 16) 4096 = none ∧
        gives (M.attRequest (2 ^ 15)) s (fun w q => decide (reqKind w ≤ 2 ∧ w.toNat / 2 ^ 8 % 2 ^ 8 = 0 ∧ w.toNat / 2 ^ 32 % 2 ^ 96 = 0 ∧
          q.privOf 0 = 0 ∧ (reqKind w = 2 ∨ (reqKind w = 0 ∧ reqSpace w ≠ q.spaceOf 0)))) = true) ∧
    (live.readyCut g [] [3] ∧ 1 ≤ live.pkg.privOf 0) ∧ (firmware.readyCut g [1] [] ∧ 2 ≤ firmware.pkg.privOf 0) ∧
    ((reg 1 7 firmware).regs.sr 1).toNat ≤ 7 ∧ 7 < ((reg 1 8 firmware).regs.sr 1).toNat ∧
    firmware.readyCut g [1] [3] ∧ ((reg 1 255 firmware).regs.sr 1).toNat ≤ 255 ∧ 255 < ((reg 1 256 firmware).regs.sr 1).toNat ∧
    2 ^ 56 ≤ ((reg 1 (2 ^ 56) firmware).regs.sr 1).toNat ∧ ((reg 1 65 firmware).regs.sr 1).toNat % 64 ≠ 0 ∧
    (let s := linesAt 0 (2 ^ 16) 16 firmware
     s.pkg.badByte 0 rRD (2 ^ 16) 1024 = none ∧ (match s.pkg.readAll 0 rRD (2 ^ 16) 1024 with
       | .ok (_, bad, _) => !bad
       | .error _ => false) = true) ∧
    (live.fuses.lcs = 2 ∧ live.pkg.sealWiped = false) ∧ ({ words := [(0, 1)] } : Fuses).lcs ≠ 2 := by
  unfold State.readyCut; decide +kernel

/-- `live` with a helper in slot 1, halted by debug stop 1. -/
def stopped : State := put (·.modCtx ⟨0, 1⟩ fun c => { c with st := .halted, stop := some 1 }) helped

theorem witness_debug_instructions :
    live.readyCut g [1, 2, 3] [4] ∧ live.pkg.mayDebug live.fuses 0 (live.pkg.namedSpace 3) 0 = true ∧
    live.pkg.space? ((abc 0 0 9 live).pkg.namedSpace 3) = none ∧ 2 ^ 12 ≤ ((abc 0 (2 ^ 12) 0 live).regs.sr 2).toNat ∧
    ((abc 0 28 0 live).regs.sr 2).toNat / 4 % 8 = 7 ∧ ((abc 1 4 0 live).regs.sr 1).toNat % 2 ^ 1 ≠ 0 ∧
    (let s := abc 64 0xFFB 0 live; (s.regs.sr 2).toNat < 2 ^ 12 ∧ (s.regs.sr 2).toNat / 4 % 8 ≤ 6 ∧ (s.regs.sr 1).toNat % 2 ^ 6 = 0) ∧
    live.readyCut g [1, 2] [4] ∧ live.pkg.mayDebugCtx live.fuses 1 1 = true ∧ live.pkg.mayDebugCtx live.fuses 1 2 = true ∧
    1 < ((abc 0 2 0 live).regs.sr 2).toNat ∧ live.pkg.subject (live.regs.sr 1) = none ∧ live.pkg.named? (live.regs.sr 1) = none ∧
    live.pkg.spaceChunks 0 = [] ∧
    (let s := reg 1 0x10001 helped
     s.pkg.spaceChunks 0 = [⟨0, 1⟩] ∧ (s.pkg.spaceChunks 0).any (fun y => (s.pkg.ctx y).excl.isSome) = false) ∧
    (let s := reg 1 0x10001 stopped; s.pkg.subject (s.regs.sr 1) = some (⟨0, 0⟩, 0) ∧ s.pkg.stopsOn ⟨0, 0⟩ = [] ∧ s.pkg.mayDebugCtx s.fuses 1 1 = true) ∧
    (let t : Stop := { seq := 1, cause := 0x31, tool := 0, target := 0, dom := 0, tasks := [⟨0, 0⟩], halted := [⟨0, 0⟩], hits := [], skids := [],
                       notes := [], recorded := true, rel := false, raised := 0, strayed := false }
     let s := put (fun p => { p with stops := [t] }) (reg 1 0x10001 stopped)
     s.pkg.stopsOn ⟨0, 0⟩ ≠ [] ∧ (s.pkg.stopsOn ⟨0, 0⟩).filter (fun (t : Stop) => t.tool == s.pkg.spaceOf 0) ≠ [] ∧
       s.pkg.subject (s.regs.sr 1) = some (⟨0, 0⟩, 0) ∧ s.pkg.mayDebugCtx s.fuses 1 1 = true) ∧
    2 ^ 20 < ((abc 0 (2 ^ 20 + 1) 0 live).regs.sr 2).toNat ∧ (1 ≤ ((abc 0 (2 ^ 20) 0 live).regs.sr 2).toNat ∧ ((abc 0 (2 ^ 20) 0 live).regs.sr 2).toNat ≤ 2 ^ 20) ∧
    (let s := reg 1 0x10001 helped; s.pkg.named? (s.regs.sr 1) = some ⟨0, 1⟩ ∧ s.pkg.steppable ⟨0, 1⟩ = false) ∧
    (let s := reg 1 0x10001 stopped
     s.readyCut g [1, 2] [4] ∧ s.pkg.mayDebugCtx s.fuses 1 2 = true ∧ s.pkg.named? (s.regs.sr 1) = some ⟨0, 1⟩ ∧ (⟨0, 1⟩ : CtxRef) ≠ s.pkg.cur ∧
       (s.pkg.ctx ⟨0, 1⟩).st = .halted ∧ (s.pkg.ctx ⟨0, 1⟩).stop.isSome = true ∧ (s.pkg.ctx ⟨0, 1⟩).stepping = none ∧
       (s.pkg.core 0).preempt = false ∧ (s.pkg.ctx ⟨0, 1⟩).exclWant = none ∧ s.ctx.stepping = none) ∧
    live.readyCut g [1, 2] [] ∧ 2 ^ 16 ≤ ((abc (2 ^ 16) 0 0 live).regs.sr 1).toNat ∧ 2 ^ 8 ≤ ((abc 0 (2 ^ 8) 0 live).regs.sr 2).toNat ∧
    (((abc 0xFFFF 0xFF 0 live).regs.sr 1).toNat < 2 ^ 16 ∧ ((abc 0xFFFF 0xFF 0 live).regs.sr 2).toNat < 2 ^ 8) ∧ live.readyCut g [] [] := by
  unfold State.readyCut; decide +kernel

theorem witness_scalar_accesses :
    (live.pkg.route 0 lsBase rRD = none ∧ ((live.pkg.route 0 (2 ^ 16) rRD).map fun r => decide (r.place = .line 0 31)) = some true) ∧
    live.ready g (memSrcs ⟨1, 2, 8, 0⟩) [3] ∧ live.ready g (3 :: memSrcs ⟨1, 2, 8, 0⟩) [] ∧ live.ready g (memSrcs ⟨1, 0, 0, 0⟩) [] ∧
    (2 ^ 56 ≤ (memAddr (reg 1 (2 ^ 56) live).regs ⟨1, 0, 0, 0⟩).toNat) ∧ (memAddr (reg 1 12 live).regs ⟨1, 0, 0, 0⟩).toNat % (Ty.i64.width / 8) ≠ 0 ∧
    (let va := (memAddr (reg 1 lsBase live).regs ⟨1, 0, 0, 0⟩).toNat
     va < 2 ^ 56 ∧ va % 1 = 0 ∧ live.pkg.route (live.pkg.spaceOf 0) va rRD = none) ∧
    answers (M.load live.pkg.cur rRD (2 ^ 16) 8 false false) (lineAt 0 (2 ^ 16) 7 live) = true ∧
    answers (M.store live.pkg.cur (2 ^ 16) 8 9) live = true ∧
    (let va := (memAddr (reg 1 (2 ^ 16) live).regs ⟨1, 0, 0, 0⟩).toNat
     va < 2 ^ 56 ∧ va % 1 = 0 ∧ (live.pkg.route (live.pkg.spaceOf 0) va rRD).isSome = true ∧
       ∃ rt o w, live.pkg.route? (live.pkg.spaceOf 0) va = some rt ∧ rt.place = .line o w ∧ live.pkg.copied rt.key = false) := by
  unfold State.ready
  iterate 12 refine ⟨by decide +kernel, ?_⟩
  refine ⟨(live.pkg.route? (live.pkg.spaceOf 0) (2 ^ 16)).get (by decide +kernel), 0, 31, ?_, ?_, ?_⟩
  · decide +kernel
  · decide +kernel
  · decide +kernel

/-- `live` with data at home from 2^16 on, and s1 there. -/
def data : State := reg 1 (2 ^ 16) (linesAt 0 (2 ^ 16) 8 live)
/-- The lanes that an access of a mask register selects. -/
def oneLane : State := reg 9 (2 ^ 63) data

theorem witness_vector_accesses :
    live.pkg.ready g (memSrcs ⟨1, 2, 2, 0⟩ ++ accessSrcs 9) [] [] [31] none = true ∧ live.pkg.ready g ([1, 2] ++ accessSrcs 9) [] [] [31] none = true ∧
    live.pkg.ready g ([1] ++ accessSrcs 9) [] [30] [31] none = true ∧ live.pkg.ready g (memSrcs ⟨1, 2, 2, 0⟩ ++ accessSrcs 9) [] [31] [] none = true ∧
    live.pkg.ready g ([1, 2] ++ accessSrcs 9) [] [31] [] none = true ∧ live.pkg.ready g ([1] ++ accessSrcs 9) [] [31, 30] [] none = true ∧
    accessLanes oneLane.regs 9 = [63] ∧ accessLanes data.regs 0 = List.range 64 ∧
    (let addr (j : Nat) : Word := memAddr data.regs ⟨1, 0, 0, 0⟩ + BitVec.ofNat 64 (j * 4)
     ((List.range 64).all fun k => decide ((addr k).toNat < 2 ^ 56 ∧ (addr k).toNat % 4 = 0) &&
        (data.pkg.route 0 (addr k).toNat rRD).isSome && (data.pkg.route 0 (addr k).toNat rWR).isSome) = true ∧
      answers (M.loadEls data.pkg.cur 4 false false addr (accessLanes data.regs 0)) data = true ∧
      answers (M.storeParts data.pkg.cur (fun j => (addr j).toNat) (fun j => M.store data.pkg.cur (addr j).toNat 4 (data.regs.lane 31 j).toNat)
        data.regs.part (accessLanes data.regs 0)) data = true) ∧
    (let addr (_ : Nat) : Word := memAddr (reg 1 6 oneLane).regs ⟨1, 0, 0, 0⟩
     accessLanes (reg 1 6 oneLane).regs 9 = [] ++ 63 :: [] ∧ (addr 63).toNat < 2 ^ 56 ∧ (addr 63).toNat % 4 ≠ 0) := by
  decide +kernel

/-- A local store of 4 KiB on core 0. -/
def scratch : State := core0 (fun k => { k with extSize := 4096, extSpace := 0 }) live

/-- The same on core 1, and core 0 with an exclusive chunk. -/
def distant : State := put (·.modCore 1 fun k => { k with extSize := 4096, extSpace := 0 }) live

theorem witness_loads_and_stores :
    (((distant.pkg.route 0 (lsBase + 2 ^ 20 + 64) rRD).map Route.place) = some (.lstore 1 64) ∧
      answers (M.load distant.pkg.cur rRD (lsBase + 2 ^ 20 + 64) 8 false false) distant = true) ∧
    (∀ e ∈ [none, some Level.die],
      let s := ctx (fun c => { c with excl := e }) scratch
      ((s.pkg.route 0 (lsBase + 4088) rWR).map fun r => decide (r.place = .lstore 0 4088) && !s.pkg.copied r.key) = some true ∧
        answers (M.store s.pkg.cur (lsBase + 4088) 8 5) s = true ∧
        (s.ctx.excl = e ∧ (∀ c ∈ (s.pkg.core 0).ctxs, c.1 ≠ s.pkg.cur.slot → ∀ h ∈ c.2.chunks, h.undo = []))) ∧
    (∃ r o w, data.pkg.route (data.pkg.spaceOf 0) (2 ^ 16 + 56) rRD = some r ∧ r.place = .line o w) ∧ (2 ^ 16 + 56) % 64 + 8 ≤ 64 ∧
    answers (M.load data.pkg.cur rRD (2 ^ 16 + 56) 8 false false) data = true ∧
    (∃ r, scratch.pkg.route (scratch.pkg.spaceOf 0) (lsBase + 4088) rRD = some r ∧ r.place = .lstore 0 4088) ∧
    answers (M.load scratch.pkg.cur rRD (lsBase + 4088) 8 false false) scratch = true ∧
    (∃ r, data.pkg.route (data.pkg.spaceOf 0) (2 ^ 16 + 56) rWR = some r ∧ data.pkg.copied r.key = false) ∧
    answers (M.store data.pkg.cur (2 ^ 16 + 56) 8 5) data = true ∧
    (∀ e ∈ (data.pkg.core 0).ctxs, (⟨0, e.1⟩ : CtxRef) ≠ data.pkg.cur → ∀ h ∈ e.2.chunks, h.undo = [] ∧ h.ulines = []) := by
  refine ⟨by decide +kernel, by decide +kernel,
    ⟨(data.pkg.route (data.pkg.spaceOf 0) (2 ^ 16 + 56) rRD).get (by decide +kernel), 0, 31, ?_, ?_⟩, by decide, by decide +kernel,
    ⟨(scratch.pkg.route (scratch.pkg.spaceOf 0) (lsBase + 4088) rRD).get (by decide +kernel), ?_, ?_⟩, by decide +kernel,
    ⟨(data.pkg.route (data.pkg.spaceOf 0) (2 ^ 16 + 56) rWR).get (by decide +kernel), ?_, ?_⟩, by decide +kernel, by decide +kernel⟩
  · simp
  · decide +kernel
  · simp
  · decide +kernel
  · simp
  · decide +kernel

theorem witness_read_after_write :
    data.ctx.excl = none ∧
    gives (do M.store data.pkg.cur (2 ^ 16 + 56) 8 0x1234; M.load data.pkg.cur rRD (2 ^ 16 + 56) 8 false false) data (fun v _ => v == 0x1234) = true := by
  decide +kernel

/-- Registers from s40 on, beside s1 and s2. -/
def shape (dst src : Nat) (l : List Nat) : State := (l.zipIdx).foldl (fun s e => reg (40 + e.2) e.1 s) (reg 1 dst (reg 2 src live))
/-- A full deferred-effect list. -/
def fullList : State := ctx (fun c => { c with ch := { c.ch with count := 32, deferred := (List.range 32).map fun _ =>
  { kind := .get 0 0 0 0, col := 2, tok := none, ret := 0 } } }) live
def copyShape (dst src n : Nat) : Shape := ⟨BitVec.ofNat 64 dst, BitVec.ofNat 64 src, n, 1, 1, 0, 0, 0, 0⟩

/-- Where space 0 has the placing's one window, its bytes below 2^48 are all in reach, one and as a range of them. -/
theorem placed_route {q : Pkg} {va need : Nat} (h : (q.space? 0).map Space.windows = some [(31, placeWindow)]) (hn : 62 &&& need = need)
    (hi : va < 2 ^ 48) : ∃ m, q.route 0 va need = some ⟨lineKey 0 va, 62, .line m 31⟩ := by
  obtain ⟨sp, e, w⟩ := Option.map_eq_some_iff.1 h
  have h1 : (decide (va ≥ vaTop) || inReserved va) = false := by
    have h56 : va < 72057594037927936 := by omega
    have hr : va < reservedBase := by unfold reservedBase; omega
    simp [vaTop, inReserved, *]
  have h2 : inLocal va = false := by
    have : va < lsBase := by unfold lsBase; omega
    simp [inLocal]; omega
  have h3 : q.window? 0 va = some (31, placeWindow) := by
    have e' : inWindow placeWindow va = true := by
      have a : fld placeWindow.toNat 63 24 = 0 := by decide +kernel
      have b : fld placeWindow.toNat 127 88 = 0xFEFFFFFFFF := by decide +kernel
      have c : placeWindow.getLsbD 0 = true := by decide +kernel
      simp only [inWindow, a, b, c]
      simp
      omega
    simp [Pkg.window?, e, w, e']
  have h5 : fld placeWindow.toNat 6 1 * 2 = 62 := by decide +kernel
  refine ⟨homeBy placeWindow va, ?_⟩
  simp [Pkg.route, Pkg.route?, h1, h2, h3, h5, hn]
theorem placed_range {q : Pkg} {need : Nat} (h : (q.space? 0).map Space.windows = some [(31, placeWindow)]) (hn : 62 &&& need = need) :
    ∀ f va n, va + n ≤ 2 ^ 48 → firstBad q 0 need f va n = none
  | 0, _, _, _ => rfl
  | f + 1, va, n, b => by
    unfold firstBad
    split
    · rfl
    · obtain ⟨m, e⟩ := placed_route (va := va) h hn (by omega)
      have t : ¬ va ≥ 2 ^ 64 := by omega
      simp only [t, e, if_false]
      generalize (if inLocal va = true then _ else _ : Nat) = step
      split
      · rfl
      · exact placed_range h hn f _ _ (by omega)

theorem witness_deferred_operations :
    (live.pkg.badByte 0 (rENG + rWR) (2 ^ 16) (2 ^ 32 + 1) = none ∧ live.pkg.badByte 0 (rENG + rRD) (2 ^ 16) (2 ^ 32 + 1) = none ∧
      live.pkg.badByte 0 (rENG + rWR) (2 ^ 16) (2 ^ 32) = none) ∧
    live.ready g [1, 2, 57] [3] ∧ live.ready g [1, 2, 57, 58] [3] ∧ live.ready g (1 :: 2 :: regRange 57 4) [3] ∧
    live.ready g (1 :: 2 :: regRange 57 7) [3] ∧ live.ready g (1 :: 2 :: regRange 62 2) [3] ∧ live.ready g (1 :: 2 :: regRange 56 8) [3] ∧
    fullList.ready g [1, 2, 57] [3] ∧ ¬ fullList.ctx.ch.deferred.length < 32 ∧ live.ctx.ch.deferred.length < 32 ∧
    2 ^ 40 - 1 < (copyShape 0 0 (2 ^ 40)).total ∧
    (copyShape (2 ^ 16) (2 ^ 17) (2 ^ 40 - 1)).total ≤ 2 ^ 40 - 1 ∧ live.pkg.badRow 0 (copyShape (2 ^ 16) (2 ^ 17) 64) 0 = none ∧
    (copyShape (2 ^ 16) (2 ^ 56 - 8) 64).total ≠ 0 ∧ (live.pkg.badRow 0 (copyShape (2 ^ 16) (2 ^ 56 - 8) 64) 0).isSome = true ∧
    (((shape (2 ^ 16) (2 ^ 17) [64, 2 ^ 18]).regs.sn 41).toNat % 64 = 0 ∧ live.pkg.badByte 0 (rENG + rWR) (2 ^ 18) 64 = none) ∧
    ((shape (2 ^ 16) (2 ^ 17) [64, 2 ^ 18 + 1]).regs.sn 41).toNat % 64 ≠ 0 ∧
    ((live.pkg.badByte 0 (rENG + rWR) (lsBase - 8) 64).isSome = true ∧ (live.pkg.badByte 0 (rENG + rRD) (lsBase - 8) 64).isSome = true) ∧
    2 ^ 32 < ((shape 0 0 [2 ^ 32 + 1, 0]).regs.sn 40).toNat ∧ 2 ^ 12 ≤ ((shape 0 0 [0, 2 ^ 12]).regs.sn 41).toNat ∧
    (((shape (2 ^ 16) 0 [2 ^ 32, 2 ^ 12 - 1]).regs.sn 40).toNat ≤ 2 ^ 32 ∧ ((shape (2 ^ 16) 0 [2 ^ 32, 2 ^ 12 - 1]).regs.sn 41).toNat < 2 ^ 12) ∧
    live.pkg.badByte 0 (rENG + rWR) (2 ^ 16) 64 = none ∧ live.pkg.badByte 0 (rENG + rRD) (2 ^ 16) 64 = none ∧
    (((reg 1 65 live).regs.sr 1).toNat % 64 ≠ 0 ∧ ((reg 1 64 live).regs.sr 1).toNat % 64 = 0 ∧ 2 ^ 12 ≤ ((reg 3 (2 ^ 12) live).regs.sr 3).toNat) ∧
    (live.ready g (1 :: regRange 62 (2 ^ 1)) [3] ∧ (live.pkg.route 0 (2 ^ 16) rPAN).isSome = true ∧ live.pkg.route 0 lsBase rPAN = none) ∧
    (live.pkg.ready g [1, 9] [3] [29, 30, 31] [] none = true ∧
      (List.range 64).filter (fun j => ((reg 9 3 live).regs.sr 9).getLsbD j) = [0] ++ 1 :: [] ∧
      (List.range 64).filter (fun j => ((reg 9 (2 ^ 63) live).regs.sr 9).getLsbD j) = [63]) := by
  have w : (live.pkg.space? 0).map Space.windows = some [(31, placeWindow)] := by decide +kernel
  refine ⟨⟨placed_range w (by decide) _ _ _ (by decide), placed_range w (by decide) _ _ _ (by decide), placed_range w (by decide) _ _ _ (by decide)⟩, ?_⟩
  unfold State.ready; decide +kernel

/-- The routine of Example 6.1 (Table 6.7) in slot 4 of space 0. -/
def fetchAdd : List Nat := [0x09A04000, 0x05E00000, 0x002C0000]
def withRoutine (s : State) : State := put (fun p => (p.setTableEntry 0 4 (mkEntry 0x00030007 fetchAdd 1 1)).seal) s
def pans : State := withRoutine (reg 1 (2 ^ 16) (reg 2 1 (lineAt 0 (2 ^ 16) 41 live)))
def panCall (s : State) (returning : Bool) (va operand : Nat) : PanCall :=
  { attr := s.pkg.ownAttr s.pkg.cur, origin := 0, slot := 4, lidx := 0, lane := 0, va, operand := BitVec.ofNat 512 operand, returning }
/-- How an application at the home ends: its code, whether it counts, whether its routine ran, what it returns. -/
def panEnd (s : State) (c : PanCall) : Option (Nat × Bool × Bool × Line) :=
  match s.pkg.panHome c with
  | .done _ code counted ran ret => some (code, counted, ran, ret)
  | .wait | .held _ => none

/-- Example 6.1: the line's lane 0 holds 41, and the operand is 1; 41 returns. The space's table is empty elsewhere. -/
theorem witness_returning_pans :
    pans.pkg.readyEarly g (1 :: regRange 2 1) [3, 5] [] [] = true ∧ pans.pkg.readyEarly g (1 :: regRange 56 8) [5] [] [31] = true ∧
    pans.pkg.readyEarly g [1, 9] [9] [29, 30, 31] [0, 1] = true ∧ pans.ctx.panDone = 0 ∧ pans.ctx.killed = none ∧ pans.pkg.resetting = [] ∧
    (pans.pkg.panBehind pans.pkg.cur pans.ctx.gen pans.pkg.nextOp (2 ^ 16) = false ∧ pans.pkg.mayReturn pans.pkg.cur 0 = true) ∧
    panEnd pans (panCall pans true (2 ^ 16) 1) = some (0, true, true, 41) ∧
    panEnd (lineAt 0 (2 ^ 16) 41 live) (panCall live true (2 ^ 16) 1) = some (1, false, false, 0) ∧
    (live.pkg.route 0 (2 ^ 16) rPAN).isSome = true ∧ (2 ^ 56 ≤ (2 ^ 56 : Nat)) ∧ live.pkg.route 0 lsBase rPAN = none ∧
    (let s := reg 9 3 pans
     (panEls s.regs 1 29 30 9).length = 2 ∧ ((panEls s.regs 1 29 30 9).all fun e => (s.pkg.route 0 e.va.toNat rPAN).isSome &&
        decide (e.va.toNat < 2 ^ 56 ∧ e.va.toNat % 64 = 0)) = true ∧
      gives (M.panOnce 4 0 (2 ^ 16) 1) s (fun e q => decide (e = (0, 1, 41) ∧ q.cur = s.pkg.cur)) = true) ∧
    (let s := ctx (fun c => { c with panDone := 1 }) (reg 9 3 pans); ((panEls s.regs 1 29 30 9).drop s.ctx.panDone).length = 1) ∧
    panEls pans.regs 1 29 30 9 = [] ∧
    (let s := reg 1 lsBase (reg 9 2 pans)
     (panEls s.regs 1 29 30 9).map (·.va.toNat) = [lsBase] ∧ s.pkg.route 0 lsBase rPAN = none) := by
  decide +kernel

theorem witness_pan_at_home :
    (let s := put (fun p => { p with poison := [256 * 4] }) pans; s.pkg.tableUnreadable 0 4 = true ∧ s.pkg.cached? 0 0 4 = none) ∧
    (pans.pkg.tableUnreadable 0 4 = false ∧ pans.pkg.entries = []) ∧
    (pans.pkg.useEntry 5 0 4 7).cached? 5 0 4 = some 7 ∧
    entState (pans.pkg.tableEntry 0 4) = 1 ∧ (entState (pans.pkg.tableEntry 0 5) ≠ 1 ∧ entState (pans.pkg.tableEntry 0 5) ≠ 2) ∧
    entState (mkEntry 0x00030007 fetchAdd 2 1) = 2 ∧ hdrRet (entHdr (pans.pkg.tableEntry 0 4)) = true ∧ hdrRet 0x00030003 = false ∧
    (∃ r, pans.pkg.route? 0 (2 ^ 16) = some r ∧ pans.pkg.down r.key = false ∧ pans.pkg.copied r.key = false ∧ pans.pkg.hasRec r.key = false ∧
      (match pans.pkg.fill r.key (BitVec.allOnes 64) with
        | .ok q => !q.linePoison r.key && decide (q.lineData r.key = 41) &&
            !(q.countPan (q.homeOf r.key) 0).exclusiveHolds (q.levelOf 0 [] [r.key]) 0 [r.key] none
        | .error _ => false) = true) ∧
    runRoutine 0x00030007 fetchAdd 41 1 = .done (some 42) 41 ∧ runRoutine 0x00010004 [0x000E0000] 41 1 = .done none 0 ∧
    runRoutine 0x00020000 [0x5C000003, 0x000E0000] 41 1 = .fail 0x13 := by
  iterate 8 refine ⟨by decide +kernel, ?_⟩
  refine ⟨⟨(pans.pkg.route? 0 (2 ^ 16)).get (by decide +kernel), by simp, by decide +kernel⟩,
    by decide +kernel, by decide +kernel, by decide +kernel⟩

/-- The image of Example 6.1 in memory; the same with a bad header, and with a bad word. -/
def image (h w1 : Nat) : State := reg 1 (2 ^ 16) (lineAt 0 (2 ^ 16) (h + w1 * 2 ^ 32 + 0x05E00000 * 2 ^ 64 + 0x002C0000 * 2 ^ 96) live)

theorem witness_routine_table :
    live.ready g [1] [] ∧ live.ready g [] [2] ∧ live.ready g [] [] ∧ ((reg 1 2 live).regs.sr 1).toNat % 4 ≠ 0 ∧
    ((live.pkg.route 0 (2 ^ 16) rRD).isSome = true ∧ (2 ^ 16) % 4 = 0 ∧ live.pkg.badByte 0 rRD (2 ^ 16) 4 = none) ∧
    entState ((pans.ctx.chunks.reverse.flatMap Chunk.tabOps).foldl (tabEffect 4) (pans.pkg.tableEntry 0 4)) ≠ 0 ∧ entState (live.pkg.tableEntry 0 255) = 0 ∧
    gives (M.load live.pkg.cur rRD (2 ^ 16) 4 false false) (image 0 0) (fun h _ => !headerOk h) = true ∧
    gives (do
        let h ← M.load live.pkg.cur rRD (2 ^ 16) 4 false false
        let q ← get
        let b ← M.loadBytes live.pkg.cur rRD false false (4 * hdrLen h / 64 + 2) (2 ^ 16 + 4) (4 * hdrLen h)
        M.tableChange 4 (.load 4 (BitVec.ofNat 32 h :: wordsOf b))
        return (h, b, q.badByte (q.spaceOf 0) rRD (2 ^ 16 + 4) (4 * hdrLen h))) (image 0x00030007 0x09A04000)
      (fun e _ => headerOk e.1 && e.2.2.isNone && (imageReason e.1 ((wordsOf e.2.1).map BitVec.toNat)).isNone) = true ∧
    imageReason 0x00030007 [0x09A04001, 0x05E00000, 0x002C0000] = some (6, 1) ∧
    live.ctx.reqWrote (lineKey 0 (tableLineVa 4)) = false ∧
    ∀ y ∈ (live.pkg.core 0).ctxs, y.1 ≠ live.pkg.cur.slot → ∀ h ∈ y.2.chunks, h.tabOps = [] := by
  unfold State.ready; decide +kernel

/-- A GET of colour 2 in the chunk; a COPY of colour 2, and one of another context, outstanding. -/
def deferring : State := ctx (fun c => { c with ch := { c.ch with count := 1, deferred := [{ kind := .get 0 0 0 0, col := 2, tok := none, ret := 0 }] } }) live
def op (who : CtxRef) (kind : EKind) : Op :=
  { id := 7, who, gen := 1, task := 0, space := 0, chunk := 1, lidx := 0, ret := 0, queue := 0, col := 2, tok := some 20, kind, done := [],
    held := [], bytes := 0, code := 0, lane := 0, released := 0, peer := 0, epoch := 0, pieces := [], sides := [], ack := none, sent := false }
def outstanding (kind : EKind) : State := put (fun p => { p with ops := [op p.cur kind] }) live
def waitingFor (k : WaitKind) (s : State) : State := ctx (fun c => { c with st := .waiting, wait := some (k, 0) }) s
/-- Core 0 in gang 4, with core 1, in barrier group 15. -/
def gang (flags : List Nat) : State :=
  put (fun p => { p with bars := [(15, { gang := 4, members := [0, 1], phase := true, flags })] })
    (core0 (fun k => { k with task := k.task.map fun t => { t with info := { t.info with gang := some 4 } } }) live)

theorem witness_fences_and_barriers :
    live.ready g [] [3] ∧ live.ready g [] [] ∧ live.ready g [3] [] ∧ live.readyCut g [] [3] ∧ live.ready g [3] [4] ∧
    live.pkg.replayOf (live.pkg.spaceOf 0) = none ∧ deferring.ready g [] [3] ∧
    (∃ e ∈ deferring.ctx.ch.deferred, e.kind.cls < 4 ∧ (4#4).getLsbD e.kind.cls = true ∧ (4#8).getLsbD e.col = true) ∧
    (∀ e ∈ deferring.ctx.ch.deferred, ¬ (e.kind.cls < 4 ∧ (11#4).getLsbD e.kind.cls = true ∧ (4#8).getLsbD e.col = true)) ∧
    (let s := outstanding (.copy 0 0 64 1 1 0 0 0 0 none)
     s.ready g [] [3] ∧ ∃ o, o ∈ s.pkg.ops ∧ o.who = s.pkg.cur ∧ o.gen = s.ctx.gen ∧ (o.kind.cls < 4 ∧ (1#4).getLsbD o.kind.cls = true ∧
       (4#8).getLsbD o.col = true) ∧ o.localOpen = true) ∧
    (let s := outstanding (.put 0 0 64 1)
     ∃ o, o ∈ s.pkg.ops ∧ o.who = s.pkg.cur ∧ o.gen = s.ctx.gen ∧ o.kind.cls < 4 ∧ (4#4).getLsbD o.kind.cls = true ∧ (4#8).getLsbD o.col = true) ∧
    (live.pkg.ops = [] ∧ live.ctx.req = none ∧ live.ctx.ch.deferred = [] ∧ live.pkg.replayOutcome live.pkg.cur = none) ∧
    Tab.find? live.regs.pend 3 = none ∧
    (let s := regs (fun r => { r with pend := [(3, 9), (4, 64)] }) live
     Tab.find? s.regs.pend 3 = some 9 ∧ 9 / 64 = s.ctx.seq ∧ s.ready g [] [] ∧ s.pkg.logged 0 = false ∧
       (replays 0 s).pkg.logged 0 = true ∧ Tab.find? (replays 0 s).regs.pend 4 = some 64 ∧ 64 / 64 ≠ (replays 0 s).ctx.seq ∧ (replays 0 s).ready g [] []) ∧
    (let s := ctx (fun c => { c with req := some deferring.ctx.ch }) live
     s.ready g [] [3] ∧ s.ctx.ch.deferred = [] ∧ ∃ h, s.ctx.req = some h ∧ ∃ e ∈ h.deferred, e.kind.cls < 4 ∧ (4#4).getLsbD e.kind.cls = true ∧
       (4#8).getLsbD e.col = true) ∧
    ((replays 1 live).ready g [] [3] ∧ (replays 1 live).timedOut 1) ∧
    (let s := replays 1 (gang [1])
     s.ready g [3] [4] ∧ s.timedOut 1 ∧ (replays (2 ^ 64 - 1) (gang [1])).readyCut g [] [3] ∧
       (replays (2 ^ 64 - 1) (gang [1])).timedOut (BitVec.allOnes 64)) ∧
    Tab.find? live.pkg.bars 15 = none ∧
    (let s := gang [1]; s.readyCut g [] [3] ∧ s.ready g [3] [4] ∧ ∃ b, Tab.find? s.pkg.bars 15 = some b ∧ 0 ∈ b.members ∧ s.pkg.gangOf 0 = some b.gang ∧
      0 ∉ b.flags ∧ b.phase ≠ (s.regs.sr 3).getLsbD 0 ∧ b.phase = ((reg 3 1 s).regs.sr 3).getLsbD 0) ∧
    (let s := gang [0, 1]; ∃ b, Tab.find? s.pkg.bars 15 = some b ∧ 0 ∈ b.flags ∧ b.members ≠ [] ∧ ∀ c ∈ b.members, c ∈ b.flags) := by
  unfold State.ready State.readyCut State.timedOut
  iterate 9 refine ⟨by decide +kernel, ?_⟩
  refine ⟨⟨by decide +kernel, _, List.mem_cons_self, by decide +kernel⟩, ⟨_, List.mem_cons_self, by decide +kernel⟩,
    by decide +kernel, by decide +kernel, by decide +kernel, ⟨by decide +kernel, by decide +kernel, _, rfl, _, List.mem_cons_self, by decide +kernel⟩,
    by decide +kernel, by decide +kernel, by decide +kernel, ⟨by decide +kernel, by decide +kernel, { gang := 4, members := [0, 1], phase := true, flags := [1] }, by decide +kernel⟩,
    ⟨{ gang := 4, members := [0, 1], phase := true, flags := [0, 1] }, by decide +kernel⟩⟩

theorem witness_memory_waits :
    data.pkg.replayOf (data.pkg.spaceOf 0) = none ∧ data.readyCut g (memSrcs ⟨1, 0, 0, 0⟩) [3] ∧ data.readyCut g (4 :: memSrcs ⟨1, 0, 0, 0⟩) [3] ∧
    gives (M.waitWord ⟨1, 0, 0, 0⟩ 8) data (fun e q => decide (q.replayOf (q.spaceOf 0) = none ∧ q.cur = data.pkg.cur ∧ e.2 < 2 ^ 64 ∧
      e.2 = 1 ∧ 0 ≤ (BitVec.ofNat 64 e.2).toInt ∧ e.2 ≠ (data.regs.sr 4).toNat % 2 ^ 64 ∧ e.2 = ((reg 4 1 data).regs.sr 4).toNat % 2 ^ 64)) = true ∧
    gives (M.waitWord ⟨1, 0, 0, 0⟩ 4) (reg 1 (2 ^ 16) (lineAt 0 (2 ^ 16) (2 ^ 31) live)) (fun e _ => decide (e.2 < 2 ^ 32 ∧ e.2 ≠ 0 ∧
      ((BitVec.ofNat 32 e.2).signExtend 64).toInt < 0)) = true := by
  unfold State.readyCut; decide +kernel

/-- An instruction placed where the current context, waiting since PT 0, stands. -/
def waitsAt (w : Nat) (k : WaitKind) (late : Nat) : State := put (fun p => { p with pt := late }) (waitingFor k (State.reset.withFetchWord 96 w))
def wordOf (i : Instr) : Nat := ((encode i).getD 0).toNat
def late (k : WaitKind) (limit : Nat) (i : Instr) (f : Pkg → Pkg := id) (P : Pkg → Bool := fun _ => true) : Bool :=
  let s := put f (waitsAt (wordOf i) k limit)
  P s.pkg && decide (s.pkg.instrAt ⟨0, 0⟩ = some i ∧ (s.pkg.ctx ⟨0, 0⟩).mayIssue = true ∧ (s.pkg.ctx ⟨0, 0⟩).st = .waiting ∧
    s.pkg.replayOf (s.pkg.spaceOf 0) = none ∧ (s.pkg.ctx ⟨0, 0⟩).wait = some (k, 0) ∧ limit ≤ s.pkg.pt - 0)
/-- Core 0's slot 1 stepped by context 0, which waits for it. -/
def stepped (left : Nat) : State :=
  let k : Stepping := { issuer := ⟨0, 0⟩, reg := 4, left, from_ := 0, reason := none }
  waitingFor .step (put (·.modCtx ⟨0, 1⟩ fun c => { c with st := .running, stop := some 1, stepping := some k }) helped)

theorem witness_wait_ends :
    -- each wait open, and ended meanwhile
    (let toHelper (p : Pkg) : Pkg := (p.goLive ⟨0, 1⟩ .zero).withRegs ⟨0, 0⟩ (·.setS 2 0x10001)
     late .join (2 ^ 24) (.join g 1 2) toHelper (fun p => (p.joinCode 0 ((p.ctx ⟨0, 0⟩).regs.sr 2)).isNone) = true ∧
       late .join (2 ^ 24) (.join g 1 2) id (fun p => (p.joinCode 0 ((p.ctx ⟨0, 0⟩).regs.sr 2)).isSome) = true) ∧
    (late .msgrecv (2 ^ 18) (.msgrecv g 8 2) id (fun p => (p.ctx ⟨0, 0⟩).inbox.isEmpty) = true ∧
      late .msgrecv (2 ^ 18) (.msgrecv g 8 2) (·.modCtx ⟨0, 0⟩ fun c => { c with inbox := [{ sender := 1, payload := 2 }] })
        (fun p => !(p.ctx ⟨0, 0⟩).inbox.isEmpty) = true) ∧
    (let sent (p : Pkg) : Pkg := { p with ops := [op ⟨0, 0⟩ (.put 0 0 64 1)] }
     late .fenceE (2 ^ 26) (.fenceE g 1 255 15) sent (·.fenceOpen ⟨0, 0⟩ 255 15 Op.localOpen) = true ∧
       late .fenceE (2 ^ 26) (.fenceE g 1 255 15) id (!·.fenceOpen ⟨0, 0⟩ 255 15 Op.localOpen) = true ∧
       late .fenceX (2 ^ 30) (.fenceX g 1 255) sent (·.fenceOpen ⟨0, 0⟩ 255 4 fun _ => true) = true ∧
       late .fenceX (2 ^ 30) (.fenceX g 1 255) id (!·.fenceOpen ⟨0, 0⟩ 255 4 fun _ => true) = true) ∧
    (let bar (flags : List Nat) (p : Pkg) : Pkg := { p with bars := [(15, { gang := 4, members := [0, 1], phase := false, flags })] }
     let phase (p : Pkg) : Bool := ((Tab.find? p.bars 15).map Bar.phase).getD true
     late .bararr (2 ^ 24) (.bararr g 1 15) (bar [0]) (fun p => ((Tab.find? p.bars 15).map fun b => b.flags.contains 0).getD false) = true ∧
       late .bararr (2 ^ 24) (.bararr g 1 15) (bar [1]) (fun p => ((Tab.find? p.bars 15).map fun b => !b.flags.contains 0).getD false) = true ∧
       late .barwait (2 ^ 24) (.barwait g 1 2 15) (bar []) (fun p => phase p == ((p.ctx ⟨0, 0⟩).regs.sr 2).getLsbD 0) = true ∧
       late .barwait (2 ^ 24) (.barwait g 1 2 15) (fun p => (bar [] p).withRegs ⟨0, 0⟩ (·.setS 2 1))
         (fun p => phase p != ((p.ctx ⟨0, 0⟩).regs.sr 2).getLsbD 0) = true) ∧
    late .waitz (2 ^ 24) (.waitz g true 3 ⟨1, 0, 0, 0⟩) = true ∧
    (let s := reg 1 (2 ^ 16) (lineAt 0 (2 ^ 16) 7 (waitsAt (wordOf (.waitz g true 3 ⟨1, 0, 0, 0⟩)) .waitz (2 ^ 24)))
     s.readyCut g (memSrcs ⟨1, 0, 0, 0⟩) [3] ∧ gives (M.waitWord ⟨1, 0, 0, 0⟩ 8) s (fun e q => decide (e.2 < 2 ^ 64 ∧ q.cur = s.pkg.cur ∧
       q.replayOf (q.spaceOf 0) = none)) = true) ∧
    (let s := reg 1 (2 ^ 16) (lineAt 0 (2 ^ 16) 0 (waitsAt (wordOf (.waitz g true 3 ⟨1, 0, 0, 0⟩)) .waitz 5))
     s.readyCut g (memSrcs ⟨1, 0, 0, 0⟩) [3] ∧ gives (M.waitWord ⟨1, 0, 0, 0⟩ 8) s (fun e q => decide (e.2 = 0 ∧ q.cur = s.pkg.cur ∧
       q.replayOf (q.spaceOf 0) = none)) = true) ∧
    (let s := stepped 5
     let c := s.pkg.ctx ⟨0, 1⟩
     c.stepping = some { issuer := ⟨0, 0⟩, reg := 4, left := 5, from_ := 0, reason := none } ∧ (⟨0, 0⟩ : CtxRef) ≠ ⟨0, 1⟩ ∧ c.st ≠ .free ∧
       c.stop.isSome = true ∧ s.ctx.st = .waiting ∧ s.ctx.wait = some (.step, 0) ∧
       s.pkg.replayAllows (s.pkg.spaceOf 0) 2 0 s.ctx.chunkseq.toNat 0 = true) ∧
    (let s := stepped 0; (s.pkg.ctx ⟨0, 1⟩).stepDone = true) ∧
    (let s := put (fun p => { p with pt := 2 ^ 24 }) (stepped 5)
     s.pkg.expired ⟨0, 0⟩ .step (2 ^ 24) = true ∧ s.pkg.steppedBy ⟨0, 0⟩ = some ⟨0, 1⟩) := by
  unfold State.readyCut; decide +kernel

theorem witness_vector_arithmetic :
    live.readyV g (some 9) [] [] [29, 30] [31] ∧ live.readyV g none [] [] [29, 30] [31] ∧ live.readyV g (some 9) [] [] [28, 29, 30] [31] ∧
    live.readyV g (some 9) [] [] [30] [31] ∧ Ty.int32 .i8 = true ∧ Ty.int32 .w32 = true ∧ Ty.flt .bf16 = true ∧ Ty.flt .f32 = true := by
  unfold State.readyV; decide +kernel

theorem witness_vector_bits :
    Ty.width .w32 ≤ 32 ∧ Ty.int32 .i16 = true ∧ live.readyV g (some 9) [] [] [29, 30] [31] ∧ live.readyV g (some 9) [] [] [30] [31] ∧
    live.readyV g (some 9) [] [4] [29, 30] [] ∧ live.readyV g (some 9) [5] [] [29, 30] [31] := by
  unfold State.readyV; decide +kernel

theorem witness_vector_moves :
    live.readyV g (some 9) [] [] [30] [31] ∧ live.readyV g (some 9) [] [] [29, 30] [31] ∧ live.readyV g (some 9) [4] [] [] [31] ∧
    live.readyV g (some 9) [] [] [] [31] ∧ live.readyV g none [4] [5] [30] [] ∧ live.readyV g none [] [5] [30] [] ∧ Ty.width .s4e = 4 ∧
    Ty.width .e4m3 = 8 ∧ Ty.width .bf16 = 16 ∧ (let r := (reg 9 (2 ^ 63) live).regs
      (0 + 4 * 8 = 32) ∧ lanesOn r (some 9) = [63]) := by
  unfold State.readyV; decide +kernel

theorem witness_vector_reductions :
    ¬ laneOn live.regs (some 9) 63 = true ∧ live.readyV g (some 9) [] [5] [30] [] ∧ live.readyV g (some 9) [] [] [30] [31] ∧
    live.readyV g (some 9) [] [] [28, 29, 30] [31] ∧ Ty.width .i8 = 8 ∧ Ty.width .bf16 = 16 ∧ Ty.flt .i8 = false ∧ Ty.flt .bf16 = true := by
  unfold State.readyV; decide +kernel

/-- Tile 1 of `live`: one scale and no escape; S4E with escapes; with two scales. -/
def tiled (t : Tile) : State := core0 (fun k => { k with tiles := [(1, { cur := t, shadow := none })] }) live
def plainTile : Tile := { Tile.zero with fmt := 3, codes := [(0, 0x38)] }

theorem witness_tile_registers :
    live.readyM g [] [] [] [] ∧ live.pkg.tileFree 2 ∧ (tiled plainTile).readyM g [] [] [] [] ∧
    (((tiled plainTile).pkg.tile 1).oneScale = true ∧ ((tiled plainTile).pkg.tile 1).fmt ≠ 1) ∧
    (let x := (tiled { plainTile with fmt := 1, codes := [(0, 8)] }).pkg.tile 1; x.fmt = 1 ∧ ∃ e ∈ x.codes, e.2 = 8) ∧
    ((tiled { plainTile with sc := [(0, 0x70)] }).pkg.tile 1).oneScale = false ∧
    tcvtSource ((tiled plainTile).pkg.tile 1) .e4m3 = some 3 ∧ tcvtSource ((tiled plainTile).pkg.tile 1) .bf16 = none ∧
    live.readyM g [] [] [31] [] ∧ live.readyM g [] [] [] [31] ∧ live.readyM g [] [5] [] [] ∧ live.readyM g [5] [] [] [] ∧
    ((tiled plainTile).pkg.tile 1).width = 8 ∧ ((tiled plainTile).pkg.tile 1).fmt ≠ 0 ∧ (live.pkg.tile 2).fmt = 0 := by
  unfold State.readyM
  exact ⟨by decide +kernel, tile_free 2, by decide +kernel⟩

/-- Rows on the two lines from 2^16 (pitch 0), and data there. -/
def rowed : State := reg 1 (2 ^ 16) (linesAt 0 (2 ^ 16) 4 live)
def rowsOf (n : Nat) : List Nat := (List.range n).map fun i => (memBase rowed.regs ⟨1, 2, 0, 0⟩ + BitVec.ofNat 64 i * memPitch rowed.regs ⟨1, 2, 0, 0⟩).toNat

/-- Its lines' sidecars; and what `n` rows of `c` elements at `b` find there once their addresses have passed. -/
def sidecars (f : Nat → Nat) : State :=
  put (fun p => { p with l2 := p.l2.map fun e => (e.1, { e.2 with side := BitVec.ofNat 64 (f (e.1 - lineKey 0 (2 ^ 16))) }) }) rowed
def finds (s : State) (plain : Option Nat) (n c : Nat) (b : Nat) (P : Tab Word → Nat → Bool) : Bool :=
  let x := s.pkg.cur
  let rows := (List.range n).map fun _ => b
  gives (M.rowWidth x b plain 0x23 false) s fun w q =>
    gives (do M.checkRows x rRD w c 0 rows; M.sides x false (rows.flatMap fun va => linesOf va (c * w / 8)) []) { s with pkg := q } fun sd _ => P sd w
/-- Formats: E4M3 with scale 7F in every block, and with another; S4E. -/
def fine : Nat := 3 <<< 60 + 0x7F7F7F7F
def coarse : Nat := 3 <<< 60 + 0x7F7F7F80
def escaped : Nat := 1 <<< 60

theorem witness_tile_memory :
    -- a plain row without a width; lines of two formats; a format of another width; a column port's S4E and its scale
    (live.pkg.badByte 0 rRD (2 ^ 16) 1 = none ∧ gives (M.side rowed.pkg.cur (2 ^ 16) false) rowed (fun v _ => sideFmt v == 0) = true) ∧
    finds (sidecars fun i => if i = 0 then fine else 0) none 16 128 (2 ^ 16) (fun sd _ => sd.any fun e => sd.any fun f => sideFmt e.2 != sideFmt f.2) = true ∧
    finds (sidecars fun _ => fine) (some (plainWidth 1)) 16 128 (2 ^ 16) (fun sd _ => sd.any fun e =>
      sideFmt e.2 != 0 && plainWidth 1 != fmtWidth (sideFmt e.2)) = true ∧
    finds (sidecars fun _ => escaped) none 128 16 (2 ^ 16) (fun sd _ => sd.any fun e => sideFmt e.2 == 1) = true ∧
    finds (sidecars fun _ => coarse) none 128 16 (2 ^ 16) (fun sd w => (sd.all fun e => sideFmt e.2 != 0) &&
      (List.range 16).any fun j => sideScale (sd.get 0 (2 ^ 16 + j * w / 8 / 64 * 64)) (blockOf w (sideK (sd.get 0 (2 ^ 16))) (2 ^ 16 + j * w / 8)) != 0x7F) = true ∧
    -- a row that begins inside a group
    finds (sidecars fun _ => fine) none 16 128 (2 ^ 16 + 8) (fun sd w => decide ((2 ^ 16 + 8) % (2 * w) ≠ 0) &&
      sd.all fun e => sideFmt e.2 == 3 && sd.all fun f => sideFmt e.2 == sideFmt f.2 && sideK e.2 == sideK f.2) = true ∧
    rowed.ready g (memSrcs ⟨1, 2, 0, 0⟩) [] ∧
    gives (M.loadRows rowed.pkg.cur (rowsOf 16) (some (plainWidth 2)) (tileAccepts 2) 0x23 (pure ()) false false) rowed
      (fun l q => l.fmt == 0 && ((q.core 0).tiles.get .zero 2).shadow.isNone) = true ∧
    gives (M.loadCols rowed.pkg.cur (rowsOf 128) (some (plainWidth 2)) (tileAccepts 2) false false) rowed
      (fun l q => l.fmt == 0 && ((q.core 0).tiles.get .zero 2).shadow.isNone) = true ∧
    -- a store that its last piece is left of (R100)
    (let t := { Tile.zero with pw := 1 }
     let ps := tilePieces t (rowsOf 16) 128 fun t n => (List.range 128).map (t.code n)
     let qs := tilePieces t (rowsOf 128) 16 fun t k => (List.range 16).map fun n => t.code n k
     answers (do M.checkRows rowed.pkg.cur rWR t.width 128 0 (rowsOf 16)
                 M.storeParts rowed.pkg.cur (fun j => ((ps[j]?).map Prod.fst).getD 0) (M.putPiece rowed.pkg.cur ps) (ps.length - 1) (List.range ps.length)) rowed = true ∧
     answers (do M.checkRows rowed.pkg.cur rWR t.width 16 0 (rowsOf 128)
                 M.storeParts rowed.pkg.cur (fun j => ((qs[j]?).map Prod.fst).getD 0) (M.putPiece rowed.pkg.cur qs) (qs.length - 1) (List.range qs.length)) rowed = true) := by
  unfold State.ready; decide +kernel

/-- A B slot of `live`: loaded; loaded in BF16 (128 columns); partial. -/
def slotted (b : BSlot) : State := core0 (fun k => { k with bslots := [(1, b)] }) live
def loadedSlot : BSlot := { BSlot.zero with st := .loaded, fmt := 3, cells := [(0, 5)] }
/-- Every column of a B operand on one line (pitch 0). -/
def oneColumn : State := reg 1 (2 ^ 16) (lineAt 0 (2 ^ 16) 0x21 live)

/-- The matrix engine of core 0 works on an MMA that uses B slot 1. -/
def multiplying (s : State) : State :=
  core0 (fun k => { k with mq := [{ owner := live.pkg.chunk, sdst := [], vdst := [], matrix := true, bslot := some 1, taken := true }] }) s

theorem witness_b_slots :
    oneColumn.readyCut g (memSrcs ⟨1, 2, 0, 0⟩) [] ∧
    gives (M.rowWidth oneColumn.pkg.cur (memBase oneColumn.regs ⟨1, 2, 0, 0⟩).toNat (some (fmtWidth 2)) 0x22 false) oneColumn (fun w _ => w == 4) = true ∧
    gives (M.loadRows oneColumn.pkg.cur (List.replicate 256 (2 ^ 16)) (some (fmtWidth 2)) (fun f => 2 == 0 || 2 == f) 0x22
        (M.bloadWaits oneColumn.pkg.cur 1) false false)
      oneColumn (fun l q => l.fmt == 0 &&
        match q.squashReaders 0 1 (some oneColumn.pkg.cur) with
        | some q => decide (q.cur = oneColumn.pkg.cur)
        | none => false) = true ∧
    (let s := slotted { loadedSlot with busy := some 7 }
     s.pkg.rcdBit 0 (272 + 1) = true ∧ ((s.pkg.core 0).bslots.get .zero 1).busy ≠ none) ∧
    (live.pkg.rcdBit 0 (272 + 1) = true ∧ ((multiplying live).pkg.core 0).slotInUse 1 = true) ∧
    live.readyM g [] [5] [] [] ∧ alone.readyM g [] [5] [] [] ∧ alone.pkg.rcdBit 0 (272 + 1) = false ∧ live.pkg.rcdBit 0 (272 + 1) = true := by
  unfold State.readyCut State.readyM; decide +kernel

theorem witness_matrix_multiply :
    live.readyM g [] [] [] [] ∧ (∀ n < 1, live.pkg.accMine (3 + n)) ∧ ¬ (∀ n < 2, live.pkg.accMine (3 + n)) ∧
    live.pkg.rcdBit 0 (272 + 1) = true ∧ alone.pkg.rcdBit 0 (272 + 1) = false ∧ ((live.pkg.core 0).bslots.get .zero 1).st ≠ .loaded ∧
    ((slotted loadedSlot).pkg.core 0).bslots.get .zero 1 = loadedSlot ∧ loadedSlot.st = .loaded ∧
    (∀ n ∈ (List.range 4).filter (fun n => (8#4).getLsbD n), 64 * n < 256) ∧ (∃ n ∈ (List.range 4).filter (fun n => (8#4).getLsbD n), 128 ≤ 64 * n) ∧
    effective ((tiled plainTile).pkg.tile 1) 5 = none ∧ effective ((tiled plainTile).pkg.tile 1) 0 = some 3 ∧ live.pkg.accFree 3 := by
  unfold State.readyM
  refine ⟨by decide +kernel, by unfold Pkg.accMine; decide +kernel, by unfold Pkg.accMine; decide +kernel, ?_⟩
  iterate 9 refine ⟨by decide +kernel, ?_⟩
  exact acc_free 3

theorem witness_exact_sums_and_readout :
    (0 : BitVec 128) ≠ sentinel ∧ (∀ e ∈ [(1 : Int), -3].zip [2, 2], (e.1 * e.2).natAbs * 2 ^ (97 : Int).toNat < 2 ^ 104) ∧
    (∀ e ∈ [(1 : Int), -3].zip [2, 2], (e.1 * e.2).natAbs * 2 ^ (-97 : Int).toNat < 2 ^ 104) ∧
    (BitVec.ofInt 128 (2 ^ 111) ≠ sentinel ∧ ¬ (-2 ^ 111 ≤ (BitVec.ofInt 128 (2 ^ 111)).toInt ∧ (BitVec.ofInt 128 (2 ^ 111)).toInt < 2 ^ 111)) ∧
    (BitVec.ofInt 128 (-2 ^ 111) ≠ 0 ∧ -2 ^ 111 ≤ (BitVec.ofInt 128 (-2 ^ 111)).toInt ∧ (BitVec.ofInt 128 (-2 ^ 111)).toInt < 2 ^ 111) := by
  decide +kernel

theorem witness_accumulators :
    live.readyM g [] [] [] [] ∧ ¬ alone.pkg.accMine 3 ∧ alone.readyM g [] [] [] [] ∧ live.pkg.accMine 3 ∧ live.pkg.accFree 3 ∧
    (live.pkg.acc 3).anchor = (live.pkg.acc 2).anchor ∧
    (let s := core0 (fun k => { k with accs := [(2, { AccReg.zero with bank0 := { AccBank.zero with anchor := 5 } })] }) live
     (s.pkg.acc 2).anchor ≠ (s.pkg.acc 3).anchor ∧ s.readyM g [] [] [] []) ∧
    live.readyM g (maskSrcs (some 9)) [] [] [31] ∧ live.readyM g (memSrcs ⟨1, 0, 0, 0⟩) [] [] [] ∧
    ((live.pkg.route 0 (2 ^ 16) rWR).isSome = true ∧ (live.pkg.route 0 (2 ^ 16) rRD).isSome = true ∧ (2 ^ 16) % 64 = 0) ∧ (2 ^ 16 + 32) % 64 ≠ 0 ∧
    (live.pkg.badByte 0 rWR (2 ^ 16) 1024 = none ∧ live.pkg.badByte 0 rRD (2 ^ 16) 1024 = none) ∧
    -- an accumulator that is not reserved; and a range that begins in reach and ends out of it
    (alone.readyM g (memSrcs ⟨1, 0, 0, 0⟩) [] [] [] ∧ (alone.pkg.route 0 (2 ^ 16) rWR).isSome = true ∧ (alone.pkg.route 0 (2 ^ 16) rRD).isSome = true ∧
      alone.pkg.badByte 0 rWR (2 ^ 16) 1024 = none ∧ alone.pkg.badByte 0 rRD (2 ^ 16) 1024 = none) ∧
    ((live.pkg.route 0 (lsBase - 64) rWR).isSome = true ∧ (live.pkg.badByte 0 rWR (lsBase - 64) 1024).isSome = true ∧
      (live.pkg.route 0 (lsBase - 64) rRD).isSome = true ∧ (live.pkg.badByte 0 rRD (lsBase - 64) 1024).isSome = true ∧ (lsBase - 64) % 64 = 0) ∧
    gives (M.storeBytes live.pkg.cur 18 (2 ^ 16) ((live.pkg.acc 3).bytes 15)) (put (·.enterR (live.pkg.regLine 11)) live)
      (fun _ q => decide (q.cur = live.pkg.cur)) = true ∧
    gives (M.loadBytes live.pkg.cur rRD false false 18 (2 ^ 16) 1024) (linesAt 0 (2 ^ 16) 16 live) (fun _ q => decide (q.cur = live.pkg.cur)) = true ∧
    gives (M.loadBytes live.pkg.cur rRD false false 18 (2 ^ 16) 64) (lineAt 0 (2 ^ 16) (2 ^ 17) live) (fun b _ => decide (2 ^ 17 ≤ leNat b)) = true ∧
    gives (M.loadBytes live.pkg.cur rRD false false 18 (2 ^ 16) 64) (lineAt 0 (2 ^ 16) (2 ^ 17 - 1) live) (fun b _ => decide (leNat b < 2 ^ 17)) = true ∧
    live.readyM g [] [5] [] [] ∧ live.ready g [] [] ∧ (live.pkg.core 0).mq = [] ∧
    (let s := core0 (fun k => { k with mq := [{ owner := live.pkg.chunk, sdst := [], vdst := [], matrix := true, bslot := none, taken := true }] }) live
     s.ready g [] [] ∧ ∃ e ∈ (s.pkg.core 0).mq, e.owner.slot = s.pkg.cur.slot) := by
  unfold State.readyM State.ready
  exact ⟨by decide +kernel, by unfold Pkg.accMine; decide +kernel, by decide +kernel, by unfold Pkg.accMine; decide +kernel, acc_free 3,
    by decide +kernel⟩

theorem witness_capabilities :
    live.ready g [1] [2] ∧ live.ready g [1] [] ∧ live.ctx.reqWrote (live.pkg.regLine 23) = false ∧
    (∀ e ∈ (live.pkg.core 0).ctxs, e.1 ≠ live.pkg.cur.slot → ∀ h ∈ e.2.chunks, h.capOps = []) ∧
    ((reg 1 8 live).regs.sr 1).toNat / 8 % 32 ≠ 0 ∧ 2 ^ 12 ≤ ((reg 1 (2 ^ 12) live).regs.sr 1).toNat ∧
    (let w := ((reg 1 0xF07 live).regs.sr 1).toNat; w / 8 % 32 = 0 ∧ w < 2 ^ 12) ∧ 8 ≤ ((reg 1 8 live).regs.sr 1).toNat ∧
    (let s := reg 2 (2 ^ 16) (reg 3 64 live)
     s.pkg.readyEarly g (mxSources .bput4 1 2 3) [4] [] [] = true ∧ s.ctx.stepping = none ∧ s.pkg.ops = [] ∧
       ((rowVas (s.regs.sr 2) (s.regs.sr 3) (mxRows .bput4)).all fun va => (s.pkg.badByte 0 (rENG + rRD) va (mxRowBytes .bput4)).isNone) = true) ∧
    live.pkg.readyEarly g (mxSources .bdrop 1 0 0) [4] [] [] = true := by
  unfold State.ready; decide +kernel

/-- A chunk that has read line 1024 of space 0 and asks to commit; the same while it holds, or wants, a reservation. -/
def requesting : State := ctx (fun c => { c with req := some { c.ch with count := 1, rlines := [lineKey 0 (2 ^ 16)] } }) live
def flying : State := ctx (fun c => { c with inflight := some ([lineKey 0 (2 ^ 16)], .cluster) }) live

theorem witness_sluice_events :
    (∃ h, requesting.ctx.req = some h ∧ requesting.pkg.grantable ⟨0, 0⟩ = true ∧ requesting.pkg.escalates ⟨0, 0⟩ requesting.ctx.chunkseq.toNat h = false ∧
      requesting.ctx.ch.meets h.wlines = false) ∧
    (let k := lineKey 0 (2 ^ 16)
     let s := ctx (fun c => { c with ch := { c.ch with rlines := [k] }, req := c.req.map fun h => { h with wlines := [k] } }) requesting
     ∃ h, s.ctx.req = some h ∧ s.pkg.grantable ⟨0, 0⟩ = true ∧ s.pkg.escalates ⟨0, 0⟩ s.ctx.chunkseq.toNat h = false ∧ s.ctx.ch.meets h.wlines = true ∧
       s.ctx.exclRuns = false) ∧
    (let s := put (·.modCore 100 fun k => { k with l1 := [(lineKey 0 (2 ^ 16), 2)] })
       (ctx (fun c => { c with req := c.req.map fun h => { h with wlines := [lineKey 0 (2 ^ 16)] }, excl := some .cluster, exclNo := c.chunkseq.toNat }) requesting)
     ∃ h, s.ctx.req = some h ∧ s.pkg.grantable ⟨0, 0⟩ = true ∧ s.pkg.escalates ⟨0, 0⟩ s.ctx.chunkseq.toNat h = true) ∧
    live.pkg.grantable ⟨0, 0⟩ = false ∧ (flying.ctx.inflight ≠ none ∧ (flying.pkg.retryBack ⟨0, 0⟩).backDone ⟨0, 0⟩ = true) ∧
    -- a line that a full MC cannot take yet
    (let k := lineKey 0 (2 ^ 16)
     let s := put (fun p => { p with recs := List.replicate 256 { mc := mcOf (2 ^ 16), key := 0, attr := .module_ 0, cause := 0x21, data := 0, pan := none } })
       (ctx (fun c => { c with owed := [k] }) (put (fun p => { p with l2 := p.l2.map fun e => (e.1, { e.2 with dirty := 1 }) }) (lineAt 0 (2 ^ 16) 41 flying)))
     s.ctx.inflight ≠ none ∧ (s.pkg.retryBack ⟨0, 0⟩).backDone ⟨0, 0⟩ = false) ∧
    (let c := (ctx (fun c => { c with due := some (5, 77, 3) }) flying).ctx
     c.phase ≠ .requested ∧ c.due = some (5, 77, 3) ∧ c.ch.count = 0 ∧ c.req = none) ∧
    (let c := (ctx (fun c => { c with phase := .requested }) flying).ctx; c.phase = .requested ∧ c.req = none) ∧
    (let s := put (fun p => { p with exclQ := [(⟨300, 1⟩, .cluster), (⟨0, 0⟩, .die)] }) live
     List.find? (fun (e : CtxRef × Level) => e.1 == ⟨0, 0⟩) s.pkg.exclQ = some (⟨0, 0⟩, .die) ∧ s.ctx.st ≠ .halted ∧
       (∀ e ∈ s.pkg.exclQ.takeWhile (fun (e : CtxRef × Level) => e.1 != ⟨0, 0⟩), (s.pkg.ctx e.1).st ≠ .halted → overlaps .die 0 e.2 e.1.core = false) ∧
       ∀ y ∈ s.pkg.allCtxs, ∀ m, (s.pkg.ctx y).excl = some m → overlaps .die 0 m y.core = false) := by
  refine ⟨⟨{ live.ctx.ch with count := 1, rlines := [lineKey 0 (2 ^ 16)] }, by decide +kernel⟩,
    ⟨{ live.ctx.ch with count := 1, rlines := [lineKey 0 (2 ^ 16)], wlines := [lineKey 0 (2 ^ 16)] }, by decide +kernel⟩,
    ⟨{ live.ctx.ch with count := 1, rlines := [lineKey 0 (2 ^ 16)], wlines := [lineKey 0 (2 ^ 16)] }, by decide +kernel⟩,
    by decide +kernel, by decide +kernel, by decide +kernel, by decide +kernel, by decide +kernel, by decide +kernel, by decide +kernel,
    by decide +kernel, ?_⟩
  intro y hy m hm
  have hy : y = ⟨0, 0⟩ := by
    have e : (put (fun p => { p with exclQ := [(⟨300, 1⟩, .cluster), (⟨0, 0⟩, .die)] }) live).pkg.allCtxs = [⟨0, 0⟩] := by decide +kernel
    simpa [e] using hy
  subst hy
  have e : live.ctx.excl = none := by decide +kernel
  exact absurd (e.symm.trans hm) (by simp)

/-- Page 1 of space 0 in near frame 50, with line 1024 at its home, bytes 0 and 5 of it dirty; the page moving to frame 60. -/
def mapped : State :=
  put (fun p => { p with leaves := [{ bucket := 5, size := 0, far := false, mig := false, space := 0, vpn := 1, frame := 50 }] }) (lineAt 0 (2 ^ 16) 41 live)
def dirtied : State := put (fun p => { p with l2 := p.l2.map fun e => (e.1, { e.2 with dirty := 33 }) }) mapped
def moving : State :=
  put (fun p => { p with leaves := p.leaves.map fun l => { l with mig := true },
                         migs := [{ vi := 0, live := true, space := 0, vpn := 1, size := 0, frame := 60, far := false, done := [3] }] }) mapped

theorem witness_line_events :
    (let s := put (·.modCore 3 fun k => { k with l1 := [(lineKey 0 (2 ^ 16), 2)] }) mapped
     (Tab.find? (s.pkg.core 3).l1 (lineKey 0 (2 ^ 16))).isSome = true ∧ (s.pkg.core 3).uncommittedBy (lineKey 0 (2 ^ 16)) = []) ∧
    (∃ l, Tab.find? mapped.pkg.l2 (lineKey 0 (2 ^ 16)) = some l ∧ l.dirty = 0 ∧ mapped.pkg.uncommitted (lineKey 0 (2 ^ 16)) = false ∧
      mapped.pkg.down (lineKey 0 (2 ^ 16)) = false ∧ mapped.pkg.copied (lineKey 0 (2 ^ 16)) = false) ∧
    (let k := lineKey 0 (2 ^ 16)
     ∃ l b, Tab.find? dirtied.pkg.l2 k = some l ∧ l.dirty ≠ 0 ∧ dirtied.pkg.phys? (keySpace k) (keyVa k) = some b ∧
      dirtied.pkg.uncommitted k = false ∧ dirtied.pkg.down k = false ∧ dirtied.pkg.copied k = false ∧ dirtied.pkg.hasRec k = false) ∧
    (let k := lineKey 0 (2 ^ 16 + 640)
     ∃ l m, List.find? (fun (l : Leaf) => l.holds k) moving.pkg.leaves = some l ∧
      List.find? (fun (m : Mig) => m.space == keySpace k && m.vpn == l.vpn) moving.pkg.migs = some m ∧
      (keyVa k - l.vpn * 65536) / 64 ∉ m.done ∧ moving.pkg.down k = false) ∧
    -- the last line of a migration whose command has ended
    (let s := put (fun p => { p with migs := p.migs.map fun m => { m with live := false, done := List.range 1023 } }) moving
     (s.pkg.migs.all fun m => !m.live && decide (m.lines ≤ m.done.length + 1) && !m.done.contains 1023) = true ∧
       (s.pkg.leaves.any fun l => l.holds (lineKey 0 (2 ^ 16 + 64 * 1023))) = true) ∧
    (let line := 50 * 65536 + 2048 * 5 + 64
     Tab.find? mapped.pkg.resetting (5 / 4) = none ∧ line % 65536 / 2048 = 5 ∧ line < (Config.nearFrames + Config.farFrames) * 65536 ∧
       line ∉ mapped.pkg.poison ∧ mapped.pkg.steady = true) := by
  refine ⟨by decide +kernel, ⟨(Tab.find? mapped.pkg.l2 (lineKey 0 (2 ^ 16))).get (by decide +kernel), ?_⟩,
    ⟨(Tab.find? dirtied.pkg.l2 (lineKey 0 (2 ^ 16))).get (by decide +kernel), (dirtied.pkg.phys? 0 (2 ^ 16)).get (by decide +kernel), ?_⟩,
    ⟨{ bucket := 5, size := 0, far := false, mig := true, space := 0, vpn := 1, frame := 50 },
     { vi := 0, live := true, space := 0, vpn := 1, size := 0, frame := 60, far := false, done := [3] }, ?_⟩, ?_, ?_⟩ <;> decide +kernel

def good {ε α : Type} (r : Except ε α) (P : α → Bool) : Bool :=
  match r with
  | .ok a => P a
  | .error _ => false

/-- A COPY of 100 bytes; a PANN of the routine of `pans`, by context 0 of a core, its line homed at core 0. -/
def copying : State := put (fun p => { p with ops := [op ⟨0, 0⟩ (.copy (2 ^ 16 + 3) (2 ^ 16 + 700) 100 1 1 0 0 0 0 none)] }) (linesAt 0 (2 ^ 16) 16 live)
def panning (core : Nat) : State :=
  put (fun p => { p with ops := [op ⟨core, 0⟩ (.pan 4 [{ va := 2 ^ 16, operand := 1, lane := 0 }])] }) pans
/-- An attestation record that is ready. -/
def aRecord (code : Nat) : AttRec :=
  { request := 0, code, pt := 0, flags := 0, counters := List.replicate 16 0, mfw := 0, mpend := 0, mdbg := 0, fwver := 0, job := none }
def attesting (code : Nat) : State := put (fun p => { p with ops := [op ⟨0, 0⟩ (.attest (2 ^ 16) (aRecord code))] }) (linesAt 0 (2 ^ 16) 8 live)
/-- A brine copy of die 1 whose partial value is 1. -/
def brined : State := put (fun p => { p with brine := [{ die := 1, key := lineKey 0 (2 ^ 16), space := 0, slot := 4, rgen := 1, value := 1, bad := false }] }) pans

theorem witness_operation_events :
    (let s := copying
     let x := copyShape (2 ^ 16 + 3) (2 ^ 16 + 700) 100
     let o := op ⟨0, 0⟩ (.copy (2 ^ 16 + 3) (2 ^ 16 + 700) 100 1 1 0 0 0 0 none)
     s.pkg.op? 7 = some o ∧ s.pkg.replayOf o.space = none ∧ x.dst = 2 ^ 16 + 3 ∧ x.n0 = 100 ∧ ∀ f ∈ [0, 61],
       let d := (x.at_ f).1.toNat
       let a := (x.at_ f).2.toNat
       let n := x.len f
       let p : Pkg := { s.pkg with req := some 0 }
       x.starts f = true ∧ f < o.limit x ∧ f ∉ o.done ∧ p.anyPoison = false ∧ p.behind o [d / 64 * 64, a / 64 * 64, (a + n - 1) / 64 * 64] = false ∧
       good (p.readAll o.space (rENG + rRD) a n) (fun e => !e.2.1 && good (e.2.2.writePiece (some 0) o.space (rENG + rWR) d e.1 o.attr
         (match e.2.2.readPiece o.space (rENG + rRD) a n with
            | .ok (y, _) => if n = 64 ∧ a % 64 = 0 then y.side else 0
            | .error _ => 0)) fun _ => true) = true) ∧
    -- its first source line poisoned
    (let s := put (fun p => { p with l2 := p.l2.map fun e => (e.1, { e.2 with poison := true }) }) copying
     let x := copyShape (2 ^ 16 + 3) (2 ^ 16 + 700) 100
     let o := op ⟨0, 0⟩ (.copy (2 ^ 16 + 3) (2 ^ 16 + 700) 100 1 1 0 0 0 0 none)
     s.pkg.anyPoison = true ∧ o.inOrder x 0 = true ∧
       good (s.pkg.readAll 0 (rENG + rRD) (x.at_ 0).2.toNat (x.len 0)) (fun e => e.2.1) = true) ∧
    ((panning 0).pkg.ops.all fun o => match o.panNext with
      | none => false
      | some c => decide ((panning 0).pkg.op? 7 = some o ∧ (panning 0).pkg.panBehind o.who o.gen o.id c.va = false ∧ (panning 0).pkg.brineFits c = false) &&
          match (panning 0).pkg.panHome c with
          | .done _ code counted ran _ => decide (code = 0) && counted && ran
          | .wait | .held _ => false) = true ∧
    ((panning 100).pkg.ops.all fun o => match o.panNext with
      | none => false
      | some c => decide ((panning 100).pkg.panBehind o.who o.gen o.id c.va = false ∧ (panning 100).pkg.brineFits c = true) &&
          match (panning 100).pkg.panBrine c with
          | .done _ code counted ran _ => decide (code = 0) && counted && ran
          | .wait | .held _ => false) = true ∧
    (∃ o, (attesting 2).pkg.op? 7 = some o) ∧
    (let b := recordBytes live.fuses live.prov (aRecord 0) 1
     good ((attesting 0).pkg.writeBytes (some 0) 0 (rENG + rWR) (op ⟨0, 0⟩ (.attest (2 ^ 16) (aRecord 0))).attr (b.length / 64 + 2) (2 ^ 16) b) (fun _ => true) = true) ∧
    (List.find? (fun (b : Brine) => b.sameCopy 1 (lineKey 0 (2 ^ 16))) brined.pkg.brine).isSome = true ∧ brined.pkg.down (lineKey 0 (2 ^ 16)) = false ∧
    (let p : Pkg := { brined.pkg with brine := [] }
     let e := p.tableEntry 0 4
     good (p.fill (lineKey 0 (2 ^ 16)) (BitVec.allOnes 64)) (fun q => !q.linePoison (lineKey 0 (2 ^ 16)) &&
       decide (runRoutine (entHdr e) (entWords e) (q.lineData (lineKey 0 (2 ^ 16))) (BitVec.ofNat 512 ((1 : Nat) % 2 ^ opwBits (entHdr e))) =
         .done (some 42) 41)) = true) ∧
    (let s := put (fun p => { p with brine := p.brine.map fun b => { b with bad := true } }) brined
     (List.find? (fun (b : Brine) => b.sameCopy 1 (lineKey 0 (2 ^ 16))) s.pkg.brine).any (·.bad) = true) := by
  refine ⟨by decide +kernel, by decide +kernel, by decide +kernel, by decide +kernel, ⟨_, rfl⟩, by decide +kernel⟩

/-- Core 0 with capability slot 1 valid, and the row of a B operand (format 2) at 65536; a capability for B slot 1, rights to
fill and to drop it, whose CHECK is `c`; an operation that sends with it. -/
def accepting : State :=
  put (fun p => { p with l2 := p.l2.map fun e => (e.1, { e.2 with side := BitVec.ofNat 64 (2 <<< 60) }) })
    (core0 (fun k => { k with caps := [(1, { valid := true, gen := 5, rights := 0xFF })] }) (lineAt 0 (2 ^ 16) 0x21 live))
def capHigh : Nat := 1 <<< 52 + 5 <<< 32 + 10 <<< 24
def capability (c : Nat) : Word := BitVec.ofNat 64 (capHigh + c)
/-- The slot already has 240 columns of the operation's. -/
def halfway : State := core0 (fun k => { k with bslots := [(1, { BSlot.zero with st := .partly, fmt := 2, busy := some 7 })] }) accepting
def sending (s : State) (kind : EKind) (n : Nat) : State := put (fun p => { p with ops := [{ op ⟨0, 0⟩ kind with done := List.range n }] }) s
/-- The line has no format; it is poisoned. -/
def unformatted : State := put (fun p => { p with l2 := p.l2.map fun e => (e.1, { e.2 with side := 0 }) }) accepting
def unreadable : State := put (fun p => { p with l2 := p.l2.map fun e => (e.1, { e.2 with poison := true }) }) accepting
/-- A command that has made all but its last access; and whether it then writes its columns. -/
def almost (cap : Word) (n : Nat) : Op :=
  { op ⟨0, 0⟩ (.bput cap (2 ^ 16) 0 .bput4 1) with done := List.range n, sides := [(2 ^ 16, BitVec.ofNat 64 (2 <<< 60))],
                                                   pieces := (List.range 15).map fun i => (i, List.replicate 64 0x21), lane := 15 }

theorem capability_fields (c : Nat) (h : c < 2 ^ 24) :
    fld (capability c).toNat 63 55 = 0 ∧ fld (capability c).toNat 54 52 = 1 ∧ fld (capability c).toNat 51 32 = 5 ∧
    fld (capability c).toNat 31 24 = 10 ∧ fld (capability c).toNat 23 0 = c ∧ (capability c).toNat / 2 ^ 24 * 2 ^ 24 = capHigh := by
  have e : (capability c).toNat = 1 <<< 52 + 5 <<< 32 + 10 <<< 24 + c := by
    unfold capability capHigh; rw [BitVec.toNat_ofNat, Nat.mod_eq_of_lt]; simp; omega
  simp only [fld, e, Nat.shiftRight_eq_div_pow, Nat.shiftLeft_eq, capHigh]
  omega

theorem leNat_three (l : List Byte) : leNat (l.take 3) < 2 ^ 24 := by
  match l with
  | [] | [a] | [a, b] | a :: b :: c :: t => simp [leNat]; try omega

/-- A capability with the CHECK of core 0's key is not refused. -/
theorem capability_accepted (s : State) (need : Nat) (h : need = 1 ∨ need = 3)
    (hs : (s.pkg.core 0).caps.get .zero 1 = { valid := true, gen := 5, rights := 0xFF }) (hr : s.pkg.rcdBit 0 (272 + 1) = true) :
    s.pkg.capRefuses (capability (s.pkg.capCheck 0 capHigh)) need 1 = none := by
  obtain ⟨h1, h2, h3, h4, h5, h6⟩ := capability_fields (s.pkg.capCheck 0 capHigh) (leNat_three _)
  unfold Pkg.capRefuses
  simp only [h1, h2, h3, h4, h5, h6, hs, hr]
  rw [if_neg (by simp)]
  rcases h with rfl | rfl <;> decide

/-- A BPUT4 of 256 equal columns, at its first and at its last command, and a BDROP, accepted; a bad capability is refused. -/
theorem witness_commands :
    (∀ s ∈ [accepting, halfway, unformatted, unreadable], ∀ need ∈ [1, 3], s.pkg.capRefuses (capability (s.pkg.capCheck 0 capHigh)) need 1 = none) ∧
    (∀ c, fld (capability (accepting.pkg.capCheck 0 capHigh)).toNat 63 55 = c → c = 0) ∧
    (((accepting.pkg.core 0).bslots.get .zero 1).busy = none ∧ accepting.pkg.bloading 0 1 = false) ∧ ((halfway.pkg.core 0).bslots.get .zero 1).busy = some 7 ∧
    (∀ c < 2 ^ 24, ∃ code, live.pkg.capRefuses (capability c) 1 1 = some code) ∧
    (∀ cap, (sending accepting (.bput cap (2 ^ 16) 0 .bput4 1) 0).pkg.op? 7 = some (op ⟨0, 0⟩ (.bput cap (2 ^ 16) 0 .bput4 1))) ∧
    (∀ e ∈ [(accepting, 0), (halfway, 15)],
      let vas := cmdVas .bput4 (2 ^ 16) 0 e.2
      let reads := cmdReads 2 0 (mxWidth .bput4) (mxRowBytes .bput4) vas
      reads.length = 16 ∧ reads[0]? = some (2 ^ 16, 64) ∧
        good (e.1.pkg.cmdSides 0 ((cmdRowReads (mxRowBytes .bput4) vas).map Prod.fst)) (fun x => decide (x.1 ≠ [] ∧
          cmdRefuses (mxWidth .bput4) (if e.2 = 0 then none else some (2, ((halfway.pkg.core 0).bslots.get .zero 1).k)) x.1 vas = none) &&
          good (x.2.readPiece 0 (rENG + rRD) (2 ^ 16) 64) fun y => !y.1.poison) = true) ∧
    (let vas := cmdVas .bput4 (2 ^ 16) 0 0
     good (unformatted.pkg.cmdSides 0 ((cmdRowReads (mxRowBytes .bput4) vas).map Prod.fst)) (fun x =>
       decide (cmdRefuses (mxWidth .bput4) none x.1 vas = some 0x35)) = true ∧
     good (unreadable.pkg.readPiece 0 (rENG + rRD) (2 ^ 16) 64) (fun y => y.1.poison) = true) ∧
    (∀ cap, (almost cap 15).sides ≠ [] ∧ ((halfway.pkg.core 0).bslots.get .zero 1).busy = some (almost cap 15).id ∧
      (almost cap 15).pieces.length + 1 = 16 ∧ (halfway.pkg.bputWrite (almost cap 15) cap .bput4 1 []).isSome = true) ∧
    ((accepting.pkg.squashReaders 0 1 none).isSome = true ∧ (unreadable.pkg.squashReaders 0 1 none).isSome = true) ∧
    -- the core's engine multiplies by the slot
    (multiplying unreadable).pkg.squashReaders 0 1 none = none ∧
    (let cap := capability 5
     (almost cap 0).sides ≠ [] ∧ (almost cap 0).pieces.length + 1 = 16 ∧ ((multiplying halfway).pkg.core 0).bslots.get .zero 1 = (halfway.pkg.core 0).bslots.get .zero 1 ∧
      (multiplying halfway).pkg.bputWrite (almost cap 0) cap .bput4 1 [] = none) := by
  refine ⟨?_, ?_, by decide +kernel, by decide +kernel, ?_, fun _ => rfl, by decide +kernel, by decide +kernel,
    fun _ => ⟨List.cons_ne_nil _ _, by show _ = some 7; decide +kernel, rfl, rfl⟩, by decide +kernel⟩
  · intro s hs need hn
    have h : need = 1 ∨ need = 3 := by simpa using hn
    simp only [List.mem_cons, List.not_mem_nil, or_false] at hs
    rcases hs with rfl | rfl | rfl | rfl <;> exact capability_accepted _ _ h (by decide +kernel) (by decide +kernel)
  · intro c h
    exact h.symm.trans (capability_fields (accepting.pkg.capCheck 0 capHigh) (leNat_three _)).1
  · intro c h
    obtain ⟨h1, h2, -⟩ := capability_fields c h
    have e : ((live.pkg.core 0).caps.get .zero 1).valid = false := by decide +kernel
    unfold Pkg.capRefuses
    simp only [h1, h2, e]
    split <;> exact ⟨_, rfl⟩

def remote : State := put (fun p => { p with epochs := [(3, 5)] }) (lineAt 0 (lsBase - 64) 9 pans)

theorem witness_remote_events :
    ((4 : Nat) < remote.pkg.epochs.get 0 (115 % 16) ∧ remote.pkg.epochs.get 0 (115 % 16) ≤ 5) ∧ remote.pkg.space? 99 = none ∧
    remote.pkg.space? 0 ≠ none ∧
    -- the windows admit a range, as far as a byte, or nothing
    (remote.pkg.badByte 0 (rENG + rRD) (lsBase - 64) 64 = none ∧ lsBase - 64 + 64 ≤ lsBase ∧ remote.pkg.badByte 0 1 (2 ^ 16) 8 = some (2 ^ 16)) ∧
    (let asked (need : Nat) (what : Asked) : Inbound :=
       { who := .peer 115, epoch := 5, space := 0, va := 2 ^ 16 + 4, what, limit := remote.pkg.admitted 0 need (2 ^ 16 + 4) what.size, done := 0, got := [] }
     remote.pkg.inbound = [] ∧ (remote.pkg.inboundStep (asked (rENG + rRD) (.read 60))).isSome = true ∧
       (remote.pkg.inboundStep (asked (rENG + rWR) (.write [1, 2, 3]))).isSome = true ∧
       (remote.pkg.inboundStep { asked rPAN (.rpan 4 9) with va := 2 ^ 16 }).isSome = true ∧
       (∃ a ∈ [asked (rENG + rRD) (.read 60)], a.who = .peer 115) ∧ remote.pkg.stale 115 5 = false ∧
       (asked (rENG + rRD) (.read 61)).limit = 61 ∧ good (remote.pkg.readPiece 0 (rENG + rRD) (2 ^ 16 + 4) 60) (fun e => !e.1.poison) = true ∧
       good (({ remote.pkg with l2 := remote.pkg.l2.map fun (e : Nat × L2Line) => (e.1, { e.2 with poison := true }) } : Pkg).readPiece 0 (rENG + rRD) (2 ^ 16 + 4) 60)
         (fun e => e.1.poison) = true ∧
       good (remote.pkg.writePiece none 0 (rENG + rWR) (2 ^ 16 + 4) [1, 2, 3] (.module_ 0)) (fun _ => true) = true) ∧
    remote.pkg.route 0 lsBase rPAN = none ∧
    (match remote.pkg.route 0 (2 ^ 16) rPAN with
      | some r =>
        match remote.pkg.panHome { attr := .module_ 0, origin := remote.pkg.homeOf r.key, slot := 4, lidx := 0, lane := 0, va := 2 ^ 16, operand := 9,
                                   returning := false, outside := true } with
        | .done _ code _ ran _ => decide (code = 0) && ran
        | .wait | .held _ => false
      | none => false) = true ∧
    ([EKind.rpan 0 1 4 9, .put 0 0 64 1, .get 0 0 64 1].all fun k =>
      let s := put (fun p => { p with ops := [{ op ⟨0, 0⟩ k with sent := true }], pt := 2 ^ 30 }) remote
      match s.pkg.op? 7 with
      | some o => decide (o.kind = k ∧ o.sent = true ∧ o.ack = none ∧ o.kind.cls = 2 ∧ 2 ^ 30 ≤ s.pkg.pt - o.released ∧
          (s.pkg.queues.get .reset o.queue).st ≠ .resetting)
      | none => false) = true ∧
    (let s := put (fun p => { p with ops := [{ op ⟨0, 0⟩ (.get 0 0 64 1) with sent := true }], queues := [(0, { p.queue 0 with st := .resetting })] }) remote
     s.pkg.op? 7 = some { op ⟨0, 0⟩ (.get 0 0 64 1) with sent := true } ∧ (s.pkg.queues.get .reset 0).st = .resetting) ∧
    (let s := put (fun p => { p with queues := [(3, { p.queue 3 with st := .resetting })], pt := 2 ^ 30 }) remote
     ∃ x, Tab.find? s.pkg.queues 3 = some x ∧ x.st = .resetting ∧ 2 ^ 30 ≤ s.pkg.pt - x.resetAt) := by
  refine ⟨by decide +kernel, by decide +kernel, by decide +kernel, by decide +kernel, ⟨rfl, by decide +kernel, by decide +kernel, by decide +kernel,
      ⟨_, List.mem_cons_self, rfl⟩, by decide +kernel⟩,
    by decide +kernel, by decide +kernel, by decide +kernel, by decide +kernel, ⟨{ Queue.reset with st := .resetting }, by decide +kernel⟩⟩

/-- A message from context 0 of core 0 to helper 1 of core 0, whose inbox holds `n`. -/
def message (gen : Nat) : Flight :=
  { msg := { sender := 9, payload := 88 }, dst := BitVec.ofNat 64 (2 ^ 16 + gen), space := 0, who := ⟨0, 0⟩, gen := 1, queue := 0, tok := 21, op := 33,
    released := 0 }
def sent (n : Nat) : State :=
  regs (fun r => { r with pend := [(21, 33)] }) (put (fun p => ({ p with flights := [message 1, message 2], pt := 2 ^ 18 - 1 } : Pkg).modCtx ⟨0, 1⟩ fun c =>
    { c with inbox := List.replicate n { sender := 0, payload := 0 } }) helped)
def hereIn (s : State) (f : Flight) : Bool :=
  let y := ctxOfGcid (fld f.dst.toNat 28 16)
  decide ((s.pkg.ctx y).st ≠ .free ∧ (s.pkg.ctx y).gen = f.dst.setWidth 16 ∧ s.pkg.spaceOf y.core = f.space)

theorem witness_message_events :
    ((sent 7).pkg.flights[0]? = some (message 1) ∧ (sent 7).pkg.msgFirst 0 (message 1) = true ∧ (sent 7).pkg.replayOf (message 1).space = none ∧
      hereIn (sent 7) (message 1) = true ∧ ((sent 7).pkg.ctx ⟨0, 1⟩).inbox.length + (((sent 7).pkg.ctx ⟨0, 1⟩).chunks.flatMap Chunk.taken).length < 8 ∧
      (sent 7).pkg.pt - (message 1).released < 2 ^ 18) ∧
    (hereIn (sent 8) (message 1) = true ∧ 8 ≤ ((sent 8).pkg.ctx ⟨0, 1⟩).inbox.length + (((sent 8).pkg.ctx ⟨0, 1⟩).chunks.flatMap Chunk.taken).length) ∧
    ((sent 7).pkg.flights[1]? = some (message 2) ∧ (sent 7).pkg.msgFirst 1 (message 2) = true ∧ hereIn (sent 7) (message 2) = false) ∧
    (put (fun p => { p with pt := 2 ^ 18 }) (sent 7)).pkg.msgFirst 0 (message 1) = true ∧
    (Tab.find? ((sent 7).pkg.ctx (message 1).who).regs.pend 21 = some 33 ∧ ((sent 7).pkg.ctx (message 1).who).gen = (message 1).gen ∧
      ((sent 7).pkg.ctx (message 1).who).st ≠ .free) := by
  decide +kernel

/-- A task record of queue 2 for core 5, of space 1, alone or in gang 6; it stands in the core's inbox; it is resident. -/
def aTask (gang : Option Nat) : TaskInfo :=
  { queue := 2, seq := 4, recva := 8192, rcd := BitVec.ofNat 512 (4096 + 77 <<< 64 + 9 <<< 128), gang, doomed := none }
def aGraph : Graph :=
  { recva := 8192, nrec := 1, tag := 5, seq := 4, ready := [], succ := [], badGangs := [], running := 1, completed := 0, rejected := 0, caused := 0,
    depErr := false, invalid := false }
def queued (q : Queue) (k : Core → Core) : State :=
  put (fun p => ({ p with spaces := (p.spaces.put 1 (.new 0 0 1)).put 2 (.new 1 3 2), qslots := [(4, { queue := some 2, deficit := 0 })],
                          queues := [(2, { q with space := 1, st := .active })] } : Pkg).modCore 5 k) live
def arrived (gang : Option Nat) : State := queued .reset fun k => { k with inbox := [aTask gang] }
def resident (gang : Option Nat) (f : Task → Task) : State :=
  queued { Queue.reset with graph := some aGraph } fun k =>
    { k with task := some (f { info := aTask gang, space := 1, start := 0, launched := 0, live := false, exited := false, ended := none, silent := false }) }

theorem witness_task_events :
    (∀ gang ∈ [none, some 6], (arrived gang).pkg.nextRecord 5 = some (aTask gang) ∧ ((arrived gang).pkg.core 5).task = none ∧
      Tab.find? (arrived gang).pkg.resetting (5 / 64) = none ∧ (arrived gang).pkg.slotReady ⟨5, 0⟩ = true ∧ (aTask gang).doomed = none ∧
      (arrived gang).pkg.replayOf ((arrived gang).pkg.queue 2).space.toNat = none) ∧
    (let s := resident (some 6) id
     ∃ t, (s.pkg.core 5).task = some t ∧ t.info.gang = some 6 ∧ t.live = false ∧ t.ended = none ∧ s.pkg.slotReady ⟨5, 0⟩ = true ∧
       s.pkg.gangReady 6 = true ∧ s.pkg.replayOf t.space = none) ∧
    (∀ e ∈ [none, some (0x33, 81, 4096)],
      let s := resident none fun t => { t with live := true, exited := true, ended := e }
      s.pkg.taskDone 5 = true ∧ (s.pkg.queue 2).graph = some aGraph ∧ aGraph.seq = (aTask none).seq) ∧
    ((live.pkg.core 0).preemptible = true ∧ ∀ c ∈ live.pkg.gangCores 0, (live.pkg.core c).spawning = false) ∧
    (let s := put (fun p => { p with qslots := [(0, { queue := some 0, deficit := 0 })] }) (core0 (fun k => { k with preempt := true }) live)
     (s.pkg.core 0).task = some placeTask ∧ (s.pkg.core 0).preempt = true ∧ placeTask.info.gang = none ∧ Tab.find? s.pkg.resetting (0 / 64) = none ∧
       s.pkg.hasSlot placeTask.info.queue = true) := by
  refine ⟨by decide +kernel, ⟨{ info := aTask (some 6), space := 1, start := 0, launched := 0, live := false, exited := false, ended := none, silent := false }, by decide +kernel⟩,
    by decide +kernel, by decide +kernel, by decide +kernel⟩

/-- A queue whose submission entry 2 names one root task record of zeros; the same entry, invalid; the graph taken. -/
def submitted (w : Nat) : State :=
  let line (s : State) (va v : Nat) : State := lineAt 1 va v s
  let s := queued { Queue.reset with slog2 := 4, subva := 65536, stail := 5, shead := 2 } id
  line (line (put (fun p => p.modSpace 1 fun sp => { sp with windows := [(31, placeWindow)] }) s) (65536 + 64) w) 8192 0
def entryWord : Nat := 8192 + 1 <<< 64 + 55 <<< 128
def visiting (deficit : Int) (rcd : Nat) : State :=
  put (fun p => { p with arbPos := 4, qslots := [(4, { queue := some 2, deficit })], queues := p.queues.map fun e =>
    (e.1, { e.2 with graph := some { aGraph with running := 0, ready := [(8192, BitVec.ofNat 512 rcd)] } }) }) (submitted entryWord)
def takes (s : State) : Option Bool := (s.pkg.takeable 2).map fun e => e.1.fails

theorem witness_front_end_events :
    (let s := put (fun p => { p with qslots := [], slotPos := 2 }) (submitted entryWord)
     (s.pkg.queue 2).st = .active ∧ s.pkg.hasSlot 2 = false ∧ (List.range 32).find? (fun i => (s.pkg.qslots.get .reset i).queue.isNone) = some 0 ∧
       ∀ e ∈ s.pkg.queues, e.2.st = .active → s.pkg.hasSlot e.1 = false → (2 + 1024 - s.pkg.slotPos) % 1024 ≤ (e.1 + 1024 - s.pkg.slotPos) % 1024) ∧
    ((submitted entryWord).pkg.hasSlot 2 = true ∧ ((submitted entryWord).pkg.queue 2).st ≠ .resetting ∧
      ∀ c ∈ (submitted entryWord).pkg.coresOf 2, ((submitted entryWord).pkg.core c).spawning = false) ∧
    (let x := (submitted entryWord).pkg.queue 2
     x.st = .active ∧ x.graph = none ∧ x.waiting = [] ∧ x.stail ≠ x.shead ∧ x.subva.toNat + 32 * (x.shead.toNat % 2 ^ x.slog2.toNat) = 65536 + 64) ∧
    (match (submitted entryWord).pkg.frontRead 2 (65536 + 64) 32 with
      | .got b q => entryOk (leNat b) && (Pkg.rootsFrom 2 (fld (leNat b) 83 64) (fld (leNat b) 63 0) q).isRight
      | _ => false) = true ∧
    (match (submitted 1).pkg.frontRead 2 (65536 + 64) 32 with
      | .got b _ => !entryOk (leNat b)
      | _ => false) = true ∧
    (match (put (fun p => { p with l2 := p.l2.map fun e => (e.1, { e.2 with poison := true }) }) (submitted 1)).pkg.frontRead 2 (65536 + 64) 32 with
      | .bad => true
      | _ => false) = true ∧
    ((submitted entryWord).pkg.qslots.get .reset (submitted entryWord).pkg.arbPos).queue = none ∧
    ((submitted entryWord).pkg.takeable 2 = none ∧ ∀ d ∈ [(0 : Int), 5], ∀ r ∈ [0, 1],
      ((visiting d r).pkg.qslots.get .reset (visiting d r).pkg.arbPos).queue = some 2 ∧
      ((visiting d r).pkg.qslots.get .reset (visiting d r).pkg.arbPos).deficit = d ∧
      ((visiting d r).pkg.queue 2).graph.isSome = true ∧ takes (visiting d r) = some (r == 1)) := by
  decide +kernel

/-- Queue 3, of interface 0 and space 0, with ring sizes and an address that are legal, in a state. -/
def hostQueue (st : QState) (nmode : Nat) : State :=
  put (fun p => { p with queues := [(3, { Queue.reset with st, slog2 := 16, clog2 := 4, subva := BitVec.ofNat 64 (32 * 65536), shead := 3, stail := 5, chead := 2,
                                                           ctail := 4, nmode := BitVec.ofNat 2 nmode })] }) live
def legalQueue (s : State) : Bool :=
  let p := s.pkg
  let x := p.queue 3
  decide ((p.space? x.space.toNat).map Space.owner = some (3 / 16) ∧ 4 ≤ x.slog2.toNat ∧ x.slog2.toNat ≤ 16 ∧ 4 ≤ x.clog2.toNat ∧
    x.clog2.toNat ≤ 16 ∧ x.subva.toNat % (32 * 2 ^ x.slog2.toNat) = 0 ∧ x.cmpva.toNat % (32 * 2 ^ x.clog2.toNat) = 0 ∧
    x.nmode ≠ 3 ∧ x.resv = 0)

/-- A request of interface 0 for space 0, and a state in which it waits. -/
def fromHost (what : Asked) (at_ done : Nat) : Inbound :=
  { who := .host 0, epoch := 0, space := 0, va := 2 ^ 16 + at_, what, limit := what.size, done, got := [] }
def waitingHost (what : Asked) (at_ done : Nat) : State := put (fun p => { p with inbound := [fromHost what at_ done] }) live

theorem witness_host_events :
    (∀ st ∈ [QState.disabled, .refused], legalQueue (hostQueue st 0) = true ∧ legalQueue (hostQueue st 3) = false ∧ ((hostQueue st 0).pkg.queue 3).st = st) ∧
    (∀ st ∈ [QState.idle, .active], let x := (hostQueue st 0).pkg.queue 3
      x.st = st ∧ ((x.stail - x.shead).toNat ≤ ((5 : BitVec 32) - x.shead).toNat ∧ ((5 : BitVec 32) - x.shead).toNat ≤ 2 ^ x.slog2.toNat ∧ 5 ≠ x.shead) ∧
      ((BitVec.ofNat 32 (3 + 2 ^ 16) - x.shead).toNat ≤ 2 ^ x.slog2.toNat) ∧
      (((4 : BitVec 32) - x.shead).toNat < (x.stail - x.shead).toNat ∧ 2 ^ x.slog2.toNat < (BitVec.ofNat 32 (4 + 2 ^ 16) - x.shead).toNat) ∧
      (((4 : BitVec 32) - x.chead).toNat ≤ (x.ctail - x.chead).toNat ∧ (x.ctail - x.chead).toNat < ((5 : BitVec 32) - x.chead).toNat)) ∧
    (let p := (hostQueue .resetting 0).pkg
     let q : Queue := { p.queue 3 with stail := 3 }
     q.st = .resetting ∧ q.graph = none ∧ q.stail = q.shead ∧ p.hasTask 3 = false ∧ (p.queue 3).stail ≠ (p.queue 3).shead) ∧
    (live.pkg.owns 3 0 = false ∧ live.pkg.owns 0 0 = true) ∧
    ((hostQueue .active 0).pkg.inbound = [] ∧ ∃ a ∈ (waitingHost (.read 8) 4 0).pkg.inbound, a.who = .host (3 / 16)) ∧
    (live.pkg.admitted 0 (rENG + rWR) (2 ^ 16 + 4) 3 = 3 ∧ live.pkg.admitted 0 (rENG + rRD) (2 ^ 16 + 4) 3 = 3 ∧
      live.pkg.admitted 0 (rENG + rWR) (2 ^ 56 - 1) 2 ≠ 2 ∧ live.pkg.admitted 0 (rENG + rRD) lsBase 1 ≠ 1) ∧
    (live.pkg.inbound = [] ∧ ((lineAt 0 (2 ^ 16) 41 live).pkg.inboundStep (fromHost (.read 8) 4 0)).isSome = true ∧
      ((live.pkg.inboundStep (fromHost (.read 8) 4 0)).bind fun e => e.2.inboundStep (fromHost (.read 8) 4 0)) = none) ∧
    (∀ n ∈ [8, 80], ∀ d ∈ [false, true],
      let s := put (fun p => { p with l2 := p.l2.map fun e => (e.1, { e.2 with poison := d }) }) (lineAt 0 (2 ^ 16) 41 live)
      let r := fromHost (.read n) 4 0
      (s.pkg.space? r.space).isSome = true ∧ r.done < r.limit ∧ r.limit = r.what.size ∧
        good (s.pkg.readPiece 0 (rENG + rRD) (2 ^ 16 + 4) (min n 60)) (fun e => e.1.poison == d) = true) ∧
    (∀ n ∈ [8, 80],
      let r := fromHost (.write (List.replicate n 5)) 4 0
      r.done < r.limit ∧ r.limit = r.what.size ∧
        good ((lineAt 0 (2 ^ 16) 41 live).pkg.writePiece none 0 (rENG + rWR) (2 ^ 16 + 4) (List.replicate (min n 60) 5) (.module_ 0)) (fun _ => true) = true) ∧
    (let s : State := { live with prov := { live.prov with bridge := true, modid := 33 } }
     s.prov.bridge = true ∧ 34 / 16 = s.prov.modid / 16 ∧ 34 ≠ s.prov.modid) ∧ live.prov.bridge = false ∧
    (∀ b ∈ [Block.cmd, .job, .debug, .platform], ∀ vi ∈ [0, 3], (command vi b 0x20 [] live).runs vi b 0x20 ∧ ((live.pkg.vi vi).block b).running = false) ∧
    (put (fun p => { p with fw := { p.fw with switching := some 5 } }) live).pkg.fw.switching ≠ none := by
  unfold State.runs; decide +kernel

/-- A command that runs in a block of an interface, on a state made so. -/
def runsWith (b : Block) (vi code : Nat) (args : List Nat) (s : State) (P : State → Bool) : Bool :=
  let t := command vi b code args s
  decide (((t.pkg.vi vi).block b).running = true ∧ (((t.pkg.vi vi).block b).dw.get 0 0).toNat % 256 = code ∧ t.pkg.fw.switching = none) &&
    ((List.range args.length).all fun n => t.arg vi b (n + 1) == args.getD n 0) && P t
/-- Spaces 1 (of interface 0) and 2 (of interface 3) beside space 0; a parked record of space 1. -/
def hosted : State := put (fun p => { p with spaces := (p.spaces.put 1 (.new 0 0 1)).put 2 (.new 1 3 2) }) mapped
def recorded : State :=
  put (fun p => { p with recs := [{ mc := 0, key := lineKey 1 4096, attr := { space := 1, gcid := 4, gen := 1, chunk := 3, mask := 15, engine := false },
                                    cause := 0x20, data := 5, pan := none }] }) hosted
/-- Helper 1 held at line 1024, by an operation of context 0 too. -/
def heldHelper : State :=
  put (·.modCtx ⟨0, 1⟩ fun c => { c with st := .held, held := some { va := 4096, key := lineKey 0 4096, mask := 1, line := lineKey 0 4096 } }) helped
def heldOp : State := put (fun p => { p with ops := [{ op ⟨0, 0⟩ (.copy 0 0 64 1 1 0 0 0 0 none) with held := [(0, lineKey 0 0)] }] }) heldHelper
/-- Every near frame for tables is taken. -/
def full : State := put (fun p => { p with spaces := (List.range 4096).map fun i => (i, .new 0 0 i) }) live

theorem witness_space_commands :
    (runsWith .cmd 0 0x02 [3] hosted fun _ => true) ∧ (runsWith .cmd 3 0x02 [1] hosted fun _ => true) ∧
    (runsWith .cmd 0 0x02 [2] (put (fun p => { p with failed := true }) hosted) fun s => s.pkg.failed) ∧
    (runsWith .cmd 3 0x02 [0] hosted fun s => !s.pkg.failed) ∧
    (lowestFree (hosted.pkg.spaces.map Prod.fst) 1 65535 ≠ none ∧ lowestFree (hosted.pkg.spaces.map fun e => e.2.frame) 0 Config.tableFrames = some 3) ∧
    lowestFree (full.pkg.spaces.map fun e => e.2.frame) 0 Config.tableFrames = none ∧
    (runsWith .cmd 3 0x03 [1, 4095, 2 ^ 63] hosted fun s => !s.pkg.owns 3 1) ∧
    (runsWith .cmd 3 0x03 [2, 4096, 2 ^ 63] hosted fun s => s.pkg.owns 3 2) ∧ (runsWith .cmd 0 0x03 [2, 0, 2 ^ 48] hosted fun s => s.pkg.owns 0 2) ∧
    (runsWith .cmd 0 0x03 [2, 4095, 2 ^ 63 + 2 ^ 24 + 1] hosted fun s => s.pkg.owns 0 2) ∧ fld (2 ^ 63 + 2 ^ 24 + 1) 62 48 = 0 ∧
    fld (2 ^ 63 + 2 ^ 24 + 1) 23 16 = 0 ∧ fld (2 ^ 48) 62 48 ≠ 0 ∧
    (runsWith .cmd 3 0x04 [0, 1] hosted fun _ => true) ∧ (runsWith .cmd 0 0x04 [1024, 1] hosted fun _ => true) ∧ (runsWith .cmd 0 0x04 [1023, 255] hosted fun _ => true) ∧
    (runsWith .cmd 3 0x14 [0, 1, 1] heldOp fun s => !s.pkg.owns 3 0) ∧ (runsWith .cmd 0 0x14 [0, 2, 1] heldOp fun s => s.pkg.owns 0 0 &&
      decide ((s.pkg.ctx (ctxOfGcid 2)).st ≠ .held) && s.pkg.ops.all fun o => decide (o.who ≠ ctxOfGcid 2)) ∧
    (∀ e ∈ [(2 ^ 13, 1), (1, 2 ^ 16)], runsWith .cmd 0 0x14 [0, e.1, e.2] heldOp fun s => s.pkg.owns 0 0) ∧
    (runsWith .cmd 0 0x14 [0, 0, 1] heldOp fun s => s.pkg.owns 0 0 && decide ((s.pkg.ctx (ctxOfGcid 0)).st ≠ .held) &&
      s.pkg.ops.any fun o => o.who == ctxOfGcid 0 && o.gen.toNat == 1 && o.space == 0 && !o.held.isEmpty) ∧
    (runsWith .cmd 0 0x14 [0, 1, 1] heldOp fun s =>
      let x := ctxOfGcid 1
      let c := s.pkg.ctx x
      s.pkg.owns 0 0 && decide (x.slot < 11 ∧ c.gen.toNat = 1 ∧ s.pkg.spaceOf x.core = 0 ∧ c.st = .held ∧ c.held ≠ none)) ∧
    (runsWith .cmd 3 0x16 [1, 64, 4, 0] hosted fun s => !s.pkg.owns 3 1) ∧ (runsWith .cmd 0 0x16 [1, 65, 4, 0] hosted fun s => s.pkg.owns 0 1) ∧
    (runsWith .cmd 0 0x16 [1, 64, 16, 8] hosted fun s => s.pkg.owns 0 1) ∧
    (runsWith .cmd 3 0x18 [1, 1] hosted fun s => !s.pkg.owns 3 1) ∧ (runsWith .cmd 0 0x18 [1, 2] hosted fun s => s.pkg.owns 0 1) ∧
    (runsWith .cmd 3 0x18 [2, 1] hosted fun s => s.pkg.owns 3 2) ∧
    (runsWith .cmd 3 0x17 [2, 64, 1, 0] hosted fun s => !s.pkg.owns 3 1) ∧ (runsWith .cmd 0 0x17 [0, 64, 1, 0] hosted fun s => s.pkg.owns 0 0 && s.pkg.owns 0 1) ∧
    (runsWith .cmd 0 0x17 [1, 64, 0, 0] (put (fun p => { p with queues := [(3, { Queue.reset with space := 1, st := .idle })] }) hosted) fun s =>
      s.pkg.owns 0 1 && s.pkg.owns 0 0 && s.pkg.queues.any fun e => decide (e.2.space.toNat = 1 ∧ e.2.st ≠ .disabled)) ∧
    (runsWith .cmd 0 0x17 [1, 2 ^ 16, 0, 1] recorded fun s =>
      s.pkg.owns 0 1 && s.pkg.owns 0 0 && s.pkg.queues.isEmpty && s.pkg.brine.isEmpty &&
      good (s.pkg.reportLines 0 (2 ^ 16) (((s.pkg.recs.filter fun r => r.attr.space == 1).take 1).map discardEntry)) fun _ => true) ∧
    (runsWith .cmd 0 0x19 [0, 4, 2 ^ 16, 0] hosted fun s => s.pkg.owns 0 0 && s.pkg.cores.any fun e => e.2.task.any fun t => t.space == 0) ∧
    (∀ e ∈ [(256, 2 ^ 16), (255, 2 ^ 16 + 1), (255, 2 ^ 16)], runsWith .cmd 0 0x19 [1, e.1, e.2, 0] hosted fun s => s.pkg.owns 0 1 && s.pkg.owns 0 0 &&
      s.pkg.brine.isEmpty && s.pkg.recs.isEmpty && s.pkg.cores.all fun e => e.2.task.all fun t => t.space != 1) ∧
    good ((linesAt 0 (2 ^ 16) 4 hosted).pkg.moduleRead 0 (2 ^ 16) 256) (fun e => !e.2.1 && entryBad (leNat e.1)) = true ∧
    good ((List.range 4).foldl (fun s i => lineAt 0 (2 ^ 16 + 64 * i) 0 s) hosted |>.pkg.moduleRead 0 (2 ^ 16) 256) (fun e => !e.2.1 && !entryBad (leNat e.1)) = true := by
  refine ⟨by decide +kernel, by decide +kernel, by decide +kernel, by decide +kernel,
    ⟨fun h => absurd (List.find?_eq_none.1 h 3 (by simp)) (by decide +kernel), by decide +kernel⟩, ?_, by decide +kernel⟩
  have e : full.pkg.spaces.map (fun e => e.2.frame) = List.range 4096 := by
    simp only [full, put, List.map_map]
    exact List.map_id _
  rw [e]
  refine List.find?_eq_none.2 fun i h => ?_
  simpa [Config.tableFrames] using h

/-- `hosted` with page 16 of space 1 mapped, or moving at the command of interface 0; a line of space 0 that holds `d` at 131072. -/
def paged (mig : Bool) (done : Nat) : State :=
  put (fun p => { p with leaves := [{ bucket := 5, size := 0, far := false, mig, space := 1, vpn := 16, frame := 5000 }],
                         migs := if mig then [{ vi := 0, live := true, space := 1, vpn := 16, size := 0, frame := 6000, far := false, done := List.range done }] else [] }) hosted
def granule (d : Nat) : State := lineAt 0 (2 ^ 17) d hosted
/-- A region descriptor: granule 16 of space 1, one by one by one, in near frame 5000. -/
def aRegion : Nat := 1 + 16 <<< 216 + 1 <<< 256 + 5000 <<< 296 + 1 <<< 336 + 1 <<< 352 + 1 <<< 368

/-- An exclusive chunk of core 0 has read a line of space 1. -/
def guarding (va : Nat) (s : State) : State :=
  ctx (fun c => { c with excl := some .package, exclNo := c.seq, ch := { c.ch with count := 1, rlines := [lineKey 1 va] } }) s

theorem witness_translation_commands :
    (runsWith .cmd 3 0x10 [1, 2 ^ 20, 5000, 0] hosted fun s => !s.pkg.owns 3 1) ∧
    (∀ f ∈ [(2 ^ 20, 5000, 16), (2 ^ 20, 5000, 3), (2 ^ 56, 5000, 0), (2 ^ 20 + 1, 5000, 0)], runsWith .cmd 0 0x10 [1, f.1, f.2.1, f.2.2] hosted fun s => s.pkg.owns 0 1) ∧
    frameBad hosted.prov.shf false 0 1 = true ∧ frameBad hosted.prov.shf false 5000 1 = false ∧
    (runsWith .cmd 0 0x10 [1, 2 ^ 20, 5000, 8] (paged false 0) fun s => s.pkg.owns 0 1 && s.pkg.covered 1 none (16, 1)) ∧
    (runsWith .cmd 0 0x10 [1, 2 ^ 20, 5000, 8] hosted fun s => s.pkg.owns 0 1 && !s.pkg.covered 1 none (16, 1) &&
      (s.pkg.bucketFor s.prov.nbLog2 1 16 0).isSome) ∧
    (runsWith .cmd 0 0x10 [1, 2 ^ 20, 5000, 0]
      (put (fun p => { p with leaves := (List.range 32).map fun i =>
        { bucket := (bucketOf 16 1 16 0 + i / 4) % 65536, size := 0, far := false, mig := false, space := 9, vpn := i, frame := 5000 + i } }) hosted) fun s =>
      s.pkg.owns 0 1 && !s.pkg.covered 1 none (16, 1) && (s.pkg.bucketFor s.prov.nbLog2 1 16 0).isNone) ∧
    -- a page, or a granule, of which an exclusive chunk has read a line
    (∀ va ∈ [2 ^ 20, 2 ^ 20 + 65472], runsWith .cmd 0 0x10 [1, 2 ^ 20, 5000, 0] (guarding va hosted) fun s => s.pkg.owns 0 1 && !s.pkg.covered 1 none (16, 1) &&
      (s.pkg.bucketFor s.prov.nbLog2 1 16 0).isSome && (s.pkg.storeLines (keyIn 1 (2 ^ 20) 65536)).isNone) ∧
    ((guarding (2 ^ 20) hosted).pkg.storeLines (fun k => keySpace k == 1 && (regionFrame (BitVec.ofNat 512 aRegion) 1 (keyVa k)).isSome) = none ∧
      (hosted.pkg.storeLines (fun k => keySpace k == 1 && (regionFrame (BitVec.ofNat 512 aRegion) 1 (keyVa k)).isSome)).isSome = true) ∧
    (runsWith .cmd 3 0x11 [1, 2 ^ 20] (paged false 0) fun s => !s.pkg.owns 3 1) ∧ (∀ va ∈ [1, 2 ^ 56], runsWith .cmd 0 0x11 [1, va] (paged false 0) fun s => s.pkg.owns 0 1) ∧
    (runsWith .cmd 0 0x11 [1, 2 ^ 21] (paged false 0) fun s => s.pkg.owns 0 1 && (s.pkg.leafAt 1 (2 ^ 21)).isNone) ∧
    (∀ m ∈ [true, false], runsWith .cmd 0 0x11 [1, 2 ^ 20] (paged m 0) fun s => s.pkg.owns 0 1 && decide ((s.pkg.leafAt 1 (2 ^ 20)).map Leaf.mig = some m)) ∧
    (runsWith .cmd 3 0x12 [2, 0, 2 ^ 17, 0] hosted fun s => !s.pkg.owns 3 0) ∧
    (∀ e ∈ [(64, 2 ^ 17), (63, 2 ^ 17 + 1), (63, 2 ^ 17)], runsWith .cmd 0 0x12 [1, e.1, e.2, 0] hosted fun s => s.pkg.owns 0 1 && s.pkg.owns 0 0 &&
      !(s.pkg.regions.get 0 e.1).getLsbD 0) ∧
    (∀ e ∈ [(0, 0), (1, 5), (2, 5), (aRegion - 1, 0), (aRegion, 0)], good ((granule e.1).pkg.moduleRead 0 (2 ^ 17) 64) (fun x => !x.2.1 &&
      decide (leNat x.1 = e.1) && x.2.2.regionCode hosted.prov 1 63 (BitVec.ofNat 512 e.1) == e.2) = true) ∧ 2 / 2 % 2 ^ 215 ≠ 0 ∧
    (runsWith .cmd 3 0x13 [1, 0, 2 ^ 56] recorded fun s => !s.pkg.owns 3 1) ∧ (runsWith .cmd 0 0x13 [1, 1, 2 ^ 56] recorded fun s => s.pkg.owns 0 1) ∧
    (runsWith .cmd 0 0x13 [1, 0, 2 ^ 56] recorded fun s => s.pkg.owns 0 1 && (s.pkg.parkedLines 1 0 (2 ^ 56)).length == 1 &&
      (s.pkg.parkedLines 1 0 (2 ^ 56)).all fun k => !s.pkg.down k) ∧
    (runsWith .cmd 3 0x15 [1, 2 ^ 20, 6000, 0] (paged false 0) fun s => !s.pkg.owns 3 1) ∧
    (∀ e ∈ [(2 ^ 20 + 1, 0), (2 ^ 20, 8), (2 ^ 20, 1), (2 ^ 21, 0)], runsWith .cmd 0 0x15 [1, e.1, 6000, e.2] (paged false 0) fun s => s.pkg.owns 0 1 &&
      ((s.pkg.leafAt 1 e.1).isNone || e.2 != 0)) ∧
    (∀ e ∈ [(0, 3), (0, 1024), (3, 0)], runsWith .cmd e.1 0x15 [1, 2 ^ 20, 6000, 0] (put (fun p => p.modSpace 1 fun x => { x with owner := 3 }) (paged true e.2)) fun s =>
      s.pkg.owns e.1 1 && (s.pkg.leafAt 1 (2 ^ 20)).isSome && (List.find? (fun (m : Mig) => m.space == 1 && m.vpn == 16) s.pkg.migs).any fun m =>
        m.live && m.vi == 0 && m.done.length == e.2) ∧
    (runsWith .cmd 0 0x15 [1, 2 ^ 20, 6000, 0] (put (fun p => { p with migs := p.migs.map fun m => { m with live := false } }) (paged true 3)) fun s =>
      s.pkg.owns 0 1 && (s.pkg.leafAt 1 (2 ^ 20)).isSome && (List.find? (fun (m : Mig) => m.space == 1 && m.vpn == 16) s.pkg.migs).any fun m => !m.live) ∧
    (∀ f ∈ [0, 6000], runsWith .cmd 0 0x15 [1, 2 ^ 20, f, 0] (paged false 0) fun s => s.pkg.owns 0 1 && s.pkg.migs.isEmpty &&
      (s.pkg.leafAt 1 (2 ^ 20)).any fun l => frameBad s.prov.shf false f (sizeUnits l.size) == (f == 0) && !s.pkg.pageBusy l) ∧
    (let s := put (fun p => { p with recs := p.recs.map fun r => { r with key := lineKey 1 (2 ^ 20) }, leaves := (paged false 0).pkg.leaves }) recorded
     runsWith .cmd 0 0x15 [1, 2 ^ 20, 6000, 0] s fun s => (s.pkg.leafAt 1 (2 ^ 20)).any s.pkg.pageBusy) ∧
    hosted.pkg.hotness = [] := by
  decide +kernel

/-- Space 0 records into a log at 2^20; replays a log whose one entry ends chunk 0 of context 7, which is FREE; its cores are
to stop. -/
def logging (queue : List (List Byte)) : State :=
  space0 (fun x => { x with recording := some { ring := { Ring.new (2 ^ 20) 0 0 0 with queue }, size := 20, truncated := false, entries := 5, live := true } })
    (put (fun p => { p with openLogs := [(2 ^ 20, 0)] }) hosted)
def chunkEntry (gcid : Nat) : BitVec 256 := logEntry 5 0 1 gcid 1 0 0
def replaying : State :=
  space0 (fun x => { x with replay := some { va := 0, space := 0, log := [chunkEntry 7], next := 0, stopCtx := 0, stopChunk := 0, stopCount := 3, stopAt := 0,
                                             stopped := false, split := false, lidxBase := 0, outBase := 0, countBase := 0, names := [] } }) hosted
def theStop (halted : List TaskRef) : Stop :=
  { seq := 3, cause := 0x31, tool := 0, target := 0, dom := 0, tasks := [⟨0, 0⟩], halted, hits := [], skids := [], notes := [],
    recorded := false, rel := false, raised := 0, strayed := false }
/-- A log of one entry in memory. -/
def logged : State := lineAt 0 (2 ^ 17 + 64) (chunkEntry 0).toNat (lineAt 0 (2 ^ 17) 1 hosted)

theorem witness_trace_events :
    (hosted.pkg.mayTrace hosted.fuses 3 2 4 = true ∧ hosted.pkg.mayTrace hosted.fuses 3 1 4 = false ∧
      (put (fun p => p.modSpace 1 fun x => { x with tool := 2, rights := 16 }) hosted).pkg.mayTrace hosted.fuses 3 1 4 = true) ∧
    (runsWith .debug 3 1 [1, 64, 4, 0] hosted fun s => !s.pkg.owns 3 1) ∧ (runsWith .debug 0 1 [1, 64, 17, 0] hosted fun s => s.pkg.owns 0 1) ∧
    (runsWith .debug 0 1 [1, 64, 16, 0] hosted fun s => s.pkg.owns 0 1) ∧
    (runsWith .debug 3 2 [0, 1, 2 ^ 20, 2] hosted fun s => s.pkg.owns 3 2) ∧ (runsWith .debug 0 2 [1, 1, 2 ^ 20 + 1, 0] hosted fun s => s.pkg.mayTrace s.fuses 0 1 3 && s.pkg.owns 0 0) ∧
    (runsWith .debug 0 2 [0, 1, 2 ^ 20, 0] hosted fun s => s.pkg.owns 0 0 && s.pkg.snaps.isEmpty) ∧
    (runsWith .debug 3 3 [64, 0, 16] hosted fun _ => true) ∧ (runsWith .debug 0 3 [64, 9, 16] hosted fun s => (s.pkg.space? 9).isNone) ∧
    (runsWith .debug 0 3 [64, 2, 40] hosted fun s => (s.pkg.space? 2).isSome) ∧
    (runsWith .debug 3 4 [1, 64, 2, 16] hosted fun s => !s.pkg.mayTrace s.fuses 3 1 4) ∧ (∀ n ∈ [0, 15, 16, 40], runsWith .debug 0 4 [1, 64, 0, n] hosted fun s =>
      s.pkg.mayTrace s.fuses 0 1 4 && s.pkg.owns 0 0 && ((s.pkg.space? 1).bind Space.recording).isNone) ∧
    (∀ q ∈ [[], [[5]]], runsWith .debug 0 4 [0, 64, 0, 0] (logging q) fun s => s.pkg.mayTrace s.fuses 0 0 4 && s.pkg.owns 0 0 &&
      ((s.pkg.space? 0).bind Space.recording).any fun r => r.ring.queue == q) ∧
    (∀ r ∈ [3, 6], runsWith .debug 0 5 [1, 2 ^ 17, 0, 1, 0, r] logged fun s => s.pkg.mayTrace s.fuses 0 1 4 && s.pkg.owns 0 0 &&
      !s.pkg.openLogs.contains (2 ^ 17, 0) &&
      good (s.pkg.readAll 0 (rENG + rWR) (2 ^ 17) 8) fun x => !x.2.1 && good (x.2.2.readLog 0 (leNat x.1) (2 ^ 17 + 64)) fun y =>
        decide (stopEntryAt y.1 (BitVec.ofNat 64 1) 0 r = if r = 3 then some 0 else none)) ∧
    (runsWith .debug 0 5 [0, 2 ^ 20, 0, 0, 0, 0] (logging []) fun s => s.pkg.mayTrace s.fuses 0 0 4 && s.pkg.owns 0 0 && s.pkg.openLogs.contains (2 ^ 20, 0)) ∧
    (runsWith .debug 3 6 [] hosted fun _ => true) ∧ (runsWith .debug 0 6 [] hosted fun _ => true) ∧
    (let s := put (fun p => { p with stops := [theStop []] }) hosted
     (s.pkg.core 0).spawning = false ∧ (List.find? (fun (t : Stop) => t.seq == 3) s.pkg.stops = some (theStop [])) ∧
       List.find? (fun (r : TaskRef) => r.core == 0 && (theStop []).reaching r) (theStop []).tasks = some ⟨0, 0⟩ ∧ (s.pkg.core 0).runs ⟨0, 0⟩ = true) ∧
    ((hosted.pkg.modCtx ⟨0, 0⟩ fun c => { c with wait := some (.slot, 0) }).core 0).spawning = true ∧
    (List.find? (fun (t : Stop) => t.seq == 3 && !t.recorded && t.tasks.all t.halted.contains) [theStop [⟨0, 0⟩]] = some (theStop [⟨0, 0⟩])) ∧
    ((replaying.pkg.replayOf 0).any fun r => decide (r.log[r.gate]? = some (chunkEntry 7)) && replaying.pkg.diverged 0 r (chunkEntry 7)) ∧
    ((put (fun p => p.modSpace 0 fun x => { x with replay := x.replay.map fun r => { r with log := [chunkEntry 0] } }) replaying).pkg.replayOf 0).any (fun r =>
      decide (r.log[r.gate]? = some (chunkEntry 0)) && !replaying.pkg.diverged 0 r (chunkEntry 0)) = true ∧
    (let s := put (fun p => { p with profk := 8, pt := 512, profAt := 256 }) hosted
     s.pkg.profPend = none ∧ 8 ≤ s.pkg.profk.toNat ∧ s.pkg.pt % 2 ^ s.pkg.profk.toNat = 0 ∧ s.pkg.profAt < s.pkg.pt) ∧
    (let s := put (fun p => { p with profPend := some 9, pt := 512 }) hosted
     s.pkg.profPend = some 9 ∧ s.pkg.profk = 0 ∧ s.pkg.pt % 2 ^ (9 : Word).toNat = 0) ∧
    (let s := put (fun p => { p with profk := 8, profPend := some 9, pt := 512, profAt := 512 }) hosted
     s.pkg.profPend = some 9 ∧ s.pkg.profk ≠ 0 ∧ s.pkg.pt % 2 ^ max s.pkg.profk.toNat (9 : Word).toNat = 0 ∧ s.pkg.profAt = s.pkg.pt) := by
  decide +kernel

theorem witness_power_and_firmware :
    (runsWith .platform 3 1 [3000, 1, 800] hosted fun _ => true) ∧ (runsWith .platform 0 1 [3000, 1, 800] (put (fun p => { p with failed := true }) hosted) fun s => s.pkg.failed) ∧
    (∀ e ∈ [(499, 1, 800), (3000, 2 ^ 32, 800), (3000, 1, 850), (3000, 1, 0)], runsWith .platform 0 1 [e.1, e.2.1, e.2.2] hosted fun s => !s.pkg.failed &&
      (powerBad e.1 e.2.1 e.2.2 || (e.2.2 == 0 && s.pkg.islandBusy 0))) ∧
    (∀ e ∈ [(500, 2, 3300), (3000, 2 ^ 32 - 1, 800), (3000, 2 ^ 31, 0)], runsWith .platform 0 1 [e.1, e.2.1, e.2.2] hosted fun s => !s.pkg.failed &&
      !powerBad e.1 e.2.1 e.2.2 && !s.pkg.islandBusy 31) ∧
    (let s := put (fun p => { p with pt := 3300000 }) hosted; s.pkg.fw.switching = none ∧ s.pkg.pt % 3300000 = 0 ∧ s.pkg.pt ≠ 0 ∧ (List.replicate 32 5).length = 32) ∧
    (put (fun p => { p with fw := { p.fw with switching := some 0 } }) hosted).pkg.fw.switching ≠ none ∧
    (runsWith .platform 3 2 [2 ^ 16, 2, 3] hosted fun _ => true) ∧ (∀ e ∈ [(1, 3), (2, 64 * 2 ^ 20 + 1), (2, 64 * 2 ^ 20)], runsWith .platform 0 2 [2 ^ 16, e.1, e.2]
      (put (fun p => p.modSpace 2 fun x => { x with priv := 2 }) hosted) fun s => decide ((((s.pkg.space? e.1).map Space.priv) ≠ some 2 ∨ 64 * 2 ^ 20 < e.2) ↔ e ≠ (2, 64 * 2 ^ 20))) ∧
    (let s := lineAt 2 (2 ^ 16) 7 (put (fun p => p.modSpace 2 fun x => { x with priv := 2, windows := [(31, placeWindow)] }) hosted)
     good (s.pkg.moduleRead 2 (2 ^ 16) 64) (fun x => !x.2.1) = true) ∧
    (∀ (s : State) b,
      let valid := sha384 (Config.imageKey b) = s.fuses.bytes 2 6 ∧
        ecdsaVerify (Config.imageKey b) (sha384 (Config.imageBody b)) (Config.imageSig b) = true
      valid ∨ ¬ valid) ∧
    (runsWith .platform 3 3 [] hosted fun _ => true) ∧ (runsWith .platform 0 3 [] hosted fun s => s.pkg.fw.pend.isNone) ∧
    (runsWith .platform 0 3 [] (put (fun p => { p with fw := { p.fw with pend := some (4, 5) } }) hosted) fun s => s.pkg.fw.pend.isSome && s.pkg.migs.all (!·.live) &&
      s.pkg.resetting.all fun e => !e.2.cmd) ∧
    (let s := put (fun p => { p with fw := { p.fw with pend := some (4, 5), switching := some 0 } }) hosted
     s.pkg.fw.switching = some 0 ∧ s.pkg.fw.pend = some (4, 5) ∧ s.pkg.pt - 0 < Config.handoverTimeout) ∧
    (let s := put (fun p => { p with fw := { p.fw with pend := some (4, 5), switching := some 0 }, pt := Config.handoverTimeout }) hosted
     s.pkg.fw.switching = some 0 ∧ Config.handoverTimeout ≤ s.pkg.pt - 0) ∧
    (runsWith .platform 3 4 [64, 1, 4, 0] hosted fun s => !s.pkg.owns 3 1) ∧ (∀ e ∈ [(64, 3), (65, 4), (2 ^ 56, 4), (64, 17), (64, 4), (64, 16)],
      runsWith .platform 0 4 [e.1, 1, e.2, 0] hosted fun s => s.pkg.owns 0 1) ∧
    ((7 : Nat) ≤ 7 ∧ 105 ≤ 105 ∧ 7 ∉ hosted.pkg.hot) ∧ ((99 : Nat) < 100 ∧ Tab.find? hosted.pkg.resetting 7 = none) := by
  iterate 9 refine ⟨by decide +kernel, ?_⟩
  refine ⟨fun _ _ => Classical.em _, by decide +kernel⟩

/-- Die 1 in reset since PT 0. -/
def resettingDie (r : DieReset) (pt : Nat) : State := put (fun p => { p with resetting := [(1, r)], pt }) hosted

/-- A copy has made its second transfer ahead of its first. -/
def ahead : State := put (fun p => { p with ops := [{ op ⟨0, 0⟩ (.copy (2 ^ 16) (2 ^ 17) 128 1 1 0 0 0 0 none) with done := [64] }] }) hosted

theorem witness_resets :
    (runsWith .platform 3 6 [] hosted fun _ => true) ∧ (runsWith .platform 0 6 [] hosted fun _ => true) ∧
    (let s := resettingDie { since := 0, orderly := true, trip := false, cmd := true } (2 ^ 26)
     (Tab.find? s.pkg.resetting 1).any fun r => decide (2 ^ 26 ≤ s.pkg.pt - r.since)) ∧
    (runsWith .platform 3 5 [1] hosted fun _ => true) ∧ (runsWith .platform 0 5 [1] (put (fun p => { p with failed := true }) hosted) fun s => s.pkg.failed) ∧
    (runsWith .platform 0 5 [8] hosted fun s => !s.pkg.failed) ∧ (∀ d ∈ [0, 7], runsWith .platform 0 5 [d] hosted fun s => !s.pkg.failed &&
      (Tab.find? s.pkg.resetting d).isNone && s.pkg.resetting.all fun e => e.2.orderly) ∧
    (hosted.pkg.steady = true ∧ (∀ d ∈ [0, 7], runsWith .platform 0 5 [d] ahead fun s => !s.pkg.failed && (Tab.find? s.pkg.resetting d).isNone && !s.pkg.steady)) ∧
    (runsWith .platform 0 5 [1] (resettingDie { since := 0, orderly := true, trip := false, cmd := true } 5) fun s => !s.pkg.failed &&
      (Tab.find? s.pkg.resetting 1).any fun r => r.cmd && r.orderly) ∧
    (Tab.find? (resettingDie { since := 0, orderly := false, trip := false, cmd := true } 5).pkg.resetting 1 =
      some { since := 0, orderly := false, trip := false, cmd := true }) ∧
    (let s := resettingDie { since := 0, orderly := true, trip := true, cmd := false } 5
     (∃ r, Tab.find? s.pkg.resetting 1 = some r ∧ r.trip = true) ∧ (s.pkg.dieSteps 1).dieDrained 1 = true) := by
  iterate 10 refine ⟨by decide +kernel, ?_⟩
  refine ⟨⟨{ since := 0, orderly := true, trip := true, cmd := false }, by decide +kernel⟩, by decide +kernel⟩

/-- Space 1 with a job, or without; a member list of three numbers at 131072. -/
def employed (jobid : Nat) : State :=
  let j : Job := { jobid := BitVec.ofNat 64 jobid, epoch := 4, list := [], mdigest := 0, chain := 5, reason := 0, base := [], basePt := 0 }
  put (fun p => p.modSpace 1 fun x => { x with job := if jobid = 0 then none else some j }) hosted
def members (a b c : Nat) (s : State) : State := lineAt 0 (2 ^ 17) (a + b <<< 32 + c <<< 64) s

theorem witness_job_commands :
    (runsWith .job 3 1 [1, 7, 2 ^ 17, 0, 3] hosted fun _ => true) ∧ (runsWith .job 0 1 [9, 7, 2 ^ 17, 0, 3] hosted fun s => (s.pkg.space? 9).isNone) ∧
    (∀ e ∈ [(0, 2 ^ 17, 3), (7, 2 ^ 17 + 1, 3), (7, 2 ^ 17, 0), (7, 2 ^ 17, 65537)], runsWith .job 0 1 [1, e.1, e.2.1, 0, e.2.2] hosted fun s => (s.pkg.space? 1).isSome) ∧
    (∀ e ∈ [(0, 0, 1, 2), (7, 0, 1, 2), (8, 0, 1, 2), (0, 5, 3, 9), (0, 0, 1, 2 ^ 24), (0, 1, 2, 3)],
      runsWith .job 0 1 [1, 7, 2 ^ 17, 0, 3] (members e.2.1 e.2.2.1 e.2.2.2 (employed e.1)) fun s => (s.pkg.space? 1).any fun sp =>
        decide (sp.job.map Job.jobid = if e.1 = 0 then none else some (BitVec.ofNat 64 e.1)) &&
        good (s.pkg.moduleRead 0 (2 ^ 17) 12) fun x => !x.2.1 && words32 x.1 == [e.2.1, e.2.2.1, e.2.2.2] &&
          decide (s.prov.modid ∈ words32 x.1) == (e.2.1 == 0)) ∧
    (([0, 1, 2] : List Nat).Pairwise (· < ·) ∧ ∀ m ∈ [0, 1, 2], m < 2 ^ 24) ∧ ¬ ([5, 3, 9] : List Nat).Pairwise (· < ·) ∧ ¬ (∀ m ∈ [0, 1, 2 ^ 24], m < 2 ^ 24) ∧
    (runsWith .job 3 2 [1] hosted fun _ => true) ∧ (runsWith .job 0 2 [9] hosted fun s => (s.pkg.space? 9).isNone) ∧
    (∀ j ∈ [0, 7], runsWith .job 0 2 [1] (employed j) fun s => (s.pkg.space? 1).any fun sp => sp.job.isSome == (j == 7)) := by
  exact ⟨by decide +kernel, by decide +kernel, by decide +kernel, by decide +kernel, by simp, by simp, by simp, by decide +kernel⟩

/-! A snapshot is 4,385 lines long: the writes of one are followed here on a machine that nothing else uses. -/

def aSnapshot : Snapshot :=
  { seq := 1, pt := 0, trig := 1, ctxs := [], cores := [], misses := [], pans := [], depths := [], brine := [], recs := [],
    helds := [], trans := [] }
def oneSpace : Tab Space := [(0, { Space.new 1 0 0 with windows := [(31, placeWindow)] })]
def snapped : State := command 0 .debug 2 [0, 1, 2 ^ 20, 0] (put (fun p => { p with spaces := oneSpace, snaps := [aSnapshot] }) State.reset)

/-- No context, copy, reset or format window; space 0 alone; no line of it from `va` on at its home. -/
def Bare (q : Pkg) (va : Nat) : Prop :=
  q.cores = [] ∧ q.brine = [] ∧ q.resetting = [] ∧ q.fmtw = [] ∧ q.spaces = oneSpace ∧ q.req = none ∧
    ∀ v, va ≤ v → v < 2 ^ 22 → Tab.find? q.l2 (lineKey 0 v) = none

theorem bare_route {q : Pkg} {va : Nat} (h : q.spaces = oneSpace) (hi : va < 2 ^ 21) :
    ∃ m, q.route 0 va (rENG + rWR) = some ⟨lineKey 0 va, 62, .line m 31⟩ :=
  placed_route (by simp [Pkg.space?, h, oneSpace, Tab.find?]) (by decide) (by omega)

theorem bare_contexts {q : Pkg} (h : q.cores = []) (l : Level) (o : Nat) (w : List Nat) :
    q.exclusiveHolds l o w none = false ∧ q.broadcast l o w none = q := by
  simp [Pkg.exclusiveHolds, Pkg.broadcast, Pkg.allCtxs, h]

theorem bare_home_write {q : Pkg} {key home : Nat} {w : Word} {bad : Bool} (h : Tab.find? q.l2 key = some (.new w bad home)) (m : BitVec 64) (d : Line)
    (a : Attr) : ∃ l t x y, q.homeWrite key m d a none = { q with past := t, poison := x, vpoison := y, l2 := q.l2.put key l } := by
  have u : ∀ q : Pkg, ∃ x y, (if m = BitVec.allOnes 64 then q.unpoison key else q) = { q with poison := x, vpoison := y } := fun q => by
    unfold Pkg.unpoison
    split
    · dsimp only
      split <;> exact ⟨_, _, rfl⟩
    · exact ⟨_, _, rfl⟩
  obtain ⟨x, y, u⟩ := u (q.remember key (q.lineBefore key).1 (q.lineBefore key).2)
  have h' : Tab.find? (q.remember key (q.lineBefore key).1 (q.lineBefore key).2).l2 key = some (.new w bad home) := h
  simp only [Pkg.homeWrite, u, h', Option.getD_some, L2Line.new, List.filter_nil, List.foldl_nil, addAttr, List.filterMap_nil, List.nil_append]
  exact ⟨{ data := mergeLine m d 0, have_ := 0 ||| m, dirty := 0 ||| m, side := w, poison := bad && m != BitVec.allOnes 64, holders := [],
           home, dirtyAt := none, attrs := [{ a with mask := m }] }, _, x, y, by simp only [Pkg.thirdAttr, Tab.find?_put_same]; rfl⟩

theorem bare_piece {q : Pkg} {va : Nat} (h : Bare q va) (al : va % 64 = 0) (hi : va < 2 ^ 21) (b : List Byte) :
    ∃ r, q.writePiece none 0 (rENG + rWR) va b (.module_ 0) 0 = .ok r ∧ Bare r (va + 64) := by
  obtain ⟨hc, hb, hr, hf, hs, hq, hl⟩ := h
  obtain ⟨m, e⟩ := bare_route hs hi
  have d : q.down (lineKey 0 va) = false := by simp [Pkg.down, hr]
  have k : q.recall (lineKey 0 va) = q := by simp [Pkg.recall, hb]
  have s : q.sidecar (lineKey 0 va) = .ok (0, false, q) := by simp [Pkg.sidecar, Pkg.fmtOf?, hf]
  have a : q.alloc (lineKey 0 va) = .ok { q with l2 := q.l2.put (lineKey 0 va) (.new 0 (q.keyPoison (lineKey 0 va)) (q.homeOf (lineKey 0 va))) } := by
    simp [Pkg.alloc, hl va (Nat.le_refl _) (by omega), s]
  unfold Pkg.writePiece
  have c : q.copied (lineKey 0 va) = false := by simp [Pkg.copied, hb]
  obtain ⟨f, hf'⟩ : ∃ f, f = byteMask (va % 64) b.length := ⟨_, rfl⟩
  obtain ⟨z, hz⟩ : ∃ z : Pkg, z = ({ q with l2 := q.l2.put (lineKey 0 va) (.new 0 (q.keyPoison (lineKey 0 va)) (q.homeOf (lineKey 0 va))) } : Pkg).countMiss
    (lineKey 0 va) := ⟨_, rfl⟩
  have miss : z = { q with l2 := q.l2.put (lineKey 0 va) (.new 0 (q.keyPoison (lineKey 0 va)) (q.homeOf (lineKey 0 va))),
                           l2miss := z.l2miss, missed := z.missed } := by
    rw [hz]
    unfold Pkg.countMiss
    split <;> simp [Pkg.addMiss, Pkg.countHot, hq]
  have full : z.attrRefused (lineKey 0 va) f = false := by
    rw [miss]
    simp [Pkg.attrRefused, addAttr, L2Line.new]
  have empty : (Tab.find? q.l2 (lineKey 0 va)).isSome = false := by rw [hl va (Nat.le_refl _) (by omega)]; rfl
  simp only [e, d, (bare_contexts hc _ _ _).1, Pkg.serveWrite, k, c, a, empty, Except.map, ← hz, ← hf']
  simp only [full, Bool.or_self, Bool.false_eq_true, if_false]
  refine ⟨_, rfl, ?_⟩
  rw [(bare_contexts (q := z) (by rw [miss]; exact hc) _ _ _).2]
  obtain ⟨l, u, x, y, t⟩ := bare_home_write (q := z) (by rw [miss]; exact Tab.find?_put_same _ _ _) f
    (lineSet 0 (va % 64) b.length (leNat b)) (.module_ 0)
  rw [t, miss]
  refine ⟨hc, hb, hr, hf, hs, hq, fun v lo up => ?_⟩
  have n : lineKey 0 va ≠ lineKey 0 v := by unfold lineKey; omega
  dsimp only
  simp only [Tab.find?_put, n, if_false]
  exact hl v (by omega) up

theorem bare_write (n : Nat) : ∀ (q : Pkg) (va : Nat) (b : List Byte), Bare q va → va % 64 = 0 → va + 64 * n ≤ 2 ^ 21 →
    ∃ r, q.writeLines 0 n va b = some (true, r) := by
  induction n with
  | zero => exact fun q _ _ _ _ _ => ⟨q, rfl⟩
  | succ n ih =>
    intro q va b h al hi
    unfold Pkg.writeLines
    split
    · exact ⟨_, rfl⟩
    · rename_i e
      have len : 0 < b.length := by cases b <;> simp_all
      have t : 0 < (b.take 64).length ∧ (b.take 64).length ≤ 64 := by simp; omega
      obtain ⟨r, w, k⟩ := bare_piece h al (by omega) (b.take 64)
      have z : min (b.take 64).length (64 - va % 64) = (b.take 64).length := by omega
      have g : q.moduleWrite 0 va (b.take 64) = .ok r.endHolds := by
        have ne : (b.take 64).isEmpty = false := by cases c : b.take 64 <;> simp_all
        unfold Pkg.moduleWrite Pkg.writeBytes
        simp only [ne, z, List.take_length, w, List.drop_length]
        unfold Pkg.writeBytes
        simp [Except.map]
      rw [g]
      exact ih r.endHolds (va + 64) (b.drop 64) k (by omega) (by omega)

theorem witness_snapshot_read :
    snapped.arg 0 .debug 1 = 0 ∧ snapped.pkg.owns 0 0 = true ∧ snapped.arg 0 .debug 4 = 0 ∧ snapped.arg 0 .debug 3 % 64 = 0 ∧
    snapped.runs 0 .debug 2 ∧ List.find? (fun (n : Snapshot) => n.seq == snapped.arg 0 .debug 2) snapped.pkg.snaps = some aSnapshot ∧
    ∃ q, snapped.pkg.writeLines 0 (0x44840 / 64) (2 ^ 20) (aSnapshot.image 0) = some (true, q) := by
  refine ⟨by decide +kernel, by decide +kernel, by decide +kernel, by decide +kernel, by unfold State.runs; decide +kernel, by decide +kernel, ?_⟩
  exact bare_write _ _ _ _ ⟨rfl, rfl, rfl, rfl, rfl, rfl, fun _ _ _ => rfl⟩ (by decide) (by decide)

theorem witness_decode_and_encode : ∃ (w : BitVec 96) (i : Instr), decode 3 w = .ok i ∧ i.wf 3 = true ∧ encode i = some w :=
  ⟨0x0500030C0000000000000003, .addi g 3 3 3, rfl, by decide +kernel, by decide +kernel⟩

/-- `live` with an agenda. -/
def listing (l : List Choice) : State := put (fun p => { p with agenda := l }) live

theorem witness_step_runs :
    ({ live with fuses := { words := [(0, 4)] } } : State).fuses.lcs = 4 ∧ live.fuses.lcs ≠ 4 ∧ live.pkg.agenda = [.run 0 0] ∧
    (let p : Pkg := { live.pkg with agenda := [], cur := ⟨0, 0⟩, req := some 0 }
     (p.ctx ⟨0, 0⟩).mayIssue = true ∧ good ((M.fetchLine ⟨0, 0⟩ (p.ctx ⟨0, 0⟩).regs.pc).run p) fun e =>
       decide ((decode 0 (slotWord e.1 0)).toOption = some (.nop g))) ∧
    (let p : Pkg := { (State.reset.withFetchWord 96 (2 ^ 96 - 1)).pkg with agenda := [], cur := ⟨0, 0⟩, req := some 0 }
     good ((M.fetchLine ⟨0, 0⟩ (p.ctx ⟨0, 0⟩).regs.pc).run p) fun e => decide ((decode 0 (slotWord e.1 0)).toOption = none)) ∧
    (let p : Pkg := { (regs (fun r => { r with pc := BitVec.ofNat 64 (2 ^ 56 - 64) }) live).pkg with agenda := [], cur := ⟨0, 0⟩, req := some 0 }
     (match (M.fetchLine ⟨0, 0⟩ (p.ctx ⟨0, 0⟩).regs.pc).run p with
       | .error (.fault n _ _) => n == 2
       | _ => false) = true) ∧
    (ctx (fun c => { c with st := .halted }) live).ctx.mayIssue = false ∧
    ((listing [.event (.sluiceGrant 0 0)]).pkg.agenda = [.event (.sluiceGrant 0 0)] ∧ Instr.guard? (.sluiceGrant 0 0) = none) ∧
    (let s := put (fun p => { p with inbound := [fromHost (.stail 3 0) 0 0] }) (listing [.owed])
     s.pkg.agenda = [.owed] ∧ ({ s.pkg with agenda := [] } : Pkg).duty.isSome = true) ∧
    (listing [.tick 5]).pkg.agenda = [.tick 5] ∧ (listing []).pkg.agenda = [] ∧ (live.pkg.profk = 0 ∧ live.pkg.profPend = none) ∧
    (∀ n ∈ [10, 24], (listing [.qshift n]).pkg.agenda = [.qshift n] ∧ 10 ≤ n ∧ n ≤ 24) ∧
    (∀ m ∈ [true, false], (listing [.accept 0 m]).pkg.agenda = [.accept 0 m]) ∧
    (listing [.upset (.line 5)]).pkg.agenda = [.upset (.line 5)] ∧
    ((listing [.event (.nop g)]).pkg.agenda = [.event (.nop g)] ∧ Instr.guard? (.nop g) ≠ none) := by
  decide +kernel

theorem witness_steps_keep_memory : Sealed State.reset ∧ Sealed live ∧ ∃ t, Steps live t := by
  refine ⟨by unfold Sealed; decide +kernel, by unfold Sealed; decide +kernel, ?_⟩
  have k : (match step live with
    | .next _ => true
    | .fault _ | .refused _ => false) = true := by decide +kernel
  cases h : step live with
  | next t => exact ⟨t, h⟩
  | fault f => rw [h] at k; cases k
  | refused r => rw [h] at k; cases k

/-! ### Single steps, with results from the spec's tables and examples -/

/-- The state after an instruction, or the state itself. -/
def after (i : Instr) (s : State) : State :=
  match exec i s with
  | .next t => t
  | .fault _ | .refused _ => s
/-- What S[3] holds after an instruction of S[1] and S[2]. -/
def result (i : Instr) (a b : Nat) : Nat := ((after i (reg 1 a (reg 2 b live))).regs.sn 3).toNat

/-- Table 8.3. -/
theorem test_division :
    result (.div g 3 1 2) 7 (2 ^ 64 - 2) = 2 ^ 64 - 3 ∧ result (.rem g 3 1 2) 7 (2 ^ 64 - 2) = 1 ∧ result (.div g 3 1 2) (2 ^ 64 - 7) 2 = 2 ^ 64 - 3 ∧
    result (.rem g 3 1 2) (2 ^ 64 - 7) 2 = 2 ^ 64 - 1 ∧ result (.div g 3 1 2) (2 ^ 64 - 7) 0 = 2 ^ 64 - 1 ∧ result (.rem g 3 1 2) (2 ^ 64 - 7) 0 = 2 ^ 64 - 7 := by
  decide +kernel
theorem test_division_at_the_ends :
    result (.div g 3 1 2) (2 ^ 63) (2 ^ 64 - 1) = 2 ^ 63 ∧ result (.rem g 3 1 2) (2 ^ 63) (2 ^ 64 - 1) = 0 ∧
    result (.divn g 3 1 2) (2 ^ 64 - 2) 2 = 0x7FFFFFFFFFFFFFFF ∧ result (.remn g 3 1 2) (2 ^ 64 - 2) 2 = 0 ∧ result (.divn g 3 1 2) 7 0 = 2 ^ 64 - 1 ∧
    result (.remn g 3 1 2) 7 0 = 7 := by
  decide +kernel

/-- The address of Example 1.1, built as chapter 8 builds it. -/
theorem test_movi_movhi : ((after (.movhi g 4 4 0x00FF) (after (.movi g 4 0x12C12340) live)).regs.sn 4).toNat = 0x00FF000012C12340 := by decide +kernel

/-- Example 8.1. -/
theorem test_fcvti : result (.fcvti g .i32 .f32 .rtz 3 1) 0xC0A80000 0 = 0xFFFFFFFFFFFFFFFB ∧ result (.fcvti g .i32 .f32 .rdn 3 1) 0xC0A80000 0 = 2 ^ 64 - 6 ∧
    result (.fcvti g .i32 .f32 .rtz 3 1) 0x7F800000 0 = 0x7FFFFFFF := by
  decide +kernel

/-- Vector registers 3 of `live` with some lanes set. -/
def lanes (l : List Nat) : State := regs (fun r => (l.zipIdx).foldl (fun r e => r.setLane 3 e.2 (BitVec.ofNat 32 e.1)) r) live
def laneAfter (i : Instr) (s : State) (v j : Nat) : Nat := ((after i s).regs.lane v j).toNat
/-- Example 10.2: 500.0, -3.1, the default NaN and 2^-12. -/
theorem test_vcvt :
    let s := lanes [0x43FA0000, 0xC0466666, 0x7FC00000, 0x39800000]
    let t := after (.vcvt g .e4m3 .f32 .rne none 5 3) s
    (t.regs.lane 5 0, t.regs.lane 5 1, t.regs.lane 5 2, t.regs.lane 5 3) = (0x7E, 0xC4, 0x7F, 0x00) ∧
    laneAfter (.vpack g .e4m3 0 none 6 5 7) (core0 (fun k => { k with vq := [] }) t) 6 0 = 0x007FC47E := by
  decide +kernel

/-- Example 10.1. -/
theorem test_vredsum_vscan :
    let s := lanes (0x3F800000 :: List.replicate 63 0x33800000)
    ((after (.vredsum g .f32 .rne none 10 3) s).regs.sn 10).toNat = 0x3F80001F ∧ laneAfter (.vscan g .f32 .rne .add none 4 3) s 4 63 = 0x3F800000 := by
  decide +kernel

/-- Example 2.2: the bits that a line enters a signature by. -/
theorem test_signature : (List.range 4).map (sigBit (lineKey 0x42 0x0000100000000040)) = [72, 154, 53, 106] := by decide +kernel

/-- Example 2.1. -/
theorem test_task_record :
    let r : BitVec 512 := BitVec.ofNat 512 (0x01093346 <<< 256 + 0x00070004 <<< 288 + 0x00020004 <<< 320 + 0xFF00 <<< 192)
    (TaskRec.lsw r, TaskRec.vregs r, TaskRec.helpers r, TaskRec.pmode r, TaskRec.prio r) = (6, 1, 3, 2, 1) ∧
    (TaskRec.gangId r, TaskRec.barmask r, TaskRec.nsucc r, TaskRec.gangSize r, TaskRec.code r) = (7, 4, 2, 4, 0) := by
  decide +kernel

/-- Examples 1.1 and 2.4. -/
theorem test_places : islandOf 300 = 18 ∧ lsVa 300 0x12340 = 0x00FF000012C12340 ∧ CtxRef.gcid ⟨130, 3⟩ = 0x823 ∧ ctxOfGcid 0x823 = ⟨130, 3⟩ := by decide +kernel

/-- Example 5.1: the sidecar of the line at 0x3000_0000_0240, and what its first codes decode to. -/
theorem test_sidecar :
    let d := 1 + 0x42 <<< 8 + 0x30000000 <<< 24 + 1 <<< 72 + 1 <<< 76 + 0x30000001 <<< 88 + 0x310000000000 <<< 128 + 0x310000010000 <<< 192
    let line (va v : Nat) : Nat × Nat × Line × Bool := (mcOf 0x300000000240, lineKey 0x42 va, BitVec.ofNat 512 v, false)
    let s := put (fun p => { p with fmtw := [(0, BitVec.ofNat 256 d)],
                                    scale := [line 0x310000000000 (0x7D <<< 144 + 0x80 <<< 152), line 0x310000010000 (0xB6 <<< 144)] }) live
    (match s.pkg.sidecar (lineKey 0x42 0x300000000240) with
      | .ok (w, bad, _) => decide (w = 0x110000B60000807D) && !bad
      | .error _ => false) = true := by
  decide +kernel
def eighth : Grp := { Grp.zero with codes := [3, 15, 8, 5, 2, 8, 9, 0] ++ List.replicate 8 0, sc := 0x7D, eb := 0xB6 }
theorem test_s4e_decodes :
    ((eighth.decode 1 1).1.take 8).map (alignOne true (-10)) =
      [(768, false), (-256, false), (13312, false), (0, false), (0, false), (-160, false), (-1792, false), (0, false)] ∧ planes 1 eighth = 8 := by
  decide +kernel

/-- Example 5.2: both modes of the A side, and the B side. -/
def rowGroup (l : List Nat) : List Machine.Num := (({ Grp.zero with codes := l ++ List.replicate 13 0 } : Grp).decode (tyFmt .e4m3) 0).1
theorem test_alignment :
    let fast := alignGroup (rowGroup [0x44, 0x19, 0x87]) 8 false
    let exact := alignGroup (rowGroup [0x44, 0x19, 0x87]) 8 true
    let b := alignGroup (rowGroup [0x40, 0x38, 0x38]) 8 false
    (fast.1.take 3, fast.2) = ([192, 4, -1], -6, 2) ∧ (exact.1.take 3, exact.2) = ([1536, 36, -7], -9, 0) ∧ (b.1.take 3, b.2) = ([128, 64, 64], -6, 0) ∧
    groupSum (-12 + 18) fast.1 b.1 = (0x183000, false) ∧ groupSum (-15 + 18) exact.1 b.1 = (0x183A00, false) := by
  decide +kernel

/-- Example 6.1: 41 returns, and 42 stays. -/
theorem test_fetch_add :
    let s := after (.panr g 0 0 3 1 2 5 4) pans
    (s.regs.sn 3).toNat = 41 ∧ (s.regs.sn 5).toNat = 0x4000000000000001 ∧ s.pkg.lineData (lineKey 0 (2 ^ 16)) = 42 := by
  decide +kernel

/-- Example 12.1: a misaligned load with a handler set; what the handler reads; the return. -/
theorem test_trap_and_return :
    let s := reg 4 0x600000000004 handled
    let t := after (.ld g .i64 .normal false 5 ⟨4, 0, 0, 0⟩) s
    let u := after (.eret g) t
    t.regs.trapcause = 0x80000006 ∧ t.regs.trapaddr = 0x600000000004 ∧ t.regs.trappc = s.regs.pc ∧ t.regs.pc = 64 ∧ t.regs.sn 5 = 0 ∧
    u.regs.trapcause = 6 ∧ u.regs.pc = s.regs.pc := by
  decide +kernel

end Sys2Proof.Tests
end

/-! SUPPORT. Proofs: an instruction whose predicate is false (R187). -/

namespace Sys2Proof.Machine

/-- Every instruction word goes through issue, under its own predicate, and issue treats it as a cut instruction exactly where
`isCutInstr` does; SYSWR is one for PROFK alone. `cases h` takes the guard from the word, and closes the cases of the events,
which have none. -/
theorem exec_eq_issue {i : Instr} {g : Guard} (h : i.guard? = some g) (s : State) :
    ∃ n : Ins, exec i s = s.issue n ∧ n.guard = g ∧ n.cut = isCutInstr i := by
  cases i with
  | syswr g' sel a =>
    cases h
    exact ⟨_, rfl, rfl, by cases sel <;> rfl⟩
  | _ => cases h <;> exact ⟨_, rfl, rfl, rfl⟩

/-- An idle context's chunk is empty. -/
theorem Ctx.count_of_idle {c : Ctx} (h : c.idle = true) : c.ch.count = 0 := by
  simp only [Ctx.idle, Bool.and_eq_true, beq_iff_eq] at h
  obtain ⟨⟨hcount, -⟩, -⟩ := h
  exact hcount

/-- A cut instruction whose guard is false completes as a chunk of its own, its body and what follows it left out (R187). -/
theorem State.issue_cut_off {s : State} {n : Ins} (hm : s.ctx.mayIssue = true) (hc : n.cut = true) (hi : s.ctx.idle = true)
    (hr : s.pkg.replayAllows (s.pkg.spaceOf s.pkg.cur.core) 2 s.pkg.cur.gcid s.ctx.chunkseq.toNat 0 = true)
    (hg : guardHolds n.guard s.regs = false) : s.issue n = .next (s.cutRetired s.pkg .next) := by
  have h0 := Ctx.count_of_idle hi
  simp only [State.regs, State.ctx] at hm hi hr hg h0
  have hp : s.pkg.issue n = s.pkg.finishCut s.pkg.cur .next := by
    simp only [Pkg.issue, hm, hc, hi, hr, hg, h0, Pkg.finish, Bool.not_true, Bool.not_false, Bool.and_false,
      bne_self_eq_false, Bool.false_eq_true, ↓reduceIte]
  rw [State.issue_eq, hp, State.cutRetired]

/-- Settles O7: every instruction word goes through issue, which retires it before any check or effect of its own where its guard
is false, inside its chunk or as a chunk of its own. -/
theorem predicatedOff : Obligations.PredicatedOff := by
  unfold Obligations.PredicatedOff
  constructor
  · intro s g i h hc hm hg
    obtain ⟨n, he, rfl, hn⟩ := exec_eq_issue h s
    rw [he, State.issue_off hm (hn.trans hc) hg]
  · intro s g i h hc hm hi hr hg
    obtain ⟨n, he, rfl, hn⟩ := exec_eq_issue h s
    rw [he, State.issue_cut_off hm (hn.trans hc) hi hr hg]

end Sys2Proof.Machine

/-! SUPPORT. Proofs: the integer, logical, shift and rotate instructions (R206 to R208). -/

namespace Sys2Proof.Machine

/-! ### The word operations of the model as Table 8.2 writes them: on numbers, modulo 2^w -/

theorem bv_sub_eq_ofInt {w : Nat} (x y : BitVec w) : x - y = BitVec.ofInt w (x.toNat - y.toNat : Int) := by
  rw [BitVec.sub_eq_add_neg, Int.sub_eq_add_neg, BitVec.ofInt_add, BitVec.ofInt_neg, BitVec.ofInt_natCast, BitVec.ofInt_natCast,
    BitVec.ofNat_toNat, BitVec.ofNat_toNat, BitVec.setWidth_eq, BitVec.setWidth_eq]

theorem bv_addi_eq_ofInt (x : Word) (imm : BitVec 48) : x + imm48 imm = BitVec.ofInt 64 (x.toInt + imm.toInt) := by
  rw [imm48, BitVec.ofInt_add, BitVec.ofInt_toInt, BitVec.signExtend]

theorem bv_mul_add_eq_ofNat {w : Nat} (x y z : BitVec w) : x * y + z = BitVec.ofNat w (x.toNat * y.toNat + z.toNat) := by
  rw [BitVec.ofNat_add, BitVec.ofNat_mul, BitVec.ofNat_toNat, BitVec.ofNat_toNat, BitVec.ofNat_toNat]
  simp only [BitVec.setWidth_eq]

theorem bv_zero_sub_eq_ofInt {w : Nat} (x : BitVec w) : 0 - x = BitVec.ofInt w (-x.toInt) := by
  rw [BitVec.ofInt_neg, BitVec.ofInt_toInt, BitVec.sub_eq_add_neg, BitVec.ofNat_eq_ofNat, BitVec.zero_add]

theorem bv_sdiv_eq_ofInt {w : Nat} (x y : BitVec w) : x.sdiv y = BitVec.ofInt w (x.toInt.tdiv y.toInt) := by
  apply BitVec.eq_of_toInt_eq
  rw [BitVec.toInt_sdiv, BitVec.toInt_ofInt]

theorem bv_srem_eq_ofInt {w : Nat} (x y : BitVec w) : x.srem y = BitVec.ofInt w (x.toInt.tmod y.toInt) := by
  rw [← BitVec.toInt_srem, BitVec.ofInt_toInt]

theorem bv_udiv_eq_ofNat {w : Nat} (x y : BitVec w) : x / y = BitVec.ofNat w (x.toNat / y.toNat) := by
  rw [← BitVec.toNat_udiv, BitVec.ofNat_toNat, BitVec.setWidth_eq]

theorem bv_umod_eq_ofNat {w : Nat} (x y : BitVec w) : x % y = BitVec.ofNat w (x.toNat % y.toNat) := by
  rw [← BitVec.toNat_umod, BitVec.ofNat_toNat, BitVec.setWidth_eq]

theorem bv_shl_eq_ofNat {w : Nat} (x : BitVec w) (n : Nat) : x <<< n = BitVec.ofNat w (x.toNat * 2 ^ n) := by
  apply BitVec.eq_of_toNat_eq
  rw [BitVec.toNat_shiftLeft, BitVec.toNat_ofNat, Nat.shiftLeft_eq]

theorem bv_shr_eq_ofNat {w : Nat} (x : BitVec w) (n : Nat) : x >>> n = BitVec.ofNat w (x.toNat / 2 ^ n) := by
  rw [← Nat.shiftRight_eq_div_pow, ← BitVec.toNat_ushiftRight, BitVec.ofNat_toNat, BitVec.setWidth_eq]

theorem bv_sar_eq_ofInt {w : Nat} (x : BitVec w) (n : Nat) : x.sshiftRight n = BitVec.ofInt w (x.toInt / 2 ^ n) := by
  rw [BitVec.sshiftRight, Int.shiftRight_eq_div_pow]
  norm_cast

theorem bv_append_low_eq_ofNat (hi : BitVec 16) (x : Word) :
    hi ++ x.setWidth 48 = BitVec.ofNat 64 (hi.toNat * 2 ^ 48 + x.toNat % 2 ^ 48) := by
  have hx : x.toNat % 2 ^ 48 < 2 ^ 48 := Nat.mod_lt _ (by decide)
  apply BitVec.eq_of_toNat_eq
  rw [BitVec.toNat_append, BitVec.toNat_setWidth, ← Nat.shiftLeft_add_eq_or_of_lt hx, Nat.shiftLeft_eq, BitVec.toNat_ofNat]
  exact (Nat.mod_eq_of_lt (by omega)).symm

/-- A rotation to the left takes bit `i` to the place `n` above it, modulo the width. -/
theorem bv_getLsbD_rotateLeft_add {w : Nat} (x : BitVec w) (n : Nat) {i : Nat} (hi : i < w) :
    (x.rotateLeft n).getLsbD ((i + n) % w) = x.getLsbD i := by
  have hn : n % w < w := Nat.mod_lt _ (by omega)
  rw [BitVec.getLsbD_rotateLeft, Nat.add_mod, Nat.mod_eq_of_lt hi]
  by_cases h : i + n % w < w
  · rw [Nat.mod_eq_of_lt h]
    simp [h]
  · have hwrap : (i + n % w) % w = i + n % w - w := by rw [Nat.mod_eq_sub_mod (by omega), Nat.mod_eq_of_lt (by omega)]
    have hlow : i + n % w - w < n % w := by omega
    have hback : w - n % w + (i + n % w - w) = i := by omega
    simp [hwrap, hlow, hback]

theorem divS_eq (a b : Word) : divS a b = if b = 0 then BitVec.ofInt 64 (-1) else BitVec.ofInt 64 (a.toInt.tdiv b.toInt) := by
  rw [divS, bv_sdiv_eq_ofInt]
  rfl

theorem divU_eq (a b : Word) : divU a b = if b = 0 then BitVec.ofInt 64 (-1) else BitVec.ofNat 64 (a.toNat / b.toNat) := by
  rw [divU, bv_udiv_eq_ofNat]
  rfl

theorem remS_eq (a b : Word) : remS a b = if b = 0 then a else BitVec.ofInt 64 (a.toInt.tmod b.toInt) := by
  rw [remS, bv_srem_eq_ofInt]

theorem remU_eq (a b : Word) : remU a b = if b = 0 then a else BitVec.ofNat 64 (a.toNat % b.toNat) := by
  rw [remU, bv_umod_eq_ofNat]

/-! ### Instructions of one and two scalar sources -/

/-- Completion of an instruction that issues as an operation on one scalar register, whose result the table gives as `f'`. -/
theorem State.completes_un {s : State} {i : Instr} {g : Guard} {d a : SReg} {f : Word → Word} {f' : Regs → Word}
    (h : s.ready g [a.toNat] [d.toNat]) (he : exec i s = s.issue (.un g d a f)) (hf : f (s.regs.sr a) = f' s.regs) :
    s.completes i fun r => r.setS d (f' r) :=
  State.completes_regOp h he (congrArg (s.regs.setS d) hf)

/-- The same of an operation on two scalar registers. -/
theorem State.completes_bin {s : State} {i : Instr} {g : Guard} {d a b : SReg} {f : Word → Word → Word} {f' : Regs → Word}
    (h : s.ready g [a.toNat, b.toNat] [d.toNat]) (he : exec i s = s.issue (.bin g d a b f))
    (hf : f (s.regs.sr a) (s.regs.sr b) = f' s.regs) : s.completes i fun r => r.setS d (f' r) :=
  State.completes_regOp h he (congrArg (s.regs.setS d) hf)

/-- Settles O1: each instruction issues as an operation on its scalar registers, and the model's word operation is the table's. -/
theorem arithmeticAndLogic : Obligations.ArithmeticAndLogic := by
  unfold Obligations.ArithmeticAndLogic
  constructor
  · intro s g d a b c imm hi
    refine ⟨fun h => ?nop, fun h => ?movi, fun h => ⟨?mov, ?movhi, ?addi, ?neg⟩,
      fun h => ⟨?add, ?sub, ?mul, ?mulh, ?mulhn, ?div, ?divn, ?rem, ?remn⟩, fun h => ?madd⟩
    case nop => exact State.completes_regOp h rfl rfl
    case movi => exact State.completes_regOp h rfl rfl
    case mov => exact State.completes_un h rfl rfl
    case movhi => exact State.completes_un h rfl (bv_append_low_eq_ofNat _ _)
    case addi => exact State.completes_un h rfl (bv_addi_eq_ofInt _ _)
    case neg => exact State.completes_un h rfl (bv_zero_sub_eq_ofInt _)
    case add => exact State.completes_bin h rfl (BitVec.add_def _ _)
    case sub => exact State.completes_bin h rfl (bv_sub_eq_ofInt _ _)
    case mul => exact State.completes_bin h rfl (BitVec.mul_def ..)
    case mulh => exact State.completes_bin h rfl rfl
    case mulhn => exact State.completes_bin h rfl rfl
    case div => exact State.completes_bin h rfl (divS_eq _ _)
    case divn => exact State.completes_bin h rfl (divU_eq _ _)
    case rem => exact State.completes_bin h rfl (remS_eq _ _)
    case remn => exact State.completes_bin h rfl (remU_eq _ _)
    case madd => exact State.completes_regOp h rfl (congrArg _ (bv_mul_add_eq_ofNat _ _ _))
  · intro s g d a b imm n
    refine ⟨fun h => ⟨?and, ?or, ?xor, ?andn, ?shl, ?shr, ?sar, ?rol⟩,
      fun h => ⟨?andi, ?ori, ?xori, ?not, ?shli, ?shri, ?sari, ?roli⟩⟩
    case and => exact State.completes_bin h rfl rfl
    case or => exact State.completes_bin h rfl rfl
    case xor => exact State.completes_bin h rfl rfl
    case andn => exact State.completes_bin h rfl rfl
    case shl => exact State.completes_bin h rfl (bv_shl_eq_ofNat _ _)
    case shr => exact State.completes_bin h rfl (bv_shr_eq_ofNat _ _)
    case sar => exact State.completes_bin h rfl (bv_sar_eq_ofInt _ _)
    case rol =>
      refine ⟨(s.regs.sr a).rotateLeft ((s.regs.sr b).toNat % 64), State.completes_bin h rfl rfl, fun i hi => ?_⟩
      have := bv_getLsbD_rotateLeft_add (s.regs.sr a) ((s.regs.sr b).toNat % 64) hi
      rwa [Nat.add_mod_mod] at this
    case andi => exact State.completes_un h rfl rfl
    case ori => exact State.completes_un h rfl rfl
    case xori => exact State.completes_un h rfl rfl
    case not => exact State.completes_un h rfl rfl
    case shli => exact State.completes_un h rfl (bv_shl_eq_ofNat _ _)
    case shri => exact State.completes_un h rfl (bv_shr_eq_ofNat _ _)
    case sari => exact State.completes_un h rfl (bv_sar_eq_ofInt _ _)
    case roli =>
      exact ⟨(s.regs.sr a).rotateLeft n.toNat, State.completes_un h rfl rfl,
        fun i hi => bv_getLsbD_rotateLeft_add (s.regs.sr a) n.toNat hi⟩

end Sys2Proof.Machine

/-! SUPPORT. Proofs: the hardware loops (R220 to R223). -/

namespace Sys2Proof.Machine

@[simp] theorem M.run_r (s : State) : M.r.run s.pkg = .ok (s.regs, s.pkg) := rfl
@[simp] theorem M.run_setRegs (f : Regs → Regs) (p : Pkg) : (M.setRegs f).run p = .ok ((), p.withRegs p.cur f) := rfl

/-- The end of a loop's body, as Table 7.3 writes it. -/
theorem targetL_eq (pc : Word) (off : BitVec 24) (slot : BitVec 3) :
    targetL pc off slot = BitVec.ofInt 64 ((pc.toNat / 64 * 64 : Nat) + 64 * off.toInt + slot.toNat) := by
  have hoff : (off.signExtend 64) <<< 6 = BitVec.ofInt 64 (64 * off.toInt) := by
    rw [BitVec.signExtend, BitVec.shiftLeft_eq_mul_twoPow, Int.mul_comm, BitVec.ofInt_mul]
    rfl
  rw [targetL, hoff, BitVec.ofInt_add, BitVec.ofInt_add, BitVec.ofInt_natCast, BitVec.ofInt_natCast, BitVec.ofNat_toNat]
  rfl

/-- Issue of an instruction inside a chunk whose body only changes its context's registers. -/
theorem State.issue_setRegs {s : State} {i : Ins} {f : Regs → Regs} {fl : Flow}
    (h : s.pkg.ready i.guard i.srcs i.dsts i.vsrcs i.vdsts i.engine = true) (hp : i.priv s.pkg = true) (hc : i.cut = false)
    (ha : i.after = id) (hn : i.engine = none) (hb : i.body.run s.pkg = .ok (fl, s.pkg.withRegs s.pkg.cur f)) :
    s.issue i = .next (s.retired f fl) :=
  State.issue_body h hp hc ha hn hb (Pkg.fits_withRegs h f)

/-- LOOP and LOOPI set their level, and skip the body for a count of zero (R220). -/
theorem State.issue_loop {s : State} {g : Guard} {srcs : List Nat} {lvl : BitVec 2} {off : BitVec 24} {slot : BitVec 3}
    {count : Regs → Word} (h : s.ready g srcs []) :
    let e := targetL s.regs.pc off slot
    s.issue { guard := g, srcs, body := M.loop lvl off slot count } =
      .next (s.retired (·.setLoop lvl.toNat (seqPc s.regs.pc) e (count s.regs))
        (if count s.regs = 0 then .skip (seqPc e) else .next)) := by
  intro e
  exact State.issue_setRegs h rfl rfl rfl rfl rfl

/-- What a ready instruction leaves as it was fits. -/
theorem Pkg.fits_self {p : Pkg} {g : Guard} {srcs dsts vsrcs vdsts : List Nat} {e : Option Engine}
    (h : p.ready g srcs dsts vsrcs vdsts e = true) : p.fits p = true := by
  obtain ⟨-, -, -, -, -, -, hover, hsig⟩ := Pkg.ready_iff.mp h
  simp [Pkg.fits, hover, hsig]

/-- LBRK of an inactive level only retires (R222). -/
theorem lbrk_inactive {s : State} {g : Guard} {lvl : BitVec 2} (h : s.ready g [] []) (h0 : s.regs.lcOf lvl.toNat = 0) :
    exec (.lbrk g lvl) s = .next (s.retiredOn s.pkg .next) := by
  refine State.issue_body h rfl rfl rfl rfl ?_ (Pkg.fits_self h)
  simp only [M.run_bind, M.run_r, h0, ↓reduceIte, M.run_pure]

/-- LBRK of an active level leaves it, for the instruction after its body (R222). -/
theorem lbrk_active {s : State} {g : Guard} {lvl : BitVec 2} (h : s.ready g [] []) (h0 : s.regs.lcOf lvl.toNat ≠ 0) :
    exec (.lbrk g lvl) s = .next (s.retired (·.setLc lvl.toNat 0) (.jump (seqPc (s.regs.leOf lvl.toNat)))) := by
  refine State.issue_setRegs h rfl rfl rfl rfl ?_
  simp only [M.run_bind, M.run_r, h0, ↓reduceIte, M.run_setRegs, M.run_pure]

/-- LREST of two instruction addresses restores its level (R223). -/
theorem lrest_ok {s : State} {g : Guard} {lvl : BitVec 2} {a : SReg} (h : s.ready g (regRange a.toNat 3) [])
    (hb : addressForm (s.regs.sn a.toNat) = true) (he : addressForm (s.regs.sn (a.toNat + 1)) = true) :
    s.completes (.lrest g lvl a)
      (·.setLoop lvl.toNat (s.regs.sn a.toNat) (s.regs.sn (a.toNat + 1)) (s.regs.sn (a.toNat + 2))) := by
  refine State.issue_setRegs h rfl rfl rfl rfl ?_
  simp only [M.run_bind, M.run_r, hb, he, Bool.not_true, Bool.false_eq_true, ↓reduceIte, M.run_pure, M.run_setRegs]

/-- LREST refuses a start of the body that is no instruction address (R223). -/
theorem lrest_bad_start {s : State} {g : Guard} {lvl : BitVec 2} {a : SReg} (h : s.ready g (regRange a.toNat 3) [])
    (hb : addressForm (s.regs.sn a.toNat) = false) : s.faults (.lrest g lvl a) 5 (s.regs.sn a.toNat).toNat 0 := by
  refine State.issue_stops (e := .fault 5 (s.regs.sn a.toNat).toNat 0) h rfl rfl rfl ?_
  simp only [M.run_bind, M.run_r, hb, Bool.not_false, ↓reduceIte, M.run_throw]

/-- LREST refuses an end of the body that is no instruction address (R223). -/
theorem lrest_bad_end {s : State} {g : Guard} {lvl : BitVec 2} {a : SReg} (h : s.ready g (regRange a.toNat 3) [])
    (hb : addressForm (s.regs.sn a.toNat) = true) (he : addressForm (s.regs.sn (a.toNat + 1)) = false) :
    s.faults (.lrest g lvl a) 5 (s.regs.sn (a.toNat + 1)).toNat 0 := by
  refine State.issue_stops (e := .fault 5 (s.regs.sn (a.toNat + 1)).toNat 0) h rfl rfl rfl ?_
  simp only [M.run_bind, M.run_r, hb, he, Bool.not_true, Bool.not_false, Bool.false_eq_true, ↓reduceIte, M.run_throw]

/-- LSAVE copies its level's registers to three scalar registers (R223). -/
theorem lsave_completes {s : State} {g : Guard} {d : SReg} {lvl : BitVec 2} (h : s.ready g [] (regRange d.toNat 3)) :
    s.completes (.lsave g d lvl) fun r =>
      ((r.setSn d.toNat (r.lbOf lvl.toNat)).setSn (d.toNat + 1) (r.leOf lvl.toNat)).setSn (d.toNat + 2) (r.lcOf lvl.toNat) :=
  State.completes_regOp h rfl rfl

/-- LSAVE's writes: three registers from `d` on, and nothing else. -/
theorem Regs.sn_setSn3 (r : Regs) (d n : Nat) (u v w : Word) :
    (((r.setSn d u).setSn (d + 1) v).setSn (d + 2) w).sn n =
      if n = d then u else if n = d + 1 then v else if n = d + 2 then w else r.sn n := by
  simp only [Regs.sn_setSn]
  grind

/-- Settles O10: what issue makes of each of the four instructions, case by case. -/
theorem loops : Obligations.Loops := by
  unfold Obligations.Loops
  intro s g d a lvl off slot count r e next enter flow
  refine ⟨targetL_eq .., fun h => ?loop, fun h => ⟨?loopi, ?inactive, ?active⟩, fun h => ?lsave,
    fun h => ⟨?ok, ?badStart, ?badEnd⟩⟩
  case loop => exact State.issue_loop h
  case loopi =>
    rw [BitVec.ofNat_toNat]
    exact State.issue_loop h
  case inactive => exact lbrk_inactive h
  case active => exact lbrk_active h
  case lsave =>
    refine ⟨_, lsave_completes h, ?_⟩
    simp only [Regs.sn_setSn3]
    exact ⟨by simp, by simp, by simp, fun n hn => by grind, rfl⟩
  case ok => exact lrest_ok h
  case badStart => exact lrest_bad_start h
  case badEnd => exact lrest_bad_end h

end Sys2Proof.Machine

/-! SUPPORT. Proofs: NaN results, FMIN, FMAX and FCMP of scalar floating point (R214, R215, R217). -/

namespace Sys2Proof.Machine

/-- R214's default NaN is the code of the format. -/
theorem defaultNan_scalar {t : Ty} (h : t.scalarFloat = true) : BitVec.ofNat 64 (defaultNan t) = scalarNan t := by
  rcases (by simpa [Ty.scalarFloat] using h : t = .f32 ∨ t = .f64) with rfl | rfl <;> rfl

/-- A value is a zero, or an infinity, of either sign. -/
def Num.isZero (x : Num) : Prop := ∃ n e, x = .fin n 0 e
def Num.isInf (x : Num) : Prop := ∃ n, x = .inf n

/-! ### Operations without a value give the default NaN -/

theorem sumRound_nan {t : Ty} {r : Rnd} {x y : Num} (h : x = .nan ∨ y = .nan ∨ ∃ n, x = .inf n ∧ y = .inf !n) :
    sumRound t r [x, y] = defaultNan t := by
  rcases h with rfl | rfl | ⟨n, rfl, rfl⟩
  · simp [sumRound, Num.isNan]
  · simp [sumRound, Num.isNan]
  · cases n <;> simp [sumRound, Num.isNan]

theorem mul_eq_nan {x y : Num} (h : x = .nan ∨ y = .nan ∨ (x.isZero ∧ y.isInf) ∨ (x.isInf ∧ y.isZero)) : x.mul y = .nan := by
  rcases h with rfl | rfl | ⟨⟨n, e, rfl⟩, m, rfl⟩ | ⟨⟨m, rfl⟩, n, e, rfl⟩
  · rfl
  · cases x <;> rfl
  · rfl
  · rfl

theorem divRound_nan {t : Ty} {r : Rnd} {x y : Num}
    (h : x = .nan ∨ y = .nan ∨ (x.isZero ∧ y.isZero) ∨ (x.isInf ∧ y.isInf)) : divRound t r x y = defaultNan t := by
  rcases h with rfl | rfl | ⟨⟨n, e, rfl⟩, m, f, rfl⟩ | ⟨⟨m, rfl⟩, n, rfl⟩
  · rfl
  · cases x <;> rfl
  · rfl
  · rfl

theorem sqrtRound_nan {t : Ty} {r : Rnd} {x : Num} (h : x = .nan ∨ x = .inf true ∨ ∃ m e, x = .fin true (m + 1) e) :
    sqrtRound t r x = defaultNan t := by
  rcases h with rfl | rfl | ⟨m, e, rfl⟩
  · rfl
  · rfl
  · simp [sqrtRound]

theorem neg_eq_nan {x : Num} (h : x = .nan) : x.neg = .nan := by
  rw [h]
  rfl

/-! ### Order -/

theorem isNan_iff {x : Num} : x.isNan = true ↔ x = .nan := by cases x <;> simp [Num.isNan]

theorem isNan_eq_false {x : Num} (h : x ≠ .nan) : x.isNan = false := by
  rwa [← Bool.not_eq_true, isNan_iff]

/-- Zeros of both signs are equal. -/
theorem lt_zero_zero (n m : Bool) (e f : Int) : (Num.fin n 0 e).lt (.fin m 0 f) = false := by
  simp [Num.lt, Num.scaled]

/-- The order of values is asymmetric. -/
theorem lt_asymm {x y : Num} (h : x.lt y = true) : y.lt x = false := by
  cases x with
  | nan => simp [Num.lt] at h
  | inf s => cases y <;> simp_all [Num.lt]
  | fin s m e =>
    cases y with
    | nan => simp [Num.lt] at h
    | inf u => simp_all [Num.lt]
    | fin u n g =>
      simp only [Num.lt, decide_eq_true_eq, decide_eq_false_iff_not, not_lt] at h ⊢
      rw [min_comm g e]
      exact h.le

/-- Where one value is below the other, R215's order of zeros says the same. -/
theorem ltZ_of_lt {x y : Num} (h : x.lt y = true) : x.ltZ y = true := by
  unfold Num.ltZ
  split
  · rw [lt_zero_zero] at h
    cases h
  · exact h

theorem ltZ_of_gt {x y : Num} (h : y.lt x = true) : x.ltZ y = false := by
  unfold Num.ltZ
  split
  · rw [lt_zero_zero] at h
    cases h
  · exact lt_asymm h

/-! ### FMIN and FMAX -/

theorem minMax_both_nan {t : Ty} {big : Bool} {a b : Nat} (ha : unpack t a = .nan) (hb : unpack t b = .nan) :
    minMax t big a b = defaultNan t := by
  simp only [minMax, isNan_iff.mpr ha, isNan_iff.mpr hb]

theorem minMax_left_nan {t : Ty} {big : Bool} {a b : Nat} (ha : unpack t a = .nan) (hb : unpack t b ≠ .nan) :
    minMax t big a b = b := by
  simp only [minMax, isNan_iff.mpr ha, isNan_eq_false hb]

theorem minMax_right_nan {t : Ty} {big : Bool} {a b : Nat} (ha : unpack t a ≠ .nan) (hb : unpack t b = .nan) :
    minMax t big a b = a := by
  simp only [minMax, isNan_eq_false ha, isNan_iff.mpr hb]

/-- Between numbers FMAX, and FMIN, give one operand's code, by the order with −0 below +0 (R215). -/
theorem minMax_numbers {t : Ty} {a b : Nat} (ha : unpack t a ≠ .nan) (hb : unpack t b ≠ .nan) :
    minMax t true a b = (if (unpack t a).ltZ (unpack t b) = true then b else a) ∧
      minMax t false a b = (if (unpack t b).ltZ (unpack t a) = true then b else a) := by
  simp only [minMax, isNan_eq_false ha, isNan_eq_false hb, ↓reduceIte, Bool.false_eq_true, and_self]

theorem minMax_of_below {t : Ty} {a b : Nat} (ha : unpack t a ≠ .nan) (hb : unpack t b ≠ .nan)
    (h : (unpack t a).ltZ (unpack t b) = true) (h' : (unpack t b).ltZ (unpack t a) = false) :
    minMax t false a b = a ∧ minMax t true a b = b := by
  obtain ⟨hmax, hmin⟩ := minMax_numbers ha hb
  rw [hmax, hmin, h, h']
  exact ⟨rfl, rfl⟩

theorem minMax_of_above {t : Ty} {a b : Nat} (ha : unpack t a ≠ .nan) (hb : unpack t b ≠ .nan)
    (h : (unpack t b).ltZ (unpack t a) = true) (h' : (unpack t a).ltZ (unpack t b) = false) :
    minMax t false a b = b ∧ minMax t true a b = a := by
  obtain ⟨hmax, hmin⟩ := minMax_numbers ha hb
  rw [hmax, hmin, h, h']
  exact ⟨rfl, rfl⟩

/-- −0 is below +0 (R215). -/
theorem minMax_negZero_posZero {t : Ty} {a b : Nat} {e f : Int} (ha : unpack t a = .fin true 0 e) (hb : unpack t b = .fin false 0 f) :
    minMax t false a b = a ∧ minMax t true a b = b := by
  apply minMax_of_below <;> simp [ha, hb, Num.ltZ]

theorem minMax_posZero_negZero {t : Ty} {a b : Nat} {e f : Int} (ha : unpack t a = .fin false 0 e) (hb : unpack t b = .fin true 0 f) :
    minMax t false a b = b ∧ minMax t true a b = a := by
  apply minMax_of_above <;> simp [ha, hb, Num.ltZ]

/-- FMIN and FMAX give one operand's code, unless both are NaN. -/
theorem minMax_mem (t : Ty) (big : Bool) (a b : Nat) :
    minMax t big a b = a ∨ minMax t big a b = b ∨ (unpack t a = .nan ∧ unpack t b = .nan) := by
  by_cases ha : unpack t a = .nan <;> by_cases hb : unpack t b = .nan
  · exact .inr (.inr ⟨ha, hb⟩)
  · exact .inr (.inl (minMax_left_nan ha hb))
  · exact .inl (minMax_right_nan ha hb)
  · obtain ⟨hmax, hmin⟩ := minMax_numbers ha hb
    cases big
    · rw [hmin]
      split <;> simp
    · rw [hmax]
      split <;> simp

/-! ### FCMP -/

theorem condNum_nan {c : Cond} {x y : Num} (h : x = .nan ∨ y = .nan) : condNum c x y = decide (c = .ne ∨ c = .un) := by
  have hn : (x.isNan || y.isNan) = true := by simpa [isNan_iff] using h
  unfold condNum
  rw [if_pos hn, Bool.decide_or]
  cases c <;> rfl

/-- Truth of a float condition of Table 7.5 on two numbers. -/
def floatCondHolds (c : Cond) (x y : Num) : Prop :=
  match c with
  | .eq => x.lt y = false ∧ y.lt x = false
  | .ne => x.lt y = true ∨ y.lt x = true
  | .lt => x.lt y = true
  | .le => y.lt x = false
  | .gt => y.lt x = true
  | .ge => x.lt y = false
  | _ => False

theorem condNum_numbers {c : Cond} {x y : Num} (hx : x ≠ .nan) (hy : y ≠ .nan) (hc : c.float = true) :
    condNum c x y = true ↔ floatCondHolds c x y := by
  unfold condNum
  rw [isNan_eq_false hx, isNan_eq_false hy]
  cases c <;> simp [Cond.float, floatCondHolds] at hc ⊢

/-! ### Completion -/

/-- Completion of an SFP instruction of two operands, and of one, that writes `v`. -/
theorem State.completes_f2 {s : State} {i : Instr} {g : Guard} {d a b : SReg} {f : Regs → Nat} {v : Word}
    (h : s.ready g [a.toNat, b.toNat] [d.toNat]) (he : exec i s = s.issue (.f2 g d a b f))
    (hf : BitVec.ofNat 64 (f s.regs) = v) : s.completes i (·.setS d v) :=
  State.completes_regOp h he (congrArg (s.regs.setS d) hf)

theorem State.completes_f1 {s : State} {i : Instr} {g : Guard} {d a : SReg} {f : Regs → Nat} {v : Word}
    (h : s.ready g [a.toNat] [d.toNat]) (he : exec i s = s.issue (.f1 g d a f))
    (hf : BitVec.ofNat 64 (f s.regs) = v) : s.completes i (·.setS d v) :=
  State.completes_regOp h he (congrArg (s.regs.setS d) hf)

/-- Settles O4: the rounding of a NaN is the format's default NaN; FMIN, FMAX and FCMP go by the order of the two values. -/
theorem floatNansAndOrder : Obligations.FloatNansAndOrder := by
  unfold Obligations.FloatNansAndOrder
  constructor
  · intro s g t rm d a b ht x y zero inf
    have hnan := defaultNan_scalar ht
    refine ⟨fun h => ⟨fun hx => ?fadd, fun hx => ?fsub, fun hx => ?fmul, fun hx => ?fdiv⟩, fun h hx => ?fsqrt⟩
    case fadd => exact State.completes_f2 h rfl ((congrArg _ (sumRound_nan hx)).trans hnan)
    case fsub =>
      refine State.completes_f2 h rfl ((congrArg _ (sumRound_nan ?_)).trans hnan)
      rcases hx with hx | hy | ⟨n, hx, hy⟩
      · exact .inl hx
      · exact .inr (.inl (neg_eq_nan hy))
      · exact .inr (.inr ⟨n, hx, congrArg Num.neg hy⟩)
    case fmul => exact State.completes_f2 h rfl ((congrArg (BitVec.ofNat 64 <| packNum t _ ·) (mul_eq_nan hx)).trans hnan)
    case fdiv => exact State.completes_f2 h rfl ((congrArg _ (divRound_nan hx)).trans hnan)
    case fsqrt => exact State.completes_f1 h rfl ((congrArg _ (sqrtRound_nan hx)).trans hnan)
  · intro s g t c pd d a b ht x y va vb
    have hnan := defaultNan_scalar ht
    constructor
    · intro h
      have pair {u v : Nat} (e : minMax t false (fcode t s.regs a) (fcode t s.regs b) = u ∧
          minMax t true (fcode t s.regs a) (fcode t s.regs b) = v) := e.imp (congrArg (BitVec.ofNat 64)) (congrArg (BitVec.ofNat 64))
      have mem (big : Bool) := (minMax_mem t big (fcode t s.regs a) (fcode t s.regs b)).imp (congrArg (BitVec.ofNat 64))
        (Or.imp_left (congrArg (BitVec.ofNat 64)))
      refine ⟨_, _, State.completes_f2 h rfl rfl, State.completes_f2 h rfl rfl, fun hx hy => ?both, fun hx hy => ?left,
        fun hx hy => ?right, fun hx hy => ⟨fun hlt => ?below, fun hlt => ?above⟩, mem false, mem true,
        fun e f hx hy => ?zeroBelow, fun e f hx hy => ?zeroAbove⟩
      case both => exact hnan ▸ pair ⟨minMax_both_nan hx hy, minMax_both_nan hx hy⟩
      case left => exact pair ⟨minMax_left_nan hx hy, minMax_left_nan hx hy⟩
      case right => exact pair ⟨minMax_right_nan hx hy, minMax_right_nan hx hy⟩
      case below => exact pair (minMax_of_below hx hy (ltZ_of_lt hlt) (ltZ_of_gt hlt))
      case above => exact pair (minMax_of_above hx hy (ltZ_of_lt hlt) (ltZ_of_gt hlt))
      case zeroBelow => exact pair (minMax_negZero_posZero hx hy)
      case zeroAbove => exact pair (minMax_posZero_negZero hx hy)
    · intro h x y
      refine ⟨condNum c x y, State.completes_regOp h rfl rfl, condNum_nan, fun hx hy hc => ?_, ?_⟩
      · exact condNum_numbers hx hy (by simpa [Cond.float, or_assoc] using hc)
      · intro n e m f hx hy
        rw [hx, hy]
        exact ⟨lt_zero_zero .., lt_zero_zero ..⟩

end Sys2Proof.Machine

/-! SUPPORT. Proofs: a cut instruction that waits (R70), and what `Obligations.ContextsAndMessages` says of EXIT. -/

namespace Sys2Proof.Machine

/-- A cut instruction whose body stops: its context has entered the cut before `settle` acts (R70). -/
theorem State.issue_cut_stops {s : State} {i : Ins} {e : Stop_}
    (h : s.pkg.readyCut i.guard i.srcs i.dsts i.vsrcs i.vdsts = true) (hp : i.priv s.pkg = true) (hc : i.cut = true)
    (hn : i.engine = none) (hs : i.stopped = fun _ p => p) (hb : i.body.run s.pkg = .error e) :
    s.issue i = .next { s with pkg := ((s.pkg.modCtx s.pkg.cur Ctx.enterCut).settle s.pkg.cur e).seal } := by
  simp only [Pkg.readyCut, Pkg.readyEarly, Bool.and_eq_true] at h
  obtain ⟨⟨h, hi⟩, hr⟩ := h
  have hrun : (i.run s.pkg.cur).run s.pkg = .error e := by
    simp only [Ins.run, M.run_bind, M.checks_ok (i := i) (p := s.pkg) (by rw [hn]; exact h) hp, hb]
  obtain ⟨hm, hg⟩ := Pkg.ready_issues h
  rw [State.issue_eq]
  congr 3
  simp only [Pkg.issue, hm, hc, hg, hrun, Ctx.count_of_idle hi, hi, hr, hs, Bool.not_true, Bool.and_false, bne_self_eq_false,
    Bool.false_eq_true, ↓reduceIte]

/-- EXIT of a control context with live helpers waits, its cut begun. -/
theorem exit_waits {s : State} {g : Guard} (h : s.readyCut g [] []) (hx : s.pkg.cur.slot = 0)
    (hk : (s.pkg.core s.pkg.cur.core).helpers ≠ 0) :
    exec (.exit g) s = .next { s with pkg := ((s.pkg.modCtx s.pkg.cur Ctx.enterCut).settle s.pkg.cur (.wait .exit)).seal } := by
  refine State.issue_cut_stops h rfl rfl rfl rfl ?_
  simp only [M.me, M.run_bind, M.run_get, M.run_pure, hx, hk, ne_eq, not_false_eq_true, and_self, ↓reduceIte, M.run_throw]

/-- A wait of a context that is not stepped leaves whether it is in a cut. -/
theorem settle_wait_inCut {p : Pkg} {x : CtxRef} {k : WaitKind} (h : (p.ctx x).stepping = none) :
    ((p.settle x (.wait k)).ctx x).inCut = (p.ctx x).inCut := by
  simp [Pkg.settle, h]

/-- Space 0's launched control context with one live helper. -/
def controlWithHelper : State :=
  let s := State.reset.withFetchWord 96 0
  { s with pkg := s.pkg.goLive ⟨0, 1⟩ .zero }

/-- Refutes O11: EXIT of a control context with a live helper waits, but not as its package was: the wait finds the context in
the cut that EXIT has begun (R70), where `State.waits` has it outside one. -/
theorem not_contextsAndMessages : ¬ Obligations.ContextsAndMessages := by
  unfold Obligations.ContextsAndMessages
  intro ⟨hscalar, _⟩
  let s := controlWithHelper
  obtain ⟨-, -, -, hcut⟩ := hscalar s ⟨false, 0⟩ 0 0 0 0
  have hready : s.readyCut ⟨false, 0⟩ [] [] := by unfold State.readyCut; decide +kernel
  have hslot : s.pkg.cur.slot = 0 := by decide +kernel
  have hhelpers : (s.pkg.core s.pkg.cur.core).helpers ≠ 0 := by decide +kernel
  have hstep : (s.pkg.ctx s.pkg.cur).stepping = none := by decide +kernel
  have houtside : (s.pkg.ctx s.pkg.cur).inCut = false := by decide +kernel
  obtain ⟨-, -, hwaits⟩ := hcut hready
  have hclaim := hwaits hslot hhelpers
  have hmodel := exit_waits hready hslot hhelpers
  unfold State.waits at hclaim
  rw [hmodel] at hclaim
  injection hclaim with hstate
  have hin := congrArg (fun u : State => (u.pkg.ctx s.pkg.cur).inCut) hstate
  simp only [Pkg.seal_ctx] at hin
  rw [settle_wait_inCut (by simpa [Ctx.enterCut] using hstep), settle_wait_inCut hstep, houtside] at hin
  simp [Ctx.enterCut] at hin

end Sys2Proof.Machine

/-! SUPPORT. Proofs: what the operations at a line's home leave of the contexts (R77 to R82, R112, R165 to R167, R395 to R397). -/

namespace Sys2Proof.Machine

/-! ### Contexts under a change of the cores -/

/-- A change of one core that keeps its contexts keeps every context. -/
theorem Pkg.ctx_modCore {p : Pkg} {c : Nat} {f : Core → Core} (h : (f (p.core c)).ctxs = (p.core c).ctxs) (y : CtxRef) :
    (p.modCore c f).ctx y = p.ctx y := by
  simp only [Pkg.ctx, Pkg.modCore_eq]
  by_cases hc : y.core = c
  · rw [hc, Pkg.core_setCore_same, Core.ctx, Core.ctx, h]
  · rw [Pkg.core_setCore_other _ hc]

theorem Pkg.ctx_foldl {α : Type} {f : Pkg → α → Pkg} {y : CtxRef} (h : ∀ p a, (f p a).ctx y = p.ctx y) (l : List α) (p : Pkg) :
    (l.foldl f p).ctx y = p.ctx y := by
  induction l generalizing p with
  | nil => rfl
  | cons a t ih => rw [List.foldl_cons, ih, h]

theorem Core.loseLine_ctxs (k : Core) (key : Nat) : (k.loseLine key).ctxs = k.ctxs := by
  unfold Core.loseLine
  split <;> rfl

theorem Pkg.loseLine_ctx (p : Pkg) (key : Nat) (l : List Nat) (y : CtxRef) :
    (l.foldl (fun p c => p.modCore c (·.loseLine key)) p).ctx y = p.ctx y :=
  Pkg.ctx_foldl (fun _ _ => Pkg.ctx_modCore (Core.loseLine_ctxs ..) y) l p

/-! ### Reports and poison -/

/-- A RAS entry reaches rings of the interfaces alone. -/
theorem Pkg.rasAt_eq (p : Pkg) (pt va space gcid die block reason count : Nat) :
    ∃ v, p.rasAt pt va space gcid die block reason count = { p with vis := v } := by
  unfold Pkg.rasAt
  dsimp only
  split
  all_goals
    repeat' split
    all_goals exact ⟨_, rfl⟩

/-- A reported error changes the interfaces' rings and the corrected errors alone. -/
theorem Pkg.ras_eq (p : Pkg) (va space gcid die block reason count : Nat) :
    ∃ v c, p.ras va space gcid die block reason count = { p with vis := v, corrected := c } := by
  unfold Pkg.ras
  dsimp only
  split
  · obtain ⟨v, hv⟩ := p.rasAt_eq p.pt va space gcid die block reason count
    exact ⟨v, p.corrected, hv⟩
  · split <;> exact ⟨p.vis, _, rfl⟩

@[simp] theorem Pkg.ras_ctx (p : Pkg) (va space gcid die block reason count : Nat) (y : CtxRef) :
    (p.ras va space gcid die block reason count).ctx y = p.ctx y := by
  obtain ⟨v, c, h⟩ := p.ras_eq va space gcid die block reason count
  rw [h]
  rfl

@[simp] theorem Pkg.poisonLine_ctx (p : Pkg) (key : Nat) (y : CtxRef) : (p.poisonLine key).ctx y = p.ctx y := by
  unfold Pkg.poisonLine
  dsimp only
  split <;> split <;> rfl

@[simp] theorem Pkg.unpoison_ctx (p : Pkg) (key : Nat) (y : CtxRef) : (p.unpoison key).ctx y = p.ctx y := by
  unfold Pkg.unpoison
  dsimp only
  split <;> rfl

@[simp] theorem Pkg.poisonWith_ctx (p : Pkg) (key space gcid die block : Nat) (y : CtxRef) :
    (p.poisonWith key space gcid die block).ctx y = p.ctx y := by
  unfold Pkg.poisonWith
  split <;> simp

/-! ### Records and notices -/

@[simp] theorem Pkg.modFring_ctx (p : Pkg) (s : Nat) (f : Ring → Ring) (y : CtxRef) : (p.modFring s f).ctx y = p.ctx y := by
  unfold Pkg.modFring Pkg.modSpace
  split <;> rfl

@[simp] theorem Pkg.notice_ctx (p : Pkg) (n : Notice) (y : CtxRef) : (p.notice n).ctx y = p.ctx y := by
  unfold Pkg.notice
  dsimp only
  split <;> simp

@[simp] theorem Pkg.parkRec_ctx (p : Pkg) (r : Rec) (y : CtxRef) : (p.parkRec r).ctx y = p.ctx y := by
  unfold Pkg.parkRec
  extract_lets q pan n q'
  have hq' : q'.ctx y = p.ctx y := Pkg.notice_ctx q n y
  split
  · rw [Pkg.notice_ctx, hq']
  · exact hq'

theorem parkAll_ctx (key cause : Nat) (data : Line) (l : List Attr) (p : Pkg) (y : CtxRef) :
    (parkAll key cause data l p).1.ctx y = p.ctx y := by
  induction l generalizing p with
  | nil => rfl
  | cons a t ih =>
    unfold parkAll
    split
    · rfl
    · rw [ih, Pkg.parkRec_ctx]

/-! ### Lines that leave their home, and writes there -/

@[simp] theorem Pkg.physWrite_ctx (p : Pkg) (a : Nat) (m : BitVec 64) (l : Line) (b : Bool) (y : CtxRef) :
    (p.physWrite a m l b).ctx y = p.ctx y := by
  unfold Pkg.physWrite
  dsimp only
  split
  · rfl
  · split <;> rfl

@[simp] theorem Pkg.dropLine_ctx (p : Pkg) (key : Nat) (y : CtxRef) : (p.dropLine key).ctx y = p.ctx y := by
  unfold Pkg.dropLine
  split
  · rfl
  · rw [Pkg.loseLine_ctx]
    rfl

@[simp] theorem Pkg.writeBack_ctx (p : Pkg) (key cause : Nat) (y : CtxRef) : (p.writeBack key cause).ctx y = p.ctx y := by
  unfold Pkg.writeBack
  split
  · rfl
  next l _ =>
    split
    · rfl
    · split
      · exact Pkg.physWrite_ctx ..
      · split
        · rfl
        · dsimp only
          have hpark := parkAll_ctx key cause l.data l.attrs (if l.poison then p.poisonLine key else p) y
          have hpoison : (if l.poison then p.poisonLine key else p).ctx y = p.ctx y := by split <;> simp
          split
          next q heq =>
            rw [heq] at hpark
            rw [Pkg.dropLine_ctx]
            exact hpark.trans hpoison
          next q left _ heq =>
            rw [heq] at hpark
            exact hpark.trans hpoison

@[simp] theorem Pkg.thirdAttr_ctx (p : Pkg) (key : Nat) (y : CtxRef) : (p.thirdAttr key).ctx y = p.ctx y := by
  unfold Pkg.thirdAttr
  split
  · rfl
  · split
    · split
      · exact Pkg.physWrite_ctx ..
      · exact Pkg.writeBack_ctx ..
    all_goals rfl

@[simp] theorem Pkg.homeWrite_ctx (p : Pkg) (key : Nat) (m : BitVec 64) (data : Line) (a : Attr) (keep : Option Nat) (y : CtxRef) :
    (p.homeWrite key m data a keep).ctx y = p.ctx y := by
  unfold Pkg.homeWrite
  rw [Pkg.thirdAttr_ctx]
  refine (Pkg.loseLine_ctx ..).trans ?_
  split
  · rw [Pkg.unpoison_ctx]
    rfl
  · rfl

@[simp] theorem Pkg.parkLine_ctx (p : Pkg) (key : Nat) (y : CtxRef) : (p.parkLine key).ctx y = p.ctx y := by
  unfold Pkg.parkLine
  dsimp only
  split
  · split
    · split <;> simp
    · simp
  · simp

end Sys2Proof.Machine

/-! SUPPORT. Proofs: what a miss may change, and a prefetch: an allocation, a fill, a way in an L1, the recall of brine copies (R75, R80,
R112, R127, R244). -/

namespace Sys2Proof.Machine

/-! ### Byte masks of a line -/

theorem testBit_spreadGo (m n b : Nat) : (spreadGo m n).testBit b = (decide (b < 8 * n) && m.testBit (b / 8)) := by
  induction n generalizing b with
  | zero => simp [spreadGo]
  | succ n ih =>
    have hlow : spreadGo m n < 2 ^ (8 * n) := Nat.lt_pow_two_of_testBit _ fun i hi => by simp [ih, Nat.not_lt.mpr hi]
    have hbyte : (255 <<< (8 * n)).testBit b = decide (8 * n ≤ b ∧ b < 8 * (n + 1)) := by
      rw [Nat.testBit_shiftLeft, show 255 = 2 ^ 8 - 1 from rfl, Nat.testBit_two_pow_sub_one]
      grind
    rw [spreadGo]
    split
    next hm =>
      rw [Nat.add_comm, Nat.shiftLeft_add_eq_or_of_lt hlow, Nat.testBit_or, ih, hbyte]
      grind
    next hm =>
      rw [Nat.add_zero, ih]
      grind

theorem getLsbD_spread (m : BitVec 64) {b : Nat} (hb : b < 512) : (spread m).getLsbD b = m.getLsbD (b / 8) := by
  rw [spread, BitVec.getLsbD_ofNat, testBit_spreadGo]
  simp [hb]
  rfl

/-- A merged line has the new byte where the mask is set, and the old one elsewhere. -/
theorem lineByte_mergeLine (m : BitVec 64) (new old : Line) {i : Nat} (hi : i < 64) :
    lineByte (mergeLine m new old) i = if m.getLsbD i = true then lineByte new i else lineByte old i := by
  ext j hj
  have hb : 8 * i + j < 512 := by omega
  have hbit : (spread m)[8 * i + j] = m.getLsbD i := by
    rw [← BitVec.getLsbD_eq_getElem, getLsbD_spread m hb, show (8 * i + j) / 8 = i by omega]
  cases h : m.getLsbD i <;> simp [lineByte, mergeLine, hbit, h, hb]

/-! ### What a miss may change -/

/-- A line's later state keeps its dirty bytes, their attributions, and every byte it held. -/
structure L2Line.Retains (l l' : L2Line) : Prop where
  dirty : l'.dirty = l.dirty
  attrs : l'.attrs = l.attrs
  bytes : ∀ i < 64, l.have_.getLsbD i = true → l'.have_.getLsbD i = true ∧ lineByte l'.data i = lineByte l.data i

theorem L2Line.Retains.trans {a b c : L2Line} (h : a.Retains b) (h' : b.Retains c) : a.Retains c where
  dirty := h'.dirty.trans h.dirty
  attrs := h'.attrs.trans h.attrs
  bytes i hi ha := by
    obtain ⟨hb, hab⟩ := h.bytes i hi ha
    obtain ⟨hc, hbc⟩ := h'.bytes i hi hb
    exact ⟨hc, hbc.trans hab⟩

/-- `q` is `p` but for what a miss may change: caches, counters and reports. Its contexts, its memory, its spaces and
every line at its home are kept. -/
structure Pkg.Misses (p q : Pkg) : Prop where
  ctx : ∀ y, q.ctx y = p.ctx y
  mem : q.mem = p.mem
  log : q.log = p.log
  spaces : q.spaces = p.spaces
  lines : ∀ key l, Tab.find? p.l2 key = some l → ∃ l', Tab.find? q.l2 key = some l' ∧ l.Retains l'

theorem Pkg.Misses.trans {p q r : Pkg} (h : p.Misses q) (h' : q.Misses r) : p.Misses r where
  ctx y := (h'.ctx y).trans (h.ctx y)
  mem := h'.mem.trans h.mem
  log := h'.log.trans h.log
  spaces := h'.spaces.trans h.spaces
  lines key l hl := by
    obtain ⟨l₁, hl₁, hr₁⟩ := h.lines key l hl
    obtain ⟨l₂, hl₂, hr₂⟩ := h'.lines key l₁ hl₁
    exact ⟨l₂, hl₂, hr₁.trans hr₂⟩

/-- A change that leaves the lines at their homes. -/
theorem Pkg.Misses.of_l2 {p q : Pkg} (hx : ∀ y, q.ctx y = p.ctx y) (hm : q.mem = p.mem) (hg : q.log = p.log)
    (hs : q.spaces = p.spaces) (hl : q.l2 = p.l2) : p.Misses q where
  ctx := hx
  mem := hm
  log := hg
  spaces := hs
  lines _ l h := ⟨l, by rw [hl, h], rfl, rfl, fun _ _ hi => ⟨hi, rfl⟩⟩

theorem Pkg.Misses.refl (p : Pkg) : p.Misses p := .of_l2 (fun _ => rfl) rfl rfl rfl rfl

/-- A line that is written at its home retains what was there, if anything was. -/
theorem Pkg.Misses.put {p : Pkg} {key : Nat} {l' : L2Line} (h : ∀ l, Tab.find? p.l2 key = some l → l.Retains l') :
    p.Misses { p with l2 := p.l2.put key l' } where
  ctx _ := rfl
  mem := rfl
  log := rfl
  spaces := rfl
  lines k l hl := by
    rw [Tab.find?_put]
    split
    next heq => exact ⟨l', rfl, h l (heq ▸ hl)⟩
    next => exact ⟨l, hl, rfl, rfl, fun _ _ hi => ⟨hi, rfl⟩⟩

theorem Pkg.Misses.put_of_find {p : Pkg} {key : Nat} {l l' : L2Line} (hl : Tab.find? p.l2 key = some l) (h : l.Retains l') :
    p.Misses { p with l2 := p.l2.put key l' } :=
  .put fun _ hl₂ => Option.some.inj (hl.symm.trans hl₂) ▸ h

/-! ### Allocation and fill -/

theorem Pkg.scaleByte_eq {p q : Pkg} {mc s va : Nat} {b : Byte} {bad : Bool} (h : p.scaleByte mc s va = some (b, bad, q)) :
    ∃ t, q = { p with scale := t } := by
  unfold Pkg.scaleByte at h
  dsimp only at h
  split at h
  · cases h
    exact ⟨p.scale, rfl⟩
  · split at h
    · cases h
    · split at h
      · cases h
      · cases h
        exact ⟨_, rfl⟩

theorem Pkg.scaleBytes_eq {p q : Pkg} {mc s va n : Nat} {l : List Byte} {bad : Bool}
    (h : p.scaleBytes mc s va n = .ok (l, bad, q)) : ∃ t, q = { p with scale := t } := by
  induction n generalizing p q va l bad with
  | zero =>
    cases h
    exact ⟨p.scale, rfl⟩
  | succ n ih =>
    unfold Pkg.scaleBytes at h
    split at h
    · cases h
    next hbyte =>
      split at h
      · cases h
      next hrest =>
        cases h
        obtain ⟨t, rfl⟩ := Pkg.scaleByte_eq hbyte
        obtain ⟨t', rfl⟩ := ih hrest
        exact ⟨t', rfl⟩

/-- Reading the sidecar of a line changes the scale caches alone. -/
theorem Pkg.sidecar_eq {p q : Pkg} {key : Nat} {w : Word} {bad : Bool} (h : p.sidecar key = .ok (w, bad, q)) :
    ∃ t, q = { p with scale := t } := by
  unfold Pkg.sidecar at h
  split at h
  · cases h
    exact ⟨p.scale, rfl⟩
  next d _ =>
    dsimp only at h
    split at h
    · cases h
    next _ _ _ p' hscale =>
      split at h
      · cases h
      next hesc =>
        cases h
        have hp' : ∃ t, p' = { p with scale := t } := by
          split at hscale
          · cases hscale
            exact ⟨p.scale, rfl⟩
          · exact Pkg.scaleBytes_eq hscale
        obtain ⟨t, rfl⟩ := hp'
        split at hesc
        · cases hesc
          exact ⟨t, rfl⟩
        · obtain ⟨t', rfl⟩ := Pkg.scaleBytes_eq hesc
          exact ⟨t', rfl⟩

/-- An allocation lists a line that was not there, and changes scale caches and reports. -/
theorem Pkg.alloc_misses {p q : Pkg} {key : Nat} (h : p.alloc key = .ok q) : p.Misses q := by
  unfold Pkg.alloc at h
  split at h
  · cases h
    exact .refl p
  next hnone =>
    split at h
    · cases h
    next side bad p' hside =>
      obtain ⟨t, rfl⟩ := Pkg.sidecar_eq hside
      have hreport : ∃ v c, (if bad && !Pkg.keyPoison { p with scale := t } key then
          Pkg.ras { p with scale := t } (keyVa key) (keySpace key) 0 (mcOf (keyVa key) / 4) (Pkg.mcBlock { p with scale := t } key) 2 1
          else { p with scale := t }) = { p with scale := t, vis := v, corrected := c } := by
        split
        · exact Pkg.ras_eq ..
        · exact ⟨p.vis, p.corrected, rfl⟩
      obtain ⟨v, c, hreport⟩ := hreport
      cases h
      rw [hreport]
      refine .trans (q := { p with scale := t, vis := v, corrected := c }) (.of_l2 (fun _ => rfl) rfl rfl rfl rfl)
        (.put fun l hl => ?_)
      exact absurd (hnone.symm.trans hl) nofun

theorem Pkg.countHot_misses (p : Pkg) (key : Nat) : p.Misses (p.countHot key) := by
  unfold Pkg.countHot
  dsimp only
  split
  · split
    · exact .of_l2 (fun _ => rfl) rfl rfl rfl rfl
    · split <;> exact .of_l2 (fun _ => rfl) rfl rfl rfl rfl
  · exact .refl p

theorem Pkg.addMiss_misses (p : Pkg) (key : Nat) : p.Misses (p.addMiss key) := by
  unfold Pkg.addMiss
  refine .trans ?_ (Pkg.countHot_misses _ key)
  exact .of_l2 (fun _ => rfl) rfl rfl rfl rfl

theorem Pkg.countMiss_misses (p : Pkg) (key : Nat) : p.Misses (p.countMiss key) := by
  unfold Pkg.countMiss
  split
  · exact .of_l2 (fun _ => rfl) rfl rfl rfl rfl
  · exact Pkg.addMiss_misses p key

theorem Pkg.countTransl_misses (p : Pkg) (key : Nat) : p.Misses (p.countTransl key) := .of_l2 (fun _ => rfl) rfl rfl rfl rfl

/-- A fill merges bytes that a line lacked. -/
theorem Pkg.fill_misses {p q : Pkg} {key : Nat} {mask : BitVec 64} (h : p.fill key mask = .ok q) : p.Misses q := by
  unfold Pkg.fill at h
  split at h
  · cases h
  next p' halloc =>
    refine (Pkg.alloc_misses halloc).trans ?_
    dsimp only at h
    split at h
    · cases h
      exact .refl q
    · split at h
      next a _ _ =>
        cases h
        refine .trans (.put fun l hl => ?_) ((Pkg.countMiss_misses _ key).trans (Pkg.countTransl_misses _ key))
        simp only [hl, Option.getD_some]
        refine ⟨rfl, rfl, fun i hi hhave => ⟨by simp [hhave], ?_⟩⟩
        simp [lineByte_mergeLine _ _ _ hi, hhave]
      · cases h

/-- An access to a line of which no brine copy stands recalls nothing. -/
theorem Pkg.recall_of_not_copied {p : Pkg} {key : Nat} (h : p.copied key = false) : p.recall key = p := by
  have hnone : (p.brine.filter fun b => b.key == key) = [] := by
    simpa [Pkg.copied] using h
  rw [Pkg.recall, hnone, List.foldl_nil]

theorem Pkg.serve_misses {p q : Pkg} {key : Nat} {mask : BitVec 64} (hc : p.copied key = false) (h : p.serve key mask = .ok q) :
    p.Misses q := by
  simp only [Pkg.serve, Pkg.recall_of_not_copied hc, hc, Bool.false_eq_true, ↓reduceIte] at h
  exact Pkg.fill_misses h

/-! ### Ways of an L1 -/

theorem Pkg.addHolder_misses (p : Pkg) (key core : Nat) : p.Misses (p.addHolder key core) := by
  unfold Pkg.addHolder
  split
  next hl => exact .put_of_find hl ⟨rfl, rfl, fun _ _ hi => ⟨hi, rfl⟩⟩
  · exact .refl p

theorem Pkg.dropHolder_misses (p : Pkg) (key core : Nat) : p.Misses (p.dropHolder key core) := by
  unfold Pkg.dropHolder
  split
  next hl => exact .put_of_find hl ⟨rfl, rfl, fun _ _ hi => ⟨hi, rfl⟩⟩
  · exact .refl p

/-- A change of one core that keeps its contexts. -/
theorem Pkg.modCore_misses (p : Pkg) (c : Nat) {f : Core → Core} (h : (f (p.core c)).ctxs = (p.core c).ctxs) :
    p.Misses (p.modCore c f) :=
  .of_l2 (Pkg.ctx_modCore h) rfl rfl rfl rfl

/-- A committed line that gives up its way keeps its bytes at its home. -/
theorem Pkg.l1Drop_misses (p : Pkg) (core key : Nat) : p.Misses (p.l1Drop core key) :=
  (Pkg.modCore_misses p core rfl).trans (Pkg.dropHolder_misses _ key core)

theorem Pkg.takeWay_misses {p q : Pkg} {core key : Nat} (h : p.takeWay core key = some q) : p.Misses q := by
  have hput : ∀ (p : Pkg) (w : Nat), p.Misses ((p.modCore core fun k => { k with l1 := k.l1.put key w }).addHolder key core) :=
    fun p w => (Pkg.modCore_misses p core rfl).trans (Pkg.addHolder_misses _ key core)
  unfold Pkg.takeWay at h
  dsimp only at h
  split at h
  · cases h
    exact Pkg.addHolder_misses p key core
  · split at h
    · cases h
      exact hput p _
    · cases h
      exact (Pkg.l1Drop_misses p core _).trans (hput _ _)
    · cases h

/-! ### Brine copies -/

@[simp] theorem Pkg.lostCopy_ctx (p : Pkg) (b : Brine) (y : CtxRef) : (p.lostCopy b).ctx y = p.ctx y := by
  rw [Pkg.lostCopy, Pkg.ras_ctx, Pkg.poisonWith_ctx]

@[simp] theorem Pkg.drainDone_ctx (p : Pkg) (s slot : Nat) (y : CtxRef) : (p.drainDone s slot).ctx y = p.ctx y := by
  unfold Pkg.drainDone
  split <;> rfl

@[simp] theorem Pkg.failMiss_ctx (p : Pkg) (key : Nat) (y : CtxRef) : (p.failMiss key).ctx y = p.ctx y := by
  unfold Pkg.failMiss
  split
  · rfl
  · exact (Pkg.addMiss_misses p key).ctx y

@[simp] theorem Pkg.crystallize_ctx (p : Pkg) (b : Brine) (y : CtxRef) : (p.crystallize b).ctx y = p.ctx y := by
  unfold Pkg.crystallize
  dsimp only
  rw [Pkg.drainDone_ctx]
  split
  · exact Pkg.lostCopy_ctx ..
  · split
    · split
      · rfl
      · rw [Pkg.parkRec_ctx, Pkg.parkLine_ctx, Pkg.failMiss_ctx]
        rfl
    next q hfill =>
      have hq : q.ctx y = p.ctx y := (Pkg.fill_misses hfill).ctx y
      split
      · rw [Pkg.ras_ctx, hq]
      · split
        · rw [Pkg.homeWrite_ctx, hq]
        · exact hq
        · exact hq

@[simp] theorem Pkg.recall_ctx (p : Pkg) (key : Nat) (y : CtxRef) : (p.recall key).ctx y = p.ctx y :=
  Pkg.ctx_foldl (fun p b => Pkg.crystallize_ctx p b y) _ p

theorem Pkg.serve_ctx {p q : Pkg} {key : Nat} {mask : BitVec 64} (h : p.serve key mask = .ok q) (y : CtxRef) :
    q.ctx y = p.ctx y := by
  unfold Pkg.serve at h
  dsimp only at h
  split at h
  · cases h
  · rw [(Pkg.fill_misses h).ctx y, Pkg.recall_ctx]

/-! ### Prefetch (R244) -/

/-- A prefetch does nothing, or serves the line at its home, and then may give it a way. -/
theorem Pkg.prefetch_cases (p : Pkg) (core key : Nat) (noalloc : Bool) :
    p.prefetch core key noalloc = p ∨
      ∃ q, p.serve key (BitVec.allOnes 64) = .ok q ∧ q.Misses (p.prefetch core key noalloc) := by
  unfold Pkg.prefetch
  split
  · exact .inl rfl
  · split
    · exact .inl rfl
    next q hserve =>
      refine .inr ⟨q, hserve, ?_⟩
      split
      · exact .refl q
      · cases hway : q.takeWay core key with
        | none => exact .refl q
        | some r => exact Pkg.takeWay_misses hway

/-- A prefetch changes no context, whatever copies it recalls. -/
theorem Pkg.prefetch_ctx (p : Pkg) (core key : Nat) (noalloc : Bool) (y : CtxRef) :
    (p.prefetch core key noalloc).ctx y = p.ctx y := by
  obtain h | ⟨q, hserve, hway⟩ := p.prefetch_cases core key noalloc
  · rw [h]
  · rw [hway.ctx y, Pkg.serve_ctx hserve y]

/-- A prefetch of a line without a brine copy is at most a miss. -/
theorem Pkg.prefetch_misses {p : Pkg} {key : Nat} (hc : p.copied key = false) (core : Nat) (noalloc : Bool) :
    p.Misses (p.prefetch core key noalloc) := by
  obtain h | ⟨q, hserve, hway⟩ := p.prefetch_cases core key noalloc
  · rw [h]
    exact .refl p
  · exact (Pkg.serve_misses hc hserve).trans hway

end Sys2Proof.Machine

/-! SUPPORT. Proofs: the checks of an element, scalar loads and stores, PREF and LINEWB (R235, R237, R238, R244, R245). -/

namespace Sys2Proof

variable {α : Type}

theorem Tab.put_put (t : Tab α) (i : Nat) (a b : α) : (t.put i a).put i b = t.put i b := by
  fun_induction Tab.put t i a <;> grind [Tab.put]

theorem Tab.drop_put (t : Tab α) (i : Nat) (a : α) : (t.put i a).drop i = t.drop i := by
  fun_induction Tab.put t i a <;> grind [Tab.drop]

/-- Of two writes at an index the second stands, where the first lists its value. -/
theorem Tab.set_set [DecidableEq α] {d a : α} (h : a ≠ d) (t : Tab α) (i : Nat) (b : α) :
    (t.set d i a).set d i b = t.set d i b := by
  simp only [Tab.set, h, ↓reduceIte, Tab.put_put, Tab.drop_put]

end Sys2Proof

namespace Sys2Proof.Machine

/-- Of two writes of a context the second stands, where the first makes it another than a slot at reset. -/
theorem Pkg.setCtx_setCtx (p : Pkg) (x : CtxRef) {c : Ctx} (h : c ≠ .reset) (d : Ctx) :
    (p.setCtx x c).setCtx x d = p.setCtx x d := by
  have hcore : (p.core x.core).setCtx x.slot c ≠ .reset := fun he => h <| by
    rw [← Core.ctx_setCtx_same (p.core x.core) x.slot c, he]
    rfl
  have hctx : ((p.core x.core).setCtx x.slot c).setCtx x.slot d = (p.core x.core).setCtx x.slot d := by
    simp only [Core.setCtx, Tab.set_set h]
  rw [Pkg.setCtx_eq, Pkg.setCtx_eq, Pkg.core_setCore_same, hctx, Pkg.setCtx_eq]
  simp only [Pkg.setCore, Tab.set_set hcore]

/-- A context that may issue is not free. -/
theorem Ctx.ne_reset_of_mayIssue {c : Ctx} (h : c.mayIssue = true) : c ≠ .reset := by
  rintro rfl
  exact absurd h (by decide)

/-- Registers left as they are change nothing of what retires. -/
theorem State.retired_id {s : State} (h : s.ctx.mayIssue = true) (fl : Flow) : s.retired id fl = s.retiredOn s.pkg fl := by
  have hctx : (s.pkg.withRegs s.pkg.cur id).ctx s.pkg.cur = s.pkg.ctx s.pkg.cur := Pkg.ctx_modCtx_same ..
  have hmod : ∀ f, (s.pkg.withRegs s.pkg.cur id).modCtx s.pkg.cur f = s.pkg.modCtx s.pkg.cur f := fun f => by
    rw [Pkg.modCtx, hctx]
    exact Pkg.setCtx_setCtx _ _ (Ctx.ne_reset_of_mayIssue h) _
  simp only [State.retired, State.retiredOn, Pkg.finishIn, hctx, hmod]

/-! ### The checks of an element (R235) -/

@[simp] theorem M.run_me (p : Pkg) : M.me.run p = .ok (p.cur, p) := rfl
@[simp] theorem M.run_setS (d : SReg) (v : Word) (p : Pkg) : (M.setS d v).run p = .ok ((), p.withRegs p.cur (·.setS d v)) := rfl

/-- Rights are held at addresses below 2^56 alone. -/
theorem Pkg.lt_of_route {p : Pkg} {s va need : Nat} {r : Route} (h : p.route s va need = some r) : va < 2 ^ 56 := by
  by_contra hva
  have hnone : p.route? s va = none := by
    rw [Pkg.route?, if_pos]
    exact Bool.or_eq_true_iff.mpr (.inl (decide_eq_true (Nat.not_lt.mp hva)))
  simp [Pkg.route, hnone] at h

/-- An element that passes its checks. -/
theorem M.checkEl_ok {s : State} {need va n : Nat} (h : s.elOk need va n) (lane : Nat) :
    (M.checkEl s.pkg.cur need va n lane).run s.pkg = .ok ((), s.pkg) := by
  obtain ⟨hva, halign, hroute⟩ := h
  obtain ⟨r, hr⟩ := Option.isSome_iff_exists.mp hroute
  have htop : ¬ va ≥ vaTop := Nat.not_le.mpr hva
  simp only [M.checkEl, M.run_bind, M.run_get, htop, halign, hr, ne_eq, not_true_eq_false, ↓reduceIte, M.run_pure]

/-- An element faults with the cause of the first check that it fails; its lane goes to TRAPINFO. -/
theorem M.checkEl_bad {s : State} {need va n cause : Nat} (h : s.elBad need va n cause) (lane : Nat) :
    (M.checkEl s.pkg.cur need va n lane).run s.pkg = .error (.fault cause va ((lane % 256) <<< 16)) := by
  obtain ⟨htop, rfl⟩ | ⟨hva, halign, rfl⟩ | ⟨hva, halign, hroute, rfl⟩ := h
  · have htop : va ≥ vaTop := htop
    simp only [M.checkEl, M.run_bind, M.run_get, htop, ↓reduceIte, M.run_throw]
  · have htop : ¬ va ≥ vaTop := Nat.not_le.mpr hva
    simp only [M.checkEl, M.run_bind, M.run_get, htop, halign, ne_eq, not_false_eq_true, ↓reduceIte, M.run_throw]
  · have htop : ¬ va ≥ vaTop := Nat.not_le.mpr hva
    simp only [M.checkEl, M.run_bind, M.run_get, htop, halign, hroute, ne_eq, not_true_eq_false, ↓reduceIte, M.run_throw]

/-- A load that completes, or a store, had the rights that its address needs. -/
theorem M.load_route {x : CtxRef} {need va n v : Nat} {inv noalloc : Bool} {p q : Pkg}
    (h : (M.load x need va n inv noalloc).run p = .ok (v, q)) : (p.route (p.spaceOf x.core) va need).isSome = true := by
  cases hr : p.route (p.spaceOf x.core) va need with
  | some r => rfl
  | none =>
    simp only [M.load, M.run_bind, M.run_get, hr, M.run_throw] at h
    cases h

theorem M.store_route {x : CtxRef} {va n v : Nat} {p q : Pkg} (h : (M.store x va n v).run p = .ok ((), q)) :
    (p.route (p.spaceOf x.core) va rWR).isSome = true := by
  cases hr : p.route (p.spaceOf x.core) va rWR with
  | some r => rfl
  | none =>
    simp only [M.store, M.run_bind, M.run_get, hr, M.run_throw] at h
    cases h

/-- An aligned element with rights passes its checks. -/
theorem State.elOk_of_route {s : State} {need va n : Nat} (halign : va % n = 0)
    (hroute : (s.pkg.route (s.pkg.spaceOf s.pkg.cur.core) va need).isSome = true) : s.elOk need va n := by
  obtain ⟨r, hr⟩ := Option.isSome_iff_exists.mp hroute
  exact ⟨Pkg.lt_of_route hr, halign, hroute⟩

/-! ### Scalar loads and stores (R237, R238) -/

/-- The model's two's-complement reading of a number's low bits. -/
theorem signExt_eq_toInt (x n : Nat) : signExt x n = (BitVec.ofNat n x).toInt := by
  rw [signExt, BitVec.toInt_eq_toNat_cond, BitVec.toNat_ofNat]
  cases n with
  | zero => simp [Nat.mod_one]
  | succ n =>
    have hpow : 2 ^ (n + 1) = 2 * 2 ^ n := by omega
    simp only [Nat.add_sub_cancel, Nat.add_one_ne_zero, ↓reduceIte]
    grind

/-- What a load writes: the number read, of its type's width, as R237 extends it. -/
theorem extend_ofNat (t : Ty) (v : Nat) :
    extend t (BitVec.ofNat 64 v) =
      if t.signed = true then (BitVec.ofNat t.width v).signExtend 64 else (BitVec.ofNat t.width v).setWidth 64 := by
  have hmod : v % 2 ^ 64 % 2 ^ t.width = v % 2 ^ t.width := Nat.mod_mod_of_dvd v (pow_dvd_pow 2 (by cases t <;> decide))
  unfold extend
  split
  · have hlow : BitVec.ofNat t.width (v % 2 ^ 64) = BitVec.ofNat t.width v :=
      BitVec.eq_of_toNat_eq (by rw [BitVec.toNat_ofNat, BitVec.toNat_ofNat, hmod])
    rw [BitVec.signExtend, signExt_eq_toInt, BitVec.toNat_ofNat, hlow]
  · rw [BitVec.toNat_ofNat, hmod, ← BitVec.toNat_ofNat, BitVec.ofNat_toNat]

theorem ld_faults {s : State} {g : Guard} {t : Ty} {h : Hint} {inv : Bool} {d : SReg} {m : MemOp} {cause : Nat}
    (hready : s.ready g (memSrcs m) [d.toNat]) (hbad : s.elBad rRD (memAddr s.regs m).toNat (t.width / 8) cause) :
    s.faults (.ld g t h inv d m) cause (memAddr s.regs m).toNat 0 := by
  refine State.issue_stops (e := .fault cause (memAddr s.regs m).toNat 0) hready rfl rfl rfl ?_
  simp only [M.run_bind, M.run_me, M.run_r, Ty.bytes, M.checkEl_bad hbad]
  rfl

/-- A load writes what it has read, extended, where its element passes its checks. -/
theorem ld_makes {s : State} {g : Guard} {t : Ty} {h : Hint} {inv : Bool} {d : SReg} {m : MemOp} {v : Nat} {q : Pkg}
    (hready : s.ready g (memSrcs m) [d.toNat]) (hok : s.elOk rRD (memAddr s.regs m).toNat (t.width / 8))
    (hload : (M.load s.pkg.cur rRD (memAddr s.regs m).toNat (t.width / 8) inv (h == .noalloc)).run s.pkg = .ok (v, q)) :
    s.makes (.ld g t h inv d m) (q.withRegs q.cur (·.setS d (extend t (BitVec.ofNat 64 v)))) := by
  intro hfits
  refine State.issue_body hready rfl rfl rfl rfl ?_ hfits
  simp only [M.run_bind, M.run_me, M.run_r, Ty.bytes, M.checkEl_ok hok, hload, M.run_setS, M.run_pure]

theorem st_faults {s : State} {g : Guard} {t : Ty} {h : Hint} {d : SReg} {m : MemOp} {cause : Nat}
    (hready : s.ready g (d.toNat :: memSrcs m) []) (hbad : s.elBad rWR (memAddr s.regs m).toNat (t.width / 8) cause) :
    s.faults (.st g t h d m) cause (memAddr s.regs m).toNat 0 := by
  refine State.issue_stops (e := .fault cause (memAddr s.regs m).toNat 0) hready rfl rfl rfl ?_
  simp only [M.run_bind, M.run_me, M.run_r, Ty.bytes, M.checkEl_bad hbad]
  rfl

theorem st_makes {s : State} {g : Guard} {t : Ty} {h : Hint} {d : SReg} {m : MemOp} {q : Pkg}
    (hready : s.ready g (d.toNat :: memSrcs m) []) (hok : s.elOk rWR (memAddr s.regs m).toNat (t.width / 8))
    (hstore : (M.store s.pkg.cur (memAddr s.regs m).toNat (t.width / 8) (s.regs.sr d).toNat).run s.pkg = .ok ((), q)) :
    s.makes (.st g t h d m) q := by
  intro hfits
  refine State.issue_body hready rfl rfl rfl rfl ?_ hfits
  simp only [M.run_bind, M.run_me, M.run_r, Ty.bytes, M.checkEl_ok hok, hstore, M.run_pure]

/-! ### PREF and LINEWB (R244, R245) -/

/-- A PREF whose address has no line in memory, or no right to be read, only retires. -/
theorem pref_completes {s : State} {g : Guard} {h : Hint} {m : MemOp} (hready : s.ready g (memSrcs m) [])
    (hnone : ∀ k o r w, s.pkg.route (s.pkg.spaceOf s.pkg.cur.core) (memAddr s.regs m).toNat rRD ≠ some ⟨k, r, .line o w⟩) :
    s.completes (.pref g h m) id := by
  unfold State.completes
  rw [State.retired_id (Pkg.ready_issues hready).1]
  refine State.issue_body hready rfl rfl rfl rfl ?_ (Pkg.fits_self hready)
  simp only [M.run_bind, M.run_get]
  split
  next hline => exact absurd hline (hnone _ _ _ _)
  next => rfl
  next => rfl

/-- A PREF of a line in memory prefetches it. -/
theorem pref_makes {s : State} {g : Guard} {h : Hint} {m : MemOp} {k r o w : Nat} (hready : s.ready g (memSrcs m) [])
    (hline : s.pkg.route (s.pkg.spaceOf s.pkg.cur.core) (memAddr s.regs m).toNat rRD = some ⟨k, r, .line o w⟩) :
    s.makes (.pref g h m) (s.pkg.prefetch s.pkg.cur.core k (h == .noalloc)) := by
  intro hfits
  refine State.issue_body hready rfl rfl rfl rfl ?_ hfits
  unfold State.regs State.ctx at hline
  simp only [M.run_bind, M.run_get, hline, M.run_set, M.run_pure]

theorem linewb_faults {s : State} {g : Guard} {h : Hint} {m : MemOp} {cause : Nat} (hready : s.ready g (memSrcs m) [])
    (hbad : s.elBad rRD (memAddr s.regs m).toNat 1 cause) : s.faults (.linewb g h m) cause (memAddr s.regs m).toNat 0 := by
  refine State.issue_stops (e := .fault cause (memAddr s.regs m).toNat 0) hready rfl rfl rfl ?_
  simp only [M.run_bind, M.run_me, M.run_r, M.checkEl_bad hbad]
  rfl

/-- LINEWB of a line in memory adds it to those that the commit writes back. -/
theorem linewb_line {s : State} {g : Guard} {h : Hint} {m : MemOp} {rt : Route} {o w : Nat} (hready : s.ready g (memSrcs m) [])
    (hok : s.elOk rRD (memAddr s.regs m).toNat 1)
    (hrt : s.pkg.route? (s.pkg.spaceOf s.pkg.cur.core) (memAddr s.regs m).toNat = some rt) (hline : rt.place = .line o w) :
    exec (.linewb g h m) s = .next (s.retiredOn (s.pkg.modCtx s.pkg.cur fun c =>
      { c with ch := { c.ch with wbs := insertNat rt.key c.ch.wbs } }) .next) := by
  obtain ⟨-, -, -, -, -, -, hover, hsig⟩ := Pkg.ready_iff.mp hready
  refine State.issue_body hready rfl rfl rfl rfl ?_ ?fits
  case fits =>
    rw [Pkg.fits, Pkg.overreaches_modCtx _ _ _ rfl rfl rfl rfl rfl rfl, hover]
    simpa using hsig
  simp only [M.run_bind, M.run_me, M.run_r, M.checkEl_ok hok, M.run_get, hrt, hline, M.modChunk, M.modCtx, M.run_modify, M.run_pure]

/-- LINEWB through the local-store window only retires. -/
theorem linewb_local {s : State} {g : Guard} {h : Hint} {m : MemOp} {rt : Route} {c o : Nat} (hready : s.ready g (memSrcs m) [])
    (hok : s.elOk rRD (memAddr s.regs m).toNat 1)
    (hrt : s.pkg.route? (s.pkg.spaceOf s.pkg.cur.core) (memAddr s.regs m).toNat = some rt) (hlocal : rt.place = .lstore c o) :
    exec (.linewb g h m) s = .next (s.retiredOn s.pkg .next) := by
  refine State.issue_body hready rfl rfl rfl rfl ?_ (Pkg.fits_self hready)
  simp only [M.run_bind, M.run_me, M.run_r, M.checkEl_ok hok, M.run_get, hrt, hlocal, M.run_pure]

/-- Settles O19: issue of each of the four instructions, and what a prefetch may change. -/
theorem scalarAccesses : Obligations.ScalarAccesses := by
  unfold Obligations.ScalarAccesses
  intro s g t h inv d m x va n
  refine ⟨fun hready => ⟨fun cause hbad => ?ldFault, fun halign v q hload => ?ld⟩,
    fun hready => ⟨fun cause hbad => ?stFault, fun halign q hstore => ?st⟩,
    fun hready => ⟨⟨fun hnone => ?prefNone, fun k o r w hline => ?pref⟩, fun cause hbad => ?wbFault,
      fun hok rt hrt => ⟨fun o w hline => ?wbLine, fun c o hlocal => ?wbLocal⟩⟩⟩
  case ldFault => exact ld_faults hready hbad
  case ld =>
    rw [← extend_ofNat]
    exact ld_makes hready (State.elOk_of_route halign (M.load_route hload)) hload
  case stFault => exact st_faults hready hbad
  case st => exact st_makes hready (State.elOk_of_route halign (M.store_route hstore)) hstore
  case prefNone => exact pref_completes hready hnone
  case pref =>
    refine ⟨pref_makes hready hline, Pkg.prefetch_ctx s.pkg x.core k _, fun hcopied => ?_⟩
    obtain ⟨-, hmem, hlog, hspaces, hlines⟩ := Pkg.prefetch_misses hcopied x.core (h == .noalloc)
    refine ⟨hmem, hlog, hspaces, fun key l hl => ?_⟩
    obtain ⟨l', hl', hdirty, hattrs, hbytes⟩ := hlines key l hl
    exact ⟨l', hl', hdirty, hattrs, hbytes⟩
  case wbFault => exact linewb_faults hready hbad
  case wbLine => exact linewb_line hready hok hrt hline
  case wbLocal => exact linewb_local hready hok hrt hlocal

end Sys2Proof.Machine

/-! SUPPORT. Proofs: issue of an instruction of the vector engine (R22, R274, R275). -/

namespace Sys2Proof.Machine

/-- A command in an engine's queue changes no context. -/
@[simp] theorem Pkg.ctx_queued (p : Pkg) (m : Bool) (sdst vdst : List Nat) (b : Option Nat) (x : CtxRef) :
    (p.queued m sdst vdst b).ctx x = p.ctx x :=
  Pkg.ctx_modCore (by cases m <;> rfl) x

/-- A command in an engine's queue leaves what an L1 holds. -/
@[simp] theorem Pkg.l1_queued (p : Pkg) (m : Bool) (sdst vdst : List Nat) (b : Option Nat) (c : Nat) :
    ((p.queued m sdst vdst b).core c).l1 = (p.core c).l1 := by
  rw [Pkg.queued, Pkg.modCore_eq]
  by_cases hc : c = p.cur.core
  · rw [hc, Pkg.core_setCore_same]
    cases m <;> rfl
  · rw [Pkg.core_setCore_other _ hc]

theorem Pkg.fits_queued (p q : Pkg) (m : Bool) (sdst vdst : List Nat) (b : Option Nat) :
    p.fits (q.queued m sdst vdst b) = p.fits q := by
  have hctx := Pkg.ctx_queued q m sdst vdst b
  have hover : (q.queued m sdst vdst b).overreaches p.cur = q.overreaches p.cur :=
    Pkg.overreaches_congr (by rw [hctx]) (by rw [hctx]) (by rw [hctx]) (by rw [hctx]) (by rw [hctx]) (by rw [hctx]) rfl
      (Pkg.l1_queued q m sdst vdst b) fun c n => congrArg Ctx.lines (hctx ⟨c, n⟩)
  simp only [Pkg.fits, hover, hctx]

/-- A change of the registers does not change whether a package fits. -/
theorem Pkg.fits_modRegs (p q : Pkg) (f : Regs → Regs) : p.fits (q.withRegs p.cur f) = p.fits q := by
  unfold Pkg.fits Pkg.withRegs
  rw [Pkg.overreaches_modCtx _ _ _ rfl rfl rfl rfl rfl rfl, Pkg.ctx_modCtx_same]

@[simp] theorem Pkg.cur_counting (p : Pkg) (c n : Nat) : (p.counting c n).cur = p.cur := by
  unfold Pkg.counting
  split <;> rfl

@[simp] theorem Pkg.regs_counting (p : Pkg) (c n : Nat) : ((p.counting c n).ctx p.cur).regs = (p.ctx p.cur).regs := by
  unfold Pkg.counting
  split
  · rfl
  · rw [Pkg.ctx_modCtx_same]

theorem Pkg.fits_counting (p : Pkg) (c n : Nat) : p.fits (p.counting c n) = p.fits p := by
  unfold Pkg.counting
  split
  · rfl
  · rw [Pkg.fits, Pkg.overreaches_modCtx _ _ _ rfl rfl rfl rfl rfl rfl, Pkg.ctx_modCtx_same, Pkg.fits]

theorem M.run_count (p : Pkg) (c n : Nat) : (M.count p.cur c n).run p = .ok ((), p.counting c n) := by
  unfold M.count Pkg.counting
  split <;> rfl

@[simp] theorem M.run_regs (f : Regs → Regs) (p : Pkg) : (M.regs f).run p = .ok (.next, p.withRegs p.cur f) := rfl

/-- Registers changed depend on the change only at the registers that they are. -/
theorem Pkg.withRegs_congr {p : Pkg} {x : CtxRef} {f f' : Regs → Regs} (h : f (p.ctx x).regs = f' (p.ctx x).regs) :
    p.withRegs x f = p.withRegs x f' :=
  congrArg (fun r => p.setCtx x { p.ctx x with regs := r }) h

/-- The package in which a vector instruction has counted its active lanes (R275). -/
def State.counted (s : State) (mk : Option SReg) (cnt : Option (Nat × Nat)) : Pkg :=
  match cnt with
  | some (c, k) => s.pkg.counting c (k * (lanesOn s.regs mk).length)
  | none => s.pkg

theorem State.counted_cur (s : State) (mk : Option SReg) (cnt : Option (Nat × Nat)) : (s.counted mk cnt).cur = s.pkg.cur := by
  cases cnt with
  | none => rfl
  | some e => exact Pkg.cur_counting ..

theorem State.counted_regs (s : State) (mk : Option SReg) (cnt : Option (Nat × Nat)) :
    ((s.counted mk cnt).ctx s.pkg.cur).regs = s.regs := by
  cases cnt with
  | none => rfl
  | some e => exact Pkg.regs_counting ..

theorem State.fits_counted (s : State) (mk : Option SReg) (cnt : Option (Nat × Nat)) :
    s.pkg.fits (s.counted mk cnt) = s.pkg.fits s.pkg := by
  cases cnt with
  | none => rfl
  | some e => exact Pkg.fits_counting ..

/-- Issue of a vector instruction whose effect is on its context's registers: it counts, changes them, and is queued. -/
theorem State.issue_vec {s : State} {g : Guard} {mk : Option SReg} {cnt : Option (Nat × Nat)} {srcs dsts vsrcs vdsts : List Nat}
    (h : s.readyV g mk srcs dsts vsrcs vdsts) (f : Regs → Regs) :
    s.issue (.vec g mk cnt srcs dsts vsrcs vdsts f) =
      .next (s.retiredOn (((s.counted mk cnt).withRegs s.pkg.cur f).queued false dsts vdsts) .next) := by
  have hcur := State.counted_cur s mk cnt
  refine State.issue_engine (i := .vec g mk cnt srcs dsts vsrcs vdsts f) h rfl rfl rfl rfl ?body hcur ?fits
  case body =>
    cases cnt with
    | none => simp only [Ins.vec, M.run_bind, M.run_me, M.run_r, M.run_regs, State.counted]
    | some e => simp only [Ins.vec, M.run_bind, M.run_me, M.run_r, M.run_count, M.run_regs, State.counted, Pkg.cur_counting]
  case fits =>
    show s.pkg.fits _ = true
    rw [Pkg.fits_queued, Pkg.fits_modRegs, State.fits_counted, Pkg.fits_self h]

/-- Completion of a vector instruction: `f` is the model's effect on the registers, `f'` the table's. -/
theorem State.exec_vec {s : State} {i : Instr} {g : Guard} {mk : Option SReg} {cnt : Option (Nat × Nat)}
    {srcs dsts vsrcs vdsts : List Nat} {f f' : Regs → Regs} (h : s.readyV g mk srcs dsts vsrcs vdsts)
    (he : exec i s = s.issue (.vec g mk cnt srcs dsts vsrcs vdsts f)) (hf : f s.regs = f' s.regs) :
    exec i s = .next (s.retiredOn (((s.counted mk cnt).withRegs s.pkg.cur f').queued false dsts vdsts) .next) := by
  have hregs := State.counted_regs s mk cnt
  rw [he, State.issue_vec h, Pkg.withRegs_congr (f := f) (f' := f') (by rw [hregs, hf])]

/-- Completion of one that counts. -/
theorem State.vector_counted {s : State} {i : Instr} {g : Guard} {mk : Option SReg} {c k : Nat} {srcs dsts vsrcs vdsts : List Nat}
    {f f' : Regs → Regs} (h : s.readyV g mk srcs dsts vsrcs vdsts)
    (he : exec i s = s.issue (.vec g mk (some (c, k)) srcs dsts vsrcs vdsts f)) (hf : f s.regs = f' s.regs) :
    s.vector i mk (some c) k dsts vdsts f' :=
  State.exec_vec (cnt := some (c, k)) h he hf

/-- Completion of one that does not count. -/
theorem State.vector_uncounted {s : State} {i : Instr} {g : Guard} {mk : Option SReg} {k : Nat} {srcs dsts vsrcs vdsts : List Nat}
    {f f' : Regs → Regs} (h : s.readyV g mk srcs dsts vsrcs vdsts)
    (he : exec i s = s.issue (.vec g mk none srcs dsts vsrcs vdsts f)) (hf : f s.regs = f' s.regs) :
    s.vector i mk none k dsts vdsts f' :=
  State.exec_vec (cnt := none) h he hf

/-- Completion of an instruction that counts and writes its active lanes, with what lane by lane is the table's. -/
theorem State.vector_lanes {s : State} {i : Instr} {g : Guard} {mk : Option SReg} {c k : Nat} {srcs vsrcs : List Nat} {d : VReg}
    {f : Regs → Nat → BitVec 32} {f' : Nat → BitVec 32} (h : s.readyV g mk srcs [] vsrcs [d.toNat])
    (he : exec i s = s.issue (.vec g mk (some (c, k)) srcs [] vsrcs [d.toNat] fun r => r.mapLanes mk d (f r)))
    (hf : ∀ j, f s.regs j = f' j) : s.vector i mk (some c) k [] [d.toNat] (·.mapLanes mk d f') :=
  State.vector_counted h he (congrArg (s.regs.mapLanes mk d) (funext hf))

/-- The same of one that does not count. -/
theorem State.vector_moves {s : State} {i : Instr} {g : Guard} {mk : Option SReg} {k : Nat} {srcs vsrcs : List Nat} {d : VReg}
    {f : Regs → Nat → BitVec 32} {f' : Nat → BitVec 32} (h : s.readyV g mk srcs [] vsrcs [d.toNat])
    (he : exec i s = s.issue (.vec g mk none srcs [] vsrcs [d.toNat] fun r => r.mapLanes mk d (f r)))
    (hf : ∀ j, f s.regs j = f' j) : s.vector i mk none k [] [d.toNat] (·.mapLanes mk d f') :=
  State.vector_uncounted h he (congrArg (s.regs.mapLanes mk d) (funext hf))

end Sys2Proof.Machine

/-! SUPPORT. Proofs: vector bitwise operations, shifts, bit counts, VCMP and VSEL (R277, R278, R283, R284). -/

namespace Sys2Proof.Machine

/-! ### Elements and result lanes (R271, R277) -/

/-- The element of a lane, as bits, and bits of an element as a result lane. -/
def laneBits (t : Ty) (r : Regs) (v : VReg) (j : Nat) : BitVec t.width := (r.lane v.toNat j).setWidth t.width
def extLane (t : Ty) (x : BitVec t.width) : BitVec 32 := if t.signed = true then x.signExtend 32 else x.setWidth 32

theorem velem_eq_toNat (t : Ty) (r : Regs) (v : VReg) (j : Nat) : velem t r v j = (laneBits t r v j).toNat :=
  (BitVec.toNat_setWidth ..).symm

theorem wrapN_eq_toNat (i : Int) (n : Nat) : wrapN i n = (BitVec.ofInt n i).toNat := (BitVec.toNat_ofInt ..).symm

/-- The model's result lane is R271's. -/
theorem laneInt_eq_extLane (t : Ty) (v : Int) : laneInt t v = extLane t (BitVec.ofInt t.width v) := by
  unfold laneInt extLane
  rw [signExt_eq_toInt, wrapN_eq_toNat, BitVec.ofNat_toNat, BitVec.ofNat_toNat, BitVec.setWidth_eq]
  rfl

theorem laneInt_natCast (t : Ty) (n : Nat) : laneInt t n = extLane t (BitVec.ofNat t.width n) := by
  rw [laneInt_eq_extLane, BitVec.ofInt_natCast]

theorem ofNat_velem (t : Ty) (r : Regs) (v : VReg) (j : Nat) : BitVec.ofNat t.width (velem t r v j) = laneBits t r v j := by
  rw [velem_eq_toNat, BitVec.ofNat_toNat, BitVec.setWidth_eq]

/-! ### Bitwise operations, shifts and counts of bits (R277, R278) -/

section
variable (t : Ty) (r : Regs) (a b : VReg) (j n : Nat)

theorem laneInt_and : laneInt t (velem t r a j &&& velem t r b j : Nat) = extLane t (laneBits t r a j &&& laneBits t r b j) := by
  rw [laneInt_natCast, BitVec.ofNat_and, ofNat_velem, ofNat_velem]

theorem laneInt_or : laneInt t (velem t r a j ||| velem t r b j : Nat) = extLane t (laneBits t r a j ||| laneBits t r b j) := by
  rw [laneInt_natCast, BitVec.ofNat_or, ofNat_velem, ofNat_velem]

theorem laneInt_xor : laneInt t (velem t r a j ^^^ velem t r b j : Nat) = extLane t (laneBits t r a j ^^^ laneBits t r b j) := by
  rw [laneInt_natCast, BitVec.ofNat_xor, ofNat_velem, ofNat_velem]

theorem laneInt_shl : laneInt t (velem t r a j * 2 ^ n : Nat) = extLane t (laneBits t r a j <<< n) := by
  rw [laneInt_natCast, velem_eq_toNat, bv_shl_eq_ofNat]

theorem laneInt_shr : laneInt t (velem t r a j / 2 ^ n : Nat) = extLane t (laneBits t r a j >>> n) := by
  rw [laneInt_natCast, velem_eq_toNat, bv_shr_eq_ofNat]

theorem laneInt_sar : laneInt t (sarInt (signExt (velem t r a j) t.width) n) = extLane t ((laneBits t r a j).sshiftRight n) := by
  rw [laneInt_eq_extLane, signExt_eq_toInt, ofNat_velem, bv_sar_eq_ofInt, sarInt]
  norm_cast

/-- The model's count of bits. -/
theorem popCount_eq (x n : Nat) : popCount x n = ((List.range n).filter x.testBit).length := by
  unfold popCount
  induction n with
  | zero => rfl
  | succ n ih =>
    rw [popFrom, ih, List.range_succ, List.filter_append, List.length_append, Nat.add_comm, List.filter_singleton]
    congr 1
    split <;> simp [*]

theorem laneInt_popCount : laneInt t (popCount (velem t r a j) t.width) =
    extLane t (BitVec.ofNat t.width ((List.range t.width).filter fun i => (laneBits t r a j).getLsbD i).length) := by
  rw [laneInt_natCast, popCount_eq, velem_eq_toNat]
  rfl

end

/-! ### Comparisons (R283) -/

theorem bitsOf_lt (f : Nat → Bool) (n : Nat) : bitsOf f n < 2 ^ n := by
  induction n with
  | zero => exact Nat.one_pos
  | succ n ih =>
    rw [bitsOf]
    split <;> omega

theorem testBit_bitsOf (f : Nat → Bool) (n j : Nat) : (bitsOf f n).testBit j = (decide (j < n) && f j) := by
  induction n with
  | zero => simp [bitsOf]
  | succ n ih =>
    have hsplit : bitsOf f (n + 1) = 2 ^ n * (f n).toNat + bitsOf f n := by
      rw [bitsOf]
      cases f n <;> simp [Nat.add_comm]
    rw [hsplit, Nat.testBit_two_pow_mul_add _ (bitsOf_lt f n), ih]
    grind

theorem condInt_iff {w : Nat} (c : Cond) (x y : BitVec w) : condInt c w x.toNat y.toNat = true ↔ condHolds c x y := by
  have hx : x.toNat % 2 ^ w = x.toNat := Nat.mod_eq_of_lt x.isLt
  have hy : y.toNat % 2 ^ w = y.toNat := Nat.mod_eq_of_lt y.isLt
  have hsign (z : BitVec w) : signExt z.toNat w = z.toInt := by rw [signExt_eq_toInt, BitVec.ofNat_toNat, BitVec.setWidth_eq]
  cases c <;> simp [condInt, condHolds, hx, hy, hsign, BitVec.toNat_inj]

theorem laneOn_iff (r : Regs) (mk : Option SReg) (j : Nat) : laneOn r mk j = true ↔ ∀ m, mk = some m → (r.sr m).getLsbD j = true := by
  cases mk <;> simp [laneOn]

theorem vcmpBit_iff (t : Ty) (c : Cond) (a b : VReg) (r : Regs) (j : Nat) :
    vcmpBit t c a b r j = true ↔
      if Ty.flt t = true then condNum c (unpack t (velem t r a j)) (unpack t (velem t r b j)) = true
      else condHolds c (laneBits t r a j) (laneBits t r b j) := by
  unfold vcmpBit
  split
  · rfl
  · rw [velem_eq_toNat, velem_eq_toNat, condInt_iff]

/-- Bit `j` of the mask that VCMP writes (R283). -/
theorem getLsbD_ofNat_bitsOf (f : Nat → Bool) {j : Nat} (h : j < 64) : (BitVec.ofNat 64 (bitsOf f 64)).getLsbD j = f j := by
  rw [BitVec.getLsbD_ofNat, testBit_bitsOf, decide_eq_true h, Bool.true_and, Bool.true_and]

/-- Settles O31: each instruction issues as an operation of the vector engine, lane by lane the table's. -/
theorem vectorBits : Obligations.VectorBits := by
  unfold Obligations.VectorBits
  intro s g t cond mk sd sc d a b n _ r e ext does k
  refine ⟨fun _ => ⟨fun h => ⟨?and, ?or, ?xor, ?shl, ?shr, ?sar⟩, fun h => ⟨?shli, ?shri, ?sari, ?popc⟩⟩, fun h => ?cmp,
    fun h => ?sel⟩
  case and => exact State.vector_lanes h rfl (laneInt_and t r a b)
  case or => exact State.vector_lanes h rfl (laneInt_or t r a b)
  case xor => exact State.vector_lanes h rfl (laneInt_xor t r a b)
  case shl => exact State.vector_lanes h rfl fun j => laneInt_shl t r a j (k j)
  case shr => exact State.vector_lanes h rfl fun j => laneInt_shr t r a j (k j)
  case sar => exact State.vector_lanes h rfl fun j => laneInt_sar t r a j (k j)
  case shli => exact State.vector_lanes h rfl fun j => laneInt_shl t r a j n.toNat
  case shri => exact State.vector_lanes h rfl fun j => laneInt_shr t r a j n.toNat
  case sari => exact State.vector_lanes h rfl fun j => laneInt_sar t r a j n.toNat
  case popc => exact State.vector_lanes h rfl (laneInt_popCount t r a)
  case cmp =>
    refine ⟨_, State.vector_counted h rfl rfl, fun j hj => ?_⟩
    rw [getLsbD_ofNat_bitsOf _ hj, Bool.and_eq_true, laneOn_iff, vcmpBit_iff]
    rfl
  case sel => exact State.vector_moves h rfl fun _ => rfl

end Sys2Proof.Machine

/-! SUPPORT. Proofs: vector packing, broadcasts, moves and permutes (R286 to R292). -/

namespace Sys2Proof.Machine

/-! ### Fields of packed vectors (R286, R287) -/

theorem Regs.field_eq (r : Regs) (v w f : Nat) :
    r.field v w f = (r.lane v (f / (32 / w))).toNat / 2 ^ (f % (32 / w) * w) % 2 ^ w := by
  rw [Regs.field, Nat.shiftRight_eq_div_pow]

theorem packLane_lt (w l : Nat) (g : Nat → Nat) (n : Nat) : packLane w l g n < 2 ^ (n * w) := by
  induction n with
  | zero => simp [packLane]
  | succ n ih =>
    have hfield : g (l * (32 / w) + n) % 2 ^ w < 2 ^ w := Nat.mod_lt _ (by positivity)
    calc packLane w l g (n + 1)
      _ = packLane w l g n + g (l * (32 / w) + n) % 2 ^ w * 2 ^ (n * w) := by rw [packLane, Nat.shiftLeft_eq]
      _ < (g (l * (32 / w) + n) % 2 ^ w + 1) * 2 ^ (n * w) := by rw [Nat.add_one_mul]; omega
      _ ≤ 2 ^ w * 2 ^ (n * w) := Nat.mul_le_mul_right _ hfield
      _ = 2 ^ ((n + 1) * w) := by rw [← pow_add, Nat.add_one_mul, Nat.add_comm]

/-- The fields below the one that is put in last are those put in before. -/
theorem packLane_field (w l : Nat) (g : Nat → Nat) {n i : Nat} (h : i < n) :
    packLane w l g n / 2 ^ (i * w) % 2 ^ w = g (l * (32 / w) + i) % 2 ^ w := by
  induction n with
  | zero => omega
  | succ n ih =>
    rw [packLane, Nat.shiftLeft_eq, Nat.mul_comm]
    obtain hlt | rfl := Nat.lt_succ_iff_lt_or_eq.mp h
    · obtain ⟨m, rfl⟩ : ∃ m, n = i + 1 + m := ⟨n - (i + 1), by omega⟩
      have hpow : 2 ^ ((i + 1 + m) * w) = 2 ^ (i * w) * (2 ^ w * 2 ^ (m * w)) := by ring
      rw [hpow, Nat.mul_assoc, Nat.add_mul_div_left _ _ (by positivity), Nat.mul_assoc, Nat.add_mul_mod_self_left, ih hlt]
    · rw [Nat.add_mul_div_left _ _ (by positivity), Nat.div_eq_of_lt (packLane_lt ..), Nat.zero_add, Nat.mod_mod]

/-- A packed lane holds the fields it was packed from. -/
theorem packed_field (w l : Nat) (g : Nat → Nat) {i : Nat} (h : i < 32 / w) :
    (BitVec.ofNat 32 (packLane w l g (32 / w))).toNat / 2 ^ (i * w) % 2 ^ w = g (l * (32 / w) + i) % 2 ^ w := by
  have hlt : packLane w l g (32 / w) < 2 ^ 32 :=
    (packLane_lt w l g _).trans_le (Nat.pow_le_pow_right (by decide) (Nat.div_mul_le_self 32 w))
  rw [BitVec.toNat_ofNat, Nat.mod_eq_of_lt hlt, packLane_field w l g h]

/-! ### Lanes moved (R288 to R292) -/

theorem laneInt_eq_laneOf (t : Ty) (v : Int) : laneInt t v = laneOf t v := laneInt_eq_extLane t v

/-- A result lane takes its value modulo 2^w. -/
theorem laneOf_emod (t : Ty) (v : Int) : laneOf t (v % 2 ^ t.width) = laneOf t v := by
  have hbits : BitVec.ofInt t.width (v % 2 ^ t.width) = BitVec.ofInt t.width v := BitVec.eq_of_toNat_eq (by simp)
  rw [laneOf, laneOf, hbits]

theorem mem_lanesOn {r : Regs} {mk : Option SReg} {j : Nat} :
    j ∈ lanesOn r mk ↔ j < 64 ∧ ∀ m, mk = some m → (r.sr m).getLsbD j = true := by
  rw [lanesOn, List.mem_filter, List.mem_range, laneOn_iff]

/-- What VMOVS writes (R290). -/
theorem extend_setWidth (t : Ty) (x : BitVec 32) :
    extend t (x.setWidth 64) =
      if t.signed = true then (x.setWidth t.width).signExtend 64 else (x.setWidth t.width).setWidth 64 := by
  rw [← BitVec.ofNat_toNat, extend_ofNat, BitVec.ofNat_toNat]

/-- Settles O32: each instruction issues as an operation of the vector engine on the registers as they were, lane by lane the
table's; a packed lane is read back field by field. -/
theorem vectorMoves : Obligations.VectorMoves := by
  unfold Obligations.VectorMoves
  intro s g t mk sd sa d a b p n imm r src field on moves one
  refine ⟨fun h => ⟨?mov, fun _ => ?unpk, ?rot, ?rev, ?xor, ?comp, ?expnd, fun j => mem_lanesOn⟩,
    fun h => ⟨?perm, ?ziplo, ?ziphi, ?even, ?odd, fun _ => ?pack⟩, fun h => ?bcast, fun h => ?movi, fun h => ?movsReg,
    fun h => ?movsImm⟩
  case mov => exact State.vector_moves h rfl fun _ => rfl
  case unpk => exact State.vector_moves h rfl fun _ => by rw [Regs.field_eq, laneInt_eq_laneOf]
  case rot => exact State.vector_moves h rfl fun _ => rfl
  case rev => exact State.vector_moves h rfl fun _ => rfl
  case xor => exact State.vector_moves h rfl fun _ => rfl
  case comp => exact ⟨_, State.vector_uncounted h rfl rfl, fun _ _ => rfl⟩
  case expnd => exact State.vector_moves h rfl fun _ => rfl
  case perm => exact State.vector_moves h rfl fun _ => rfl
  case ziplo => exact State.vector_moves h rfl fun j => (apply_ite (src · (j / 2)) (j % 2 = 0) a b).symm
  case ziphi => exact State.vector_moves h rfl fun j => (apply_ite (src · (32 + j / 2)) (j % 2 = 0) a b).symm
  case even => exact State.vector_moves h rfl fun _ => rfl
  case odd => exact State.vector_moves h rfl fun _ => rfl
  case pack =>
    refine ⟨_, State.vector_uncounted h rfl rfl, fun l hl i hi => ?_⟩
    rw [packed_field _ _ _ hi]
    refine ⟨fun ⟨hon, hpart⟩ => ?taken, fun hkept => ?kept⟩
    case taken =>
      rw [if_pos ⟨hpart, (laneOn_iff ..).mpr hon⟩]
      exact Nat.mod_mod ..
    case kept =>
      rw [if_neg fun ⟨hpart, hon⟩ => hkept ⟨(laneOn_iff ..).mp hon, hpart⟩, Regs.field_eq]
      exact Nat.mod_mod ..
  case bcast => exact State.vector_moves h rfl fun _ => (laneInt_eq_laneOf ..).trans (laneOf_emod ..)
  case movi => exact State.vector_moves h rfl fun _ => rfl
  case movsReg => exact State.vector_uncounted h rfl (congrArg (s.regs.setS sd) (extend_setWidth ..))
  case movsImm => exact State.vector_uncounted h rfl (congrArg (s.regs.setS sd) (extend_setWidth ..))

end Sys2Proof.Machine

/-! SUPPORT. Proofs: a cut instruction that faults while its context holds a reservation (R65, R70), and what
`Obligations.TrapAndReturn` and `Obligations.SystemRegisters` say of such a fault. -/

namespace Sys2Proof.Machine

/-- A fault taken into a handler leaves the reservation that the context holds (R65, R332). -/
theorem Pkg.takeFault_excl {p : Pkg} {x : CtxRef} (hactive : (p.ctx x).regs.trapcause.getLsbD 31 = false)
    (hvec : (p.ctx x).regs.trapvec ≠ 0) (cause : Nat) (addr : Word) (info : Nat) :
    ((p.takeFault x cause addr info).ctx x).excl = (p.ctx x).excl := by
  simp only [Pkg.takeFault, hactive, hvec, decide_false, Bool.or_self, Bool.false_eq_true, ↓reduceIte, Pkg.ctx_modCtx_same,
    Ctx.endStepBy]

/-- The same of a fault with nothing to commit before it (R74). -/
theorem Pkg.fault_excl {p : Pkg} {x : CtxRef} (hidle : (p.ctx x).idle = true) (hactive : (p.ctx x).regs.trapcause.getLsbD 31 = false)
    (hvec : (p.ctx x).regs.trapvec ≠ 0) (cause : Nat) (addr : Word) (info : Nat) :
    ((p.fault x cause addr info).ctx x).excl = (p.ctx x).excl := by
  rw [Pkg.fault, if_pos hidle, Pkg.takeFault_excl hactive hvec]

/-- A cut instruction whose body faults is not as `State.faults` has it where its context holds a reservation and has a handler
to go to: the reservation has lapsed at the cut, before the fault (R65, R70). -/
theorem State.not_faults_of_excl {s : State} {i : Instr} {cause addr info : Nat}
    (hexec : exec i s = .next { s with pkg :=
      ((s.pkg.modCtx s.pkg.cur Ctx.enterCut).settle s.pkg.cur (.fault cause addr info)).seal })
    (hidle : s.ctx.idle = true) (hactive : s.regs.trapcause.getLsbD 31 = false) (hvec : s.regs.trapvec ≠ 0)
    (hexcl : s.ctx.excl ≠ none) : ¬ s.faults i cause addr info := by
  intro hclaim
  unfold State.faults at hclaim
  rw [hexec] at hclaim
  injection hclaim with hstate
  have hcut : (((s.pkg.modCtx s.pkg.cur Ctx.enterCut).settle s.pkg.cur (.fault cause addr info)).ctx s.pkg.cur).excl = none := by
    rw [Pkg.settle, Pkg.fault_excl] <;> rw [Pkg.ctx_modCtx_same]
    · rfl
    · exact hidle
    · exact hactive
    · exact hvec
  have hboth := congrArg (fun u : State => (u.pkg.ctx s.pkg.cur).excl) hstate
  simp only [Pkg.seal_ctx] at hboth
  rw [hcut, Pkg.fault_excl hidle hactive hvec] at hboth
  exact hexcl hboth.symm

/-- ERET outside a handler: a fault, its cut begun (R334). -/
theorem eret_outside_handler {s : State} {g : Guard} (h : s.readyCut g [] []) (hactive : s.regs.trapcause.getLsbD 31 = false) :
    exec (.eret g) s = .next { s with pkg :=
      ((s.pkg.modCtx s.pkg.cur Ctx.enterCut).settle s.pkg.cur (.fault 8 0 0x2F)).seal } := by
  refine State.issue_cut_stops h rfl rfl rfl rfl ?_
  simp only [M.run_bind, M.run_r, hactive, Bool.not_false, ↓reduceIte, M.invocation, M.fault, M.run_throw]

/-- SYSWR of a profile period that PROFK does not take: a fault, its cut begun (R328, Table 12.2). -/
theorem syswr_profk_out_of_range {s : State} {g : Guard} {a : SReg} (h : s.readyCut g [a.toNat] [])
    (hpriv : 1 ≤ s.pkg.privOf s.pkg.cur.core)
    (hrange : (s.regs.sr a).toNat > 30 ∨ (1 ≤ (s.regs.sr a).toNat ∧ (s.regs.sr a).toNat ≤ 7)) :
    exec (.syswr g .profk a) s = .next { s with pkg :=
      ((s.pkg.modCtx s.pkg.cur Ctx.enterCut).settle s.pkg.cur (.fault 8 0 0x28)).seal } := by
  refine State.issue_cut_stops h (decide_eq_true hpriv) rfl rfl rfl ?_
  simp only [M.run_bind, M.run_r, M.syswrite, hrange, ↓reduceIte, M.invocation, M.fault, M.run_throw]

/-- Space 0's launched control context, outside a handler but with one set, S1 holding 1, its running chunk exclusive (R65). -/
def exclusiveControl : State :=
  let s := State.reset.withFetchWord 96 0
  { s with pkg := s.pkg.modCtx s.pkg.cur fun c => { c with regs := { c.regs.setSn 1 1 with trapvec := 64 }, excl := some .cluster } }

theorem exclusiveControl_outside_handler : exclusiveControl.regs.trapcause.getLsbD 31 = false := by decide +kernel

theorem exclusiveControl_not_faults {i : Instr} {cause addr info : Nat}
    (hexec : exec i exclusiveControl = .next { exclusiveControl with pkg :=
      ((exclusiveControl.pkg.modCtx exclusiveControl.pkg.cur Ctx.enterCut).settle exclusiveControl.pkg.cur
        (.fault cause addr info)).seal }) : ¬ exclusiveControl.faults i cause addr info := by
  have hidle : exclusiveControl.ctx.idle = true := by decide +kernel
  have hvec : exclusiveControl.regs.trapvec ≠ 0 := by decide +kernel
  have hexcl : exclusiveControl.ctx.excl ≠ none := by decide +kernel
  exact State.not_faults_of_excl hexec hidle exclusiveControl_outside_handler hvec hexcl

/-- Refutes O13: ERET outside a handler faults, but not as its package was: an exclusive chunk's reservation has lapsed when the
fault is taken, for ERET has begun its cut (R70), where `State.faults` has it held in the handler. -/
theorem not_trapAndReturn : ¬ Obligations.TrapAndReturn := by
  unfold Obligations.TrapAndReturn
  intro h
  have hready : exclusiveControl.readyCut ⟨false, 0⟩ [] [] := by unfold State.readyCut; decide +kernel
  obtain ⟨hcut, -⟩ := h exclusiveControl ⟨false, 0⟩ 0
  obtain ⟨-, -, hfaults⟩ := hcut hready
  exact exclusiveControl_not_faults (eret_outside_handler hready exclusiveControl_outside_handler)
    (hfaults exclusiveControl_outside_handler)

/-- Refutes O15: SYSWR of a profile period below 8 faults, but not as its package was: an exclusive chunk's reservation has lapsed
when the fault is taken, for a SYSWR of PROFK has begun its cut (R70), where `State.faults` has it held in the handler. -/
theorem not_systemRegisters : ¬ Obligations.SystemRegisters := by
  unfold Obligations.SystemRegisters
  intro h
  have hready : exclusiveControl.readyCut ⟨false, 0⟩ [(1 : SReg).toNat] [] := by unfold State.readyCut; decide +kernel
  have hpriv : 1 ≤ exclusiveControl.pkg.privOf exclusiveControl.pkg.cur.core := by decide +kernel
  have hperiod : 1 ≤ (exclusiveControl.regs.sr 1).toNat ∧ (exclusiveControl.regs.sr 1).toNat ≤ 7 := by decide +kernel
  obtain ⟨-, -, hprofk⟩ := h exclusiveControl ⟨false, 0⟩ 0 1
  obtain ⟨-, hfaults⟩ := hprofk hready hpriv
  exact exclusiveControl_not_faults (syswr_profk_out_of_range hready hpriv (.inr hperiod)) (hfaults (.inl hperiod))

end Sys2Proof.Machine

/-! SUPPORT. Proofs: the obligations whose cut instructions fault or wait while their context holds a reservation (R65, R70). -/

namespace Sys2Proof.Machine

/-- A cut instruction that stops at issue, in a check or in its body: its context has entered the cut before `settle` acts (R70). -/
theorem State.issue_cut_error {s : State} {i : Ins} {e : Stop_} (hm : s.ctx.mayIssue = true) (hg : guardHolds i.guard s.regs = true)
    (hi : s.ctx.idle = true) (hc : i.cut = true)
    (hr : s.pkg.replayAllows (s.pkg.spaceOf s.pkg.cur.core) 2 s.pkg.cur.gcid s.ctx.chunkseq.toNat 0 = true)
    (hs : i.stopped = fun _ p => p) (he : (i.run s.pkg.cur).run s.pkg = .error e) :
    s.issue i = .next { s with pkg := ((s.pkg.modCtx s.pkg.cur Ctx.enterCut).settle s.pkg.cur e).seal } := by
  have hm : (s.pkg.ctx s.pkg.cur).mayIssue = true := hm
  have hg : guardHolds i.guard (s.pkg.ctx s.pkg.cur).regs = true := hg
  have hi : (s.pkg.ctx s.pkg.cur).idle = true := hi
  have hr : s.pkg.replayAllows (s.pkg.spaceOf s.pkg.cur.core) 2 s.pkg.cur.gcid (s.pkg.ctx s.pkg.cur).chunkseq.toNat 0 = true := hr
  rw [State.issue_eq]
  congr 3
  simp only [Pkg.issue, hm, hc, hg, he, Ctx.count_of_idle hi, hi, hr, hs, Bool.not_true, Bool.and_false, bne_self_eq_false,
    Bool.false_eq_true, ↓reduceIte]

/-- Below its privilege, or without its debug right, an instruction that is otherwise ready stops in the checks of issue (R325). -/
theorem M.checks_denied {p : Pkg} {i : Ins} (h : p.ready i.guard i.srcs i.dsts i.vsrcs i.vdsts none = true) (hp : i.priv p = false) :
    (M.checks p.cur i).run p = .error (.fault 8 0 0x29) := by
  obtain ⟨-, -, hpend, hallot, howes, -⟩ := Pkg.ready_iff.mp h
  have hallot : ((i.vsrcs ++ i.vdsts).any fun v => decide (p.allotment p.cur.core ≤ v)) = false := by
    simpa [or_imp, forall_and] using hallot
  have hsrcs := M.sources_ok (p := p) (x := p.cur) (srcs := i.srcs) fun r hr => hpend r (List.mem_append_left _ hr)
  simp only [M.checks, M.run_bind, M.run_get, hallot, hsrcs, howes, hp, Bool.false_eq_true, Bool.not_false, ↓reduceIte, M.run_throw]

/-- `exclusiveControl` is ready for a cut instruction under the guard that always holds where it is ready for its registers. -/
theorem exclusiveControl_cut_not_faults {i : Instr} {n : Ins} {cause addr info : Nat}
    (hexec : exec i exclusiveControl = exclusiveControl.issue n) (hcut : n.cut = true) (hstopped : n.stopped = fun _ p => p)
    (hguard : guardHolds n.guard exclusiveControl.regs = true)
    (hrun : (n.run exclusiveControl.pkg.cur).run exclusiveControl.pkg = .error (.fault cause addr info)) :
    ¬ exclusiveControl.faults i cause addr info := by
  refine exclusiveControl_not_faults (hexec.trans (State.issue_cut_error ?_ hguard ?_ hcut ?_ hstopped hrun)) <;> decide +kernel

/-- The run of an instruction that passes the checks of issue and stops in its body. -/
theorem Ins.run_error {p : Pkg} {i : Ins} {e : Stop_} (h : p.ready i.guard i.srcs i.dsts i.vsrcs i.vdsts i.engine = true)
    (hp : i.priv p = true) (hb : i.body.run p = .error e) : (i.run p.cur).run p = .error e := by
  simp only [Ins.run, M.run_bind, M.checks_ok h hp, hb]

/-- The run of an instruction that its privilege or debug right denies. -/
theorem Ins.run_denied {p : Pkg} {i : Ins} (h : p.ready i.guard i.srcs i.dsts i.vsrcs i.vdsts none = true) (hp : i.priv p = false) :
    (i.run p.cur).run p = .error (.fault 8 0 0x29) := by
  simp only [Ins.run, M.run_bind, M.checks_denied h hp]

/-- What `Pkg.readyCut` says beside `Pkg.ready`. -/
theorem Pkg.readyCut_ready {p : Pkg} {g : Guard} {srcs dsts vsrcs vdsts : List Nat} (h : p.readyCut g srcs dsts vsrcs vdsts = true) :
    p.ready g srcs dsts vsrcs vdsts none = true := by
  simp only [Pkg.readyCut, Pkg.readyEarly, Bool.and_eq_true] at h
  obtain ⟨⟨hready, -⟩, -⟩ := h
  exact hready

/-- Refutes O14: FUSERD below privilege 2 faults, but not as its package was: an exclusive chunk's reservation has lapsed when the
fault is taken, for the check of privilege comes after the cut has begun (R70, Table 7.11). -/
theorem not_privilegeFaults : ¬ Obligations.PrivilegeFaults := by
  unfold Obligations.PrivilegeFaults
  intro h
  obtain ⟨-, -, -, hfuserd, -⟩ := h exclusiveControl ⟨false, 0⟩ 0 0 0 0
  have hready : exclusiveControl.readyCut ⟨false, 0⟩ [(0 : SReg).toNat] [(0 : SReg).toNat] := by
    unfold State.readyCut; decide +kernel
  have hlow : exclusiveControl.pkg.privOf exclusiveControl.pkg.cur.core < 2 := by decide +kernel
  obtain ⟨-, hfaults, -⟩ := hfuserd hready
  refine exclusiveControl_cut_not_faults rfl rfl rfl ?_ ?_ (hfaults hlow)
  · decide +kernel
  · exact Ins.run_denied (Pkg.readyCut_ready hready) (decide_eq_false (Nat.not_le.mpr hlow))

/-- Refutes O16: FMTSET of a descriptor that is not aligned faults, but not as its package was: an exclusive chunk's reservation has
lapsed when the fault is taken (R70). -/
theorem not_purgeWindowsCounters : ¬ Obligations.PurgeWindowsCounters := by
  unfold Obligations.PurgeWindowsCounters
  intro h
  obtain ⟨-, -, hfmtset, -⟩ := h exclusiveControl ⟨false, 0⟩ 0 1 1 0
  have hready : exclusiveControl.readyCut ⟨false, 0⟩ [(1 : SReg).toNat, (1 : SReg).toNat] [(0 : SReg).toNat] := by
    unfold State.readyCut; decide +kernel
  have hpriv : 1 ≤ exclusiveControl.pkg.privOf exclusiveControl.pkg.cur.core := by decide +kernel
  have hva : (exclusiveControl.regs.sr 1).toNat < 2 ^ 56 := by decide +kernel
  have hroute : (exclusiveControl.pkg.route (exclusiveControl.pkg.spaceOf exclusiveControl.pkg.cur.core)
    (exclusiveControl.regs.sr 1).toNat rRD).isSome = true := by decide +kernel
  have halign : (exclusiveControl.regs.sr 1).toNat % 32 ≠ 0 := by decide +kernel
  obtain ⟨hfaults, -⟩ := hfmtset hready hpriv hva hroute
  refine exclusiveControl_cut_not_faults rfl rfl rfl ?_ (Ins.run_error (Pkg.readyCut_ready hready) ?_ ?_) (hfaults halign)
  · decide +kernel
  · exact decide_eq_true hpriv
  · simp only [M.run_bind, M.run_me, M.run_r, M.checkEl_bad (s := exclusiveControl) (.inr (.inl ⟨hva, halign, rfl⟩))]
    rfl

/-- Refutes O17: ATTEST of a request that is not aligned faults, but not as its package was: an exclusive chunk's reservation has
lapsed when the fault is taken (R70). -/
theorem not_attestKeysFuses : ¬ Obligations.AttestKeysFuses := by
  unfold Obligations.AttestKeysFuses
  intro h
  obtain ⟨hattest, -⟩ := h exclusiveControl ⟨false, 0⟩ 0 1 1
  have hready : exclusiveControl.readyCut ⟨false, 0⟩ [(1 : SReg).toNat, (1 : SReg).toNat] [(0 : SReg).toNat] := by
    unfold State.readyCut; decide +kernel
  have halign : (exclusiveControl.regs.sr 1).toNat % 64 ≠ 0 := by decide +kernel
  obtain ⟨hfaults, -⟩ := hattest hready
  refine exclusiveControl_cut_not_faults rfl rfl rfl ?_ (Ins.run_error (Pkg.readyCut_ready hready) rfl ?_) (hfaults halign)
  · decide +kernel
  · simp only [M.run_bind, M.run_me, M.run_r, halign, ne_eq, not_false_eq_true, ↓reduceIte, M.run_throw]

/-- Refutes O18: DBGWP of a space that is not here faults, but not as its package was: an exclusive chunk's reservation has lapsed
when the fault is taken (R70). -/
theorem not_debugInstructions : ¬ Obligations.DebugInstructions := by
  unfold Obligations.DebugInstructions
  intro h
  obtain ⟨hdbgwp, -⟩ := h exclusiveControl ⟨false, 0⟩ 0 0 0 1
  have hready : exclusiveControl.readyCut ⟨false, 0⟩ ((0 : SReg).toNat :: (0 : SReg).toNat :: accessSrcs 1) [(0 : SReg).toNat] := by
    unfold State.readyCut; decide +kernel
  have hright : exclusiveControl.pkg.mayDebug exclusiveControl.fuses exclusiveControl.pkg.cur.core
    (exclusiveControl.pkg.namedSpace 1) 0 = true := by decide +kernel
  have hspace : exclusiveControl.pkg.space? (exclusiveControl.pkg.namedSpace 1) = none := by decide +kernel
  obtain ⟨hfaults, -⟩ := hdbgwp hready hright
  refine exclusiveControl_cut_not_faults rfl rfl rfl ?_ (Ins.run_error (Pkg.readyCut_ready hready) hright ?_) (hfaults (.inl hspace))
  · decide +kernel
  · simp only [M.run_bind, M.run_get, M.run_r, hspace, Option.isNone_none, true_or, ↓reduceIte, M.invocation, M.fault, M.run_throw]

/-- Refutes O24: PANR of an operand address that is no line's faults, but not as its package was: an exclusive chunk's reservation has
lapsed when the fault is taken (R70). -/
theorem not_returningPans : ¬ Obligations.ReturningPans := by
  unfold Obligations.ReturningPans
  intro h
  obtain ⟨hpanr, -⟩ := h exclusiveControl ⟨false, 0⟩ 0 0 0 1 0 0 0 0 0 0 0
  have hready : exclusiveControl.pkg.readyEarly ⟨false, 0⟩ ((1 : SReg).toNat :: regRange (0 : SReg).toNat (2 ^ (0 : BitVec 2).toNat))
    [(0 : SReg).toNat, (0 : SReg).toNat] [] [] = true := by decide +kernel
  have hcut : exclusiveControl.pkg.readyCut ⟨false, 0⟩ ((1 : SReg).toNat :: regRange (0 : SReg).toNat (2 ^ (0 : BitVec 2).toNat))
    [(0 : SReg).toNat, (0 : SReg).toNat] [] [] = true := by decide +kernel
  have hbad : exclusiveControl.elBad rPAN (exclusiveControl.regs.sr 1).toNat 64 6 := .inr (.inl (by decide +kernel))
  obtain ⟨hfaults, -⟩ := hpanr hready
  refine exclusiveControl_cut_not_faults rfl rfl rfl ?_ (Ins.run_error (Pkg.readyCut_ready hcut) rfl ?_) (hfaults 6 hbad)
  · decide +kernel
  · simp only [M.panScalar, M.checkLine, M.run_bind, M.run_me, M.run_r, M.checkEl_bad hbad]
    rfl

/-- Refutes O27: BARARR of a core that is no member faults, but not as its package was: an exclusive chunk's reservation has lapsed
when the fault is taken (R70). -/
theorem not_fencesAndBarriers : ¬ Obligations.FencesAndBarriers := by
  unfold Obligations.FencesAndBarriers
  intro ⟨_, h⟩
  obtain ⟨hbararr, -⟩ := h exclusiveControl ⟨false, 0⟩ 0 0 0 0
  have hready : exclusiveControl.readyCut ⟨false, 0⟩ [] [(0 : SReg).toNat] := by unfold State.readyCut; decide +kernel
  have hbars : exclusiveControl.pkg.bars = [] := by decide +kernel
  obtain ⟨hfaults, -⟩ := hbararr hready
  have hmember : ¬ ∃ b, Tab.find? exclusiveControl.pkg.bars (0 : BitVec 4).toNat = some b ∧
      exclusiveControl.pkg.cur.core ∈ b.members ∧ exclusiveControl.pkg.gangOf exclusiveControl.pkg.cur.core = some b.gang := by
    simp [hbars]
  refine exclusiveControl_cut_not_faults rfl rfl rfl ?_ (Ins.run_error (Pkg.readyCut_ready hready) rfl ?_) (hfaults hmember)
  · decide +kernel
  · simp only [M.bar, M.run_bind, M.run_me, M.run_get, hbars, Tab.find?_nil, M.run_throw]

/-- A wait of a cut instruction is not as `State.waits` has it where its context is not stepped and was in no cut: the wait finds it in
the cut that the instruction has begun (R70). -/
theorem State.not_waits_of_cut {s : State} {i : Instr} {k : WaitKind}
    (hexec : exec i s = .next { s with pkg := ((s.pkg.modCtx s.pkg.cur Ctx.enterCut).settle s.pkg.cur (.wait k)).seal })
    (hstep : s.ctx.stepping = none) (houtside : s.ctx.inCut = false) : ¬ s.waits i k := by
  intro hclaim
  unfold State.waits at hclaim
  rw [hexec] at hclaim
  injection hclaim with hstate
  have hstep : (s.pkg.ctx s.pkg.cur).stepping = none := hstep
  have houtside : (s.pkg.ctx s.pkg.cur).inCut = false := houtside
  have hin := congrArg (fun u : State => (u.pkg.ctx s.pkg.cur).inCut) hstate
  simp only [Pkg.seal_ctx] at hin
  rw [settle_wait_inCut (by simpa [Ctx.enterCut] using hstep), settle_wait_inCut hstep, houtside] at hin
  simp [Ctx.enterCut] at hin

/-- Space 0's launched control context, S1 holding the address of a line of zeros that stands at its home. -/
def awaitingZero : State := Tests.reg 1 (2 ^ 16) (Tests.lineAt 0 (2 ^ 16) 0 Tests.live)

theorem awaitingZero_reads : ∃ r q, (M.waitWord ⟨1, 0, 0, 0⟩ 8).run awaitingZero.pkg = .ok (r, q) ∧
    decide (r.2 = 0 ∧ q.replayOf (q.spaceOf awaitingZero.pkg.cur.core) = none ∧ q.cur = awaitingZero.pkg.cur) = true :=
  (Tests.gives_iff _ _ _).mp (by decide +kernel)

/-- A body stops, for the reason `e`. -/
def stopsWith {α : Type} (m : M α) (p : Pkg) (e : Stop_) : Bool :=
  match m.run p with
  | .error e' => decide (e' = e)
  | .ok _ => false

theorem stopsWith_iff {α : Type} (m : M α) (p : Pkg) (e : Stop_) : stopsWith m p e = true ↔ m.run p = .error e := by
  unfold stopsWith
  cases m.run p with
  | ok r => simp
  | error e' => simp

theorem awaitingZero_waits : (waitneIns ⟨false, 0⟩ true 0 ⟨1, 0, 0, 0⟩ 0 false).body.run awaitingZero.pkg = .error (.wait .waitne) :=
  (stopsWith_iff _ _ _).mp (by decide +kernel)

/-- Refutes O28: a WAITNE whose word is the awaited one waits, but not as its package was: the wait finds the context in the cut that
WAITNE has begun (R70), where `State.waits` has it outside one. -/
theorem not_memoryWaits : ¬ Obligations.MemoryWaits := by
  unfold Obligations.MemoryWaits
  intro h
  obtain ⟨⟨va, v⟩, q, hword, hafter⟩ := awaitingZero_reads
  obtain ⟨rfl, hreplay, hcur⟩ := of_decide_eq_true hafter
  have hlive : awaitingZero.pkg.replayOf (awaitingZero.pkg.spaceOf awaitingZero.pkg.cur.core) = none := by decide +kernel
  have hready : awaitingZero.readyCut ⟨false, 0⟩ ((0 : SReg).toNat :: memSrcs ⟨1, 0, 0, 0⟩) [(0 : SReg).toNat] := by
    unfold State.readyCut; decide +kernel
  obtain ⟨-, hwaitne⟩ := h awaitingZero ⟨false, 0⟩ true 0 0 ⟨1, 0, 0, 0⟩ va 0 q hlive hreplay hcur hword (by decide)
  obtain ⟨-, hwaits⟩ := hwaitne hready
  refine State.not_waits_of_cut ?_ ?_ ?_ (hwaits (by decide +kernel))
  · exact State.issue_cut_stops hready rfl rfl rfl rfl awaitingZero_waits
  · decide +kernel
  · decide +kernel

end Sys2Proof.Machine

/-! SUPPORT. Proofs: what a step does (Table 7.11), the choices that the machine makes of its own (log entry 12), the state after reset
and the spec's example words. -/

namespace Sys2Proof.Machine

/-- Settles O55: the decoder runs on each word. -/
theorem decodingWords : Obligations.DecodingWords := by
  unfold Obligations.DecodingWords
  decide +kernel

/-- Settles O60: the tables of the reset state are empty but for space 0, and an empty table reads as its default. -/
theorem resetState : Obligations.ResetState := by
  unfold Obligations.ResetState
  refine ⟨by unfold Sealed; decide, fun _ => rfl, rfl, rfl, fun _ => rfl, by decide, fun n => ?spaces, fun _ => ⟨rfl, rfl, rfl⟩,
    fun _ => ⟨rfl, rfl⟩, rfl, rfl, rfl⟩
  case spaces =>
    by_cases hn : n = 0
    · subst hn; rfl
    · simp only [State.reset, Pkg.reset, Pkg.space?, Tab.find?, hn, Ne.symm hn, ↓reduceIte]

/-! ### Every step answers -/

/-- Every instruction and event makes something of the package, which the end of the step seals; it changes nothing else. -/
theorem exec_seals (i : Instr) (s : State) : ∃ q : Pkg, exec i s = .next { s with pkg := q.seal } := by
  cases i <;> exact ⟨_, rfl⟩

/-- A choice that names no instruction word as another agent's event. -/
def Choice.sound : Choice → Prop
  | .event i => i.guard? = none
  | _ => True

/-- The choices and events that the machine makes of its own are sound. -/
theorem Pkg.timeoutOf_guard {p : Pkg} {x : CtxRef} {k : WaitKind} {i : Instr} (h : p.timeoutOf x k = some i) : i.guard? = none := by
  cases k <;> simp only [Pkg.timeoutOf, reduceCtorEq, Option.ite_none_right_eq_some, Option.some.injEq] at h <;> obtain ⟨-, rfl⟩ := h <;> rfl

theorem opEvent_guard {p : Pkg} {o : Op} {i : Instr} (h : opEvent p o = some i) : i.guard? = none := by
  unfold opEvent at h
  repeat' split at h
  all_goals cases h
  all_goals rfl

theorem firstEvent_sound {α : Type} {f : α → Option Instr} (hf : ∀ a i, f a = some i → i.guard? = none) {l : List α} {c : Choice}
    (h : firstEvent f l = some c) : c.sound := by
  induction l with
  | nil => cases h
  | cons a t ih =>
    unfold firstEvent at h
    split at h
    next i heq =>
      cases h
      exact hf a i heq
    next => exact ih h

theorem firstChoice_sound {α : Type} {f : α → Option Choice} (hf : ∀ a c, f a = some c → c.sound) {l : List α} {c : Choice}
    (h : firstChoice f l = some c) : c.sound := by
  induction l with
  | nil => cases h
  | cons a t ih =>
    unfold firstChoice at h
    split at h
    next c' heq =>
      cases h
      exact hf a _ heq
    next => exact ih h

theorem Core.engineEvent_guard {k : Core} {core : Nat} {slot : Option Nat} {i : Instr} (h : k.engineEvent core slot = some i) :
    i.guard? = none := by
  unfold Core.engineEvent at h
  dsimp only at h
  repeat' split at h
  all_goals cases h
  all_goals rfl

theorem Pkg.commitEvent_guard {p : Pkg} {x : CtxRef} {i : Instr} (h : p.commitEvent x = some i) : i.guard? = none := by
  unfold Pkg.commitEvent at h
  dsimp only at h
  repeat' split at h
  all_goals cases h
  all_goals first | rfl | exact Core.engineEvent_guard ‹_›

theorem Pkg.forward_sound {p : Pkg} {x : CtxRef} {c : Choice} (h : p.forward x = some c) : c.sound := by
  unfold Pkg.forward at h
  dsimp only at h
  have hcommit : ∀ {i}, p.commitEvent x = some i → (Choice.event i).sound := Pkg.commitEvent_guard
  repeat' split at h
  · obtain ⟨i, hi, rfl⟩ := Option.map_eq_some_iff.mp h
    exact hcommit hi
  all_goals cases h
  · exact hcommit ‹_›
  · rfl
  · trivial

theorem Pkg.awaited_sound {p : Pkg} {x : CtxRef} {c : Choice} (h : p.awaited x = some c) : c.sound := by
  unfold Pkg.awaited at h
  dsimp only at h
  repeat' split at h
  all_goals cases h
  · rfl
  · exact Core.engineEvent_guard ‹_›
  · exact Pkg.timeoutOf_guard ‹_›

theorem Pkg.coreEvent_guard {p : Pkg} (c : Nat) (i : Instr) (h : p.coreEvent c = some i) : i.guard? = none := by
  unfold Pkg.coreEvent at h
  dsimp only at h
  repeat' split at h
  all_goals cases h
  all_goals rfl

theorem Pkg.queueEvent_guard {p : Pkg} (n : Nat) (i : Instr) (h : p.queueEvent n = some i) : i.guard? = none := by
  unfold Pkg.queueEvent at h
  dsimp only at h
  repeat' split at h
  all_goals cases h
  all_goals rfl

theorem barEvent_guard (e : Nat × Bar) (i : Instr) (h : barEvent e = some i) : i.guard? = none := by
  unfold barEvent at h
  split at h <;> cases h
  rfl

theorem Pkg.background_sound {p : Pkg} {c : Choice} (h : p.background = some c) : c.sound := by
  unfold Pkg.background at h
  repeat' split at h
  · cases h
    exact firstEvent_sound barEvent_guard ‹_›
  · cases h
    exact firstEvent_sound Pkg.coreEvent_guard ‹_›
  · exact firstEvent_sound Pkg.queueEvent_guard h

theorem Pkg.engineTakes_sound {p : Pkg} {c : Choice} (h : p.engineTakes = some c) : c.sound := by
  refine firstChoice_sound (fun e c hc => ?_) h
  repeat' split at hc
  all_goals cases hc
  all_goals trivial

theorem Pkg.messageEvent_sound (p : Pkg) (l : List Flight) : (p.messageEvent l).sound := by
  unfold Pkg.messageEvent
  dsimp only
  split
  · rename_i f _
    show Instr.guard? (ite (_ = true) (Instr.messageUndeliverable _) (Instr.messageDelivery _)) = none
    generalize (if (p.replayOf f.space).isSome then _ else _ : Bool) = late
    cases late <;> rfl
  · trivial

theorem Pkg.pending_sound (p : Pkg) (l : List CtxRef) : (p.pending l).sound := by
  have hwaits : (((if p.free / 4 % 2 = 0 then p.engineTakes else none).or (firstChoice p.awaited l)).getD (.tick 256)).sound := by
    cases hc : (if p.free / 4 % 2 = 0 then p.engineTakes else none).or (firstChoice p.awaited l) with
    | none => trivial
    | some c =>
      rcases Option.or_eq_some_iff.mp hc with h | ⟨-, h⟩
      · split at h
        · exact Pkg.engineTakes_sound h
        · cases h
      · exact firstChoice_sound (fun _ _ => Pkg.awaited_sound) h
  unfold Pkg.pending
  split
  · exact Pkg.messageEvent_sound _ _
  · exact firstEvent_sound (fun _ _ => opEvent_guard) ‹_›
  · split <;> trivial
  · exact hwaits

theorem Pkg.auto_sound (p : Pkg) : p.auto.sound := by
  unfold Pkg.auto
  dsimp only
  split
  · trivial
  · split
    · exact Pkg.background_sound ‹_›
    · exact Pkg.pending_sound _ _
    · exact firstChoice_sound (fun _ _ => Pkg.forward_sound) ‹_›
    · exact Pkg.background_sound ‹_›
    · exact Pkg.pending_sound _ _

/-- An event that the machine is to take and that is no instruction word's own: the agenda names it. -/
theorem Pkg.choose_event {p q : Pkg} {i : Instr} (h : p.choose = (.event i, q)) (hi : i.guard? ≠ none) : ∃ t, p.agenda = .event i :: t := by
  unfold Pkg.choose at h
  split at h
  next c t heq =>
    cases h
    exact ⟨t, heq⟩
  next =>
    injection h with hauto
    have hsound := p.auto_sound
    rw [hauto] at hsound
    exact absurd hsound hi

/-- Settles O58: every arm of `exec` seals some package, and of what a step does otherwise only a word named as an event stops it. -/
theorem nothingIsRefused : Obligations.NothingIsRefused := by
  unfold Obligations.NothingIsRefused
  have hexec (i : Instr) (s : State) : ∃ t, exec i s = .next t := (exec_seals i s).imp' _ fun _ => id
  refine ⟨hexec, fun s => ?_⟩
  unfold Steps
  by_cases hscrapped : s.fuses.lcs = 4
  · exact .inl ⟨_, by rw [step, if_pos hscrapped]; rfl⟩
  rcases hchoose : s.pkg.choose with ⟨c, q⟩
  cases c with
  | event i =>
    by_cases hi : i.guard? = none
    · obtain ⟨t, ht⟩ := hexec i { s with pkg := q }
      exact .inl ⟨t, by simp only [step, hscrapped, hchoose, hi, Option.isNone_none, ↓reduceIte, ht]⟩
    · obtain ⟨t, ht⟩ := Pkg.choose_event hchoose hi
      refine .inr ⟨?_, i, t, ht, hi⟩
      simp only [step, hscrapped, hchoose, Option.isNone_eq_false_iff.mpr (Option.isSome_iff_ne_none.mpr hi), Bool.false_eq_true, ↓reduceIte]
  | run k n =>
    cases hfetch : q.fetchFor ⟨k, n⟩ with
    | issue i r =>
      obtain ⟨t, ht⟩ := hexec i { s with pkg := r }
      exact .inl ⟨t, by simp only [step, hscrapped, hchoose, hfetch, ↓reduceIte, ht]⟩
    | stop r => exact .inl ⟨_, by simp only [step, hscrapped, hchoose, hfetch, ↓reduceIte]; rfl⟩
  | _ => exact .inl ⟨_, by simp only [step, hscrapped, hchoose, ↓reduceIte]; rfl⟩

/-! ### What each choice does -/

theorem Pkg.applyProfk_pt (p : Pkg) : p.applyProfk.pt = p.pt := by
  unfold Pkg.applyProfk
  dsimp only
  repeat' split
  all_goals rfl

theorem Pkg.profilePeriod_pt (p : Pkg) : p.profilePeriod.pt = p.pt := by
  unfold Pkg.profilePeriod
  dsimp only
  rw [Pkg.applyProfk_pt]
  split
  · unfold Pkg.closePeriod
    split <;> rfl
  · rfl

theorem lt_next_multiple (a : Nat) {n : Nat} (h : 0 < n) : a < (a / n + 1) * n := by
  have hrest := Nat.mod_lt a h
  have hsum := Nat.div_add_mod' a n
  rw [Nat.add_mul]
  omega

/-- The next tick at which profiling has something to do lies ahead. -/
theorem Pkg.pt_lt_profDue {p : Pkg} {t : Nat} (h : p.profDue = some t) : p.pt < t := by
  have hstride (k n : Nat) : 0 < profStride k n := Nat.two_pow_pos _
  unfold Pkg.profDue at h
  dsimp only at h
  split at h
  next a v hclose _ =>
    cases h
    split at hclose <;> cases hclose
    exact lt_min (lt_next_multiple _ (Nat.two_pow_pos _)) (lt_next_multiple _ (hstride _ _))
  next =>
    cases h
    exact lt_next_multiple _ (hstride _ _)
  next =>
    split at h <;> cases h
    exact lt_next_multiple _ (Nat.two_pow_pos _)

theorem Pkg.tick_pt (p : Pkg) (n : Nat) : p.pt ≤ (p.tick n).pt ∧ (p.tick n).pt ≤ p.pt + n := by
  unfold Pkg.tick
  dsimp only
  rw [Pkg.profilePeriod_pt]
  split
  next t hdue =>
    have := Pkg.pt_lt_profDue hdue
    rw [Pkg.profilePeriod_pt] at this
    omega
  next => omega

/-- With profiling off time passes, and nothing else. -/
theorem Pkg.tick_unprofiled {p : Pkg} {n : Nat} (hk : p.profk = 0) (hp : p.profPend = none) : p.tick n = { p with pt := p.pt + n } := by
  have hperiod : p.profilePeriod = p := by simp [Pkg.profilePeriod, Pkg.applyProfk, hk, hp]
  simp [Pkg.tick, hperiod, Pkg.profDue, hk, hp]

theorem waitingCmds_takeCmd (l : List QEntry) : ((takeCmd l).filter fun q => !q.taken).length = (l.filter fun q => !q.taken).length - 1 := by
  induction l with
  | nil => rfl
  | cons q t ih =>
    cases hq : q.taken <;> simp [takeCmd, hq, ih]

theorem waitingCmds_accept (l : List QEntry) : waitingCmds (l.take 1 ++ takeCmd l.tail) = waitingCmds l - 1 := by
  cases l with
  | nil => rfl
  | cons q t => exact waitingCmds_takeCmd t

/-- An engine that takes a command has one fewer that waits (R22). -/
theorem Core.commands_accept (k : Core) (m : Bool) :
    (k.accept m).commands (if m = true then .matrix else .vector) = k.commands (if m = true then .matrix else .vector) - 1 := by
  cases m <;> exact waitingCmds_accept _

theorem step_scrapped {s : State} (h : s.fuses.lcs = 4) : Steps s { s with pkg := s.pkg.seal } := by
  rw [Steps, step, if_pos h]
  rfl

/-- The first choice of the agenda is the step's. -/
theorem Pkg.choose_agenda {p : Pkg} {c : Choice} {t : List Choice} (h : p.agenda = c :: t) : p.choose = (c, { p with agenda := t }) := by
  unfold Pkg.choose
  rw [h]

theorem Pkg.choose_auto {p : Pkg} (h : p.agenda = []) : p.choose = (p.auto, p) := by
  unfold Pkg.choose
  rw [h]

/-- What a fetch gives, by what its line's fetch and the decoder give. -/
theorem M.fetch_decodes {p q : Pkg} {x : CtxRef} {pc : Word} {l : Line} {i : Instr} (hpc : (p.ctx x).regs.pc = pc)
    (hline : (M.fetchLine x pc).run p = .ok (l, q)) (hdecode : decode (slotOfPc pc) (slotWord l (slotOfPc pc)) = .ok i) :
    (M.fetch x).run p = .ok (i, q) := by
  simp only [M.fetch, M.ctx, M.run_bind, M.run_get, M.run_pure, hpc, hline, hdecode]

theorem M.fetch_illegal {p q : Pkg} {x : CtxRef} {pc : Word} {l : Line} {e : Illegal} (hpc : (p.ctx x).regs.pc = pc)
    (hline : (M.fetchLine x pc).run p = .ok (l, q)) (hdecode : decode (slotOfPc pc) (slotWord l (slotOfPc pc)) = .error e) :
    (M.fetch x).run p = .error (.fault 3 0 0) := by
  simp only [M.fetch, M.ctx, M.run_bind, M.run_get, M.run_pure, hpc, hline, hdecode, M.run_throw]

theorem M.fetch_stops {p : Pkg} {x : CtxRef} {pc : Word} {e : Stop_} (hpc : (p.ctx x).regs.pc = pc)
    (hline : (M.fetchLine x pc).run p = .error e) : (M.fetch x).run p = .error e := by
  simp only [M.fetch, M.ctx, M.run_bind, M.run_get, M.run_pure, hpc, hline]

/-- A step of a module that is not SCRAPPED depends on the package through its choice alone. -/
theorem step_congr {s s' : State} (hlcs : s.fuses.lcs ≠ 4) (hfuses : s'.fuses = s.fuses) (hprov : s'.prov = s.prov)
    (hchoose : s.pkg.choose = s'.pkg.choose) : step s = step s' := by
  simp only [step, hfuses, hlcs, hchoose, ↓reduceIte, State.run, hprov]

/-- What a context's turn does, its agenda's choice taken: it executes what is fetched, or stops as the fetch does. -/
theorem step_run {s : State} {c k : Nat} {t : List Choice} (hlcs : s.fuses.lcs ≠ 4) (hagenda : s.pkg.agenda = .run c k :: t) :
    let x : CtxRef := ⟨c, k⟩
    let p : Pkg := { s.pkg with agenda := t, cur := x, req := some c }
    step s = if (p.ctx x).mayIssue = true then
      match (M.fetch x).run p with
      | .ok (i, q) => exec i { s with pkg := q }
      | .error e => .next { s with pkg := ((p.discardBad x).settle x e).seal }
    else .next { s with pkg := p.seal } := by
  intro x p
  have hctx : ({ s.pkg with agenda := t, cur := x, req := some c } : Pkg) = p := rfl
  simp only [step, hlcs, Pkg.choose_agenda hagenda, ↓reduceIte, Pkg.fetchFor, State.run, x, hctx]
  cases (p.ctx ⟨c, k⟩).mayIssue
  · rfl
  · cases (M.fetch ⟨c, k⟩).run p <;> rfl

/-- Settles O57: the step takes the agenda's first choice, and each choice is one operation on the package. -/
theorem stepRuns : Obligations.StepRuns := by
  unfold Obligations.StepRuns
  refine fun s => ⟨step_scrapped, fun hlcs => ⟨fun c k t hagenda => ?run, fun i t hagenda hi => ?event, fun t q hagenda hduty => ?owed,
    fun n t hagenda => ?tick, fun n t hagenda hlo hhi => ?qshift, fun c m t hagenda => ?accept, fun u t hagenda => ?upset, fun hagenda => ?auto⟩,
    fun p n => ⟨Pkg.tick_unprofiled, Pkg.tick_pt p n⟩, Core.commands_accept⟩
  case run =>
    have hstep := step_run hlcs hagenda
    intro x p pc
    refine ⟨fun hmay => ⟨fun l q i hline hdecode => ?_, fun l q e hline hdecode => ?_, fun n a i hline => ?_⟩, fun hmay => ?_⟩
    · rw [hstep, if_pos hmay, M.fetch_decodes rfl hline hdecode]
    · rw [Steps, hstep, if_pos hmay, M.fetch_illegal rfl hline hdecode]
      rfl
    · rw [Steps, hstep, if_pos hmay, M.fetch_stops rfl hline]
      rfl
    · rw [Steps, hstep, if_neg (by rw [hmay]; decide)]
  case event => simp only [step, hlcs, Pkg.choose_agenda hagenda, hi, Option.isNone_none, ↓reduceIte]
  case owed => simp only [Steps, step, hlcs, Pkg.choose_agenda hagenda, hduty, Option.getD_some, ↓reduceIte, State.run]
  case tick => simp only [Steps, step, hlcs, Pkg.choose_agenda hagenda, ↓reduceIte, State.run]
  case qshift =>
    simp only [Steps, step, hlcs, Pkg.choose_agenda hagenda, ↓reduceIte, State.run, Pkg.setQshift, hlo, hhi, and_self]
  case accept => simp only [Steps, step, hlcs, Pkg.choose_agenda hagenda, ↓reduceIte, State.run]
  case upset => simp only [Steps, step, hlcs, Pkg.choose_agenda hagenda, ↓reduceIte, State.run]
  case auto =>
    have hsame : ({ s.pkg with agenda := [] } : Pkg) = s.pkg := by rw [← hagenda]
    have hlisted : Pkg.choose { s.pkg with agenda := [s.pkg.auto] } = (s.pkg.auto, s.pkg) := by
      rw [Pkg.choose_agenda rfl, hsame]
    exact step_congr hlcs rfl rfl ((Pkg.choose_auto hagenda).trans hlisted.symm)

end Sys2Proof.Machine

/-! SUPPORT. Proofs: the decoder and the encoder, row by row of the opcode map (spec/07_encoding.md). Each field's reader has
two lemmas: what a field it accepts is (`…_ok`), and what it reads from the field an instruction is given. -/
namespace Sys2Proof

theorem eq_ofNat_of_toNat_eq {n k : Nat} {x : BitVec n} (h : x.toNat = k) : x = BitVec.ofNat n k := by
  rw [← h, BitVec.ofNat_toNat, BitVec.setWidth_eq]

theorem Ty.ofCode_eq_some {c : BitVec 6} {t : Ty} : Ty.ofCode c = some t ↔ c = t.code := by
  constructor
  · intro h
    unfold Ty.ofCode at h
    split at h <;> cases h <;> exact eq_ofNat_of_toNat_eq ‹_›
  · rintro rfl
    cases t <;> rfl

theorem Cond.ofCode_eq_some {c : BitVec 6} {t : Cond} : Cond.ofCode c = some t ↔ c = t.code := by
  constructor
  · intro h
    unfold Cond.ofCode at h
    split at h <;> cases h <;> exact eq_ofNat_of_toNat_eq ‹_›
  · rintro rfl
    cases t <;> rfl

theorem RM.ofCode_eq_some {c : BitVec 3} {t : RM} : RM.ofCode c = some t ↔ c = t.code := by
  constructor
  · intro h
    unfold RM.ofCode at h
    split at h <;> cases h <;> exact eq_ofNat_of_toNat_eq ‹_›
  · rintro rfl
    cases t <;> rfl

theorem Hint.ofCode_eq_some {c : BitVec 4} {t : Hint} : Hint.ofCode c = some t ↔ c = t.code := by
  constructor
  · intro h
    unfold Hint.ofCode at h
    split at h <;> cases h <;> exact eq_ofNat_of_toNat_eq ‹_›
  · rintro rfl
    cases t <;> rfl

theorem VW.ofCode_eq_some {c : BitVec 6} {t : VW} : VW.ofCode c = some t ↔ c = t.code := by
  constructor
  · intro h
    unfold VW.ofCode at h
    split at h <;> cases h <;> exact eq_ofNat_of_toNat_eq ‹_›
  · rintro rfl
    cases t <;> rfl

theorem ScanOp.ofCode_eq_some {c : BitVec 2} {t : ScanOp} : ScanOp.ofCode c = some t ↔ c = t.code := by
  constructor
  · intro h
    unfold ScanOp.ofCode at h
    split at h <;> cases h <;> exact eq_ofNat_of_toNat_eq ‹_›
  · rintro rfl
    cases t <;> rfl

theorem MxKind.ofCode_eq_some {c : BitVec 4} {t : MxKind} : MxKind.ofCode c = some t ↔ c = t.code := by
  constructor
  · intro h
    unfold MxKind.ofCode at h
    split at h <;> cases h <;> exact eq_ofNat_of_toNat_eq ‹_›
  · rintro rfl
    cases t <;> rfl

theorem SysReg.ofCode_eq_some {c : BitVec 8} {t : SysReg} : SysReg.ofCode c = some t ↔ c = t.code := by
  constructor
  · intro h
    unfold SysReg.ofCode at h
    split at h <;> cases h <;> exact eq_ofNat_of_toNat_eq ‹_›
  · rintro rfl
    cases t <;> rfl

theorem wideOfCode_eq_some {c : BitVec 6} {w : Bool} : wideOfCode c = some w ↔ c = wideCode w := by
  constructor
  · intro h
    unfold wideOfCode at h
    split at h <;> cases h <;> exact eq_ofNat_of_toNat_eq ‹_›
  · rintro rfl
    cases w <;> rfl

theorem need_ok {b : Bool} {e : Illegal} {k : Dec} {i : Instr} : need b e k = .ok i ↔ b = true ∧ k = .ok i := by
  cases b <;> simp [need]

theorem setWidth_setWidth_of_le {n m : Nat} (h : n ≤ m) (y : BitVec n) : (y.setWidth m).setWidth n = y := by
  rw [BitVec.setWidth_setWidth_of_le _ h, BitVec.setWidth_eq]

theorem eq_setWidth_of_lt {n m : Nat} {x : BitVec m} (h : x.toNat < 2 ^ n) : x = (x.setWidth n).setWidth m := by
  apply BitVec.eq_of_toNat_eq
  rw [BitVec.toNat_setWidth, BitVec.toNat_setWidth, Nat.mod_eq_of_lt h, Nat.mod_eq_of_lt x.isLt]

theorem toNat_setWidth_lt {n m : Nat} (y : BitVec n) : (y.setWidth m).toNat < 2 ^ n := by
  rw [BitVec.toNat_setWidth]
  exact lt_of_le_of_lt (Nat.mod_le _ _) y.isLt

theorem narrow_ok {n m : Nat} (hn : n ≤ m) {x : BitVec m} {k : BitVec n → Dec} {e : Illegal} {i : Instr} :
    (if x.toNat < 2 ^ n then k (x.setWidth n) else .error e) = .ok i ↔ ∃ y : BitVec n, x = y.setWidth m ∧ k y = .ok i := by
  constructor
  · intro h
    split at h
    · exact ⟨_, eq_setWidth_of_lt ‹_›, h⟩
    · cases h
  · rintro ⟨y, rfl, h⟩
    rw [if_pos (toNat_setWidth_lt y), setWidth_setWidth_of_le hn, h]

theorem reg_ok {n : Nat} (hn : n ≤ 6) {x : BitVec 6} {k : BitVec n → Dec} {i : Instr} :
    reg n x k = .ok i ↔ ∃ y : BitVec n, x = y.setWidth 6 ∧ k y = .ok i := narrow_ok hn

theorem low_ok {n : Nat} (hn : n ≤ 48) {x : BitVec 48} {k : BitVec n → Dec} {i : Instr} :
    low n x k = .ok i ↔ ∃ y : BitVec n, x = y.setWidth 48 ∧ k y = .ok i := narrow_ok hn

theorem sub_ok {n : Nat} (hn : n ≤ 32) {x : BitVec 32} {k : BitVec n → Dec} {i : Instr} :
    sub n x k = .ok i ↔ ∃ y : BitVec n, x = y.setWidth 32 ∧ k y = .ok i := narrow_ok hn

theorem code_ok {α : Type} {o : Option α} {k : α → Dec} {i : Instr} : code o k = .ok i ↔ ∃ a, o = some a ∧ k a = .ok i := by
  cases o <;> simp [code]

theorem toNat_append_add {n m : Nat} (x : BitVec n) (y : BitVec m) : (x ++ y).toNat = x.toNat * 2 ^ m + y.toNat := by
  rw [BitVec.toNat_append, ← Nat.shiftLeft_add_eq_or_of_lt y.isLt, Nat.shiftLeft_eq]

theorem toNat_extract {n : Nat} (x : BitVec n) (s l : Nat) : (x.extractLsb' s l).toNat = x.toNat / 2 ^ s % 2 ^ l := by
  rw [BitVec.extractLsb'_toNat, Nat.shiftRight_eq_div_pow]

theorem getLsbD_eq_decide {n : Nat} (x : BitVec n) (i : Nat) : x.getLsbD i = decide (x.toNat / 2 ^ i % 2 = 1) := by
  rw [BitVec.getLsbD, Nat.testBit_eq_decide_div_mod_eq]

theorem VShift.immField_imm (n : BitVec 5) :
    ((VShift.imm n).immField).extractLsb' 0 5 = n ∧ ((VShift.imm n).immField).getLsbD 8 = true := by
  simp only [VShift.immField, getLsbD_eq_decide, ← BitVec.toNat_inj, toNat_append_add, toNat_extract, decide_eq_true_eq]
  have := n.isLt
  simp only [BitVec.toNat_ofNat]
  omega

theorem LaneIx.immField_imm (n : BitVec 6) :
    ((LaneIx.imm n).immField).extractLsb' 0 6 = n ∧ ((LaneIx.imm n).immField).getLsbD 8 = true := by
  simp only [LaneIx.immField, getLsbD_eq_decide, ← BitVec.toNat_inj, toNat_append_add, toNat_extract, decide_eq_true_eq]
  have := n.isLt
  simp only [BitVec.toNat_ofNat]
  omega

theorem Shuf.immField_rot (r : BitVec 6) : ((Shuf.rot r).immField.extractLsb' 0 8).toNat = 4 ∧ (Shuf.rot r).immField.extractLsb' 14 18 = 0 ∧
    (Shuf.rot r).immField.extractLsb' 8 6 = r := by
  simp only [Shuf.immField, ← BitVec.toNat_inj, toNat_append_add, toNat_extract]
  have := r.isLt
  simp only [BitVec.toNat_ofNat, BitVec.ofNat_eq_ofNat]
  omega

theorem Shuf.immField_xor (r : BitVec 6) : ((Shuf.xor r).immField.extractLsb' 0 8).toNat = 6 ∧ (Shuf.xor r).immField.extractLsb' 14 18 = 0 ∧
    (Shuf.xor r).immField.extractLsb' 8 6 = r := by
  simp only [Shuf.immField, ← BitVec.toNat_inj, toNat_append_add, toNat_extract]
  have := r.isLt
  simp only [BitVec.toNat_ofNat, BitVec.ofNat_eq_ofNat]
  omega

theorem lLow_eq_iff {off : BitVec 24} {slot : BitVec 3} {count : BitVec 20} {x : BitVec 48} :
    lLow off slot count = x ↔ lOff x = off ∧ lSlot x = slot ∧ lCount x = count ∧ lRest x = true := by
  simp only [lLow, lOff, lSlot, lCount, lRest, getLsbD_eq_decide, ← BitVec.toNat_inj, toNat_append_add, toNat_extract, Bool.not_eq_true',
    decide_eq_false_iff_not, BitVec.toNat_ofNat]
  have := off.isLt; have := slot.isLt; have := count.isLt; have := x.isLt
  omega

theorem mLow_eq_iff {disp : BitVec 32} {hint : BitVec 4} {inv : Bool} {x : BitVec 48} :
    mLow disp hint inv = x ↔ mDisp x = disp ∧ mHint x = hint ∧ mInv x = inv ∧ mRest x = true := by
  simp only [mLow, mDisp, mHint, mInv, mRest, getLsbD_eq_decide, ← BitVec.toNat_inj, toNat_append_add, toNat_extract, 
    BitVec.toNat_ofNat, BitVec.ofNat_eq_ofNat, BitVec.toNat_ofBool, Bool.and_eq_true, beq_iff_eq]
  have := disp.isLt; have := hint.isLt; have := x.isLt
  cases inv <;> simp only [decide_eq_true_eq, decide_eq_false_iff_not, Bool.toNat_true, Bool.toNat_false] <;> omega

theorem xLow_eq_iff {nmask : BitVec 4} {af : BitVec 3} {mode : BitVec 4} {x : BitVec 48} :
    xLow nmask af mode = x ↔ xNmask x = nmask ∧ xAfmt x = af.setWidth 4 ∧ xMode x = mode ∧ xRest x = true := by
  simp only [xLow, xNmask, xAfmt, xMode, xRest, ← BitVec.toNat_inj, toNat_append_add, toNat_extract, 
    BitVec.toNat_ofNat, BitVec.ofNat_eq_ofNat, BitVec.toNat_setWidth, beq_iff_eq]
  have := nmask.isLt; have := af.isLt; have := x.isLt; have := mode.isLt
  omega

theorem eLow_eq_iff {slot : BitVec 8} {col : BitVec 3} {x : BitVec 48} :
    eLow slot col = x ↔ eSlot x = slot ∧ eCol x = col ∧ eRest x = true := by
  simp only [eLow, eSlot, eCol, eRest, ← BitVec.toNat_inj, toNat_append_add, toNat_extract, 
    BitVec.toNat_ofNat, BitVec.ofNat_eq_ofNat, beq_iff_eq, Bool.and_eq_true]
  have := slot.isLt; have := col.isLt; have := x.isLt
  omega

theorem vLow_eq_iff {rm : BitVec 3} {mk : Option SReg} {imm : BitVec 32} {x : BitVec 48} :
    vLow rm mk imm = x ↔ vRm x = rm ∧ vMk x = mk.isSome ∧ vMs x = mk.getD 0 ∧ vImm x = imm ∧ vRest x = true := by
  simp only [vLow, vRm, vMk, vMs, vImm, vRest, getLsbD_eq_decide, ← BitVec.toNat_inj, toNat_append_add, toNat_extract, 
    BitVec.toNat_ofNat, BitVec.ofNat_eq_ofNat, BitVec.toNat_ofBool, beq_iff_eq]
  have := rm.isLt; have := imm.isLt; have := x.isLt; have := (mk.getD 0).isLt
  cases mk.isSome <;> simp only [decide_eq_true_eq, decide_eq_false_iff_not, Bool.toNat_true, Bool.toNat_false] <;> omega

theorem cLow_eq_iff {off : BitVec 45} {slot : BitVec 3} {x : BitVec 48} : off ++ slot = x ↔ cOff x = off ∧ cSlot x = slot := by
  simp only [cOff, cSlot, ← BitVec.toNat_inj, toNat_append_add, toNat_extract]
  have := off.isLt; have := slot.isLt; have := x.isLt
  omega

theorem Fields.word_eq_iff {f : Fields} {w : BitVec 96} : f.word = w ↔ f = .ofWord w := by
  obtain ⟨op, min, pn, pred, d, a, b, c, mod, low⟩ := f
  simp only [Fields.word, Fields.ofWord, Fields.mk.injEq, getLsbD_eq_decide, ← BitVec.toNat_inj, toNat_append_add, toNat_extract, BitVec.toNat_ofBool]
  have := op.isLt; have := min.isLt; have := pred.isLt; have := d.isLt; have := a.isLt; have := b.isLt; have := c.isLt; have := mod.isLt; have := low.isLt; have := w.isLt
  cases pn <;> simp only [eq_comm (a := true), eq_comm (a := false), decide_eq_true_eq, decide_eq_false_iff_not, Bool.toNat_true, Bool.toNat_false] <;> omega

theorem maskField_ok {x : BitVec 48} {k : Option SReg → Dec} {i : Instr} :
    maskField x k = .ok i ↔ ∃ mk : Option SReg, vMk x = mk.isSome ∧ vMs x = mk.getD 0 ∧ k mk = .ok i := by
  unfold maskField
  constructor
  · intro h
    split at h
    next hm => exact ⟨some (vMs x), hm, rfl, h⟩
    next hm =>
      obtain ⟨hz, h⟩ := need_ok.mp h
      exact ⟨none, by simpa using hm, by simpa using hz, h⟩
  · rintro ⟨mk, hk, hs, h⟩
    cases mk with
    | none =>
      rw [if_neg (by simp [hk]), need_ok]
      exact ⟨by simpa using hs, h⟩
    | some m =>
      have hs : vMs x = m := hs
      rw [if_pos (by simp [hk]), hs]
      exact h

theorem signExtend_setWidth (y : BitVec 16) : (y.signExtend 48).setWidth 16 = y := by
  ext j hj
  have : j < 48 := by omega
  simp [BitVec.getElem_signExtend, hj, this]

theorem slow16_ok {x : BitVec 48} {k : BitVec 16 → Dec} {i : Instr} :
    slow16 x k = .ok i ↔ ∃ y : BitVec 16, x = y.signExtend 48 ∧ k y = .ok i := by
  unfold slow16
  constructor
  · intro h
    split at h
    next hx => exact ⟨_, hx.symm, h⟩
    next => cases h
  · rintro ⟨y, rfl, h⟩
    rw [signExtend_setWidth, if_pos rfl, h]

theorem vshift_ok {b : BitVec 6} {x : BitVec 32} {k : VShift → Dec} {i : Instr} :
    vshift b x k = .ok i ↔ ∃ s : VShift, b = s.regField ∧ x = s.immField ∧ k s = .ok i := by
  unfold vshift
  constructor
  · intro h
    split at h
    next =>
      rw [need_ok, Bool.and_eq_true, beq_iff_eq, beq_iff_eq] at h
      obtain ⟨⟨hb, hx⟩, h⟩ := h
      exact ⟨.imm _, hb, hx, h⟩
    next =>
      rw [need_ok, beq_iff_eq, reg_ok (by decide)] at h
      obtain ⟨hx, r, hb, h⟩ := h
      exact ⟨.reg r, hb, hx, h⟩
  · rintro ⟨s, rfl, rfl, h⟩
    cases s with
    | reg r =>
      rw [if_neg (by simp [VShift.immField]), need_ok, reg_ok (by decide)]
      exact ⟨rfl, r, rfl, h⟩
    | imm n =>
      obtain ⟨hn, h8⟩ := VShift.immField_imm n
      rw [if_pos h8, hn, need_ok]
      exact ⟨by simp [VShift.regField], h⟩

theorem laneIx_ok {b : BitVec 6} {x : BitVec 32} {k : LaneIx → Dec} {i : Instr} :
    laneIx b x k = .ok i ↔ ∃ s : LaneIx, b = s.regField ∧ x = s.immField ∧ k s = .ok i := by
  unfold laneIx
  constructor
  · intro h
    split at h
    next =>
      rw [need_ok, Bool.and_eq_true, beq_iff_eq, beq_iff_eq] at h
      obtain ⟨⟨hb, hx⟩, h⟩ := h
      exact ⟨.imm _, hb, hx, h⟩
    next =>
      rw [need_ok, beq_iff_eq] at h
      obtain ⟨hx, h⟩ := h
      exact ⟨.reg b, rfl, hx, h⟩
  · rintro ⟨s, rfl, rfl, h⟩
    cases s with
    | reg r =>
      rw [if_neg (by simp [LaneIx.immField]), need_ok]
      exact ⟨rfl, h⟩
    | imm n =>
      obtain ⟨hn, h8⟩ := LaneIx.immField_imm n
      rw [if_pos h8, hn, need_ok]
      exact ⟨by simp [LaneIx.regField], h⟩

/-- IMM32 of .rot and .xor, taken apart. -/
theorem shufImm_eq {x : BitVec 32} {p : BitVec 8} (hp : (x.extractLsb' 0 8).toNat = p.toNat) (hz : x.extractLsb' 14 18 = 0) :
    x = 0#18 ++ x.extractLsb' 8 6 ++ p := by
  simp only [← BitVec.toNat_inj, toNat_append_add, toNat_extract, BitVec.toNat_ofNat, BitVec.ofNat_eq_ofNat] at *
  omega

theorem shuf_ok {b : BitVec 6} {x : BitVec 32} {k : Shuf → Dec} {i : Instr} :
    shuf b x k = .ok i ↔ ∃ s : Shuf, b = s.regField ∧ x = s.immField ∧ k s = .ok i := by
  unfold shuf
  constructor
  · intro h
    split at h
    case h_8 => cases h
    all_goals simp only [need_ok, Bool.and_eq_true, beq_iff_eq, reg_ok (show 5 ≤ 6 by decide)] at h
    case h_5 heq =>
      obtain ⟨⟨hb, hx⟩, h⟩ := h
      exact ⟨.rot _, hb, shufImm_eq (p := 4#8) heq hx, h⟩
    case h_6 =>
      obtain ⟨⟨hb, hx⟩, h⟩ := h
      exact ⟨.rev, hb, hx, h⟩
    case h_7 heq =>
      obtain ⟨⟨hb, hx⟩, h⟩ := h
      exact ⟨.xor _, hb, shufImm_eq (p := 6#8) heq hx, h⟩
    all_goals obtain ⟨hx, r, hb, h⟩ := h
    case h_1 => exact ⟨.ziplo r, hb, hx, h⟩
    case h_2 => exact ⟨.ziphi r, hb, hx, h⟩
    case h_3 => exact ⟨.even r, hb, hx, h⟩
    case h_4 => exact ⟨.odd r, hb, hx, h⟩
  · rintro ⟨s, rfl, rfl, h⟩
    cases s with
    | rot r =>
      obtain ⟨hp, hz, hr⟩ := Shuf.immField_rot r
      simp only [hp, hz, hr, need_ok, Shuf.regField]
      exact ⟨rfl, h⟩
    | xor r =>
      obtain ⟨hp, hz, hr⟩ := Shuf.immField_xor r
      simp only [hp, hz, hr, need_ok, Shuf.regField]
      exact ⟨rfl, h⟩
    | rev => exact need_ok.mpr ⟨rfl, h⟩
    | _ r => exact need_ok.mpr ⟨rfl, (reg_ok (by decide)).mpr ⟨r, rfl, h⟩⟩

theorem nibble_eq_code {q : BitVec 4} {t : Ty} : q.setWidth 6 = t.code ↔ q = t.code.setWidth 4 := by
  cases t <;> revert q <;> decide

theorem code_setWidth_nibble (t : Ty) : (t.code.setWidth 4).setWidth 32 = t.code.setWidth 32 := by
  cases t <;> decide

@[simp] theorem code_setWidth_nibble_six (t : Ty) : (t.code.setWidth 4).setWidth 6 = t.code := by
  cases t <;> decide

theorem bfx_low (q : BitVec 14) : BitVec.ofBool (q.getLsbD 13) ++ q.extractLsb' 6 7 ++ q.extractLsb' 0 6 = q := by
  simp only [getLsbD_eq_decide, ← BitVec.toNat_inj, toNat_append_add, toNat_extract, BitVec.toNat_ofBool]
  have := q.isLt
  by_cases h : q.toNat / 2 ^ 13 % 2 = 1 <;> simp only [h, decide_true, decide_false, Bool.toNat_true, Bool.toNat_false] <;> omega

theorem bfi_low (q : BitVec 13) : q.extractLsb' 6 7 ++ q.extractLsb' 0 6 = q := by
  simp only [← BitVec.toNat_inj, toNat_append_add, toNat_extract]
  have := q.isLt
  omega

theorem fenceE_low (q : BitVec 12) : q.extractLsb' 8 4 ++ q.extractLsb' 0 8 = q := by
  simp only [← BitVec.toNat_inj, toNat_append_add, toNat_extract]
  have := q.isLt
  omega

theorem afmt_eq {x : BitVec 4} (h : x.getLsbD 3 = false) : (x.setWidth 3).setWidth 4 = x := by
  revert x; decide

theorem mxMod_eq {x : BitVec 6} {k : MxKind} (h : x.extractLsb' 0 4 = k.code) (h5 : x.getLsbD 5 = false) :
    0#1 ++ x.extractLsb' 4 1 ++ k.code = x := by
  rw [← h]
  clear h
  revert x; decide

theorem fields_eq_of_eq {i : Instr} {f f' : Fields} (hi : i.fields = some f') (hf : f' = f) : i.fields = some f := by
  rw [hi, hf]

theorem decodeScalar_sound {f : Fields} {i : Instr} (h : decodeScalar f ⟨f.pn, f.pred⟩ = .ok i) : i.fields = some f := by
  obtain ⟨op, min, pn, pred, d, a, b, c, mod, low⟩ := f
  unfold decodeScalar at h
  split at h
  case h_64 => cases h
  all_goals
    rename_i hop
    obtain rfl : op = _ := eq_ofNat_of_toNat_eq hop
    clear hop
  case' h_48 =>
    split at h
    case h_13 => cases h
    all_goals
      rename_i hmin
      obtain rfl : min = _ := eq_ofNat_of_toNat_eq hmin
      clear hmin
  all_goals
    simp only [need_ok, reg_ok, low_ok, sub_ok, code_ok, maskField_ok, slow16_ok, vshift_ok, laneIx_ok, shuf_ok, Bool.and_eq_true, Bool.not_eq_true',
      beq_iff_eq, decide_eq_true_eq, Except.ok.injEq, Nat.reduceLeDiff, Cond.ofCode_eq_some, Ty.ofCode_eq_some, RM.ofCode_eq_some,
      Hint.ofCode_eq_some, VW.ofCode_eq_some, ScanOp.ofCode_eq_some, MxKind.ofCode_eq_some, SysReg.ofCode_eq_some, wideOfCode_eq_some,
      nibble_eq_code] at h
    casesm* _ ∧ _, ∃ _, _
    subst_vars
    refine fields_eq_of_eq rfl ?_
    simp [base, vLow_eq_iff, lLow_eq_iff, mLow_eq_iff, cLow_eq_iff, eLow_eq_iff, xLow_eq_iff, code_setWidth_nibble,
      ← BitVec.getLsbD_eq_getElem, bfi_low, bfx_low, fenceE_low, afmt_eq, mxMod_eq, *]

theorem decodeAccess_sound {f : Fields} {i : Instr} (h : decodeAccess f ⟨f.pn, f.pred⟩ = .ok i) : i.fields = some f := by
  obtain ⟨op, min, pn, pred, d, a, b, c, mod, low⟩ := f
  unfold decodeAccess at h
  split at h
  case h_38 => cases h
  all_goals
    rename_i hop
    obtain rfl : op = _ := eq_ofNat_of_toNat_eq hop
    clear hop
  case' h_9 | h_10 | h_13 =>
    split at h
    case h_3 => cases h
    all_goals
      rename_i hmin
      obtain rfl : min = _ := eq_ofNat_of_toNat_eq hmin
      clear hmin
  all_goals
    simp only [need_ok, reg_ok, low_ok, sub_ok, code_ok, maskField_ok, slow16_ok, vshift_ok, laneIx_ok, shuf_ok, Bool.and_eq_true, Bool.not_eq_true',
      beq_iff_eq, decide_eq_true_eq, Except.ok.injEq, Nat.reduceLeDiff, Cond.ofCode_eq_some, Ty.ofCode_eq_some, RM.ofCode_eq_some,
      Hint.ofCode_eq_some, VW.ofCode_eq_some, ScanOp.ofCode_eq_some, MxKind.ofCode_eq_some, SysReg.ofCode_eq_some, wideOfCode_eq_some,
      nibble_eq_code] at h
    casesm* _ ∧ _, ∃ _, _
    subst_vars
    refine fields_eq_of_eq rfl ?_
    simp [base, vLow_eq_iff, lLow_eq_iff, mLow_eq_iff, cLow_eq_iff, eLow_eq_iff, xLow_eq_iff, code_setWidth_nibble,
      ← BitVec.getLsbD_eq_getElem, bfi_low, bfx_low, fenceE_low, afmt_eq, mxMod_eq, *]

theorem decodeVector_sound {f : Fields} {i : Instr} (h : decodeVector f ⟨f.pn, f.pred⟩ = .ok i) : i.fields = some f := by
  obtain ⟨op, min, pn, pred, d, a, b, c, mod, low⟩ := f
  unfold decodeVector at h
  split at h
  case h_41 => cases h
  all_goals
    rename_i hop
    obtain rfl : op = _ := eq_ofNat_of_toNat_eq hop
    clear hop
  all_goals
    simp only [need_ok, reg_ok, low_ok, sub_ok, code_ok, maskField_ok, slow16_ok, vshift_ok, laneIx_ok, shuf_ok, Bool.and_eq_true, Bool.not_eq_true',
      beq_iff_eq, decide_eq_true_eq, Except.ok.injEq, Nat.reduceLeDiff, Cond.ofCode_eq_some, Ty.ofCode_eq_some, RM.ofCode_eq_some,
      Hint.ofCode_eq_some, VW.ofCode_eq_some, ScanOp.ofCode_eq_some, MxKind.ofCode_eq_some, SysReg.ofCode_eq_some, wideOfCode_eq_some,
      nibble_eq_code] at h
    casesm* _ ∧ _, ∃ _, _
    subst_vars
    refine fields_eq_of_eq rfl ?_
    simp [base, vLow_eq_iff, lLow_eq_iff, mLow_eq_iff, cLow_eq_iff, eLow_eq_iff, xLow_eq_iff, code_setWidth_nibble,
      ← BitVec.getLsbD_eq_getElem, bfi_low, bfx_low, fenceE_low, afmt_eq, mxMod_eq, *]

theorem decodeMatrix_sound {f : Fields} {i : Instr} (h : decodeMatrix f ⟨f.pn, f.pred⟩ = .ok i) : i.fields = some f := by
  obtain ⟨op, min, pn, pred, d, a, b, c, mod, low⟩ := f
  unfold decodeMatrix at h
  split at h
  case h_19 => cases h
  all_goals
    rename_i hop
    obtain rfl : op = _ := eq_ofNat_of_toNat_eq hop
    clear hop
  case' h_9 | h_10 =>
    split at h
    case h_3 => cases h
    all_goals
      rename_i hmin
      obtain rfl : min = _ := eq_ofNat_of_toNat_eq hmin
      clear hmin
  all_goals
    simp only [need_ok, reg_ok, low_ok, sub_ok, code_ok, maskField_ok, slow16_ok, vshift_ok, laneIx_ok, shuf_ok, Bool.and_eq_true, Bool.not_eq_true',
      beq_iff_eq, decide_eq_true_eq, Except.ok.injEq, Nat.reduceLeDiff, Cond.ofCode_eq_some, Ty.ofCode_eq_some, RM.ofCode_eq_some,
      Hint.ofCode_eq_some, VW.ofCode_eq_some, ScanOp.ofCode_eq_some, MxKind.ofCode_eq_some, SysReg.ofCode_eq_some, wideOfCode_eq_some,
      nibble_eq_code] at h
    casesm* _ ∧ _, ∃ _, _
    subst_vars
    refine fields_eq_of_eq rfl ?_
    simp [base, vLow_eq_iff, lLow_eq_iff, mLow_eq_iff, cLow_eq_iff, eLow_eq_iff, xLow_eq_iff, code_setWidth_nibble,
      ← BitVec.getLsbD_eq_getElem, bfi_low, bfx_low, fenceE_low, afmt_eq, mxMod_eq, *]

theorem decodeSystem_sound {f : Fields} {i : Instr} (h : decodeSystem f ⟨f.pn, f.pred⟩ = .ok i) : i.fields = some f := by
  obtain ⟨op, min, pn, pred, d, a, b, c, mod, low⟩ := f
  unfold decodeSystem at h
  split at h
  case h_17 => cases h
  all_goals
    rename_i hop
    obtain rfl : op = _ := eq_ofNat_of_toNat_eq hop
    clear hop
  case' h_8 | h_16 =>
    split at h
    case h_3 => cases h
    all_goals
      rename_i hmin
      obtain rfl : min = _ := eq_ofNat_of_toNat_eq hmin
      clear hmin
  all_goals
    simp only [need_ok, reg_ok, low_ok, sub_ok, code_ok, maskField_ok, slow16_ok, vshift_ok, laneIx_ok, shuf_ok, Bool.and_eq_true, Bool.not_eq_true',
      beq_iff_eq, decide_eq_true_eq, Except.ok.injEq, Nat.reduceLeDiff, Cond.ofCode_eq_some, Ty.ofCode_eq_some, RM.ofCode_eq_some,
      Hint.ofCode_eq_some, VW.ofCode_eq_some, ScanOp.ofCode_eq_some, MxKind.ofCode_eq_some, SysReg.ofCode_eq_some, wideOfCode_eq_some,
      nibble_eq_code] at h
    casesm* _ ∧ _, ∃ _, _
    subst_vars
    refine fields_eq_of_eq rfl ?_
    simp [base, vLow_eq_iff, lLow_eq_iff, mLow_eq_iff, cLow_eq_iff, eLow_eq_iff, xLow_eq_iff, code_setWidth_nibble,
      ← BitVec.getLsbD_eq_getElem, bfi_low, bfx_low, fenceE_low, afmt_eq, mxMod_eq, *]

@[simp] theorem reg_setWidth {n : Nat} (hn : n ≤ 6) (y : BitVec n) (k : BitVec n → Dec) : reg n (y.setWidth 6) k = k y := by
  rw [reg, if_pos (toNat_setWidth_lt y), setWidth_setWidth_of_le hn]

@[simp] theorem low_setWidth {n : Nat} (hn : n ≤ 48) (y : BitVec n) (k : BitVec n → Dec) : low n (y.setWidth 48) k = k y := by
  rw [low, if_pos (toNat_setWidth_lt y), setWidth_setWidth_of_le hn]

@[simp] theorem sub_setWidth {n : Nat} (hn : n ≤ 32) (y : BitVec n) (k : BitVec n → Dec) : sub n (y.setWidth 32) k = k y := by
  rw [sub, if_pos (toNat_setWidth_lt y), setWidth_setWidth_of_le hn]


@[simp] theorem code_some {α : Type} (a : α) (k : α → Dec) : code (some a) k = k a := rfl

@[simp] theorem need_true {e : Illegal} {k : Dec} : need true e k = k := rfl

@[simp] theorem Ty.ofCode_code (t : Ty) : Ty.ofCode t.code = some t := Ty.ofCode_eq_some.mpr rfl

@[simp] theorem Cond.ofCode_code (t : Cond) : Cond.ofCode t.code = some t := Cond.ofCode_eq_some.mpr rfl

@[simp] theorem RM.ofCode_code (t : RM) : RM.ofCode t.code = some t := RM.ofCode_eq_some.mpr rfl

@[simp] theorem Hint.ofCode_code (t : Hint) : Hint.ofCode t.code = some t := Hint.ofCode_eq_some.mpr rfl

@[simp] theorem VW.ofCode_code (t : VW) : VW.ofCode t.code = some t := VW.ofCode_eq_some.mpr rfl

@[simp] theorem ScanOp.ofCode_code (t : ScanOp) : ScanOp.ofCode t.code = some t := ScanOp.ofCode_eq_some.mpr rfl

@[simp] theorem MxKind.ofCode_code (t : MxKind) : MxKind.ofCode t.code = some t := MxKind.ofCode_eq_some.mpr rfl

@[simp] theorem SysReg.ofCode_code (t : SysReg) : SysReg.ofCode t.code = some t := SysReg.ofCode_eq_some.mpr rfl

@[simp] theorem wideOfCode_wideCode (w : Bool) : wideOfCode (wideCode w) = some w := wideOfCode_eq_some.mpr rfl

@[simp] theorem maskField_vLow (rm : BitVec 3) (mk : Option SReg) (imm : BitVec 32) (k : Option SReg → Dec) :
    maskField (vLow rm mk imm) k = k mk := by
  obtain ⟨-, hk, hs, -, -⟩ := vLow_eq_iff.mp (rfl : vLow rm mk imm = _)
  cases mk <;> simp [maskField, hk, hs, need_true]

@[simp] theorem vLow_fields (rm : BitVec 3) (mk : Option SReg) (imm : BitVec 32) :
    vRm (vLow rm mk imm) = rm ∧ vMk (vLow rm mk imm) = mk.isSome ∧ vMs (vLow rm mk imm) = mk.getD 0 ∧ vImm (vLow rm mk imm) = imm ∧
      vRest (vLow rm mk imm) = true := vLow_eq_iff.mp rfl

@[simp] theorem mLow_fields (disp : BitVec 32) (hint : BitVec 4) (inv : Bool) :
    mDisp (mLow disp hint inv) = disp ∧ mHint (mLow disp hint inv) = hint ∧ mInv (mLow disp hint inv) = inv ∧
      mRest (mLow disp hint inv) = true := mLow_eq_iff.mp rfl

@[simp] theorem lLow_fields (off : BitVec 24) (slot : BitVec 3) (count : BitVec 20) :
    lOff (lLow off slot count) = off ∧ lSlot (lLow off slot count) = slot ∧ lCount (lLow off slot count) = count ∧
      lRest (lLow off slot count) = true := lLow_eq_iff.mp rfl

@[simp] theorem eLow_fields (slot : BitVec 8) (col : BitVec 3) :
    eSlot (eLow slot col) = slot ∧ eCol (eLow slot col) = col ∧ eRest (eLow slot col) = true := eLow_eq_iff.mp rfl

@[simp] theorem xLow_fields (nmask : BitVec 4) (af : BitVec 3) (mode : BitVec 4) :
    xNmask (xLow nmask af mode) = nmask ∧ xAfmt (xLow nmask af mode) = af.setWidth 4 ∧ xMode (xLow nmask af mode) = mode ∧
      xRest (xLow nmask af mode) = true := xLow_eq_iff.mp rfl

@[simp] theorem cLow_fields (off : BitVec 45) (slot : BitVec 3) : cOff (off ++ slot) = off ∧ cSlot (off ++ slot) = slot := cLow_eq_iff.mp rfl

@[simp] theorem slow16_signExtend (y : BitVec 16) (k : BitVec 16 → Dec) : slow16 (y.signExtend 48) k = k y := by
  rw [slow16, signExtend_setWidth, if_pos rfl]

@[simp] theorem vshift_fields (s : VShift) (k : VShift → Dec) : vshift s.regField s.immField k = k s := by
  cases s with
  | reg r => simp [vshift, VShift.regField, VShift.immField, need_true, reg_setWidth]
  | imm n =>
    obtain ⟨hn, h8⟩ := VShift.immField_imm n
    simp [vshift, hn, h8, VShift.regField, need_true]

@[simp] theorem laneIx_fields (s : LaneIx) (k : LaneIx → Dec) : laneIx s.regField s.immField k = k s := by
  cases s with
  | reg r => simp [laneIx, LaneIx.regField, LaneIx.immField, need_true]
  | imm n =>
    obtain ⟨hn, h8⟩ := LaneIx.immField_imm n
    simp [laneIx, hn, h8, LaneIx.regField, need_true]

@[simp] theorem shuf_fields (s : Shuf) (k : Shuf → Dec) : shuf s.regField s.immField k = k s := by
  cases s with
  | rot r =>
    obtain ⟨hp, hz, hr⟩ := Shuf.immField_rot r
    simp [shuf, hp, hz, hr, Shuf.regField, need_true]
  | xor r =>
    obtain ⟨hp, hz, hr⟩ := Shuf.immField_xor r
    simp [shuf, hp, hz, hr, Shuf.regField, need_true]
  | rev => rfl
  | _ r => simp [shuf, Shuf.regField, Shuf.immField, need_true, reg_setWidth]

@[simp] theorem code_sub_nibble (t : Ty) (k : BitVec 4 → Dec) : sub 4 (t.code.setWidth 32) k = k (t.code.setWidth 4) := by
  rw [← code_setWidth_nibble, sub_setWidth (by decide)]

@[simp] theorem bfx_fields (sx : Bool) (len : BitVec 7) (pos : BitVec 6) :
    (BitVec.ofBool sx ++ len ++ pos).extractLsb' 0 6 = pos ∧ (BitVec.ofBool sx ++ len ++ pos).extractLsb' 6 7 = len ∧
      (BitVec.ofBool sx ++ len ++ pos)[13] = sx := by
  simp only [← BitVec.getLsbD_eq_getElem, getLsbD_eq_decide, ← BitVec.toNat_inj, toNat_append_add, toNat_extract, BitVec.toNat_ofBool]
  have := len.isLt; have := pos.isLt
  cases sx <;> simp <;> omega

@[simp] theorem bfi_fields (len : BitVec 7) (pos : BitVec 6) :
    (len ++ pos).extractLsb' 0 6 = pos ∧ (len ++ pos).extractLsb' 6 7 = len := by
  simp only [← BitVec.toNat_inj, toNat_append_add, toNat_extract]
  have := len.isLt; have := pos.isLt
  omega

@[simp] theorem fenceE_fields (classes : BitVec 4) (cols : BitVec 8) :
    (classes ++ cols).extractLsb' 0 8 = cols ∧ (classes ++ cols).extractLsb' 8 4 = classes := by
  simp only [← BitVec.toNat_inj, toNat_append_add, toNat_extract]
  have := classes.isLt; have := cols.isLt
  omega

@[simp] theorem mxMod_fields (n : BitVec 1) (k : BitVec 4) :
    (0#1 ++ n ++ k).extractLsb' 0 4 = k ∧ (0#1 ++ n ++ k).extractLsb' 4 1 = n ∧ (0#1 ++ n ++ k)[5] = false := by
  revert n k; decide

@[simp] theorem afmt_fields (af : BitVec 3) : (af.setWidth 4).getLsbD 3 = false ∧ (af.setWidth 4).setWidth 3 = af := by
  revert af; decide

theorem decodeScalar_complete_low {i : Instr} {f : Fields} (hf : i.fields = some f) (hlo : 0 ≤ f.op.toNat) (hhi : f.op.toNat < 32) :
    decodeScalar f ⟨f.pn, f.pred⟩ = .ok i := by
  cases i
  any_goals (cases hf; done)
  all_goals
    obtain rfl := Option.some.inj hf
  all_goals
    simp only [base, BitVec.reduceToNat, Nat.reduceLeDiff, Nat.reduceLT] at hlo hhi
  all_goals
    unfold decodeScalar
    simp [base]

theorem decodeScalar_complete_mid {i : Instr} {f : Fields} (hf : i.fields = some f) (hlo : 32 ≤ f.op.toNat) (hhi : f.op.toNat < 47) :
    decodeScalar f ⟨f.pn, f.pred⟩ = .ok i := by
  cases i
  any_goals (cases hf; done)
  all_goals
    obtain rfl := Option.some.inj hf
  all_goals
    simp only [base, BitVec.reduceToNat, Nat.reduceLeDiff, Nat.reduceLT] at hlo hhi
  all_goals
    unfold decodeScalar
    simp [base]

theorem decodeScalar_complete_float {i : Instr} {f : Fields} (hf : i.fields = some f) (hlo : 47 ≤ f.op.toNat) (hhi : f.op.toNat < 48) :
    decodeScalar f ⟨f.pn, f.pred⟩ = .ok i := by
  cases i
  any_goals (cases hf; done)
  all_goals
    obtain rfl := Option.some.inj hf
  all_goals
    simp only [base, BitVec.reduceToNat, Nat.reduceLeDiff, Nat.reduceLT] at hlo hhi
  all_goals
    unfold decodeScalar
    simp [base]

theorem decodeScalar_complete_high {i : Instr} {f : Fields} (hf : i.fields = some f) (hlo : 48 ≤ f.op.toNat) (hhi : f.op.toNat < 64) :
    decodeScalar f ⟨f.pn, f.pred⟩ = .ok i := by
  cases i
  any_goals (cases hf; done)
  all_goals
    obtain rfl := Option.some.inj hf
  all_goals
    simp only [base, BitVec.reduceToNat, Nat.reduceLeDiff, Nat.reduceLT] at hlo hhi
  all_goals
    unfold decodeScalar
    simp [base]

theorem decodeScalar_complete {i : Instr} {f : Fields} (hf : i.fields = some f) (h : f.op.toNat < 64) :
    decodeScalar f ⟨f.pn, f.pred⟩ = .ok i := by
  by_cases h0 : f.op.toNat < 32
  · exact decodeScalar_complete_low hf (by omega) h0
  by_cases h1 : f.op.toNat < 47
  · exact decodeScalar_complete_mid hf (by omega) h1
  by_cases h2 : f.op.toNat < 48
  · exact decodeScalar_complete_float hf (by omega) h2
  · exact decodeScalar_complete_high hf (by omega) h

theorem decodeAccess_complete {i : Instr} {f : Fields} (hf : i.fields = some f) (hlo : 64 ≤ f.op.toNat) (hhi : f.op.toNat < 128) :
    decodeAccess f ⟨f.pn, f.pred⟩ = .ok i := by
  cases i
  any_goals (cases hf; done)
  all_goals
    obtain rfl := Option.some.inj hf
  all_goals
    simp only [base, BitVec.reduceToNat, Nat.reduceLeDiff, Nat.reduceLT] at hlo hhi
  all_goals
    unfold decodeAccess
    simp [base]

theorem decodeVector_complete {i : Instr} {f : Fields} (hf : i.fields = some f) (hlo : 128 ≤ f.op.toNat) (hhi : f.op.toNat < 192) :
    decodeVector f ⟨f.pn, f.pred⟩ = .ok i := by
  cases i
  any_goals (cases hf; done)
  all_goals
    obtain rfl := Option.some.inj hf
  all_goals
    simp only [base, BitVec.reduceToNat, Nat.reduceLeDiff, Nat.reduceLT] at hlo hhi
  all_goals
    unfold decodeVector
    simp [base]

theorem decodeMatrix_complete {i : Instr} {f : Fields} (hf : i.fields = some f) (hlo : 192 ≤ f.op.toNat) (hhi : f.op.toNat < 224) :
    decodeMatrix f ⟨f.pn, f.pred⟩ = .ok i := by
  cases i
  any_goals (cases hf; done)
  all_goals
    obtain rfl := Option.some.inj hf
  all_goals
    simp only [base, BitVec.reduceToNat, Nat.reduceLeDiff, Nat.reduceLT] at hlo hhi
  all_goals
    unfold decodeMatrix
    simp [base]

theorem decodeSystem_complete {i : Instr} {f : Fields} (hf : i.fields = some f) (hlo : 224 ≤ f.op.toNat) (hhi : f.op.toNat < 256) :
    decodeSystem f ⟨f.pn, f.pred⟩ = .ok i := by
  cases i
  any_goals (cases hf; done)
  all_goals
    obtain rfl := Option.some.inj hf
  all_goals
    simp only [base, BitVec.reduceToNat, Nat.reduceLeDiff, Nat.reduceLT] at hlo hhi
  all_goals
    unfold decodeSystem
    simp [base]

theorem Instr.guard_ok {own : Nat} {i : Instr} {f : Fields} (h : i.wf own = true) (hf : i.fields = some f) :
    Guard.ok ⟨f.pn, f.pred⟩ = true := by
  cases i
  all_goals
    simp only [Instr.fields, Option.some.injEq, reduceCtorEq] at hf
  all_goals
    subst hf
    simp only [Instr.wf, Bool.and_eq_true] at h
    simp only [base, h]

theorem decodeFields_complete {own : Nat} {i : Instr} {f : Fields} (h : i.wf own = true) (hf : i.fields = some f) :
    decodeFields own f = .ok i := by
  have hg := Instr.guard_ok h hf
  have := f.op.isLt
  simp only [decodeFields, hg, Bool.not_true, Bool.false_eq_true, if_false]
  by_cases h1 : f.op.toNat < 0x40
  · simp only [h1, decodeScalar_complete hf h1, checked, h, if_true]
  by_cases h2 : f.op.toNat < 0x80
  · simp only [h1, h2, decodeAccess_complete hf (by omega) h2, checked, h, if_true, if_false]
  by_cases h3 : f.op.toNat < 0xC0
  · simp only [h1, h2, h3, decodeVector_complete hf (by omega) h3, checked, h, if_true, if_false]
  by_cases h4 : f.op.toNat < 0xE0
  · simp only [h1, h2, h3, h4, decodeMatrix_complete hf (by omega) h4, checked, h, if_true, if_false]
  · simp only [h1, h2, h3, h4, decodeSystem_complete hf (by omega) (by omega), checked, h, if_true, if_false]

theorem decodeFields_sound {own : Nat} {i : Instr} {f : Fields} (h : decodeFields own f = .ok i) :
    i.wf own = true ∧ i.fields = some f := by
  unfold decodeFields at h
  by_cases hg : Guard.ok ⟨f.pn, f.pred⟩ = true
  case neg => simp [hg] at h
  simp only [hg, Bool.not_true, Bool.false_eq_true, if_false] at h
  split at h
  case h_2 => cases h
  case h_1 j hj =>
    by_cases hwf : j.wf own = true
    case neg => simp [checked, hwf] at h
    obtain rfl : j = i := by simpa [checked, hwf] using h
    refine ⟨hwf, ?_⟩
    split_ifs at hj
    · exact decodeScalar_sound hj
    · exact decodeAccess_sound hj
    · exact decodeVector_sound hj
    · exact decodeMatrix_sound hj
    · exact decodeSystem_sound hj

theorem encode_eq_some_iff {i : Instr} {w : BitVec 96} : encode i = some w ↔ i.fields = some (.ofWord w) := by
  simp only [encode, Option.map_eq_some_iff, Fields.word_eq_iff, exists_eq_right]

/-- Settles O56: row by row of the opcode map, a word's fields are an instruction's just when the row's decoder reads that
instruction from them. -/
theorem decodeAndEncodeAgree : Obligations.DecodeAndEncodeAgree := by
  unfold Obligations.DecodeAndEncodeAgree
  intro own w i
  rw [encode_eq_some_iff]
  exact ⟨decodeFields_sound, fun ⟨h, hf⟩ => decodeFields_complete h hf⟩

end Sys2Proof

/-! SUPPORT. Proofs: comparisons, selection, bit counts, extension, bit fields and LEA (R206, R209 to R212), and scalar floating point
(R213 to R217). -/

namespace Sys2Proof.Machine

/-! ### Comparison and predicate logic -/

theorem condWord_iff (c : Cond) (x y : Word) : condWord c x y = true ↔ condHolds c x y := by
  cases c <;> simp [condWord, condHolds, BitVec.slt, BitVec.sle, BitVec.ult, BitVec.ule]

theorem plogBit_eq (tt : BitVec 4) (pa pb : Bool) :
    plogBit tt pa pb = tt.getLsbD ((if pa = true then 2 else 0) + (if pb = true then 1 else 0)) := by
  cases pa <;> cases pb <;> rfl

/-! ### Counts of bits -/

/-- The length of the longest prefix of the first `n` numbers on which a test holds. -/
theorem length_takeWhile_range {p : Nat → Bool} {n k : Nat} (hk : k ≤ n) (hp : ∀ i < k, p i = true) (hn : k < n → p k = false) :
    ((List.range n).takeWhile p).length = k := by
  obtain ⟨m, rfl⟩ := Nat.exists_eq_add_of_le hk
  rw [List.range_add, List.takeWhile_append_of_pos (by simpa using hp)]
  cases m with
  | zero => simp
  | succ m => simp [List.range_succ_eq_map, hn (by omega)]

theorem bitLen_le {x n : Nat} (h : x < 2 ^ n) : bitLen x ≤ n := by
  unfold bitLen
  split
  next => omega
  next h0 => exact (Nat.log2_lt h0).mpr h

theorem testBit_of_bitLen_le {x i : Nat} (h : bitLen x ≤ i) : x.testBit i = false := by
  unfold bitLen at h
  split at h
  next h0 => simp [h0]
  next h0 => exact Nat.testBit_lt_two_pow ((Nat.log2_lt h0).mp h)

theorem testBit_bitLen_pred {x : Nat} (h : bitLen x ≠ 0) : x.testBit (bitLen x - 1) = true := by
  unfold bitLen at h ⊢
  split at h
  next => exact absurd rfl h
  next h0 => simpa [h0] using Nat.testBit_log2 h0

theorem leadingZeros_eq (x : Word) :
    64 - bitLen x.toNat = ((List.range 64).takeWhile fun i => !x.getLsbD (63 - i)).length := by
  have hle := bitLen_le x.isLt
  refine (length_takeWhile_range (Nat.sub_le _ _) (fun i hi => ?_) (fun hk => ?_)).symm
  · rw [BitVec.getLsbD, testBit_of_bitLen_le (by omega)]
    rfl
  · have : 63 - (64 - bitLen x.toNat) = bitLen x.toNat - 1 := by omega
    rw [BitVec.getLsbD, this, testBit_bitLen_pred (by omega)]
    rfl

theorem ctzFrom_le (x n : Nat) : ctzFrom x n ≤ n := by
  induction n generalizing x with
  | zero => exact Nat.le_refl 0
  | succ n ih =>
    have := ih (x / 2)
    unfold ctzFrom
    split <;> omega

theorem testBit_of_lt_ctzFrom {x n i : Nat} (h : i < ctzFrom x n) : x.testBit i = false := by
  induction n generalizing x i with
  | zero => exact absurd h (Nat.not_lt_zero i)
  | succ n ih =>
    unfold ctzFrom at h
    split at h
    next => omega
    next hodd =>
      cases i with
      | zero => simpa [Nat.testBit_zero] using hodd
      | succ i =>
        rw [Nat.testBit_succ]
        exact ih (by omega)

theorem testBit_ctzFrom {x n : Nat} (h : ctzFrom x n < n) : x.testBit (ctzFrom x n) = true := by
  induction n generalizing x with
  | zero => exact absurd h (Nat.not_lt_zero _)
  | succ n ih =>
    unfold ctzFrom at h ⊢
    split at h
    next hodd => simp [hodd, Nat.testBit_zero]
    next hodd =>
      rw [if_neg hodd, Nat.add_comm, Nat.testBit_succ]
      exact ih (by omega)

theorem trailingZeros_eq (x : Word) : ctzFrom x.toNat 64 = ((List.range 64).takeWhile fun i => !x.getLsbD i).length := by
  refine (length_takeWhile_range (ctzFrom_le _ _) (fun i hi => ?_) (fun hk => ?_)).symm
  · rw [BitVec.getLsbD, testBit_of_lt_ctzFrom hi]
    rfl
  · rw [BitVec.getLsbD, testBit_ctzFrom hk]
    rfl

/-! ### Extension, bit fields and addresses -/

theorem extend_eq (t : Ty) (x : Word) :
    extend t x = if t.signed = true then (x.setWidth t.width).signExtend 64 else (x.setWidth t.width).setWidth 64 := by
  have h := extend_ofNat t x.toNat
  rwa [BitVec.ofNat_toNat, BitVec.ofNat_toNat, BitVec.setWidth_eq] at h

theorem bitField_eq (x : Word) (pos len : Nat) (sx : Bool) :
    bitField x pos len sx =
      if sx = true then ((x >>> pos).setWidth len).signExtend 64 else ((x >>> pos).setWidth len).setWidth 64 := by
  have hlow : BitVec.ofNat len (x.toNat >>> pos) = (x >>> pos).setWidth len := by
    rw [← BitVec.toNat_ushiftRight, BitVec.ofNat_toNat]
  unfold bitField
  split
  · rw [signExt_eq_toInt, hlow, BitVec.signExtend]
  · apply BitVec.eq_of_toNat_eq
    simp

theorem getLsbD_insertField (x y : Word) (pos len : Nat) {i : Nat} (hi : i < 64) :
    (insertField x y pos len).getLsbD i =
      if pos ≤ i ∧ i < pos + len then y.getLsbD (i - pos) else x.getLsbD i := by
  have hm : (BitVec.ofNat 64 ((2 ^ len - 1) <<< pos)).getLsbD i = decide (pos ≤ i ∧ i < pos + len) := by
    rw [BitVec.getLsbD_ofNat, Nat.testBit_shiftLeft, Nat.testBit_two_pow_sub_one]
    simp only [hi, decide_true, Bool.true_and, ge_iff_le, ← Bool.decide_and, decide_eq_decide]
    omega
  unfold insertField
  simp only [BitVec.getLsbD_or, BitVec.getLsbD_and, BitVec.getLsbD_not, BitVec.getLsbD_shiftLeft, hm, hi]
  by_cases h : pos ≤ i ∧ i < pos + len
  · simp [h]
  · simp [h]

theorem memAddr_eq_ofInt (r : Regs) (m : MemOp) : memAddr r m =
    BitVec.ofInt 64 ((r.sr m.base).toInt + (if m.index = 0 then 0 else (r.sr m.index).toInt * 2 ^ m.scale.toNat) + m.disp.toInt) := by
  have hindex : (if m.index = 0 then 0 else r.sr m.index <<< m.scale.toNat) =
      BitVec.ofInt 64 (if m.index = 0 then 0 else (r.sr m.index).toInt * 2 ^ m.scale.toNat) := by
    split
    · rfl
    · rw [BitVec.shiftLeft_eq_mul_twoPow, BitVec.ofInt_mul, BitVec.ofInt_toInt]
      congr 1
      apply BitVec.eq_of_toNat_eq
      rw [BitVec.toNat_twoPow, ← Nat.cast_ofNat (R := Int), ← Nat.cast_pow, BitVec.ofInt_natCast, BitVec.toNat_ofNat]
  rw [memAddr, hindex, BitVec.signExtend, BitVec.ofInt_add, BitVec.ofInt_add, BitVec.ofInt_toInt]

theorem minS_eq (x y : Word) : minS x y = if y.toInt < x.toInt then y else x := by simp [minS, BitVec.slt]
theorem maxS_eq (x y : Word) : maxS x y = if x.toInt < y.toInt then y else x := by simp [maxS, BitVec.slt]
theorem minU_eq (x y : Word) : minU x y = if y.toNat < x.toNat then y else x := by simp [minU, BitVec.ult]
theorem maxU_eq (x y : Word) : maxU x y = if x.toNat < y.toNat then y else x := by simp [maxU, BitVec.ult]

/-- Settles O2: each instruction issues as an operation on registers, and the model's operation is the table's. -/
theorem comparisonsBitsAndFields : Obligations.ComparisonsBitsAndFields := by
  unfold Obligations.ComparisonsBitsAndFields
  constructor
  · intro s g c d a b pd pa pb pc imm tt
    refine ⟨fun h => ?cmp, fun h => ?cmpi, fun h => ?sel, fun h => ?plog⟩
    case cmp => exact ⟨_, State.completes_regOp h rfl rfl, condWord_iff c _ _⟩
    case cmpi => exact ⟨_, State.completes_regOp h rfl rfl, condWord_iff c _ _⟩
    case sel => exact State.completes_regOp h rfl rfl
    case plog => exact State.completes_regOp h rfl (congrArg _ (plogBit_eq ..))
  · intro s g t d a b pos len sx m
    refine ⟨fun h => ⟨?min, ?max, ?minn, ?maxn, fun hfit hlen => ?bfi⟩,
      fun h => ⟨?clz, ?ctz, ?popc, fun ht => ?ext, fun hfit hlen => ?bfx⟩, fun h hm => ?lea⟩
    case min => exact State.completes_bin h rfl (minS_eq _ _)
    case max => exact State.completes_bin h rfl (maxS_eq _ _)
    case minn => exact State.completes_bin h rfl (minU_eq _ _)
    case maxn => exact State.completes_bin h rfl (maxU_eq _ _)
    case bfi => exact ⟨_, State.completes_bin h rfl rfl, fun i hi => getLsbD_insertField _ _ _ _ hi⟩
    case clz => exact State.completes_un h rfl (congrArg _ (leadingZeros_eq _))
    case ctz => exact State.completes_un h rfl (congrArg _ (trailingZeros_eq _))
    case popc => exact State.completes_un h rfl (congrArg _ (popCount_eq _ 64))
    case ext => exact State.completes_un h rfl (extend_eq t _)
    case bfx => exact State.completes_un h rfl (bitField_eq _ _ _ sx)
    case lea => exact State.completes_regOp h rfl (congrArg _ (memAddr_eq_ofInt _ m))

/-- Settles O3: each instruction issues as the operation on registers that its row gives. -/
theorem floatArithmetic : Obligations.FloatArithmetic := by
  unfold Obligations.FloatArithmetic
  intro s g t u rm cond pd d a b c
  refine ⟨fun h => ⟨?fadd, ?fsub, ?fmul, ?fdiv, ?fmin, ?fmax⟩, fun h => ?fcmp, fun h => ?ffma, fun h => ⟨?fsqrt, ?fcvt, ?fcvti, ?icvtf⟩⟩
  case fadd => exact State.completes_regOp h rfl rfl
  case fsub => exact State.completes_regOp h rfl rfl
  case fmul => exact State.completes_regOp h rfl rfl
  case fdiv => exact State.completes_regOp h rfl rfl
  case fmin => exact State.completes_regOp h rfl rfl
  case fmax => exact State.completes_regOp h rfl rfl
  case fcmp => exact State.completes_regOp h rfl rfl
  case ffma => exact State.completes_regOp h rfl rfl
  case fsqrt => exact State.completes_regOp h rfl rfl
  case fcvt => exact State.completes_regOp h rfl rfl
  case fcvti => exact State.completes_regOp h rfl rfl
  case icvtf => exact State.completes_regOp h rfl rfl

end Sys2Proof.Machine

/-! SUPPORT. Proofs: the checks of an instruction's line at fetch (R174). -/

namespace Sys2Proof.Machine

theorem mem_insertNat {n k : Nat} {l : List Nat} : k ∈ insertNat n l ↔ k ∈ l ∨ k = n := by
  induction l with
  | nil => simp [insertNat]
  | cons a t ih =>
    unfold insertNat
    split <;> (try split) <;> simp_all <;> tauto

/-! ### The fetch signature -/

theorem Pkg.noteFetch_ctx (p : Pkg) (x : CtxRef) (key : Nat) :
    ∃ fl, (p.noteFetch x key).ctx x = { p.ctx x with ch := { (p.ctx x).ch with flines := fl } } ∧
      ∀ k, k ∈ fl ↔ k ∈ (p.ctx x).ch.flines ∨ (keySpace key = 0 ∧ k = key) := by
  unfold Pkg.noteFetch
  split
  next h => exact ⟨_, Pkg.ctx_modCtx_same .., fun k => by simp [mem_insertNat, h]⟩
  next h => exact ⟨(p.ctx x).ch.flines, rfl, fun k => by simp [h]⟩

theorem Pkg.noteFetch_ctx_other (p : Pkg) {x y : CtxRef} (h : y ≠ x) (key : Nat) : (p.noteFetch x key).ctx y = p.ctx y := by
  unfold Pkg.noteFetch
  split
  · exact Pkg.ctx_modCtx_other p h _
  · rfl

theorem Pkg.noteFetch_rest (p : Pkg) (x : CtxRef) (key : Nat) : { p.noteFetch x key with cores := [] } = { p with cores := [] } := by
  unfold Pkg.noteFetch
  split <;> rfl

@[simp] theorem Pkg.noteFetch_icache (p : Pkg) (x : CtxRef) (key c : Nat) :
    ((p.noteFetch x key).core c).icache = (p.core c).icache := by
  unfold Pkg.noteFetch
  split
  next =>
    rw [Pkg.modCtx_eq]
    by_cases h : c = x.core
    · rw [h, Pkg.core_setCore_same]; rfl
    · rw [Pkg.core_setCore_other _ h]
  next => rfl

/-! ### The cache -/

theorem Pkg.cacheInstr_find (p : Pkg) (c key : Nat) (l : Line) :
    Tab.find? ((p.modCore c (·.cacheInstr key l)).core c).icache key = some l := by
  rw [Pkg.modCore_eq, Pkg.core_setCore_same]
  exact Tab.find?_put_same ..

theorem Pkg.cacheInstr_ctx (p : Pkg) (c key : Nat) (l : Line) (y : CtxRef) : (p.modCore c (·.cacheInstr key l)).ctx y = p.ctx y :=
  Pkg.ctx_modCore rfl y

@[simp] theorem Pkg.ras_core (p : Pkg) (va space gcid die block reason count c : Nat) :
    (p.ras va space gcid die block reason count).core c = p.core c := by
  obtain ⟨v, d, h⟩ := p.ras_eq va space gcid die block reason count
  rw [h]
  rfl

/-! ### The checks of a line -/

/-- The checks of a line that the cache holds or its home gave (R174). -/
def M.lineChecks (x : CtxRef) (va key : Nat) (l : Line) : M Line := do
  if !zeroBitsOk l then throw (.fault 4 va 0)
  if parityOk l then
    modify fun p => p.modCore x.core (·.cacheInstr key l)
    return l
  else
    let l ← M.fetchHome key
    if !parityOk l then throw (.fault 4 va 0)
    if !zeroBitsOk l then throw (.fault 4 va 0)
    modify fun p => p.modCore x.core (·.cacheInstr key l)
    modify fun p => p.ras va (p.spaceOf x.core) x.gcid (x.core / 64) 4 1 1
    return l

section
variable {p q : Pkg} {x : CtxRef} {pc : Word} {r : Route} {l : Line}

theorem M.fetchLine_no_right (h : p.route (p.spaceOf x.core) (lineOfPc pc) rEXEC = none) :
    (M.fetchLine x pc).run p = .error (.fault 2 (lineOfPc pc) 0) := by
  simp only [M.fetchLine, M.run_bind, M.run_get, h, M.run_throw]

theorem M.fetchLine_doomed {v : Word} (h : p.route (p.spaceOf x.core) (lineOfPc pc) rEXEC = some r)
    (hd : (p.ctx x).doomed r.key = some v) : (M.fetchLine x pc).run p = .error (.fault 9 v.toNat 0) := by
  simp only [M.fetchLine, M.fetchable, M.ctx, M.run_bind, M.run_get, M.run_pure, h, hd, M.run_throw]

theorem M.fetchLine_cached (h : p.route (p.spaceOf x.core) (lineOfPc pc) rEXEC = some r) (hd : (p.ctx x).doomed r.key = none)
    (hl : Tab.find? (p.core x.core).icache r.key = some l) :
    (M.fetchLine x pc).run p = (M.lineChecks x (lineOfPc pc) r.key l).run (p.noteFetch x r.key) := by
  simp only [M.fetchLine, M.fetchable, M.ctx, M.run_bind, M.run_get, M.run_pure, M.run_modify, h, hd, hl]
  rfl

theorem M.fetchLine_missed (h : p.route (p.spaceOf x.core) (lineOfPc pc) rEXEC = some r) (hd : (p.ctx x).doomed r.key = none)
    (hl : Tab.find? (p.core x.core).icache r.key = none) :
    (M.fetchLine x pc).run p = (M.fetchHome r.key >>= M.lineChecks x (lineOfPc pc) r.key).run (p.noteFetch x r.key) := by
  simp only [M.fetchLine, M.fetchable, M.ctx, M.run_bind, M.run_get, M.run_pure, M.run_modify, h, hd, hl]
  rfl

variable (va key : Nat)

theorem M.lineChecks_zeroBits (hz : zeroBitsOk l = false) : (M.lineChecks x va key l).run q = .error (.fault 4 va 0) := by
  simp only [M.lineChecks, M.run_bind, M.run_throw, M.run_pure, M.run_modify, Bool.not_true, Bool.not_false, Bool.false_eq_true, ↓reduceIte, hz]

theorem M.lineChecks_ok (hz : zeroBitsOk l = true) (hp : parityOk l = true) :
    (M.lineChecks x va key l).run q = .ok (l, q.modCore x.core (·.cacheInstr key l)) := by
  simp only [M.lineChecks, M.run_bind, M.run_throw, M.run_pure, M.run_modify, Bool.not_true, Bool.not_false, Bool.false_eq_true, ↓reduceIte, hz, hp]

theorem M.lineChecks_refetch_error {e : Stop_} (hz : zeroBitsOk l = true) (hp : parityOk l = false)
    (he : (M.fetchHome key).run q = .error e) : (M.lineChecks x va key l).run q = .error e := by
  simp only [M.lineChecks, M.run_bind, M.run_throw, M.run_pure, M.run_modify, Bool.not_true, Bool.not_false, Bool.false_eq_true, ↓reduceIte, hz, hp, he]

theorem M.lineChecks_refetch_bad {l2 : Line} {q2 : Pkg} (hz : zeroBitsOk l = true) (hp : parityOk l = false)
    (he : (M.fetchHome key).run q = .ok (l2, q2)) (hbad : parityOk l2 = false ∨ zeroBitsOk l2 = false) :
    (M.lineChecks x va key l).run q = .error (.fault 4 va 0) := by
  cases h2 : parityOk l2 with
  | false => simp only [M.lineChecks, M.run_bind, M.run_throw, M.run_pure, M.run_modify, Bool.not_true, Bool.not_false, Bool.false_eq_true, ↓reduceIte, hz, hp, he, h2]
  | true => simp only [M.lineChecks, M.run_bind, M.run_throw, M.run_pure, M.run_modify, Bool.not_true, Bool.not_false, Bool.false_eq_true, ↓reduceIte, hz, hp, he, h2, hbad.resolve_left (by rw [h2]; decide)]

theorem M.lineChecks_refetch_ok {l2 : Line} {q2 : Pkg} (hz : zeroBitsOk l = true) (hp : parityOk l = false)
    (he : (M.fetchHome key).run q = .ok (l2, q2)) (hp2 : parityOk l2 = true) (hz2 : zeroBitsOk l2 = true) :
    ∃ q', (M.lineChecks x va key l).run q = .ok (l2, q') ∧ Tab.find? (q'.core x.core).icache key = some l2 := by
  refine ⟨_, by simp only [M.lineChecks, M.run_bind, M.run_throw, M.run_pure, M.run_modify, Bool.not_true, Bool.not_false, Bool.false_eq_true, ↓reduceIte, hz, hp, he, hp2, hz2]; rfl, ?_⟩
  rw [Pkg.ras_core, Pkg.cacheInstr_find]

end

/-! ### A line that fails its parity in the cache -/

theorem Pkg.discardBad_ctx (p : Pkg) (x y : CtxRef) : (p.discardBad x).ctx y = p.ctx y := by
  unfold Pkg.discardBad
  split
  · rfl
  split
  · split
    · exact Pkg.ctx_modCore rfl y
    · rfl
  · rfl

/-- Settles O9: what the cache holds, or the home gives, goes through one list of checks (`M.lineChecks`). -/
theorem fetchChecks : Obligations.FetchChecks := by
  unfold Obligations.FetchChecks
  intro p x pc
  dsimp only
  refine ⟨M.fetchLine_no_right, fun r v => M.fetchLine_doomed, fun r h hd => ⟨p.noteFetch_ctx x r.key,
    fun y hy => p.noteFetch_ctx_other hy r.key, p.noteFetch_rest x r.key, fun e hl he => ?missed, fun l q hlq => ?line⟩,
    fun r l hpc h hl => ⟨fun hz hp => ?dropped, fun hp => ?kept, p.discardBad_ctx x⟩, fun l q hlq => ⟨fun i hi hpc => ?decodes, fun e he hpc => ?illegal⟩⟩
  case missed => simp only [M.fetchLine_missed h hd hl, M.run_bind, he]
  case line =>
    have hchecks : (M.fetchLine x pc).run p = (M.lineChecks x (lineOfPc pc) r.key l).run q := by
      rcases hlq with ⟨hl, rfl⟩ | ⟨hl, hhome⟩
      · exact M.fetchLine_cached h hd hl
      · simp only [M.fetchLine_missed h hd hl, M.run_bind, hhome]
    rw [hchecks]
    refine ⟨M.lineChecks_zeroBits _ r.key, fun hz hp => ⟨_, M.lineChecks_ok _ r.key hz hp, Pkg.cacheInstr_find .., Pkg.cacheInstr_ctx q _ _ _, rfl⟩,
      fun hz hp => ⟨fun e => M.lineChecks_refetch_error _ r.key hz hp, fun l2 q2 hhome => ⟨M.lineChecks_refetch_bad _ r.key hz hp hhome,
        M.lineChecks_refetch_ok _ r.key hz hp hhome⟩⟩⟩
  case dropped =>
    simp only [Pkg.discardBad, hpc, h, hl, hz, hp, Bool.not_false, Bool.and_self, if_true, Pkg.modCore_eq, Pkg.core_setCore_same,
      Tab.find?_drop_same]
  case kept => simp [Pkg.discardBad, hpc, h, hl, hp]
  case decodes => exact M.fetch_decodes hpc hlq hi
  case illegal => exact M.fetch_illegal hpc hlq he

end Sys2Proof.Machine

/-! SUPPORT. Proofs: branches and calls (R175, R176, R219). -/

namespace Sys2Proof.Machine

theorem targetC_eq (pc : Word) (off : BitVec 45) (slot : BitVec 3) :
    targetC pc off slot = BitVec.ofInt 64 ((pc.toNat / 64 * 64 : Nat) + 64 * off.toInt + slot.toNat) := by
  have hoff : (off.signExtend 64) <<< 6 = BitVec.ofInt 64 (64 * off.toInt) := by
    rw [BitVec.signExtend, BitVec.shiftLeft_eq_mul_twoPow, Int.mul_comm, BitVec.ofInt_mul]
    rfl
  rw [targetC, hoff, BitVec.ofInt_add, BitVec.ofInt_add, BitVec.ofInt_natCast, BitVec.ofInt_natCast, BitVec.ofNat_toNat]
  rfl

theorem addressForm_iff (u : Word) : addressForm u = true ↔ u.toNat < 2 ^ 56 ∧ u.toNat / 8 % 8 = 0 ∧ u.toNat % 8 ≤ 4 := by
  have := u.isLt
  simp only [addressForm, fld, Nat.shiftRight_eq_div_pow, Bool.and_eq_true, beq_iff_eq, decide_eq_true_eq]
  omega

/-! ### The transfer -/

section
variable {p q : Pkg} {x : CtxRef} {t : Word} {ind : Bool} {l : Line}

theorem M.transfer_target (hform : ind = true → addressForm t = true) (hl : (M.fetchLine x t).run p = .ok (l, q))
    (hbit : targetBit l (slotOfPc t) = true) : (M.transfer x t ind).run p = .ok (t, q) := by
  have h : (ind && !addressForm t) = false := by cases ind <;> simp_all
  simp only [M.transfer, h, Bool.false_eq_true, ↓reduceIte, M.run_bind, M.run_pure, M.run_get, hl, M.run_set, hbit]

theorem M.transfer_no_target (hform : ind = true → addressForm t = true) (hl : (M.fetchLine x t).run p = .ok (l, q))
    (hbit : targetBit l (slotOfPc t) = false) : (M.transfer x t ind).run p = .error (.fault 5 t.toNat 0) := by
  have h : (ind && !addressForm t) = false := by cases ind <;> simp_all
  simp only [M.transfer, h, Bool.false_eq_true, ↓reduceIte, M.run_bind, M.run_pure, M.run_get, hl, M.run_set, hbit, M.run_throw]

theorem M.transfer_unfetched {c n i : Nat} (hform : ind = true → addressForm t = true)
    (hl : (M.fetchLine x t).run p = .error (.fault c n i)) : (M.transfer x t ind).run p = .ok (t, p) := by
  have h : (ind && !addressForm t) = false := by cases ind <;> simp_all
  simp only [M.transfer, h, Bool.false_eq_true, ↓reduceIte, M.run_bind, M.run_pure, M.run_get, hl]

theorem M.transfer_bad_form (hform : addressForm t = false) : (M.transfer x t true).run p = .error (.fault 5 t.toNat 0) := by
  simp only [M.transfer, hform, Bool.not_false, Bool.and_self, ↓reduceIte, M.run_bind, M.run_throw]

end

/-! ### Branches and calls, which differ in their target and their link -/

/-- The package after the link, if any, has been written. -/
def Pkg.linked (q : Pkg) (pc : Word) : Option SReg → Pkg
  | some d => q.withRegs q.cur (·.setS d (seqPc pc))
  | none => q

section
variable {s : State} {q : Pkg} {f : Regs → Word} {ind : Bool} {link : Option SReg} {t : Word}

theorem M.branch_run (h : (M.transfer s.pkg.cur (f s.regs) ind).run s.pkg = .ok (t, q)) :
    (M.branch f ind link).run s.pkg = .ok (.jump t, q.linked s.regs.pc link) := by
  cases link <;> simp only [M.branch, M.run_bind, M.run_me, M.run_r, h, M.run_setS, M.run_pure, Pkg.linked]

theorem M.branch_stops {e : Stop_} (h : (M.transfer s.pkg.cur (f s.regs) ind).run s.pkg = .error e) :
    (M.branch f ind link).run s.pkg = .error e := by
  simp only [M.branch, M.run_bind, M.run_me, M.run_r, h]

variable {i : Instr} {g : Guard} {srcs dsts : List Nat} (hi : exec i s = s.issue { guard := g, srcs, dsts, body := M.branch f ind link })
  (hready : s.ready g srcs dsts)
include hi hready

theorem State.branch_jumps {l : Line} (hform : ind = true → addressForm (f s.regs) = true)
    (hl : (M.fetchLine s.pkg.cur (f s.regs)).run s.pkg = .ok (l, q)) : s.jumps i l (f s.regs) (q.linked s.regs.pc link) := by
  unfold State.jumps
  split
  next hbit =>
    intro hfits
    exact hi.trans (State.issue_body (i := { guard := g, srcs, dsts, body := M.branch f ind link }) hready rfl rfl rfl rfl (M.branch_run (M.transfer_target hform hl hbit)) hfits)
  next hbit =>
    exact hi.trans (State.issue_stops (i := { guard := g, srcs, dsts, body := M.branch f ind link }) hready rfl rfl rfl (M.branch_stops (M.transfer_no_target hform hl (by simpa using hbit))))

theorem State.branch_unfetched {c n k : Nat} (hform : ind = true → addressForm (f s.regs) = true)
    (hl : (M.fetchLine s.pkg.cur (f s.regs)).run s.pkg = .error (.fault c n k)) :
    s.makes i (s.pkg.linked s.regs.pc link) (.jump (f s.regs)) := by
  intro hfits
  exact hi.trans (State.issue_body (i := { guard := g, srcs, dsts, body := M.branch f ind link }) hready rfl rfl rfl rfl (M.branch_run (M.transfer_unfetched hform hl)) hfits)

theorem State.branch_bad_form (hind : ind = true) (hform : addressForm (f s.regs) = false) : s.faults i 5 (f s.regs).toNat 0 := by
  subst hind
  exact hi.trans (State.issue_stops (i := { guard := g, srcs, dsts, body := M.branch f true link }) hready rfl rfl rfl (M.branch_stops (M.transfer_bad_form hform)))

end

/-- Settles O8: branches and calls are one transfer and a link. -/
theorem transfers : Obligations.Transfers := by
  unfold Obligations.Transfers
  intro s g d a off slot pc t u linked
  have hdirect : false = true → addressForm t = true := by simp
  refine ⟨targetC_eq .., fun l q hl => ⟨fun h => ?br, fun h => ?call⟩, fun l q hu hl => ⟨fun h => ?bri, fun h => ?calli⟩,
    fun c n i hl => ⟨fun h => ?brOff, fun h => ?callOff⟩, addressForm_iff u, fun c n i hu hl => ⟨fun h => ?briOff, fun h => ?calliOff⟩,
    fun hu => ⟨fun h => ?briBad, fun h => ?calliBad⟩⟩
  case br => exact State.branch_jumps (f := (targetC ·.pc off slot)) (link := none) rfl h hdirect hl
  case call => exact State.branch_jumps (f := (targetC ·.pc off slot)) (link := some d) rfl h hdirect hl
  case bri => exact State.branch_jumps (f := (·.sr a)) (link := none) rfl h (fun _ => hu) hl
  case calli => exact State.branch_jumps (f := (·.sr a)) (link := some d) rfl h (fun _ => hu) hl
  case brOff => exact State.branch_unfetched (f := (targetC ·.pc off slot)) (link := none) rfl h hdirect hl
  case callOff => exact State.branch_unfetched (f := (targetC ·.pc off slot)) (link := some d) rfl h hdirect hl
  case briOff => exact State.branch_unfetched (f := (·.sr a)) (link := none) rfl h (fun _ => hu) hl
  case calliOff => exact State.branch_unfetched (f := (·.sr a)) (link := some d) rfl h (fun _ => hu) hl
  case briBad => exact State.branch_bad_form (f := (·.sr a)) (link := none) rfl h rfl hu
  case calliBad => exact State.branch_bad_form (f := (·.sr a)) (link := some d) rfl h rfl hu

end Sys2Proof.Machine

/-! SUPPORT. Proofs: retirement (R56, R58, R61, R65, R175, R221). -/

namespace Sys2Proof.Machine

/-! ### Back edges -/

theorem backEdges_eq (r : Regs) (t : Word) (n : Nat) : backEdge r t n = backEdges r t n := by
  induction n generalizing r t with
  | zero => rfl
  | succ n ih =>
    have h0 : (r.lcOf n).toNat ≠ 0 ↔ r.lcOf n ≠ 0 := by
      rw [Ne, Ne, ← BitVec.toNat_inj]
      rfl
    have h1 : r.lcOf n = 1 ↔ (r.lcOf n).toNat = 1 := by
      rw [← BitVec.toNat_inj]
      rfl
    have hpred : r.lcOf n ≠ 0 → r.lcOf n - 1 = BitVec.ofNat 64 ((r.lcOf n).toNat - 1) := fun hz => by
      have := h0.mpr hz
      bv_omega
    unfold backEdge backEdges
    simp only [h0, h1]
    split
    next h =>
      have hpos := h0.mpr h.1
      by_cases hone : (r.lcOf n).toNat = 1
      · simp [hone, ih]
      · have hmore : (r.lcOf n).toNat > 1 := by omega
        rw [if_neg (by exact hone), if_pos hmore, hpred h.1]
    next => exact ih ..

/-! ### What counters, stops and logs leave -/

/-- Changed in spaces, stops and debug rings alone. -/
def Pkg.LogsTo (p q : Pkg) : Prop := ∃ sp st n v, q = { p with spaces := sp, stops := st, stopSeq := n, vis := v }

section
variable {p q r : Pkg}

theorem Pkg.LogsTo.refl (p : Pkg) : Pkg.LogsTo p p := ⟨_, _, _, _, rfl⟩

theorem Pkg.LogsTo.trans (h : p.LogsTo q) (h' : q.LogsTo r) : p.LogsTo r := by
  obtain ⟨_, _, _, _, rfl⟩ := h
  obtain ⟨_, _, _, _, rfl⟩ := h'
  exact ⟨_, _, _, _, rfl⟩

theorem Pkg.LogsTo.foldl {α : Type} {f : Pkg → α → Pkg} (h : ∀ (p : Pkg) a, p.LogsTo (f p a)) (l : List α) (p : Pkg) :
    p.LogsTo (l.foldl f p) := by
  induction l generalizing p with
  | nil => exact .refl p
  | cons a l ih => exact (h p a).trans (ih _)

theorem Pkg.LogsTo.cores (h : p.LogsTo q) : q.cores = p.cores := by
  obtain ⟨_, _, _, _, rfl⟩ := h
  rfl

theorem Pkg.LogsTo.ctx (h : p.LogsTo q) (y : CtxRef) : q.ctx y = p.ctx y := by
  obtain ⟨_, _, _, _, rfl⟩ := h
  rfl

theorem Pkg.LogsTo.fields (h : p.LogsTo q) : q.mem = p.mem ∧ q.log = p.log ∧ q.l2 = p.l2 ∧ q.queues = p.queues ∧ q.free = p.free := by
  obtain ⟨_, _, _, _, rfl⟩ := h
  exact ⟨rfl, rfl, rfl, rfl, rfl⟩

end

theorem Pkg.modSpace_logs (p : Pkg) (s : Nat) (f : Space → Space) : p.LogsTo (p.modSpace s f) := by
  unfold Pkg.modSpace
  split
  · exact ⟨_, _, _, _, rfl⟩
  · exact .refl p

theorem Pkg.advance_logs (p : Pkg) (s ix n : Nat) : p.LogsTo (p.advance s ix n) := by
  unfold Pkg.advance
  split
  · exact .refl p
  · exact p.modSpace_logs s _

theorem Pkg.record_logs (p : Pkg) (s : Nat) (e : BitVec 256) : p.LogsTo (p.record s e) := p.modSpace_logs s _

theorem Pkg.newStop_logs (p : Pkg) (cause tool target dom : Nat) (tasks : List TaskRef) (hits : List Hit) :
    p.LogsTo (p.newStop cause tool target dom tasks hits) := ⟨_, _, _, _, rfl⟩

theorem Pkg.modDring_logs (p : Pkg) (vi : Nat) (f : Ring → Ring) : p.LogsTo (p.modDring vi f) := by
  exact p.modSpace_logs vi _

theorem Pkg.hitIfSet_logs (p : Pkg) (h : Hit) : p.LogsTo (p.hitIfSet h) := by
  unfold Pkg.hitIfSet
  split
  · split
    · unfold Pkg.hit
      dsimp only
      split
      · exact Pkg.LogsTo.trans ⟨_, _, _, _, rfl⟩ (Pkg.modDring_logs _ _ _)
      · split
        · exact ⟨_, _, _, _, rfl⟩
        · exact p.newStop_logs ..
    · exact .refl p
  · exact .refl p

theorem Pkg.skid_logs (p : Pkg) (x : CtxRef) (n : Nat) : p.LogsTo (p.skid x n) := ⟨_, _, _, _, rfl⟩

theorem Pkg.replayStep_logs (p : Pkg) (s : Nat) : p.LogsTo (p.replayStep s) := p.modSpace_logs s _

theorem Pkg.logChunk_logs (p : Pkg) (x : CtxRef) (kind : Nat) (h : Chunk) (w : Word) : p.LogsTo (p.logChunk x kind h w) := by
  unfold Pkg.logChunk
  dsimp only
  generalize hq : Pkg.record (h.outs.foldl _ _) _ _ = q
  have hpq : p.LogsTo q := hq ▸ (Pkg.LogsTo.foldl (fun (p : Pkg) _ => p.record_logs _ _) h.outs p).trans (Pkg.record_logs _ _ _)
  refine hpq.trans ?_
  split
  · exact .refl _
  · split
    · refine Pkg.LogsTo.trans ?_ (Pkg.newStop_logs _ _ _ _ _ _ _)
      split
      · exact Pkg.modSpace_logs _ _ _
      · exact (Pkg.modSpace_logs _ _ _).trans (Pkg.replayStep_logs _ _)
    · exact Pkg.replayStep_logs _ _

/-! ### The end of a cut instruction -/

/-- What the commit of a cut instruction makes of its context. -/
def Ctx.cutDone (c : Ctx) (free : Nat) : Ctx :=
  { c with chunkseq := c.chunkseq + 1, ch := { Chunk.new c.regs with began := free }, wait := none, held := none,
           inCut := false, load := none, excl := none, exclWant := none, nextWant := none, killed := none, st := .running, sqRow := 0,
           sqNext := 0, panDone := 0, panCode := 0, panLane := 0, panCount := 0 }

theorem Pkg.LogsTo.modCtx {p q : Pkg} (h : p.LogsTo q) (x : CtxRef) (f : Ctx → Ctx) : (p.modCtx x f).LogsTo (q.modCtx x f) := by
  obtain ⟨_, _, _, _, rfl⟩ := h
  exact ⟨_, _, _, _, rfl⟩

/-- A cut instruction retires its registers, counts and logs its chunk, and begins the next one. -/
theorem Pkg.finishCut_eq (p : Pkg) (x : CtxRef) (fl : Flow) :
    ∃ q, ((p.modCtx x fun c => { c with regs := c.regs.retire fl }).modCtx x fun c => { c with sqUncounted := 0 }).LogsTo q ∧
      p.finishCut x fl = q.modCtx x (·.cutDone q.free) := by
  unfold Pkg.finishCut
  dsimp only
  refine ⟨_, ?_, rfl⟩
  refine Pkg.LogsTo.trans ?_ (Pkg.logChunk_logs _ x 2 _ _)
  refine Pkg.LogsTo.trans ?_ (Pkg.skid_logs _ x 1)
  refine Pkg.LogsTo.trans ?_ (Pkg.LogsTo.foldl Pkg.hitIfSet_logs _ _)
  refine Pkg.LogsTo.trans ?_ (Pkg.advance_logs _ _ _ _)
  refine Pkg.LogsTo.modCtx ?_ x _
  exact (Pkg.LogsTo.foldl (fun p e => p.advance_logs _ _ _) _ _).trans (Pkg.advance_logs _ _ _ _)

/-! ### Retirement inside a chunk -/

/-- A context whose instruction has retired inside its chunk. -/
def Ctx.stepOn (c : Ctx) (fl : Flow) : Ctx :=
  { c with regs := c.regs.retire fl, ch := { c.ch with count := c.ch.count + 1 }, wait := none, held := none, st := .running }

theorem Pkg.modCtx_core_rest (p : Pkg) (x : CtxRef) (f : Ctx → Ctx) (c : Nat) :
    { (p.modCtx x f).core c with ctxs := [] } = { p.core c with ctxs := [] } := by
  rw [Pkg.modCtx_eq]
  by_cases h : c = x.core
  · rw [h, Pkg.core_setCore_same]
    rfl
  · rw [Pkg.core_setCore_other _ h]

/-- The package once an instruction has retired inside its chunk, before the chunk's length is looked at. -/
def Pkg.stepOn (p : Pkg) (x : CtxRef) (fl : Flow) : Pkg := p.modCtx x (·.stepOn fl)

theorem Pkg.stepOn_ctx (p : Pkg) (x : CtxRef) (fl : Flow) : (p.stepOn x fl).ctx x = (p.ctx x).stepOn fl := Pkg.ctx_modCtx_same ..

theorem Pkg.finishIn_eq (p : Pkg) (x : CtxRef) (fl : Flow) :
    p.finishIn x fl = if (p.stepOn x fl).cutAfter x ((p.ctx x).regs.part != 0) then (p.stepOn x fl).requestCut x else p.stepOn x fl := rfl

/-- An instruction that retires inside its chunk leaves the chunk open, cuts it, or lets the cut wait for the chunk before it. -/
theorem Pkg.finishIn_cases (p : Pkg) (x : CtxRef) (fl : Flow) :
    (p.finishIn x fl = p.stepOn x fl ∧ ((p.stepOn x fl).ctx x).ch.count < ((p.stepOn x fl).ctx x).regs.chunklen.toNat) ∨
    (p.finishIn x fl = (p.stepOn x fl).ask x ∧ ((p.stepOn x fl).ctx x).req = none ∧ ((p.stepOn x fl).ctx x).inflight = none) ∨
    p.finishIn x fl = (p.stepOn x fl).modCtx x fun c => { c with phase := .requested } := by
  have hcount : ((p.stepOn x fl).ctx x).ch.count ≠ 0 := by simp [Pkg.stepOn_ctx, Ctx.stepOn]
  rw [Pkg.finishIn_eq]
  split
  next =>
    rw [Pkg.requestCut]
    simp only [hcount, ↓reduceIte]
    split
    next h =>
      rw [Bool.and_eq_true, Option.isNone_iff_eq_none, Option.isNone_iff_eq_none] at h
      exact .inr (.inl ⟨rfl, h⟩)
    next => exact .inr (.inr rfl)
  next h =>
    refine .inl ⟨rfl, ?_⟩
    simp only [Pkg.cutAfter, Bool.or_eq_true, not_or, decide_eq_true_eq] at h
    omega

/-- What a change of one context, and of the reservation queue, keeps. -/
structure Pkg.Keeps (p q : Pkg) (x : CtxRef) : Prop where
  others : ∀ y, y ≠ x → q.ctx y = p.ctx y
  cores : ∀ c, { q.core c with ctxs := [] } = { p.core c with ctxs := [] }
  rest : ∃ ks e n r, q = { p with cores := ks, exclQ := e, free := n, req := r }

theorem Pkg.Keeps.trans {p q r : Pkg} {x : CtxRef} (h : p.Keeps q x) (h' : q.Keeps r x) : p.Keeps r x where
  others y hy := (h'.others y hy).trans (h.others y hy)
  cores c := (h'.cores c).trans (h.cores c)
  rest := by
    obtain ⟨_, _, _, _, rfl⟩ := h.rest
    obtain ⟨_, _, _, _, rfl⟩ := h'.rest
    exact ⟨_, _, _, _, rfl⟩

theorem Pkg.Keeps.modCtx (p : Pkg) (x : CtxRef) (f : Ctx → Ctx) : p.Keeps (p.modCtx x f) x where
  others _ hy := Pkg.ctx_modCtx_other p hy f
  cores := p.modCtx_core_rest x f
  rest := ⟨_, _, _, _, rfl⟩

theorem Pkg.stepOn_keeps (p : Pkg) (x : CtxRef) (fl : Flow) : p.Keeps (p.stepOn x fl) x := Pkg.Keeps.modCtx p x _

theorem Pkg.core_of_cores {p q : Pkg} (h : q.cores = p.cores) (c : Nat) : q.core c = p.core c := by rw [Pkg.core, h, ← Pkg.core]
theorem Pkg.ctx_of_cores {p q : Pkg} (h : q.cores = p.cores) (y : CtxRef) : q.ctx y = p.ctx y := by
  rw [Pkg.ctx, Pkg.core_of_cores h, ← Pkg.ctx]

theorem Pkg.ask_cores (p : Pkg) (x : CtxRef) : (p.ask x).cores = (p.modCtx x (·.ask p.free p.pt)).cores := rfl

theorem Pkg.Keeps.ask (p : Pkg) (x : CtxRef) : p.Keeps (p.ask x) x where
  others _ hy := (Pkg.ctx_of_cores (p.ask_cores x) _).trans (Pkg.ctx_modCtx_other p hy _)
  cores c := by
    rw [Pkg.core_of_cores (p.ask_cores x)]
    exact p.modCtx_core_rest x _ c
  rest := ⟨_, _, _, _, rfl⟩

theorem Pkg.Keeps.seal {p : Pkg} (h : p.log = []) (x : CtxRef) : p.Keeps p.seal x where
  others _ _ := rfl
  cores _ := rfl
  rest := ⟨p.cores, p.exclQ, p.free + 1, none, by
    have hmem : applyLog p.log p.mem = p.mem := by rw [h]; rfl
    rw [Pkg.seal, hmem, ← h]⟩

theorem Pkg.Keeps.fields {p q : Pkg} {x : CtxRef} (h : p.Keeps q x) :
    { q with cores := [], exclQ := [], free := 0, req := none } = { p with cores := [], exclQ := [], free := 0, req := none } ∧
      q.log = p.log ∧ q.cur = p.cur := by
  obtain ⟨_, _, _, _, rfl⟩ := h.rest
  exact ⟨rfl, rfl, rfl⟩

theorem Pkg.ask_ctx (p : Pkg) (x : CtxRef) : (p.ask x).ctx x = (p.ctx x).ask p.free p.pt :=
  (Pkg.ctx_of_cores (p.ask_cores x) x).trans (Pkg.ctx_modCtx_same ..)

theorem Pkg.ask_exclQ (p : Pkg) (x : CtxRef) :
    (p.ask x).exclQ = match (p.ctx x).nextWant with
      | some l => p.exclQ ++ [(x, l)]
      | none => p.exclQ := rfl

section
variable (s : State) (f : Regs → Regs) (fl : Flow)

/-- The package of `Pkg.stepOn`, of an instruction that changes its registers. -/
def State.stepped : Pkg := (s.pkg.withRegs s.pkg.cur f).stepOn s.pkg.cur fl

theorem State.stepped_ctx : (s.stepped f fl).ctx s.pkg.cur = Ctx.stepOn { s.ctx with regs := f s.regs } fl := by
  rw [State.stepped, Pkg.stepOn_ctx, Pkg.withRegs, Pkg.ctx_modCtx_same]
  rfl

theorem State.stepped_keeps : s.pkg.Keeps (s.stepped f fl) s.pkg.cur :=
  Pkg.Keeps.trans (q := s.pkg.withRegs s.pkg.cur f) (.modCtx _ _ _) (Pkg.stepOn_keeps _ _ _)

theorem State.retired_pkg : (s.retired f fl).pkg = ((s.pkg.withRegs s.pkg.cur f).finishIn s.pkg.cur fl).seal := rfl

theorem State.retired_fuses : (s.retired f fl).fuses = s.fuses := by rw [State.retired, State.retiredOn]
theorem State.retired_prov : (s.retired f fl).prov = s.prov := by rw [State.retired, State.retiredOn]

theorem State.stepped_exclQ : (s.stepped f fl).exclQ = s.pkg.exclQ := by
  rw [State.stepped, Pkg.stepOn, Pkg.withRegs, Pkg.modCtx_exclQ, Pkg.modCtx_exclQ]
theorem State.stepped_free : (s.stepped f fl).free = s.pkg.free := by
  rw [State.stepped, Pkg.stepOn, Pkg.withRegs, Pkg.modCtx_free, Pkg.modCtx_free]
theorem State.stepped_pt : (s.stepped f fl).pt = s.pkg.pt := by
  rw [State.stepped, Pkg.stepOn, Pkg.withRegs, Pkg.modCtx_pt, Pkg.modCtx_pt]

/-- The package that a retirement leaves, by what becomes of its chunk. -/
theorem State.retired_cases :
    ((s.retired f fl).pkg = (s.stepped f fl).seal ∧
      ((s.stepped f fl).ctx s.pkg.cur).ch.count < ((s.stepped f fl).ctx s.pkg.cur).regs.chunklen.toNat) ∨
    ((s.retired f fl).pkg = ((s.stepped f fl).ask s.pkg.cur).seal ∧
      ((s.stepped f fl).ctx s.pkg.cur).req = none ∧ ((s.stepped f fl).ctx s.pkg.cur).inflight = none) ∨
    (s.retired f fl).pkg = ((s.stepped f fl).modCtx s.pkg.cur fun c => { c with phase := .requested }).seal := by
  rw [State.retired_pkg]
  rcases (s.pkg.withRegs s.pkg.cur f).finishIn_cases s.pkg.cur fl with h | h | h
  · exact .inl ⟨congrArg Pkg.seal h.1, h.2⟩
  · exact .inr (.inl ⟨congrArg Pkg.seal h.1, h.2⟩)
  · exact .inr (.inr (congrArg Pkg.seal h))

theorem State.retired_keeps (h : s.pkg.log = []) : s.pkg.Keeps (s.retired f fl).pkg s.pkg.cur := by
  have hs := s.stepped_keeps f fl
  rcases s.retired_cases f fl with ⟨he, -⟩ | ⟨he, -⟩ | he
  · rw [he]
    exact hs.trans (.seal (hs.fields.2.1.trans h) _)
  · have hs := hs.trans (Pkg.Keeps.ask _ _)
    rw [he]
    exact hs.trans (.seal (hs.fields.2.1.trans h) _)
  · have hs := hs.trans (Pkg.Keeps.modCtx _ _ fun c => { c with phase := .requested })
    rw [he]
    exact hs.trans (.seal (hs.fields.2.1.trans h) _)

end

theorem backEdges_retired (r : Regs) (t : Word) (n : Nat) : (backEdges r t n).1.retired = r.retired := by
  induction n generalizing r with
  | zero => rfl
  | succ n ih =>
    unfold backEdges
    split
    · split
      · rfl
      · exact ih _
    · exact ih _

/-- What becomes of the running chunk of an instruction that retires, and of the reservation queue. -/
theorem State.retired_chunk (s : State) (f : Regs → Regs) (fl : Flow) (hlog : s.pkg.log = []) :
    let t := s.retired f fl
    let h := { s.ctx.ch with count := s.ctx.ch.count + 1 }
    t.regs = (f s.regs).retire fl ∧
    ((t.ctx.ch = h ∧ t.ctx.req = s.ctx.req ∧ (t.ctx.phase = .open → h.count < t.regs.chunklen.toNat)) ∨
      (t.ctx.req = some h ∧ t.ctx.phase = .open ∧ t.ctx.ch = { Chunk.new t.regs with began := s.pkg.free } ∧ s.ctx.req = none ∧
        s.ctx.inflight = none)) ∧
    (t.pkg.exclQ = s.pkg.exclQ ∨
      ∃ l, s.ctx.nextWant = some l ∧ t.ctx.exclWant = some l ∧ t.ctx.st = .waiting ∧ t.pkg.exclQ = s.pkg.exclQ ++ [(s.pkg.cur, l)]) := by
  intro t h
  have hcur : t.pkg.cur = s.pkg.cur := (s.retired_keeps f fl hlog).fields.2.2
  have hstep := s.stepped_ctx f fl
  have hcase := s.retired_cases f fl
  simp only [hstep] at hcase
  rcases hcase with ⟨he, hlt⟩ | ⟨he, hreq, hfl⟩ | he
  · have hctx : t.ctx = Ctx.stepOn { s.ctx with regs := f s.regs } fl := by
      rw [State.ctx, hcur, he, Pkg.seal_ctx, hstep]
    rw [State.regs, hctx]
    exact ⟨rfl, .inl ⟨rfl, rfl, fun _ => hlt⟩, .inl (by rw [he, Pkg.seal_exclQ, s.stepped_exclQ f fl])⟩
  · have hctx : t.ctx = (Ctx.stepOn { s.ctx with regs := f s.regs } fl).ask s.pkg.free s.pkg.pt := by
      rw [State.ctx, hcur, he, Pkg.seal_ctx, Pkg.ask_ctx, hstep, s.stepped_free f fl, s.stepped_pt f fl]
    rw [State.regs, hctx]
    refine ⟨rfl, .inr ⟨rfl, rfl, rfl, hreq, hfl⟩, ?_⟩
    have hq : t.pkg.exclQ = ((s.stepped f fl).ask s.pkg.cur).exclQ := by rw [he, Pkg.seal_exclQ]
    rw [hq, Pkg.ask_exclQ, hstep]
    have hold := s.stepped_exclQ f fl
    cases hn : s.ctx.nextWant with
    | none => exact .inl (by simp only [Ctx.stepOn, hn, hold])
    | some l => exact .inr ⟨l, rfl, by simp only [Ctx.stepOn, Ctx.ask, hn, hold, Option.isSome_some, ↓reduceIte, and_self]⟩
  · have hctx : t.ctx = { Ctx.stepOn { s.ctx with regs := f s.regs } fl with phase := .requested } := by
      rw [State.ctx, hcur, he, Pkg.seal_ctx, Pkg.ctx_modCtx_same, hstep]
    rw [State.regs, hctx]
    exact ⟨rfl, .inl ⟨rfl, rfl, fun hp => by cases hp⟩, .inl (by rw [he, Pkg.seal_exclQ, Pkg.modCtx_exclQ, s.stepped_exclQ f fl])⟩

/-- Settles O5: an instruction inside a chunk changes its context, and the reservation queue where its chunk is cut
(`Pkg.finishIn_cases`); a cut instruction changes its context and what counts and logs it (`Pkg.finishCut_eq`). -/
theorem retirement : Obligations.Retirement := by
  unfold Obligations.Retirement
  refine ⟨fun r t => ?flow, fun s f fl hlog => ?inside, fun s f fl => ?cut⟩
  case flow =>
    have hseq : seqPc r.pc = if r.pc.toNat % 8 = 4 then r.pc + 60 else r.pc + 1 := rfl
    simp only [Regs.retire, backEdges_eq, hseq, backEdges_retired, and_self]
  case inside =>
    have hk := s.retired_keeps f fl hlog
    obtain ⟨hregs, hchunk, hexcl⟩ := s.retired_chunk f fl hlog
    exact ⟨hregs, hchunk, hk.others, hk.cores, hk.fields.1, hexcl, s.retired_fuses f fl, s.retired_prov f fl⟩
  case cut =>
    intro x t c
    obtain ⟨q, hq, he⟩ := (s.pkg.withRegs x f).finishCut_eq x fl
    have ht : t.pkg = (q.modCtx x (·.cutDone q.free)).seal := congrArg Pkg.seal he
    have hc : t.pkg.ctx x = (q.ctx x).cutDone q.free := by rw [ht, Pkg.seal_ctx, Pkg.ctx_modCtx_same]
    have hctx : q.ctx x = { s.ctx with regs := (f s.regs).retire fl, sqUncounted := 0 } := by
      rw [hq.ctx, Pkg.ctx_modCtx_same, Pkg.ctx_modCtx_same, Pkg.withRegs, Pkg.ctx_modCtx_same]
      rfl
    rw [show c = _ from hc, hctx]
    obtain ⟨hm, hl, h2, hqu, -⟩ := hq.fields
    simp only [Pkg.withRegs, Pkg.modCtx_mem, Pkg.modCtx_log, Pkg.modCtx_l2, Pkg.modCtx_queues] at hm hl h2 hqu
    refine ⟨rfl, rfl, rfl, rfl, rfl, rfl, rfl, rfl, rfl, rfl, fun y hy => ?_, ?_, ?_, ?_⟩
    · rw [ht, Pkg.seal_ctx, Pkg.ctx_modCtx_other q hy, hq.ctx, Pkg.ctx_modCtx_other _ hy, Pkg.ctx_modCtx_other _ hy, Pkg.withRegs,
        Pkg.ctx_modCtx_other _ hy]
    · rw [ht]
      simp only [Pkg.seal, Pkg.modCtx_mem, Pkg.modCtx_log, hm, hl]
    · rw [ht, Pkg.seal_l2, Pkg.modCtx_l2, h2]
    · rw [ht, Pkg.seal_queues, Pkg.modCtx_queues, hqu]

end Sys2Proof.Machine

/-! SUPPORT. Proofs: precise faults and the end of a task (R69, R74, R332). -/

namespace Sys2Proof.Machine

/-- Of what `Pkg.Keeps` leaves open, a cut changes the cores and the reservation queue. -/
theorem Pkg.requestCut_rest (p : Pkg) (x : CtxRef) :
    { p.requestCut x with cores := [], exclQ := [] } = { p with cores := [], exclQ := [] } := by
  unfold Pkg.requestCut
  dsimp only
  split
  · rfl
  · split <;> rfl

/-! ### Taking a fault -/

/-- The registers with which a handler is entered (R332). -/
def Regs.trapped (r : Regs) (cause info : Nat) (addr : Word) : Regs :=
  { r with trappc := r.pc, trapcause := BitVec.ofNat 64 (2 ^ 31 + cause), trapaddr := addr, trapinfo := BitVec.ofNat 64 info,
           pc := r.trapvec, part := 0 }

/-- What the entry of a handler makes of a context. -/
def Ctx.trapped (c : Ctx) (r : Regs) (free : Nat) : Ctx :=
  { c with regs := r, ch := { Chunk.new r with began := free }, due := none, killed := none, wait := none, held := none,
           inCut := false, load := none, panDone := 0, panCode := 0, panLane := 0, panCount := 0,
           st := if c.st = .waiting ∨ c.st = .held then .running else c.st }

theorem Pkg.takeFault_handled {p : Pkg} {x : CtxRef} (cause info : Nat) (addr : Word)
    (hactive : (p.ctx x).regs.trapcause.getLsbD 31 = false) (hvec : (p.ctx x).regs.trapvec ≠ 0) :
    p.takeFault x cause addr info = (p.modCtx x (Ctx.endStepBy · 2)).modCtx x
      (·.trapped ((p.ctx x).regs.trapped cause info addr) (p.modCtx x (Ctx.endStepBy · 2)).free) := by
  unfold Pkg.takeFault
  simp only [hactive, hvec, decide_false, Bool.or_self, Bool.false_eq_true, ↓reduceIte]
  rfl

theorem Pkg.modCtx_rest (p : Pkg) (x : CtxRef) (f : Ctx → Ctx) : { p.modCtx x f with cores := [] } = { p with cores := [] } := rfl

theorem Pkg.takeFault_unhandled {p : Pkg} {x : CtxRef} (cause info : Nat) (addr : Word)
    (h : (p.ctx x).regs.trapcause.getLsbD 31 = true ∨ (p.ctx x).regs.trapvec = 0) :
    p.takeFault x cause addr info =
      ((p.modCtx x (Ctx.endStepBy · 2)).breakStep x 2).endTask x.core cause x.gcid (p.ctx x).regs.pc := by
  unfold Pkg.takeFault
  rw [if_pos (by simpa using h)]

/-! ### The contexts of a core whose task ends -/

theorem Pkg.ctx_freeCtx_same (p : Pkg) (x : CtxRef) : ((p.freeCtx x).ctx x).st = .free := by
  unfold Pkg.freeCtx
  rw [Pkg.ctx, Pkg.modCore_eq, Pkg.core_setCore_same]
  exact congrArg Ctx.st (Core.ctx_setCtx_same ..)

theorem Pkg.ctx_freeCtx_other (p : Pkg) {x y : CtxRef} (h : y ≠ x) : (p.freeCtx x).ctx y = p.ctx y := by
  unfold Pkg.freeCtx
  rw [Pkg.ctx, Pkg.modCore_eq]
  by_cases hc : y.core = x.core
  · have hs : y.slot ≠ x.slot := fun hs => h (by cases x; cases y; simp_all)
    rw [hc, Pkg.core_setCore_same]
    exact (Core.ctx_setCtx_other _ hs _).trans (by rw [← hc]; rfl)
  · rw [Pkg.core_setCore_other _ hc]
    rfl

theorem Pkg.foldl_freeCtx_st {x : CtxRef} (l : List CtxRef) (p : Pkg) (h : x ∈ l ∨ (p.ctx x).st = .free) :
    ((l.foldl Pkg.freeCtx p).ctx x).st = .free := by
  induction l generalizing p with
  | nil => exact h.resolve_left (by simp)
  | cons y l ih =>
    refine ih _ ?_
    by_cases hxy : x = y
    · exact .inr (hxy ▸ p.ctx_freeCtx_same x)
    · rw [p.ctx_freeCtx_other hxy]
      exact h.imp_left fun hm => (List.mem_cons.mp hm).resolve_left hxy

theorem mem_coreCtxs {core n : Nat} (h : n < 11) : (⟨core, n⟩ : CtxRef) ∈ coreCtxs core :=
  List.mem_map.mpr ⟨n, List.mem_range.mpr h, rfl⟩

/-- A core whose task ends. -/
def Core.ended (k : Core) (cause gcid : Nat) (pc : Word) (silent : Bool) : Core :=
  { k with task := k.task.map fun t => { t with ended := some (cause, gcid, pc), silent }, vq := [], mq := [], preempt := false }

theorem Core.ended_ctxs (k : Core) (cause gcid : Nat) (pc : Word) (silent : Bool) : (k.ended cause gcid pc silent).ctxs = k.ctxs := rfl
theorem Core.ended_queues (k : Core) (cause gcid : Nat) (pc : Word) (silent : Bool) :
    (k.ended cause gcid pc silent).vq = [] ∧ (k.ended cause gcid pc silent).mq = [] := ⟨rfl, rfl⟩
theorem Core.ended_task (k : Core) (cause gcid : Nat) (pc : Word) (silent : Bool) :
    (k.ended cause gcid pc silent).task = k.task.map fun t => { t with ended := some (cause, gcid, pc), silent } := rfl

theorem Pkg.endOne_eq {p : Pkg} {core : Nat} {t : Task} (cause gcid : Nat) (pc : Word) (silent : Bool)
    (ht : (p.core core).task = some t) (he : t.ended = none) :
    ∃ r, p.endOne cause gcid pc silent core = ((coreCtxs core).foldl Pkg.freeCtx r).modCore core (·.ended cause gcid pc silent) := by
  unfold Pkg.endOne
  simp only [ht, he, Option.isSome_none, Bool.false_eq_true, ↓reduceIte]
  exact ⟨_, rfl⟩

theorem Pkg.endTask_bars (p : Pkg) (core cause gcid : Nat) (pc : Word) (silent : Bool) :
    ∀ b ∈ (p.endTask core cause gcid pc silent).bars, some b.2.gang ≠ p.gangOf core := by
  intro b hb
  have := (List.mem_filter.mp hb).2
  simpa using this

/-! ### A fault that waits for its prefix -/

theorem Pkg.requestCut_empty {p : Pkg} {x : CtxRef} (h : (p.ctx x).ch.count = 0) : p.requestCut x = p := by
  unfold Pkg.requestCut
  simp only [h, ↓reduceIte]

theorem Pkg.requestCut_asks {p : Pkg} {x : CtxRef} (h : (p.ctx x).ch.count ≠ 0) (hreq : (p.ctx x).req = none)
    (hfl : (p.ctx x).inflight = none) : p.requestCut x = p.ask x := by
  unfold Pkg.requestCut
  simp only [h, hreq, hfl, Option.isNone_none, Bool.and_self, ↓reduceIte]

theorem Pkg.requestCut_waits {p : Pkg} {x : CtxRef} (h : (p.ctx x).ch.count ≠ 0)
    (hbusy : (p.ctx x).req ≠ none ∨ (p.ctx x).inflight ≠ none) :
    p.requestCut x = p.modCtx x fun c => { c with phase := .requested } := by
  have hb : ((p.ctx x).req.isNone && (p.ctx x).inflight.isNone) = false := by
    rcases hbusy with hb | hb <;> simp [Option.isNone_eq_false_iff, Option.isSome_iff_ne_none, hb]
  unfold Pkg.requestCut
  simp only [h, hb, Bool.false_eq_true, ↓reduceIte]

theorem Pkg.requestCut_keeps (p : Pkg) (x : CtxRef) : p.Keeps (p.requestCut x) x := by
  unfold Pkg.requestCut
  dsimp only
  split
  · exact ⟨fun _ _ => rfl, fun _ => rfl, _, _, _, _, rfl⟩
  · split
    · exact .ask p x
    · exact .modCtx p x _

theorem Pkg.requestCut_regs (p : Pkg) (x : CtxRef) :
    ((p.requestCut x).ctx x).regs = (p.ctx x).regs ∧ ((p.requestCut x).ctx x).due = (p.ctx x).due := by
  unfold Pkg.requestCut
  dsimp only
  split
  · exact ⟨rfl, rfl⟩
  · split
    · rw [Pkg.ask_ctx]
      exact ⟨rfl, rfl⟩
    · rw [Pkg.ctx_modCtx_same]
      exact ⟨rfl, rfl⟩

theorem Pkg.requestCut_exclQ (p : Pkg) (x : CtxRef) :
    (p.requestCut x).exclQ = p.exclQ ∨
      ∃ l, (p.ctx x).nextWant = some l ∧ ((p.requestCut x).ctx x).exclWant = some l ∧ (p.requestCut x).exclQ = p.exclQ ++ [(x, l)] := by
  unfold Pkg.requestCut
  dsimp only
  split
  · exact .inl rfl
  · split
    · rw [Pkg.ask_ctx, Pkg.ask_exclQ]
      cases h : (p.ctx x).nextWant with
      | none => exact .inl rfl
      | some l => exact .inr ⟨l, rfl, h, rfl⟩
    · exact .inl (Pkg.modCtx_exclQ ..)

/-- A package whose context has a fault that waits for the prefix. -/
def Pkg.withDue (p : Pkg) (x : CtxRef) (d : Nat × Word × Nat) : Pkg := p.modCtx x fun c => { c with due := some d }

theorem Pkg.withDue_ctx (p : Pkg) (x : CtxRef) (d : Nat × Word × Nat) : (p.withDue x d).ctx x = { p.ctx x with due := some d } :=
  Pkg.ctx_modCtx_same ..

theorem Pkg.fault_eq (p : Pkg) (x : CtxRef) (cause : Nat) (addr : Word) (info : Nat) :
    p.fault x cause addr info =
      if (p.ctx x).idle then p.takeFault x cause addr info else (p.withDue x (cause, addr, info)).requestCut x := rfl

theorem Ctx.idle_iff (c : Ctx) : c.idle = true ↔ c.ch.count = 0 ∧ c.req = none ∧ c.inflight = none := by
  simp [Ctx.idle, and_assoc]

/-- Settles O12: a fault that is taken changes its context or ends the task; one that waits cuts the chunk (`Pkg.requestCut`). -/
theorem faultsAndTaskEnd : Obligations.FaultsAndTaskEnd := by
  unfold Obligations.FaultsAndTaskEnd
  refine ⟨fun p x cause info addr => ?taken, fun p core cause gcid pc silent => ⟨fun t ht he => ?ended, p.endTask_bars core cause gcid pc silent⟩,
    fun p x cause info addr => ⟨(p.ctx x).idle_iff, fun hidle => ?atOnce, fun hbusy => ?waits⟩⟩
  case taken =>
    refine ⟨fun hactive hvec => ?_, Pkg.takeFault_unhandled cause info addr⟩
    rw [Pkg.takeFault_handled cause info addr hactive hvec, Pkg.ctx_modCtx_same]
    exact ⟨rfl, rfl, rfl, rfl, fun y hy => (Pkg.ctx_modCtx_other _ hy _).trans (Pkg.ctx_modCtx_other p hy _),
      (Pkg.modCtx_rest _ x _).trans (Pkg.modCtx_rest p x _)⟩
  case ended =>
    obtain ⟨r, hr⟩ := Pkg.endOne_eq cause gcid pc silent ht he
    rw [hr]
    refine ⟨fun n hn => ?_, ?_, ?_, fun u hu => ?_⟩
    · rw [Pkg.ctx_modCore (Core.ended_ctxs ..)]
      exact Pkg.foldl_freeCtx_st _ _ (.inl (mem_coreCtxs hn))
    · rw [Pkg.modCore_eq, Pkg.core_setCore_same, (Core.ended_queues ..).1]
    · rw [Pkg.modCore_eq, Pkg.core_setCore_same, (Core.ended_queues ..).2]
    · rw [Pkg.modCore_eq, Pkg.core_setCore_same, Core.ended_task] at hu
      obtain ⟨v, -, rfl⟩ := Option.map_eq_some_iff.mp hu
      exact ⟨rfl, rfl⟩
  case atOnce => rw [Pkg.fault_eq, if_pos hidle]
  case waits =>
    have hq : p.fault x cause addr info = (p.withDue x (cause, addr, info)).requestCut x := by
      rw [Pkg.fault_eq, if_neg (by simp [hbusy])]
    have hd := p.withDue_ctx x (cause, addr, info)
    have hk : p.Keeps (p.withDue x (cause, addr, info)) x := .modCtx p x _
    have hexcl : (p.withDue x (cause, addr, info)).exclQ = p.exclQ := Pkg.modCtx_exclQ ..
    have hrest : { p.withDue x (cause, addr, info) with cores := [], exclQ := [] } = { p with cores := [], exclQ := [] } := rfl
    generalize p.withDue x (cause, addr, info) = d at hq hd hk hexcl hrest
    have hkeeps := hk.trans (d.requestCut_keeps x)
    obtain ⟨hregs, hdue⟩ := d.requestCut_regs x
    have hx := d.requestCut_exclQ x
    rw [hexcl, hd] at hx
    rw [hd] at hregs hdue
    rw [hq]
    refine ⟨hdue, hregs, hkeeps.others, ?_, hx, fun hc hreq hfl => ?_, fun hc => ?_, fun hc hb => ?_⟩
    · exact (d.requestCut_rest x).trans hrest
    · rw [Pkg.requestCut_asks (by rwa [hd]) (by rwa [hd]) (by rwa [hd]), Pkg.ask_ctx, hd]
      exact ⟨rfl, rfl⟩
    · rw [Pkg.requestCut_empty (by rwa [hd]), hd]
      exact ⟨rfl, rfl⟩
    · rw [Pkg.requestCut_waits (by rwa [hd]) (by rwa [hd]), Pkg.ctx_modCtx_same, hd]
      exact ⟨rfl, rfl, rfl⟩

end Sys2Proof.Machine

/-! SUPPORT. Proofs: reads after writes of the register files (R55, R180, R204, R271, R273, R298). -/

namespace Sys2Proof.Machine

/-! ### Predicates -/

theorem Regs.pr_setP (r : Regs) (p q : PReg) (b : Bool) :
    (r.setP p b).pr q = (if q = 0 then true else if q = p then b else r.pr q) := by
  have hbit : ∀ (x : BitVec 8) (p q : BitVec 3) (b : Bool),
      (if b = true then x ||| (1#8 <<< p.toNat) else x &&& ~~~(1#8 <<< p.toNat)).getLsbD q.toNat = if q = p then b else x.getLsbD q.toNat := by
    intro x p q b
    have hp := p.isLt
    have hq := q.isLt
    have heq : q = p ↔ q.toNat = p.toNat := BitVec.toNat_inj.symm
    cases b
    all_goals
      simp only [Bool.false_eq_true, ↓reduceIte, BitVec.getLsbD_or, BitVec.getLsbD_and, BitVec.getLsbD_not, BitVec.getLsbD_shiftLeft,
        BitVec.getLsbD_one, heq]
      rcases Nat.lt_trichotomy q.toNat p.toNat with h | h | h
      · simp [h, Nat.ne_of_lt h]
        try omega
      · simp [h]
        try omega
      · have h0 : q.toNat - p.toNat ≠ 0 := by omega
        simp [h0, Nat.ne_of_gt h]
        try omega
  unfold Regs.setP Regs.pr
  by_cases hq : q = 0
  · simp [hq]
  by_cases hp : p = 0
  · have hqp : q ≠ p := hp ▸ hq
    simp only [hp, ↓reduceIte, hq, beq_eq_false_iff_ne.mpr hq]
  · simp only [hp, hq, ↓reduceIte]
    have hb := hbit r.p p q b
    simp only [hb, beq_eq_false_iff_ne.mpr hq, Bool.false_or]

/-! ### Lanes -/

theorem setLanesGo_lane (f : Nat → Option (BitVec 32)) (v : Nat) (r : Regs) (n w j : Nat) (hj : j < 64) (hn : n ≤ 64) :
    (setLanesGo f v r n).lane w j = if w = v ∧ j < n then (f j).getD (r.lane w j) else r.lane w j := by
  induction n with
  | zero => simp [setLanesGo]
  | succ n ih =>
    have ih := ih (by omega)
    have hn64 : n < 64 := by omega
    unfold setLanesGo
    split
    next x hx =>
      rw [Regs.lane_setLane, ih]
      by_cases hat : w = v ∧ j = n
      · obtain ⟨rfl, rfl⟩ := hat
        simp [hx]
      · have hne : ¬ 64 * w + j = 64 * v + n := by omega
        have hlt : w = v ∧ j < n ↔ w = v ∧ j < n + 1 := by omega
        rw [if_neg hne]
        simp only [hlt]
    next hx =>
      rw [ih]
      by_cases hjn : j = n
      · subst hjn; simp [hx]
      · have : j < n ↔ j < n + 1 := by omega
        simp [this]

theorem setLanesGo_rest (f : Nat → Option (BitVec 32)) (v : Nat) (r : Regs) (n : Nat) : { setLanesGo f v r n with v := r.v } = r := by
  induction n with
  | zero => rfl
  | succ n ih =>
    unfold setLanesGo
    split
    · exact ih
    · exact ih

theorem Regs.setLanes_lane (r : Regs) (v : Nat) (f : Nat → Option (BitVec 32)) {w j : Nat} (hj : j < 64) :
    (r.setLanes v f).lane w j = if w = v then (f j).getD (r.lane w j) else r.lane w j := by
  rw [Regs.setLanes, setLanesGo_lane f v r 64 w j hj (Nat.le_refl 64)]
  simp only [hj, and_true]

theorem Regs.mapLanes_lane (r : Regs) (mk : Option SReg) (d : VReg) (f : Nat → BitVec 32) {j : Nat} (hj : j < 64) :
    (r.mapLanes mk d f).lane d.toNat j = if laneOn r mk j = true then f j else r.lane d.toNat j := by
  rw [Regs.mapLanes, Regs.setLanes_lane _ _ _ hj, if_pos rfl]
  split <;> rfl

/-! ### Tokens: the checks of sources and destinations -/

section
variable {s : State} {ins : Ins}

/-- A source whose token its own chunk made pending cuts the chunk; another pending one waits for its token. -/
theorem M.checks_sources (hv : ins.vsrcs = []) (hd : ins.vdsts = []) {e : Stop_}
    (hsrc : (M.sources s.pkg.cur ins.srcs).run s.pkg = .error e) : (ins.run s.pkg.cur).run s.pkg = .error e := by
  simp only [Ins.run, M.checks, M.run_bind, M.run_get, hv, hd, List.append_nil, List.any_nil, Bool.false_eq_true, ↓reduceIte, M.run_pure,
    hsrc]

theorem M.checks_dsts (hv : ins.vsrcs = []) (hd : ins.vdsts = []) (hsrc : ∀ r ∈ ins.srcs, (Tab.find? s.regs.pend r).isNone = true)
    (howes : (s.pkg.core s.pkg.cur.core).owes s.pkg.cur.slot ins.srcs [] = false) (hpriv : ins.priv s.pkg = true)
    (hdst : ∃ r ∈ ins.dsts, (Tab.find? s.regs.pend r).isSome = true) : (ins.run s.pkg.cur).run s.pkg = .error (.fault 7 0 0) := by
  have hany : (ins.dsts.any fun r => (Tab.find? (s.pkg.ctx s.pkg.cur).regs.pend r).isSome) = true := List.any_eq_true.mpr hdst
  simp only [Ins.run, M.checks, M.run_bind, M.run_get, hv, hd, List.append_nil, List.any_nil, Bool.false_eq_true, ↓reduceIte, M.run_pure,
    M.sources_ok (p := s.pkg) (x := s.pkg.cur) hsrc, howes, hpriv, Bool.not_true, hany, M.run_throw]

/-- What an instruction does whose sources or destinations are pending tokens (R55, R204). -/
theorem State.names_tokens {i : Instr} (hexec : exec i s = s.issue ins) (hm : s.ctx.mayIssue = true) (hg : guardHolds ins.guard s.regs = true)
    (hc : ins.cut = false) (hs : ins.stopped = fun _ p => p) (hv : ins.vsrcs = []) (hd : ins.vdsts = []) (hp : ins.priv s.pkg = true) :
    ((∃ r ∈ ins.srcs, s.ctx.pendsHere r = true) → exec i s = .next { s with pkg := (s.pkg.requestCut s.pkg.cur).seal }) ∧
    ((∀ r ∈ ins.srcs, s.ctx.pendsHere r = false) → (∃ r ∈ ins.srcs, (Tab.find? s.regs.pend r).isSome = true) → s.waits i .scoreboard) ∧
    ((∀ r ∈ ins.srcs, ¬ (Tab.find? s.regs.pend r).isSome = true) →
      (s.pkg.core s.pkg.cur.core).owes s.pkg.cur.slot ins.srcs [] = false →
      (∃ r ∈ ins.dsts, (Tab.find? s.regs.pend r).isSome = true) → s.faults i 7 0 0) := by
  refine ⟨fun hsrc => ?cuts, fun hhere hsrc => ?waits, fun hsrc howes hdst => ?faults⟩
  case cuts =>
    have hany : ins.srcs.any (s.pkg.ctx s.pkg.cur).pendsHere = true := List.any_eq_true.mpr hsrc
    exact hexec.trans (State.issue_error (e := .cut) hm hc hg hs (M.checks_sources hv hd (by simp only [M.sources_run, hany, ↓reduceIte])))
  case waits =>
    have hnone : ins.srcs.any (s.pkg.ctx s.pkg.cur).pendsHere = false :=
      List.any_eq_false.mpr fun r hr => Bool.eq_false_iff.mp (hhere r hr)
    have hany : (ins.srcs.any fun r => (Tab.find? (s.pkg.ctx s.pkg.cur).regs.pend r).isSome) = true := List.any_eq_true.mpr hsrc
    exact hexec.trans (State.issue_error hm hc hg hs (M.checks_sources hv hd
      (by simp only [M.sources_run, hnone, hany, Bool.false_eq_true, ↓reduceIte])))
  case faults =>
    exact hexec.trans (State.issue_error hm hc hg hs (M.checks_dsts hv hd (fun r hr => by simpa using hsrc r hr) howes hp hdst))

end

/-! ### Tiles and accumulators -/

section
variable {p : Pkg} {other : CtxRef}

theorem Pkg.enterW_core (p : Pkg) (key c : Nat) : { (p.enterW key).core c with ctxs := [] } = { p.core c with ctxs := [] } :=
  p.modCtx_core_rest p.cur _ c

theorem Pkg.enterW_tiles (p : Pkg) (key c : Nat) : ((p.enterW key).core c).tiles = (p.core c).tiles :=
  (congrArg Core.tiles (p.enterW_core key c) :)

theorem Pkg.enterW_accs (p : Pkg) (key c : Nat) : ((p.enterW key).core c).accs = (p.core c).accs :=
  (congrArg Core.accs (p.enterW_core key c) :)

/-- A tile register that a context writes, its chunk holding what the register read before. -/
def TileReg.written (r : TileReg) (c : ChunkId) (t : Tile) : TileReg :=
  { cur := t, shadow := match r.shadow with
      | some s => some s
      | none => some (c, r.cur) }

theorem Pkg.putTile_tiles (p : Pkg) (n : TReg) (t : Tile) :
    ∃ c : ChunkId, c.slot = p.cur.slot ∧ ((p.putTile n t).core p.cur.core).tiles =
      (p.core p.cur.core).tiles.set .zero n.toNat (((p.core p.cur.core).tiles.get .zero n.toNat).written c t) := by
  refine ⟨(p.enterW (p.regLine n.toNat)).chunk, rfl, ?_⟩
  rw [← p.enterW_tiles (p.regLine n.toNat)]
  exact congrArg Core.tiles (Pkg.core_setCore_same ..)

theorem Pkg.putTile_cur (p : Pkg) (n : TReg) (t : Tile) : (p.putTile n t).cur = p.cur := rfl
theorem Pkg.putAcc_cur (p : Pkg) (n : Nat) (f : AccBank → AccBank) : (p.putAcc n f).cur = p.cur := rfl

/-- What a tile register reads as to the context of a slot (R298). -/
def TileReg.view (r : TileReg) (slot : Nat) : Tile :=
  match r.shadow with
  | some (k, old) => if k.slot = slot then r.cur else old
  | none => r.cur

theorem Pkg.tile_eq (p : Pkg) (n : TReg) : p.tile n = ((p.core p.cur.core).tiles.get .zero n.toNat).view p.cur.slot := rfl

theorem Pkg.tile_eq_other (h : other.core = p.cur.core) (n : TReg) :
    { p with cur := other }.tile n = ((p.core p.cur.core).tiles.get .zero n.toNat).view other.slot := by
  rw [← h]
  rfl

theorem TileReg.written_view {r : TileReg} {c : ChunkId} {slot : Nat} (t : Tile) (hc : c.slot = slot)
    (hfree : ∀ k old, r.shadow = some (k, old) → k.slot = slot) : (r.written c t).view slot = t := by
  unfold TileReg.written TileReg.view
  cases hr : r.shadow with
  | none => simp [hc]
  | some e => simp [hfree e.1 e.2 hr]

theorem TileReg.written_view_other {r : TileReg} {c : ChunkId} {slot o : Nat} (t : Tile) (hc : c.slot = slot)
    (hfree : ∀ k old, r.shadow = some (k, old) → k.slot = slot) (ho : o ≠ slot) :
    (r.written c t).view o = match r.shadow with
      | some (_, old) => old
      | none => r.cur := by
  unfold TileReg.written TileReg.view
  cases hr : r.shadow with
  | none => simp [hc, Ne.symm ho]
  | some e => simp [hfree e.1 e.2 hr, Ne.symm ho]

theorem TileReg.restore_written {r : TileReg} {c : ChunkId} {slot : Nat} (t : Tile) (hc : c.slot = slot)
    (hfree : ∀ k old, r.shadow = some (k, old) → k.slot = slot) :
    restoreTile (fun o => o.slot == slot) (r.written c t) =
      { cur := match r.shadow with
          | some (_, old) => old
          | none => r.cur, shadow := none } := by
  unfold restoreTile TileReg.written
  cases hr : r.shadow with
  | none => simp [hc]
  | some e => simp [hfree e.1 e.2 hr]

theorem Pkg.putAcc_accs (p : Pkg) (n : Nat) (f : AccBank → AccBank) :
    ∃ c : ChunkId, c.slot = p.cur.slot ∧ ((p.putAcc n f).core p.cur.core).accs =
      (p.core p.cur.core).accs.set .zero n (((p.core p.cur.core).accs.get .zero n).writeBy c f) := by
  refine ⟨(p.enterW (p.regLine (8 + n))).chunk, rfl, ?_⟩
  rw [← p.enterW_accs (p.regLine (8 + n))]
  exact congrArg Core.accs (Pkg.core_setCore_same ..)

theorem AccReg.readBy_writeBy {r : AccReg} {c : ChunkId} {slot : Nat} (f : AccBank → AccBank) (hc : c.slot = slot) :
    (r.writeBy c f).readBy slot = f (r.readBy slot) := by
  subst hc
  unfold AccReg.writeBy
  cases hr : r.c <;> simp [AccReg.readBy, AccReg.bank, hr]

theorem AccReg.readBy_writeBy_other {r : AccReg} {c : ChunkId} {slot o : Nat} (f : AccBank → AccBank) (hc : c.slot = slot)
    (hfree : ∀ k, r.w = some k → k.slot = slot) (ho : o ≠ slot) : (r.writeBy c f).readBy o = r.readBy o := by
  have hnot : r.w.map ChunkId.slot ≠ some o := by
    cases hw : r.w with
    | none => simp
    | some k => simp [hfree k hw, Ne.symm ho]
  have hnew : c.slot ≠ o := hc ▸ Ne.symm ho
  unfold AccReg.writeBy
  cases hr : r.c <;> simp [AccReg.readBy, AccReg.bank, hr, hnot, hnew]

theorem Pkg.acc_eq (p : Pkg) (n : Nat) : p.acc n = ((p.core p.cur.core).accs.get .zero n).readBy p.cur.slot := rfl

theorem Pkg.acc_eq_other (h : other.core = p.cur.core) (n : Nat) :
    { p with cur := other }.acc n = ((p.core p.cur.core).accs.get .zero n).readBy other.slot := by
  rw [← h]
  rfl

end

/-- Settles O6: the registers' tables read back what was set; the checks of issue look at tokens alone (`State.names_tokens`); a tile
and an accumulator keep what they read as before their chunk commits. -/
theorem registerFiles : Obligations.RegisterFiles := by
  unfold Obligations.RegisterFiles
  refine ⟨fun r d a p q v j w k x y b hj hk => ⟨r.sr_setS d a x, r.pr_setP p q b, ?zero, ?one, ?lane⟩,
    fun s g col ty h inv rm d a b c imm m hm hg => ⟨?add, ?addi, ?ffma, ?ld, ?st, ?copy, ?msgsend⟩,
    fun r mk d f k v j hj => ?lanes, fun p n a t f other hcore hslot => ?files⟩
  case zero => simp [Regs.setP]
  case one => simp [Regs.pr]
  case lane =>
    have heq : 64 * w + k = 64 * v + j ↔ w = v ∧ k = j := by omega
    rw [Regs.lane_setLane]
    simp only [heq]
  case add => exact State.names_tokens (ins := .bin g d a b _) rfl hm hg rfl rfl rfl rfl rfl
  case addi => exact State.names_tokens (ins := .un g d a _) rfl hm hg rfl rfl rfl rfl rfl
  case ffma => exact State.names_tokens (ins := .regOp g [a.toNat, b.toNat, c.toNat] [d.toNat] _) rfl hm hg rfl rfl rfl rfl rfl
  case ld => exact State.names_tokens (ins := { guard := g, srcs := memSrcs m, dsts := [d.toNat], body := _ }) rfl hm hg rfl rfl rfl rfl rfl
  case st => exact State.names_tokens (ins := { guard := g, srcs := d.toNat :: memSrcs m, body := _ }) rfl hm hg rfl rfl rfl rfl rfl
  case copy =>
    exact State.names_tokens (ins := { guard := g, srcs := [a.toNat, b.toNat, c.toNat], dsts := [d.toNat], body := _ }) rfl hm hg rfl rfl
      rfl rfl rfl
  case msgsend =>
    exact State.names_tokens (ins := { guard := g, srcs := a.toNat :: regRange b.toNat 8, dsts := [d.toNat], body := _ }) rfl hm hg rfl
      rfl rfl rfl rfl
  case lanes =>
    intro active
    have hon : laneOn r mk j = true ↔ active := laneOn_iff r mk j
    refine ⟨fun ha => ?_, fun ha => ?_, fun hv => ?_, ?_, fun hv => ?_, setLanesGo_rest .., setLanesGo_rest ..⟩
    · rw [Regs.mapLanes_lane _ _ _ _ hj, if_pos (hon.mpr ha)]
    · rw [Regs.mapLanes_lane _ _ _ _ hj, if_neg (fun h => ha (hon.mp h))]
    · rw [Regs.mapLanes, Regs.setLanes_lane _ _ _ hj, if_neg hv]
    · rw [Regs.setLanes_lane _ _ _ hj, if_pos rfl]
    · rw [Regs.setLanes_lane _ _ _ hj, if_neg hv]
  case files =>
    intro q b
    obtain ⟨c, hc, htiles⟩ := p.putTile_tiles n t
    obtain ⟨e, he, haccs⟩ := p.putAcc_accs a f
    refine ⟨fun hfree => ⟨?_, ?_⟩, fun m hm => ?_, fun hfree => ⟨?_, ?_⟩, fun k hk => ?_, fun hfree => ?_⟩
    · rw [Pkg.tile_eq, Pkg.putTile_cur, htiles, Tab.get_set_same, TileReg.written_view t hc hfree.2]
    · rw [Pkg.tile_eq_other (p := q) hcore, Pkg.putTile_cur, htiles, Tab.get_set_same, TileReg.written_view_other t hc hfree.2 hslot]
        <;> rfl
    · rw [Pkg.tile_eq, Pkg.putTile_cur, htiles, Tab.get_set_other _ _ (fun h => hm (BitVec.eq_of_toNat_eq h))]
      rfl
    · rw [Pkg.acc_eq, Pkg.putAcc_cur, haccs, Tab.get_set_same, AccReg.readBy_writeBy f he]
      rfl
    · rw [Pkg.acc_eq_other (p := b) hcore, Pkg.acc_eq_other (p := p) hcore, Pkg.putAcc_cur, haccs, Tab.get_set_same,
        AccReg.readBy_writeBy_other f he hfree.2 hslot]
    · rw [Pkg.acc_eq, Pkg.putAcc_cur, haccs, Tab.get_set_other _ _ hk]
      rfl
    · rw [Pkg.tile_eq_other (p := q) hcore, Pkg.putTile_cur, htiles, Tab.get_set_same, TileReg.written_view_other t hc hfree.2 hslot,
        TileReg.restore_written t hc hfree.2]

end Sys2Proof.Machine

/-! SUPPORT. Proofs: the elements of a product are exact sums, and readouts (R136, R138, R142, R311). -/

namespace Sys2Proof.Machine

/-! ### A term against its anchor -/

/-- A term within the clamp's limits stands as it is. -/
theorem floorToAnchor_of_small {p d : Int} (hlo : -((2 ^ 104 - 1 : Nat) : Int) ≤ shiftInt p d)
    (hhi : shiftInt p d ≤ ((2 ^ 104 - 1 : Nat) : Int)) : floorToAnchor p d = (shiftInt p d, false) := by
  unfold floorToAnchor
  dsimp only
  rw [if_neg (by omega), if_neg (by omega)]

theorem shiftInt_of_nonneg {x d : Int} (h : 0 ≤ d) : shiftInt x d = x * 2 ^ d.toNat := by
  rw [shiftInt, if_pos h, Nat.cast_pow, Nat.cast_ofNat]

theorem shiftInt_of_neg {x d : Int} (h : d < 0) : shiftInt x d = x / 2 ^ (-d).toNat := by
  rw [shiftInt, if_neg (by omega), sarInt, Nat.cast_pow, Nat.cast_ofNat]

/-- Shifted up exactly, or floored, a term of this size stays within the clamp's limits. -/
theorem shiftInt_small {x d : Int} (h : x.natAbs * 2 ^ d.toNat < 2 ^ 104) :
    -((2 ^ 104 - 1 : Nat) : Int) ≤ shiftInt x d ∧ shiftInt x d ≤ ((2 ^ 104 - 1 : Nat) : Int) := by
  by_cases hd : 0 ≤ d
  · have habs : (shiftInt x d).natAbs < 2 ^ 104 := by
      rw [shiftInt_of_nonneg hd, Int.natAbs_mul, Int.natAbs_pow]
      exact h
    omega
  · have hd : d < 0 := by omega
    have hx : x.natAbs < 2 ^ 104 := by simpa [Int.toNat_of_nonpos (by omega : d ≤ 0)] using h
    have hpow : (0 : Int) < 2 ^ (-d).toNat := by positivity
    have hone : (1 : Int) ≤ 2 ^ (-d).toNat := hpow
    rw [shiftInt_of_neg hd]
    constructor
    · refine (Int.le_ediv_iff_mul_le hpow).mpr ?_
      have hneg : -((2 ^ 104 - 1 : Nat) : Int) * 2 ^ (-d).toNat ≤ -((2 ^ 104 - 1 : Nat) : Int) * 1 :=
        Int.mul_le_mul_of_nonpos_left (by omega) hone
      omega
    · refine Int.le_of_lt_add_one ((Int.ediv_lt_iff_lt_mul hpow).mpr ?_)
      have hpos : (((2 ^ 104 - 1 : Nat) : Int) + 1) * 1 ≤ (((2 ^ 104 - 1 : Nat) : Int) + 1) * 2 ^ (-d).toNat :=
        Int.mul_le_mul_of_nonneg_left hone (by omega)
      omega

/-- A group none of whose terms is clamped is the sum of its terms, each shifted to the anchor. -/
theorem groupSum_eq {d : Int} {u v : List Int} (h : ∀ e ∈ u.zip v, (e.1 * e.2).natAbs * 2 ^ d.toNat < 2 ^ 104) :
    groupSum d u v = (((u.zip v).map fun e => shiftInt (e.1 * e.2) d).sum, false) := by
  induction u generalizing v with
  | nil => simp [groupSum]
  | cons a u ih =>
    cases v with
    | nil => simp [groupSum]
    | cons b v =>
      have hhead := shiftInt_small (h (a, b) (by simp))
      have htail := ih fun e he => h e (List.mem_cons_of_mem _ he)
      simp only [groupSum, floorToAnchor_of_small hhead.1 hhead.2, htail, List.zip_cons_cons, List.map_cons, List.sum_cons, Bool.or_self]

/-! ### An element of a product -/

/-- One group's term added to an element. -/
def addGroup (anchor : Int) (acc : BitVec 128 × Bool) (e : (List Int × Int) × (List Int × Int)) : BitVec 128 × Bool :=
  let (v, c) := groupSum (e.1.2 + e.2.2 - anchor) e.1.1 e.2.1
  (acc.1 + BitVec.ofInt 128 v, acc.2 || c)

theorem mmaElem_eq (x : BitVec 128) (anchor : Int) (a : ARow) (b : List (List Int × Int) × Bool) :
    mmaElem x anchor a b =
      if x = sentinel ∨ a.bad ∨ b.2 then (sentinel, false) else (a.gs.zip b.1).foldl (addGroup anchor) (x, false) := rfl

theorem foldl_addGroup_fst (anchor : Int) (l : List ((List Int × Int) × (List Int × Int))) (acc : BitVec 128 × Bool) :
    (l.foldl (addGroup anchor) acc).1 =
      acc.1 + BitVec.ofInt 128 (l.map fun e => (groupSum (e.1.2 + e.2.2 - anchor) e.1.1 e.2.1).1).sum := by
  induction l generalizing acc with
  | nil => simp
  | cons e l ih =>
    rw [List.foldl_cons, ih, List.map_cons, List.sum_cons, BitVec.ofInt_add, ← BitVec.add_assoc]
    rfl

/-! ### Readout -/

theorem accOverflows_iff (x : BitVec 128) : accOverflows x = true ↔ ¬ (-2 ^ 111 ≤ x.toInt ∧ x.toInt < 2 ^ 111) := by
  have hx := x.isLt
  have htop : (BitVec.allOnes 17).toNat = 131071 := by decide
  simp only [accOverflows, Bool.and_eq_true, bne_iff_ne, ne_eq, ← BitVec.toNat_inj, BitVec.extractLsb'_toNat, Nat.shiftRight_eq_div_pow, htop,
    BitVec.ofNat_eq_ofNat, BitVec.toNat_ofNat, BitVec.toInt_eq_toNat_cond]
  split <;> omega

/-- Settles O38: an element is a fold over the groups of its row and column; a readout goes by the top bits of the element. -/
theorem exactSumsAndReadout : Obligations.ExactSumsAndReadout := by
  unfold Obligations.ExactSumsAndReadout
  refine ⟨fun x anchor a b d u v => ⟨fun h => ?sentinel, fun hx ha hb => ?sum, fun h => ⟨fun hd => ?exact, fun hd => ?floored⟩⟩,
    fun t rnd x anchor => ⟨fun h => ?nan, fun h ho => ?overflow, fun h => ?zero, fun h hlo hhi => ?rounded⟩⟩
  case sentinel => rw [mmaElem_eq, if_pos h]
  case sum => rw [mmaElem_eq, if_neg (by simp [hx, ha, hb]), foldl_addGroup_fst]
  case exact => rw [groupSum_eq h]; simp only [shiftInt_of_nonneg hd]
  case floored => rw [groupSum_eq h]; simp only [shiftInt_of_neg hd]
  case nan => rw [readout, if_pos h]
  case overflow => rw [readout, if_neg h, if_pos ((accOverflows_iff x).mpr ho)]
  case zero =>
    subst h
    rfl
  case rounded =>
    have hnot : ¬ x = sentinel := by
      rintro rfl
      exact absurd hlo (by decide)
    rw [readout, if_neg hnot, if_neg (fun ho => (accOverflows_iff x).mp ho ⟨hlo, hhi⟩), if_neg h]

end Sys2Proof.Machine

/-! SUPPORT. Proofs: vector arithmetic, functions, rounding and conversion (R277 to R282, R285). -/

namespace Sys2Proof.Machine

/-! ### Elements and results by kind of type -/

theorem Ty.flt_of_int32 {t : Ty} (h : Ty.int32 t = true) : Ty.flt t = false := by
  cases t <;> cases h <;> rfl

theorem Ty.signed_of_flt {t : Ty} (h : Ty.flt t = true) : t.signed = false := by
  cases t <;> cases h <;> rfl

theorem Ty.width_pos (t : Ty) : 0 < t.width := by cases t <;> decide

theorem Ty.width_of_flt {t : Ty} (h : Ty.flt t = true) : t.width ≤ 32 := by
  cases t <;> cases h <;> decide

theorem Ty.ne_s4e_of_int32 {t : Ty} (h : Ty.int32 t = true) : t ≠ .s4e := by
  rintro rfl
  cases h

theorem velem_lt (t : Ty) (r : Regs) (v : VReg) (j : Nat) : velem t r v j < 2 ^ t.width := Nat.mod_lt _ (by positivity)

/-- The value of an integer element (R277). -/
theorem intOf_velem {t : Ty} (h : Ty.int32 t = true) (r : Regs) (v : VReg) (j : Nat) :
    intOf t (velem t r v j) = laneElem t r v j := by
  rw [intOf, if_neg (Ty.ne_s4e_of_int32 h), laneElem, signExt_eq_toInt, ofNat_velem, Nat.mod_eq_of_lt (velem_lt ..)]
  congr 1

theorem vkind_int {t : Ty} (h : Ty.int32 t = true) (i : Int) (c : Nat) : vkind t i c = laneOf t i := by
  rw [vkind, Ty.flt_of_int32 h, if_neg (by decide), laneInt_eq_laneOf]

theorem vkind_flt {t : Ty} (h : Ty.flt t = true) (i : Int) (c : Nat) : vkind t i c = BitVec.ofNat 32 c := by
  rw [vkind, h, if_pos rfl, laneCode]

/-- A code of a floating type fills its lane from bit 0. -/
theorem laneInt_flt {t : Ty} (h : Ty.flt t = true) {c : Nat} (hc : c < 2 ^ t.width) : laneInt t c = BitVec.ofNat 32 c := by
  rw [laneInt_natCast, extLane, Ty.signed_of_flt h, if_neg (by decide)]
  apply BitVec.eq_of_toNat_eq
  rw [BitVec.toNat_setWidth, BitVec.toNat_ofNat, BitVec.toNat_ofNat, Nat.mod_eq_of_lt hc]

/-- A result lane takes an integer modulo 2^w. -/
theorem laneInt_wrapN (t : Ty) (v : Int) : laneInt t (wrapN v t.width) = laneOf t v := by
  rw [laneInt_natCast, wrapN_eq_toNat, BitVec.ofNat_toNat, BitVec.setWidth_eq, laneOf, extLane]

/-! ### Smaller and larger (R281) -/

theorem minMax_lt {t : Ty} (h : Ty.flt t = true) {big : Bool} {x y : Nat} (hx : x < 2 ^ t.width) (hy : y < 2 ^ t.width) :
    minMax t big x y < 2 ^ t.width := by
  by_cases hnan : unpack t x = .nan ∧ unpack t y = .nan
  · rw [minMax_both_nan hnan.1 hnan.2]
    cases t <;> cases h <;> decide
  · obtain he | he | he := minMax_mem t big x y
    · rwa [he]
    · rwa [he]
    · exact absurd he hnan

theorem pick_flt {t : Ty} (h : Ty.flt t = true) (big : Bool) (x y : Nat) : pick t big x y = minMax t big x y := by
  rw [pick, if_pos h]

/-- The larger, and the smaller, of two integer codes has the larger, the smaller, value. -/
theorem intOf_pick {t : Ty} (h : Ty.int32 t = true) (x y : Nat) :
    intOf t (pick t true x y) = max (intOf t x) (intOf t y) ∧ intOf t (pick t false x y) = min (intOf t x) (intOf t y) := by
  simp only [pick, Ty.flt_of_int32 h, Bool.false_eq_true, ↓reduceIte]
  constructor <;> split <;> omega

/-- An integer code and its value give one result lane. -/
theorem laneInt_intOf {t : Ty} (h : Ty.int32 t = true) (c : Nat) : laneInt t c = laneOf t (intOf t c) := by
  have hbits : BitVec.ofInt t.width (intOf t c) = BitVec.ofNat t.width c := by
    rw [intOf, if_neg (Ty.ne_s4e_of_int32 h)]
    split
    · rw [signExt_eq_toInt, BitVec.ofInt_toInt]
    · rw [BitVec.ofInt_natCast]
      exact BitVec.eq_of_toNat_eq (by simp)
  rw [laneInt_natCast, laneOf, hbits, extLane]

section
variable {t : Ty} (r : Regs) (a b c : VReg) (j : Nat)

theorem vminLane_int (h : Ty.int32 t = true) :
    vminLane t true a b r j = laneOf t (max (laneElem t r a j) (laneElem t r b j)) ∧
      vminLane t false a b r j = laneOf t (min (laneElem t r a j) (laneElem t r b j)) := by
  obtain ⟨hmax, hmin⟩ := intOf_pick h (velem t r a j) (velem t r b j)
  simp only [vminLane, laneInt_intOf h, hmax, hmin, intOf_velem h, and_self]

theorem vminLane_flt (h : Ty.flt t = true) (big : Bool) :
    vminLane t big a b r j = BitVec.ofNat 32 (minMax t big (velem t r a j) (velem t r b j)) := by
  rw [vminLane, pick_flt h, laneInt_flt h (minMax_lt h (velem_lt ..) (velem_lt ..))]

theorem vclampLane_int (h : Ty.int32 t = true) :
    vclampLane t a b c r j = laneOf t (min (max (laneElem t r a j) (laneElem t r b j)) (laneElem t r c j)) := by
  rw [vclampLane, laneInt_intOf h, (intOf_pick h _ _).2, (intOf_pick h _ _).1]
  simp only [intOf_velem h]

theorem vclampLane_flt (h : Ty.flt t = true) : vclampLane t a b c r j =
    BitVec.ofNat 32 (minMax t false (minMax t true (velem t r a j) (velem t r b j)) (velem t r c j)) := by
  have hlt := minMax_lt h (big := true) (velem_lt t r a j) (velem_lt t r b j)
  rw [vclampLane, pick_flt h, pick_flt h, laneInt_flt h (minMax_lt h hlt (velem_lt ..))]

/-! ### Sign operations -/

/-- To invert the top bit of a code is to add it, modulo 2^w. -/
theorem xor_signBit {w e : Nat} (hw : 0 < w) (he : e < 2 ^ w) : e ^^^ 2 ^ (w - 1) = (e + 2 ^ (w - 1)) % 2 ^ w := by
  obtain ⟨n, rfl⟩ : ∃ n, w = n + 1 := ⟨w - 1, by omega⟩
  rw [Nat.add_sub_cancel, Nat.pow_succ] at *
  have hpos : 0 < 2 ^ n := by positivity
  have hlow : (e ^^^ 2 ^ n) % 2 ^ n = e % 2 ^ n := by rw [Nat.xor_mod_two_pow, Nat.mod_self, Nat.xor_zero]
  have hhigh : (e ^^^ 2 ^ n) / 2 ^ n = e / 2 ^ n ^^^ 1 := by rw [Nat.xor_div_two_pow, Nat.div_self hpos]
  have hsplit := Nat.div_add_mod (e ^^^ 2 ^ n) (2 ^ n)
  have hsplit' := Nat.div_add_mod e (2 ^ n)
  rw [hlow, hhigh] at hsplit
  obtain hb | hb := Nat.le_one_iff_eq_zero_or_eq_one.mp (Nat.lt_succ_iff.mp (Nat.div_lt_of_lt_mul he))
  · rw [hb, Nat.zero_xor, Nat.mul_one] at hsplit
    have := Nat.mod_lt e hpos
    rw [hb] at hsplit'
    rw [Nat.mod_eq_of_lt (by omega)]
    omega
  · rw [hb, Nat.xor_self, Nat.mul_zero] at hsplit
    rw [hb] at hsplit'
    have := Nat.mod_lt e hpos
    rw [show e + 2 ^ n = e % 2 ^ n + 2 ^ n * 2 by omega, Nat.add_mod_right, Nat.mod_eq_of_lt (by omega)]
    omega

theorem vnegLane_flt (h : Ty.flt t = true) :
    let e := (r.lane a.toNat j).toNat % 2 ^ t.width
    vnegLane t a r j = BitVec.ofNat 32 ((e + 2 ^ (t.width - 1)) % 2 ^ t.width) := by
  intro e
  rw [vnegLane, vkind_flt h, elem, xor_signBit (Ty.width_pos t) (Nat.mod_lt _ (by positivity))]

theorem vabsLane_flt (h : Ty.flt t = true) :
    let e := (r.lane a.toNat j).toNat % 2 ^ t.width
    vabsLane t a r j = BitVec.ofNat 32 (e % 2 ^ (t.width - 1)) := by
  intro e
  rw [vabsLane, vkind_flt h, elem]

/-! ### Conversion (R285) -/

/-- What VCVT writes: an s4e code's integer value is taken modulo 2^w; any other value is converted, rounded once. -/
theorem laneInt_cvtCode (src : Ty) (rnd : Rnd) (e : Nat) : laneInt t (cvtCode t src rnd e) =
    let n := if Ty.whole src = true then intToNum (intOf src e) else unpack src e
    if src = .s4e ∧ Ty.int32 t = true then laneOf t (intOf src e)
    else if Ty.whole t = true then laneOf t (numToInt t rnd n) else laneOf t (packNum t rnd n) := by
  dsimp only
  by_cases hs4e : src = .s4e ∧ Ty.int32 t = true
  · have hb : (src == .s4e && Ty.int32 t) = true := by simp [hs4e.1, hs4e.2]
    rw [cvtCode, if_pos hb, if_pos hs4e, laneInt_wrapN]
  · have hb : ¬(src == .s4e && Ty.int32 t) = true := by simpa using hs4e
    rw [cvtCode, if_neg hb, if_neg hs4e, convCode, codeNum]
    by_cases hw : Ty.whole t = true
    · rw [if_pos hw, if_pos hw, laneInt_wrapN]
    · rw [if_neg hw, if_neg hw, laneInt_eq_laneOf]

end

/-- Settles O30: each instruction issues as an operation of the vector engine, lane by lane the table's. -/
theorem vectorArithmetic : Obligations.VectorArithmetic := by
  unfold Obligations.VectorArithmetic
  constructor
  · intro s g t rm mk d a b c r x y z rnd flt int does code res
    have int1 (hi : int) {e : Int} {n : Nat} {e' : Int} (he : e = e') : vkind t e n = laneOf t e' := by
      rw [vkind_int hi, he]
    have val (hi : int) (v : VReg) (j : Nat) : vint t s.regs v j = laneElem t r v j := intOf_velem hi ..
    refine ⟨fun h => ⟨fun hi => ⟨?addI, ?subI, ?mulI, ?divI, ?minI, ?maxI⟩, fun hf => ⟨?addF, ?subF, ?mulF, ?divF, ?minF, ?maxF⟩⟩,
      fun h => ⟨fun hi => ⟨?fmaI, ?clampI⟩, fun hf => ⟨?fmaF, ?clampF⟩⟩,
      fun h => ⟨fun hi => ⟨?absI, ?negI⟩, fun hf => ⟨?absF, ?negF⟩⟩⟩
    case addI => exact State.vector_lanes h rfl fun j => int1 hi (by rw [val hi, val hi])
    case subI => exact State.vector_lanes h rfl fun j => int1 hi (by rw [val hi, val hi])
    case mulI => exact State.vector_lanes h rfl fun j => int1 hi (by rw [val hi, val hi])
    case divI => exact State.vector_lanes h rfl fun j => int1 hi (by rw [val hi, val hi]; rfl)
    case minI => exact State.vector_lanes h rfl fun j => (vminLane_int _ a b j hi).2
    case maxI => exact State.vector_lanes h rfl fun j => (vminLane_int _ a b j hi).1
    case addF => exact State.vector_lanes h rfl fun j => vkind_flt hf ..
    case subF => exact State.vector_lanes h rfl fun j => vkind_flt hf ..
    case mulF => exact State.vector_lanes h rfl fun j => vkind_flt hf ..
    case divF => exact State.vector_lanes h rfl fun j => vkind_flt hf ..
    case minF => exact State.vector_lanes h rfl fun j => vminLane_flt _ a b j hf false
    case maxF => exact State.vector_lanes h rfl fun j => vminLane_flt _ a b j hf true
    case fmaI => exact State.vector_lanes h rfl fun j => int1 hi (by rw [val hi, val hi, val hi])
    case clampI => exact State.vector_lanes h rfl fun j => vclampLane_int _ a b c j hi
    case fmaF => exact State.vector_lanes h rfl fun j => vkind_flt hf ..
    case clampF => exact State.vector_lanes h rfl fun j => vclampLane_flt _ a b c j hf
    case absI => exact State.vector_lanes h rfl fun j => int1 hi (congrArg (fun e : Int => (e.natAbs : Int)) (val hi a j))
    case negI => exact State.vector_lanes h rfl fun j => int1 hi (congrArg Neg.neg (val hi a j))
    case absF => exact State.vector_lanes h rfl fun j => vabsLane_flt _ a j hf
    case negF => exact State.vector_lanes h rfl fun j => vnegLane_flt _ a j hf
  · intro s g t src rm mk d a h r rnd does
    refine ⟨?sqrt, ?rsq, ?exp2, ?log2, ?round, State.vector_lanes h rfl fun j => laneInt_cvtCode ..⟩
    case sqrt => exact State.vector_lanes h rfl fun _ => rfl
    case rsq => exact State.vector_lanes h rfl fun _ => rfl
    case exp2 => exact State.vector_lanes h rfl fun _ => rfl
    case log2 => exact State.vector_lanes h rfl fun _ => rfl
    case round => exact State.vector_lanes h rfl fun _ => rfl

end Sys2Proof.Machine

/-! SUPPORT. Proofs: vector reductions, scans and dot products (R146, R147, R293 to R295). -/

namespace Sys2Proof.Machine

/-! ### The tree of a reduction (R146) -/

/-- The value of lane `j` after level `l` of the tree over 64 lanes, with RSH index 64 (l - 1) + j. -/
def redLevel (f : Nat → Nat → Nat → Nat) (e : Nat → Nat) : Nat → Nat → Nat
  | 0, j => e j
  | l + 1, j => f (64 * l + j) (redLevel f e l j) (redLevel f e l (j + 64 / 2 ^ (l + 1)))

/-- One level of the tree: the first half of the lanes with the second. -/
theorem zip_halves (g : Nat → Nat) (F : Nat → Nat → Nat → Nat) (h : Nat) :
    let l := (List.range (2 * h)).map g
    (((l.take (l.length / 2)).zip (l.drop (l.length / 2))).zipIdx.map fun e => F e.2 e.1.1 e.1.2) =
      (List.range h).map fun j => F j (g j) (g (j + h)) := by
  have hhalf : 2 * h / 2 = h := by omega
  apply List.ext_getElem
  · simp only [List.length_map, List.length_zipIdx, List.length_zip, List.length_take, List.length_drop, List.length_range]
    omega
  · intro i _ _
    simp [hhalf, Nat.add_comm]

/-- The tree from level `l + 1` on reduces the lanes after level `l`. -/
theorem redTree_eq_redLevel (f : Nat → Nat → Nat → Nat) (e : Nat → Nat) {n l : Nat} (h : l + n = 6) :
    redTree f n (l + 1) ((List.range (64 / 2 ^ l)).map (redLevel f e l)) = redLevel f e 6 0 := by
  induction n generalizing l with
  | zero =>
    obtain rfl : l = 6 := by omega
    rfl
  | succ n ih =>
    have hhalf : 64 / 2 ^ l = 2 * (64 / 2 ^ (l + 1)) := by
      have : l < 6 := by omega
      interval_cases l <;> rfl
    rw [redTree, hhalf, Nat.add_sub_cancel, zip_halves (redLevel f e l) (fun j => f (64 * l + j))]
    exact ih (by omega)

/-! ### Scans (R147) -/

/-- The running value of a scan at lane `j`. -/
def scanValue (f : Nat → Nat → Nat → Nat) (e : Nat → Nat) : Nat → Nat
  | 0 => e 0
  | j + 1 => f (j + 1) (scanValue f e j) (e (j + 1))

/-- From lane `j + 1` on a scan goes on from the value at lane `j`. -/
theorem scanGo_succ (f : Nat → Nat → Nat → Nat) (e : Nat → Nat) (j n i : Nat) (h : i < n) :
    (scanGo f (j + 1) (scanValue f e j) ((List.range' (j + 1) n).map e))[i]? = some (scanValue f e (j + 1 + i)) := by
  induction n generalizing j i with
  | zero => omega
  | succ n ih =>
    rw [List.range'_succ, List.map_cons, scanGo, if_neg (by omega)]
    cases i with
    | zero => rfl
    | succ i =>
      rw [List.getElem?_cons_succ, Nat.add_comm i, ← Nat.add_assoc]
      exact ih (j + 1) i (by omega)

theorem scanGo_getElem? (f : Nat → Nat → Nat → Nat) (e : Nat → Nat) {n i : Nat} (h : i < n) :
    (scanGo f 0 0 ((List.range n).map e))[i]? = some (scanValue f e i) := by
  cases n with
  | zero => omega
  | succ n =>
    rw [List.range_eq_range', List.range'_succ, List.map_cons, scanGo, if_pos rfl]
    cases i with
    | zero => rfl
    | succ i =>
      rw [List.getElem?_cons_succ, Nat.add_comm i 1]
      have := scanGo_succ f e 0 n i (by omega)
      rwa [Nat.zero_add] at this

/-- Only the 64 lanes are written. -/
theorem setLanesGo_congr {f f' : Nat → Option (BitVec 32)} (v : Nat) (r : Regs) {n : Nat} (h : ∀ j < n, f j = f' j) :
    setLanesGo f v r n = setLanesGo f' v r n := by
  induction n with
  | zero => rfl
  | succ n ih => rw [setLanesGo, setLanesGo, h n (by omega), ih fun j hj => h j (by omega)]

theorem Regs.mapLanes_congr (r : Regs) (mk : Option SReg) (d : VReg) {f f' : Nat → BitVec 32} (h : ∀ j < 64, f j = f' j) :
    r.mapLanes mk d f = r.mapLanes mk d f' := by
  rw [Regs.mapLanes, Regs.mapLanes, Regs.setLanes, Regs.setLanes]
  exact setLanesGo_congr _ r fun j hj => by rw [h j hj]

/-! ### Dot products (R295) -/

theorem foldl_add_eq_sum {α : Type} (f : α → Int) (l : List α) (z : Int) : l.foldl (fun z e => z + f e) z = z + (l.map f).sum := by
  induction l generalizing z with
  | nil => simp
  | cons a l ih => rw [List.foldl_cons, ih, List.map_cons, List.sum_cons, Int.add_assoc]

/-- A sum modulo 2^32 does not depend on how a lane's bits are read. -/
theorem ofInt_toNat_add (x : BitVec 32) (z : Int) : BitVec.ofInt 32 (x.toNat + z) = BitVec.ofInt 32 (x.toInt + z) := by
  rw [BitVec.ofInt_add, BitVec.ofInt_add, BitVec.ofInt_natCast, BitVec.ofInt_toInt, BitVec.ofNat_toNat, BitVec.setWidth_eq]

theorem vdotLane_flt {t src : Ty} (h : Ty.flt src = true) (rm : RM) (a b c : VReg) (r : Regs) (j : Nat) :
    vdotLane t src rm a b c r j = BitVec.ofNat 32 (sumRound t (rndVec r t rm j)
      (unpack t ((r.lane c.toNat j).toNat % 2 ^ t.width) :: (List.range (32 / src.width)).map fun i =>
        (operand src (ftzVec r) (r.field a.toNat src.width (j * (32 / src.width) + i))).mul
          (operand src (ftzVec r) (r.field b.toNat src.width (j * (32 / src.width) + i))))) := by
  simp only [vdotLane, if_pos h, List.map_map, laneCode, elem, Function.comp_def]

theorem vdotLane_int {t src : Ty} (h : Ty.flt src = false) (rm : RM) (a b c : VReg) (r : Regs) (j : Nat) :
    vdotLane t src rm a b c r j = BitVec.ofInt 32 ((r.lane c.toNat j).toInt + ((List.range (32 / src.width)).map fun i =>
      intOf src (r.field a.toNat src.width (j * (32 / src.width) + i)) *
        intOf src (r.field b.toNat src.width (j * (32 / src.width) + i))).sum) := by
  simp only [vdotLane, h, Bool.false_eq_true, ↓reduceIte, foldl_add_eq_sum, List.map_map, ofInt_toNat_add, Function.comp_def]

/-- Settles O33: a reduction's tree, level by level, a scan lane by lane, and a dot product's sum are the model's. -/
theorem vectorReductions : Obligations.VectorReductions := by
  unfold Obligations.VectorReductions
  intro s g t src rm op mk sd d a b c r step reduces
  have reduced {i : Instr} (op : ScanOp) (rm : RM) (h : s.readyV g mk [] [sd.toNat] [a.toNat] [])
      (he : exec i s = s.issue (.vred g t op rm mk sd a)) : reduces i op rm := by
    let lev := redLevel (step op rm) (redElem t op mk a r)
    refine ⟨lev 6 0, State.vector_counted h he ?_, lev, fun _ _ => rfl, fun _ _ _ _ => rfl, rfl⟩
    rw [extend_ofNat]
    exact congrArg (fun v : Nat => s.regs.setS sd (if t.signed = true then (BitVec.ofNat t.width v).signExtend 64
      else (BitVec.ofNat t.width v).setWidth 64)) (redTree_eq_redLevel (step op rm) (redElem t op mk a r) (n := 6) (l := 0) rfl)
  refine ⟨fun j hoff => if_neg hoff, fun h => ⟨reduced .add rm h rfl, reduced .max .rne h rfl, reduced .min .rne h rfl⟩,
    fun h => ?scan, fun h _ => ⟨fun hint => ?dotInt, fun hflt => ?dotFlt⟩⟩
  case scan =>
    refine ⟨scanValue (step op rm) (redElem t op mk a r), rfl, fun _ _ => rfl, State.vector_counted h rfl ?_⟩
    refine Regs.mapLanes_congr _ _ _ fun j hj => ?_
    rw [scanGo_getElem? (step op rm) (redElem t op mk a r) hj, Option.getD_some, laneInt_eq_laneOf]
  case dotInt => exact State.vector_lanes h rfl (vdotLane_int hint rm a b c s.regs)
  case dotFlt => exact State.vector_lanes h rfl (vdotLane_flt hflt rm a b c s.regs)

end Sys2Proof.Machine

/-! SUPPORT. Proofs: how a command of a block ends (R370), and the commands on spaces and jobs (R387, R449, R450). -/

namespace Sys2Proof.Machine

/-! ### How a command ends -/

theorem fld_low (x hi : Nat) : fld x hi 0 = x % 2 ^ (hi + 1) := by rw [fld, Nat.shiftRight_zero, Nat.sub_zero]

theorem cmdErr_eq (e : Nat) : cmdErr e = 2 ^ 63 + e * 2 ^ 56 := by
  unfold cmdErr
  rw [Nat.shiftLeft_eq e]
  congr 1

theorem State.runs_code {s : State} {vi : Nat} {b : Block} {code : Nat} (h : s.runs vi b code) :
    ((s.pkg.vi vi).block b).code = some code := by
  obtain ⟨hrun, hcode, -⟩ := h
  rw [BlockRegs.code, if_pos hrun, fld_low, ← hcode]
  rfl

section
variable {s : State} {i : Instr} {vi : Nat} {b : Block} {code : Nat} {f : (Nat → Nat) → CmdEnd}

/-- A block's running command is the one its code names. -/
theorem State.exec_command (he : exec i s = s.run fun p => p.command vi b code f) (h : s.runs vi b code) :
    s.does i (match f (s.arg vi b) with
      | .ok v q => q.endCmd vi b (cmdOk v)
      | .err e => s.pkg.endCmd vi b (cmdErr e)
      | .run q => q) := by
  obtain ⟨-, -, hfw⟩ := id h
  have hgo : ¬(((s.pkg.vi vi).block b).code ≠ some code ∨ s.pkg.fw.switching.isSome = true) := by
    simp [State.runs_code h, hfw]
  rw [State.does, he, State.run, Pkg.command, if_neg hgo]
  rfl

theorem State.accepts_of_ok {v : Nat} {q : Pkg} (he : exec i s = s.run fun p => p.command vi b code f) (h : s.runs vi b code)
    (hf : f (s.arg vi b) = .ok v q) : s.accepts i vi b v q := by
  have hdoes := State.exec_command he h
  rw [hf] at hdoes
  exact hdoes

theorem State.rejects_of_err {e : Nat} (he : exec i s = s.run fun p => p.command vi b code f) (h : s.runs vi b code)
    (hf : f (s.arg vi b) = .err e) : s.rejects i vi b e := by
  have hdoes := State.exec_command he h
  rw [hf] at hdoes
  rw [State.rejects, ← cmdErr_eq]
  exact hdoes

end

/-! ### MKSPACE -/

/-- Space 0 alone, with a write of a space 1 that has been removed still among the past contents of lines. -/
def formerSpace : State := Tests.put (fun p => { p with past := [{ key := lineKey 1 0, step := 0, mask := 0, data := 0 }] }) State.reset

/-- MKSPACE's effect: beside the space and its table's frame, the slices' copies of entries and the past contents of lines go. -/
theorem mkspace_accepts {s : State} {vi id f : Nat} (h : s.runs vi .cmd 0x02) (hpriv : s.arg vi .cmd 1 = 0)
    (hwell : s.pkg.failed = false) (hid : lowestFree (s.pkg.spaces.map Prod.fst) 1 65535 = some id)
    (hframe : lowestFree (s.pkg.spaces.map fun e => e.2.frame) 0 Config.tableFrames = some f) :
    s.accepts (.mkspace vi) vi .cmd id (({ s.pkg with
      spaces := s.pkg.spaces.put id (.new 0 vi f), entries := s.pkg.entries.filter (·.space != id),
      past := s.pkg.past.filter fun q => keySpace q.key != id } : Pkg).zeroPhys (f * 65536) 65536) := by
  refine State.accepts_of_ok (f := fun a => s.pkg.makeSpace vi (a 1)) rfl h ?_
  simp only [Pkg.makeSpace, hpriv, hwell, hid, hframe]
  rfl

/-- Refutes O49: a MKSPACE that gives an identifier again forgets what a former space of that number had written, where the
statement has it change the spaces and the table's frame alone. -/
theorem not_spaceCommands : ¬ Obligations.SpaceCommands := by
  unfold Obligations.SpaceCommands
  intro h
  let s := Tests.command 0 .cmd 0x02 [0] formerSpace
  have hruns : s.runs 0 .cmd 0x02 := by unfold State.runs; decide +kernel
  have hpriv : s.arg 0 .cmd 1 = 0 := by decide +kernel
  have hwell : s.pkg.failed = false := by decide +kernel
  have hid : lowestFree (s.pkg.spaces.map Prod.fst) 1 65535 = some 1 := by decide +kernel
  have hframe : lowestFree (s.pkg.spaces.map fun e => e.2.frame) 0 Config.tableFrames = some 1 := by decide +kernel
  obtain ⟨-, -, hmk, -⟩ := h s 0
  obtain ⟨-, -, hmake⟩ := hmk hruns
  obtain ⟨-, hclaim⟩ := hmake (hpriv.le.trans (by decide)) (.inl hpriv) hwell
  have hclaim : s.accepts (.mkspace 0) 0 .cmd 1 _ := hclaim 1 1 hid hframe
  have hmodel := mkspace_accepts hruns hpriv hwell hid hframe
  unfold State.accepts State.does at hclaim hmodel
  rw [hmodel] at hclaim
  injection hclaim with hstate
  have hpast := congrArg (fun u : State => u.pkg.past.length) hstate
  revert hpast
  decide +kernel

/-! ### JOBSET and JOBCLR (R449, R450) -/

theorem ascending_iff (l : List Nat) : ascending l = true ↔ l.Pairwise (· < ·) := by
  induction l with
  | nil => simp [ascending]
  | cons a t ih =>
    cases t with
    | nil => simp [ascending]
    | cons b t =>
      rw [ascending, Bool.and_eq_true, decide_eq_true_iff, ih]
      constructor
      · intro ⟨hab, hrest⟩
        refine List.pairwise_cons.mpr ⟨fun x hx => ?_, hrest⟩
        obtain rfl | hx := List.mem_cons.mp hx
        · exact hab
        · exact hab.trans ((List.pairwise_cons.mp hrest).1 x hx)
      · intro h
        obtain ⟨hall, hrest⟩ := List.pairwise_cons.mp h
        exact ⟨hall b List.mem_cons_self, hrest⟩

/-- The members of a list that JOBSET takes (R449). -/
theorem sortedMembers_iff (l : List Nat) :
    ¬((!ascending l) = true ∨ (l.any fun m => decide (m ≥ 2 ^ 24)) = true) ↔ l.Pairwise (· < ·) ∧ ∀ m ∈ l, m < 2 ^ 24 := by
  rw [← ascending_iff]
  simp

/-- The binding that a JOBSET makes, field by field. -/
theorem Job.next_fields (old : Option Job) (id : Nat) (h : id < 2 ^ 64) (l : List Nat) (b : List Byte) (base : List Word) (pt : Nat) :
    let n := Job.next old (BitVec.ofNat 64 id) l b base pt
    n.jobid = BitVec.ofNat 64 id ∧ n.list = l ∧ n.epoch = (old.map Job.epoch).getD 0 + 1 ∧
      n.mdigest = BitVec.ofNat 384 (leNat (sha384 b)) ∧ n.basePt = pt ∧ n.base = base ∧
      n.chain = BitVec.ofNat 384 (leNat (sha384 (bytes48 ((old.map Job.chain).getD 0) ++ leBytes id 8 ++ leBytes n.epoch 4 ++
        sha384 b))) := by
  refine ⟨rfl, rfl, ?epoch, rfl, rfl, rfl, ?chain⟩
  case epoch => cases old <;> rfl
  case chain =>
    unfold Job.next
    simp only [BitVec.toNat_ofNat, Nat.mod_eq_of_lt h]

/-- Settles O54: the checks of JOBSET and of JOBCLR one after the other, and what each leaves. -/
theorem jobCommands : Obligations.JobCommands := by
  unfold Obligations.JobCommands
  intro s vi p a ok no
  constructor
  · intro h bad
    have refuses {e : Nat} (hvi : vi = 0) (hf : s.pkg.bindJob s.prov (a 1) (a 2) (a 3) (a 4) (a 5) = .err e) : no (.jobset vi) e :=
      State.rejects_of_err rfl h ((if_neg (not_not.mpr hvi)).trans hf)
    refine ⟨fun hvi => State.rejects_of_err rfl h (if_pos hvi), fun hvi hsp => refuses hvi (by rw [Pkg.bindJob, hsp]),
      fun sp hvi hsp hbad => refuses hvi (by rw [Pkg.bindJob, hsp]; exact if_pos hbad), ?_⟩
    intro sp b q hvi hsp hgood hread l sorted
    have hbind : s.pkg.bindJob s.prov (a 1) (a 2) (a 3) (a 4) (a 5) =
        if (!ascending l) = true ∨ (l.any fun m => decide (m ≥ 2 ^ 24)) = true then .err 0x05
        else if (!l.contains s.prov.modid) = true then .err 0x11
        else if (sp.job.map Job.jobid).any (· != BitVec.ofNat 64 (a 2)) = true then .err 0x12
        else
          let j := Job.next sp.job (BitVec.ofNat 64 (a 2)) l b ((List.range 16).map sp.counter) q.pt
          .ok j.epoch (q.modSpace (a 1) fun x => { x with job := some j }) := by
      rw [Pkg.bindJob, hsp]
      refine (if_neg hgood).trans ?_
      rw [hread]
    have hsorted := sortedMembers_iff l
    have hmember : (!l.contains s.prov.modid) = true ↔ s.prov.modid ∉ l := by simp
    refine ⟨fun hbad => refuses hvi (hbind.trans (if_pos (not_not.mp (hsorted.not.mpr hbad)))),
      fun hs hm => refuses hvi (hbind.trans ((if_neg (hsorted.mpr hs)).trans (if_pos (hmember.mpr hm)))), fun hs hm => ?_⟩
    replace hbind := hbind.trans ((if_neg (hsorted.mpr hs)).trans (if_neg (hmember.not.mpr (not_not.mpr hm))))
    refine ⟨fun j hj hne => refuses hvi (hbind.trans (if_pos (by simpa [hj] using hne))), fun hall => ?_⟩
    have hsame : ¬(sp.job.map Job.jobid).any (· != BitVec.ofNat 64 (a 2)) = true := by
      cases hj : sp.job with
      | none => simp
      | some j => simpa using hall j hj
    refine ⟨_, State.accepts_of_ok rfl h ((if_neg (not_not.mpr hvi)).trans (hbind.trans (if_neg hsame))), ?_⟩
    exact Job.next_fields sp.job (a 2) (BitVec.isLt _) l b _ q.pt
  · intro h
    refine ⟨fun hvi => State.rejects_of_err rfl h (if_pos hvi), fun hvi hsp => ?absent, fun sp hvi (hsp' : s.pkg.space? (s.arg vi .job 1) = some sp) =>
      ⟨fun hj => ?free, fun j hj => ?bound⟩⟩
    case absent => exact State.rejects_of_err rfl h ((if_neg (not_not.mpr hvi)).trans (by rw [Pkg.unbindJob, hsp]))
    case free => exact State.rejects_of_err rfl h ((if_neg (not_not.mpr hvi)).trans (by simp only [Pkg.unbindJob, hsp', hj]))
    case bound => exact State.accepts_of_ok rfl h ((if_neg (not_not.mpr hvi)).trans (by simp only [Pkg.unbindJob, hsp', hj]; rfl))

end Sys2Proof.Machine

/-! SUPPORT. Proofs: MIGRATE of a virtual address beyond the address space (R401), and what `Obligations.TranslationCommands`
says of it. -/

namespace Sys2Proof.Machine

/-- MIGRATE refuses a virtual address of 2^56 or more with code 0x05, before it looks for the page (R401). -/
theorem migrate_rejects_top {s : State} {vi : Nat} (h : s.runs vi .cmd 0x15) (hown : s.pkg.owns vi (s.arg vi .cmd 1) = true)
    (hva : s.arg vi .cmd 2 ≥ vaTop) : s.rejects (.migrate vi) vi .cmd 0x05 := by
  refine State.rejects_of_err (f := fun a => s.pkg.migrate s.prov vi (a 1) (a 2) (a 3) (a 4)) rfl h ?_
  have hmine : ¬(!s.pkg.owns vi (s.arg vi .cmd 1)) = true := by simp [hown]
  exact (if_neg hmine).trans (if_pos (.inr (.inl hva)))

/-- Refutes O50: a MIGRATE of the first address beyond the 2^56 bytes is refused as malformed (0x05), where the statement, whose
check of the arguments leaves the bound out, has it refused for want of a page (0x09). -/
theorem not_translationCommands : ¬ Obligations.TranslationCommands := by
  unfold Obligations.TranslationCommands
  intro h
  let s := Tests.command 0 .cmd 0x15 [0, 2 ^ 56, 0, 0] State.reset
  have hruns : s.runs 0 .cmd 0x15 := by unfold State.runs; decide +kernel
  have hown : s.pkg.owns 0 (s.arg 0 .cmd 1) = true := by decide +kernel
  have hva : s.arg 0 .cmd 2 ≥ vaTop := by decide +kernel
  have hgood : ¬(s.arg 0 .cmd 2 % 65536 ≠ 0 ∨ 8 ≤ s.arg 0 .cmd 4 ∨ s.arg 0 .cmd 4 % 4 ≠ 0) := by decide +kernel
  have hleaf : s.pkg.leafAt (s.arg 0 .cmd 1) (s.arg 0 .cmd 2) = none := by decide +kernel
  obtain ⟨-, -, -, -, hmig, -⟩ := h s 0
  obtain ⟨-, -, hnone, -⟩ := hmig hruns
  have hclaim : s.rejects (.migrate 0) 0 .cmd 0x09 := hnone hown hgood hleaf
  have hmodel := migrate_rejects_top hruns hown hva
  unfold State.rejects State.does at hclaim hmodel
  rw [hmodel] at hclaim
  injection hclaim with hstate
  have hresult := congrArg (fun u : State => ((u.pkg.vi 0).block .cmd).dw.get 0 7) hstate
  revert hresult
  decide +kernel

end Sys2Proof.Machine

/-! SUPPORT. Proofs: delivery, dropping and expiry of messages (R67, R72, R231). -/

namespace Sys2Proof.Machine

/-- An event makes the package that its function of the package gives. -/
theorem State.does_of_run {s : State} {i : Instr} {p q : Pkg} (he : exec i s = .next { s with pkg := p.seal }) (hq : p = q) :
    s.does i q := by
  rw [State.does, he, hq]

theorem Pkg.replayAllows_of_none {p : Pkg} {s : Nat} (h : p.replayOf s = none) (kind gcid chunk lidx : Nat) :
    p.replayAllows s kind gcid chunk lidx = true := by
  simp only [Pkg.replayAllows, h]

/-- A message of a space that is not replayed ends: it leaves the flights, is logged, and its token receives the status word. -/
theorem Pkg.msgEnd_logs {q : Pkg} {f : Flight} (h : q.replayOf f.space = none) (ix code : Nat) :
    ∃ r, ({ q with flights := q.flights.eraseIdx ix } : Pkg).LogsTo r ∧
      q.msgEnd ix f code = r.tokenDone f.who f.gen f.tok f.op (msgStatus code) := by
  have he : q.msgEnd ix f code = ((({ q with flights := q.flights.eraseIdx ix } : Pkg).record f.space
      (logEntry (msgStatus code) (f.op / 64) f.gen.toNat f.who.gcid 5 (f.op % 64) 4)).replayStep f.space).tokenDone
        f.who f.gen f.tok f.op (msgStatus code) := by
    simp only [Pkg.msgEnd, Pkg.replayAllows_of_none h, h, Bool.and_self, ↓reduceIte]
  exact ⟨_, (Pkg.record_logs ..).trans (Pkg.replayStep_logs ..), he⟩

theorem Pkg.tokenDone_ctx (p : Pkg) (x : CtxRef) (gen : BitVec 16) (reg tag : Nat) (v : Word) :
    (p.tokenDone x gen reg tag v).ctx x = (p.ctx x).tokenDone gen reg tag v := by
  have hcores : (p.tokenDone x gen reg tag v).cores = (p.modCtx x fun c => c.tokenDone gen reg tag v).cores := rfl
  rw [Pkg.ctx_of_cores hcores, Pkg.ctx_modCtx_same]

theorem Ctx.tokenDone_sn {c : Ctx} {gen : BitVec 16} {reg tag : Nat} (v : Word) (hgen : c.gen = gen) (hst : c.st ≠ .free)
    (hpend : Tab.find? c.regs.pend reg = some tag) : (c.tokenDone gen reg tag v).regs.sn reg = v := by
  rw [Ctx.tokenDone, if_pos ⟨hgen, hst⟩]
  show (c.regs.tokenDone reg tag v).sn reg = v
  rw [Regs.tokenDone, if_pos hpend]
  exact (Regs.sn_setSn c.regs reg reg v).trans (if_pos rfl)

theorem Pkg.msgEnd_flights {q : Pkg} {f : Flight} (h : q.replayOf f.space = none) (ix code : Nat) :
    (q.msgEnd ix f code).flights = q.flights.eraseIdx ix := by
  obtain ⟨r, ⟨_, _, _, _, rfl⟩, he⟩ := Pkg.msgEnd_logs h ix code
  rw [he]
  rfl

theorem Pkg.msgEnd_token {q : Pkg} {f : Flight} (h : q.replayOf f.space = none) (ix code : Nat)
    (hpend : Tab.find? (q.ctx f.who).regs.pend f.tok = some f.op) (hgen : (q.ctx f.who).gen = f.gen)
    (hst : (q.ctx f.who).st ≠ .free) : ((q.msgEnd ix f code).ctx f.who).regs.sn f.tok = msgStatus code := by
  obtain ⟨r, hlogs, he⟩ := Pkg.msgEnd_logs h ix code
  have hctx : r.ctx f.who = q.ctx f.who := (hlogs.ctx f.who).trans (Pkg.ctx_of_cores rfl f.who)
  rw [he, Pkg.tokenDone_ctx, hctx, Ctx.tokenDone_sn _ hgen hst hpend]

/-- Table 8.6's status word. -/
theorem msgStatus_eq (code : Nat) :
    msgStatus code = BitVec.ofNat 64 ((if code = 0 then 1 else 2) * 2 ^ 62 + code * 2 ^ 56) := by
  simp only [msgStatus, Nat.shiftLeft_eq]

theorem Pkg.msgEnd_shortens {q : Pkg} {f : Flight} (h : q.replayOf f.space = none) {ix : Nat} (hix : ix < q.flights.length)
    (code : Nat) : (q.msgEnd ix f code).flights.length < q.flights.length := by
  rw [Pkg.msgEnd_flights h, List.length_eraseIdx, if_pos hix]
  omega

/-- Whom a message is for is there to take it (R72). -/
def Pkg.receives (p : Pkg) (f : Flight) : Prop :=
  let y : CtxRef := ctxOfGcid (fld f.dst.toNat 28 16)
  (p.ctx y).st ≠ .free ∧ (p.ctx y).gen = f.dst.setWidth 16 ∧ p.spaceOf y.core = f.space

section
variable {p : Pkg} {ix : Nat} {f : Flight} (hix : ix < p.flights.length) (hr : p.replayOf f.space = none)
include hix hr

theorem Pkg.deliver_absent (h : ¬ p.receives f) :
    let y : CtxRef := ctxOfGcid (fld f.dst.toNat 28 16)
    p.deliver ix f = (p.modCore y.core fun k => { k with dropped := k.dropped + 1 }).msgEnd ix f 1 := by
  intro y
  have hnot : (p.ctx y).st = .free ∨ (p.ctx y).gen ≠ f.dst.setWidth 16 ∨ p.spaceOf y.core ≠ f.space := by
    simp only [Pkg.receives] at h
    tauto
  dsimp only [Pkg.deliver]
  rw [if_pos hnot]
  exact if_pos (Pkg.msgEnd_shortens (q := p.modCore y.core fun k => { k with dropped := k.dropped + 1 }) hr hix 1)

theorem Pkg.deliver_taken (h : p.receives f) :
    let y : CtxRef := ctxOfGcid (fld f.dst.toNat 28 16)
    let used := (p.ctx y).inbox.length + ((p.ctx y).chunks.flatMap Chunk.taken).length
    (used < 8 → p.deliver ix f = (p.modCtx y fun c => { c with inbox := c.inbox ++ [f.msg] }).msgEnd ix f 0) ∧
      (8 ≤ used → p.deliver ix f = p) := by
  intro y used
  obtain ⟨hst, hgen, hspace⟩ := h
  have hhere : ¬((p.ctx y).st = .free ∨ (p.ctx y).gen ≠ f.dst.setWidth 16 ∨ p.spaceOf y.core ≠ f.space) := by tauto
  dsimp only [Pkg.deliver]
  rw [if_neg hhere]
  constructor
  · intro hroom
    rw [if_neg (Nat.not_le.mpr hroom)]
    exact if_pos (Pkg.msgEnd_shortens (q := p.modCtx y fun c => { c with inbox := c.inbox ++ [f.msg] }) hr hix 0)
  · intro hfull
    rw [if_pos hfull, if_neg (Nat.lt_irrefl _)]

end

/-- Settles O45: delivery by what the receiver is, and the end of a message. -/
theorem messageEvents : Obligations.MessageEvents := by
  unfold Obligations.MessageEvents
  intro s ix f hix hfirst hr p y c here used young
  have hlen : ix < p.flights.length := (List.getElem?_eq_some_iff.mp hix).1
  have hold : ¬ young ↔ Config.msgTimeout ≤ p.pt - f.released := Nat.not_lt
  have delivers {q : Pkg} (h : young → p.deliver ix f = q) (h' : ¬ young → p = q) : s.does (.messageDelivery ix) q := by
    refine State.does_of_run rfl ?_
    simp only [hix, hfirst, hr, Flight.late, Option.isSome_none, Bool.or_false, Bool.true_and]
    by_cases hy : young
    · rw [decide_eq_false (hold.not.mp (not_not.mpr hy))]
      exact h hy
    · rw [decide_eq_true (hold.mp hy)]
      exact h' hy
  refine ⟨fun hy hnot => delivers (fun _ => Pkg.deliver_absent hlen hr hnot) (absurd hy),
    fun hy hhere hroom => delivers (fun _ => (Pkg.deliver_taken hlen hr hhere).1 hroom) (absurd hy),
    fun hhere hfull => delivers (fun _ => (Pkg.deliver_taken hlen hr hhere).2 hfull) fun _ => rfl,
    fun hy => delivers (absurd · hy) fun _ => rfl, fun hlate => ?expires,
    fun q code hq _ => ⟨Pkg.msgEnd_flights hq ix code, fun hpend hgen hst => ?token⟩⟩
  case expires =>
    have hl : f.late s.pkg = true := decide_eq_true hlate
    refine State.does_of_run rfl ?_
    simp only [hix, hfirst, hl, Bool.true_or, Bool.and_self, ↓reduceIte]
    rfl
  case token => exact (Pkg.msgEnd_token hq ix code hpend hgen hst).trans (msgStatus_eq code)

end Sys2Proof.Machine

/-! SUPPORT. Proofs: vector loads and stores (R235, R239, R240). -/

namespace Sys2Proof.Machine

/-! ### Lanes and addresses -/

theorem mem_accessLanes {r : Regs} {c : SReg} {j : Nat} :
    j ∈ accessLanes r c ↔ j < 64 ∧ (c = 0 ∨ (r.sr c).getLsbD j = true) := by
  rw [accessLanes, List.mem_filter, List.mem_range, accessOn, Bool.or_eq_true, beq_iff_eq]

theorem accessLanes_sorted (r : Regs) (c : SReg) : (accessLanes r c).Pairwise (· < ·) :=
  List.pairwise_lt_range.filter _

theorem ldvsAddr_eq_ofInt (r : Regs) (a b : SReg) (disp : BitVec 32) (j : Nat) :
    ldvsAddr r a b disp j = BitVec.ofInt 64 ((r.sr a).toInt + disp.toInt + j * (r.sr b).toInt) := by
  rw [ldvsAddr, BitVec.signExtend, BitVec.ofInt_add, BitVec.ofInt_add, BitVec.ofInt_mul, BitVec.ofInt_toInt, BitVec.ofInt_toInt,
    BitVec.ofInt_natCast]

theorem ofInt_mul_two_pow (z : Int) (n : Nat) : BitVec.ofInt 64 (z * 2 ^ n) = BitVec.ofInt 64 z <<< n := by
  rw [BitVec.shiftLeft_eq_mul_twoPow, BitVec.ofInt_mul]
  congr 1
  apply BitVec.eq_of_toNat_eq
  rw [BitVec.toNat_twoPow, ← Nat.cast_ofNat (R := Int), ← Nat.cast_pow, BitVec.ofInt_natCast, BitVec.toNat_ofNat]

theorem ldvgAddr_eq_ofInt (r : Regs) (a : SReg) (b : VReg) (sc : BitVec 4) (disp : BitVec 32) (j : Nat) :
    ldvgAddr r a b sc disp j =
      BitVec.ofInt 64 ((r.sr a).toInt + disp.toInt + (r.lane b.toNat j).toInt * 2 ^ sc.toNat) := by
  rw [ldvgAddr, BitVec.ofInt_add, BitVec.ofInt_add, ofInt_mul_two_pow, BitVec.ofInt_toInt, BitVec.signExtend, BitVec.signExtend,
    BitVec.add_assoc, BitVec.add_assoc, BitVec.add_comm (_ <<< _)]

/-! ### The checks of the elements, in lane order -/

section
variable {s : State} {need n : Nat} {addr : Nat → Word}

theorem M.checkEls_ok {js : List Nat} (h : ∀ k ∈ js, s.elOk need (addr k).toNat n) :
    (M.checkEls s.pkg.cur need n addr js).run s.pkg = .ok ((), s.pkg) := by
  induction js with
  | nil => rfl
  | cons j t ih =>
    rw [M.checkEls, M.run_bind, M.checkEl_ok (h j List.mem_cons_self)]
    exact ih fun k hk => h k (List.mem_cons_of_mem j hk)

/-- The first element that fails its checks faults, with its lane in TRAPINFO. -/
theorem M.checkEls_bad {pre post : List Nat} {j cause : Nat} (hj : j < 64) (hpre : ∀ k ∈ pre, s.elOk need (addr k).toNat n)
    (hbad : s.elBad need (addr j).toNat n cause) :
    (M.checkEls s.pkg.cur need n addr (pre ++ j :: post)).run s.pkg = .error (.fault cause (addr j).toNat (j * 2 ^ 16)) := by
  induction pre with
  | nil =>
    rw [List.nil_append, M.checkEls, M.run_bind, M.checkEl_bad hbad, Nat.shiftLeft_eq, Nat.mod_eq_of_lt (by omega)]
  | cons i t ih =>
    rw [List.cons_append, M.checkEls, M.run_bind, M.checkEl_ok (hpre i List.mem_cons_self)]
    exact ih fun k hk => hpre k (List.mem_cons_of_mem i hk)

end

/-- The elements that a vector load reads are those of its lanes, in order. -/
theorem M.loadEls_lanes {x : CtxRef} {n : Nat} {inv noalloc : Bool} {addr : Nat → Word} {js : List Nat} {p q : Pkg}
    {l : Tab (BitVec 32)} (h : (M.loadEls x n inv noalloc addr js).run p = .ok (l, q)) : l.map Prod.fst = js := by
  induction js generalizing p l with
  | nil =>
    cases h
    rfl
  | cons j t ih =>
    simp only [M.loadEls, M.run_bind] at h
    split at h
    next v p' _ =>
      split at h
      next l' q' hl' =>
        cases h
        rw [List.map_cons, ih hl']
      next => cases h
    next => cases h

/-! ### Issue -/

section
variable {s : State} {g : Guard} {i : Instr} {w : VW} {h : Hint} {inv : Bool} {d : VReg} {c : SReg} {srcs vsrcs : List Nat}
  {addr : Regs → Nat → Word} {addr' : Nat → Word}

theorem State.vecLoad_loads (hready : s.pkg.ready g (srcs ++ accessSrcs c) [] vsrcs [d.toNat] none = true)
    (he : exec i s = s.issue (.vecLoad g w h inv d c srcs vsrcs addr)) (ha : addr s.regs = addr') :
    s.vectorLoads i (vwBytes w) h inv d c addr' := by
  subst ha
  constructor
  · intro pre j post cause hjs hpre hbad
    have hj : j < 64 := (mem_accessLanes.mp (hjs ▸ List.mem_append_right pre List.mem_cons_self)).1
    rw [State.faults, he]
    refine State.issue_stops (e := .fault cause (addr s.regs j).toNat (j * 2 ^ 16)) hready rfl rfl rfl ?_
    simp only [Ins.vecLoad, M.run_bind, M.run_me, M.run_r, hjs, M.checkEls_bad hj hpre hbad]
  · intro hok l q hl
    refine ⟨M.loadEls_lanes hl, fun hfits => ?_⟩
    rw [he]
    refine State.issue_body hready rfl rfl rfl rfl ?_ hfits
    simp only [Ins.vecLoad, M.run_bind, M.run_me, M.run_r, M.checkEls_ok hok, hl, M.run_setRegs, M.run_pure]

theorem State.vecStore_stores (hready : s.pkg.ready g (srcs ++ accessSrcs c) [] (d.toNat :: vsrcs) [] none = true)
    (he : exec i s = s.issue (.vecStore g w d c srcs vsrcs addr)) (ha : addr s.regs = addr') :
    s.vectorStores i (vwBytes w) d c addr' := by
  subst ha
  constructor
  · intro pre j post cause hjs hpre hbad
    have hmem := List.mem_of_mem_filter (hjs ▸ List.mem_append_right pre List.mem_cons_self)
    have hj : j < 64 := (mem_accessLanes.mp hmem).1
    rw [State.faults, he]
    refine State.issue_stops (e := .fault cause (addr s.regs j).toNat (j * 2 ^ 16)) hready rfl rfl rfl ?_
    simp only [Ins.vecStore, M.run_bind, M.run_me, M.run_r, hjs, M.checkEls_bad hj hpre hbad]
  · intro hok fl q hq hfits
    rw [he]
    refine State.issue_body hready rfl rfl rfl rfl ?_ hfits
    simp only [Ins.vecStore, M.run_bind, M.run_me, M.run_r, M.checkEls_ok hok, hq]

end

/-- Settles O20: the six instructions issue as one load and one store of the active lanes, each with its own addresses. -/
theorem vectorAccesses : Obligations.VectorAccesses := by
  unfold Obligations.VectorAccesses
  intro s g w h inv d bv a b c m sc disp n r unit strided gathered ready
  refine ⟨fun _ => mem_accessLanes, accessLanes_sorted r c, fun hr => ?ldv, fun hr => ?ldvs, fun hr => ?ldvg, fun hr => ?stv,
    fun hr => ?stvs, fun hr => ?stvg⟩
  case ldv => exact State.vecLoad_loads hr rfl rfl
  case ldvs => exact State.vecLoad_loads hr rfl (funext fun j => ldvsAddr_eq_ofInt r a b disp j)
  case ldvg => exact State.vecLoad_loads hr rfl (funext fun j => ldvgAddr_eq_ofInt r a bv sc disp j)
  case stv => exact State.vecStore_stores hr rfl rfl
  case stvs => exact State.vecStore_stores hr rfl (funext fun j => ldvsAddr_eq_ofInt r a b disp j)
  case stvg => exact State.vecStore_stores hr rfl (funext fun j => ldvgAddr_eq_ofInt r a bv sc disp j)

end Sys2Proof.Machine

/-! SUPPORT. Proofs: the deferred operations: COPY, GET, PUT, RPAN, PANN and PANV (R57, R246 to R248, R253, R255, R256, R266 to
R269). -/

namespace Sys2Proof.Machine

/-! ### The deferred-effect list (R57) -/

section
variable {s : State} {i : Instr} {n : Ins}
  (he : exec i s = s.issue n) (hready : s.pkg.ready n.guard n.srcs n.dsts n.vsrcs n.vdsts n.engine = true)

theorem M.defer_appends (h : s.canDefer) (kind : EKind) (col : Nat) (tok : SReg) :
    (M.defer s.pkg.cur kind col tok).run s.pkg = .ok ((), s.pkg.deferring kind col tok) := by
  have hroom : ¬ (s.pkg.ctx s.pkg.cur).ch.deferred.length ≥ 32 := Nat.not_le.mpr h
  simp only [M.defer, M.ctx, M.run_bind, M.run_get, M.run_pure, hroom, ↓reduceIte, M.modCtx, M.run_modify]
  rfl

theorem M.defer_cuts (h : ¬ s.canDefer) (kind : EKind) (col : Nat) (tok : SReg) :
    (M.defer s.pkg.cur kind col tok).run s.pkg = .error .cut := by
  have hfull : (s.pkg.ctx s.pkg.cur).ch.deferred.length ≥ 32 := Nat.not_lt.mp h
  simp only [M.defer, M.ctx, M.run_bind, M.run_get, M.run_pure, hfull, ↓reduceIte, M.run_throw]

include hready in
theorem Pkg.fits_deferring (kind : EKind) (col : Nat) (tok : SReg) : s.pkg.fits (s.pkg.deferring kind col tok) = true := by
  obtain ⟨-, -, -, -, -, -, hover, hsig⟩ := Pkg.ready_iff.mp hready
  rw [Pkg.fits, Pkg.deferring, Pkg.overreaches_modCtx _ _ _ rfl rfl rfl rfl rfl rfl, hover]
  simpa using hsig

include he hready

/-- An instruction inside a chunk whose body only joins the list. -/
theorem State.defers_of_body {kind : EKind} {col : Nat} {tok : SReg} (hp : n.priv s.pkg = true) (hc : n.cut = false)
    (ha : n.after = id) (hn : n.engine = none) (hb : n.body.run s.pkg = .ok (.next, s.pkg.deferring kind col tok)) :
    s.defers i kind col tok := by
  rw [State.defers, he]
  exact State.issue_body hready hp hc ha hn hb (Pkg.fits_deferring hready kind col tok)

theorem State.faults_of_body {cause addr info : Nat} (hp : n.priv s.pkg = true) (hc : n.cut = false)
    (hs : n.stopped = fun _ p => p) (hb : n.body.run s.pkg = .error (.fault cause addr info)) : s.faults i cause addr info := by
  rw [State.faults, he]
  exact State.issue_stops hready hp hc hs hb

theorem State.cuts_of_body (hp : n.priv s.pkg = true) (hc : n.cut = false) (hs : n.stopped = fun _ p => p)
    (hb : n.body.run s.pkg = .error .cut) : exec i s = .next { s with pkg := (s.pkg.settle s.pkg.cur .cut).seal } := by
  rw [he]
  exact State.issue_stops hready hp hc hs hb

end

/-! ### COPY (R247, R248, R253) -/

section
variable {s : State} {h : Shape}

theorem M.checkCopy_long (hlong : 2 ^ 40 - 1 < h.total) : (M.checkCopy s.pkg.cur h).run s.pkg = .error (.fault 8 0 0x28) := by
  have : h.total > 2 ^ 40 - 1 := hlong
  simp only [M.checkCopy, this, ↓reduceIte, M.run_bind, M.invocation, M.fault, M.run_throw]

theorem M.checkCopy_ok (hok : s.copyOk h) : (M.checkCopy s.pkg.cur h).run s.pkg = .ok ((), s.pkg) := by
  obtain ⟨hlen, hrows⟩ := hok
  have hshort : ¬ h.total > 2 ^ 40 - 1 := Nat.not_lt.mpr hlen
  by_cases h0 : h.total = 0
  · simp only [M.checkCopy, if_neg hshort, if_pos h0, M.run_bind, M.run_pure]
  · have hnone : List.findSome? (s.pkg.badRow (s.pkg.spaceOf s.pkg.cur.core) h) (List.range (h.n1 * h.n2)) = none :=
      List.findSome?_eq_none_iff.mpr fun w hw => hrows h0 w (List.mem_range.mp hw)
    simp only [M.checkCopy, hshort, h0, ↓reduceIte, M.run_bind, M.run_pure, M.run_get, hnone]

theorem M.checkCopy_row {w va : Nat} (h0 : h.total ≠ 0) (hlen : h.total ≤ 2 ^ 40 - 1) (hw : w < h.n1 * h.n2)
    (hpre : ∀ k < w, s.pkg.badRow (s.pkg.spaceOf s.pkg.cur.core) h k = none)
    (hbad : s.pkg.badRow (s.pkg.spaceOf s.pkg.cur.core) h w = some va) :
    (M.checkCopy s.pkg.cur h).run s.pkg = .error (.fault 2 va 0) := by
  have hshort : ¬ h.total > 2 ^ 40 - 1 := Nat.not_lt.mpr hlen
  have hfirst : List.findSome? (s.pkg.badRow (s.pkg.spaceOf s.pkg.cur.core) h) (List.range (h.n1 * h.n2)) = some va := by
    obtain ⟨m, hm⟩ : ∃ m, h.n1 * h.n2 = w + (m + 1) := ⟨h.n1 * h.n2 - (w + 1), by omega⟩
    rw [hm, List.range_add, List.findSome?_append, List.findSome?_eq_none_iff.mpr fun k hk => hpre k (List.mem_range.mp hk),
      Option.none_or, List.range_succ_eq_map, List.map_cons, List.findSome?_cons, Nat.add_zero, hbad]
  simp only [M.checkCopy, hshort, h0, ↓reduceIte, M.run_bind, M.run_pure, M.run_get, hfirst, M.run_throw]

end

/-- The checks that COPY, of each of its shapes, makes before it is deferred. -/
def State.checksCopy (s : State) (i : Instr) (h : Shape) : Prop :=
  (2 ^ 40 - 1 < h.total → s.faults i 8 0 0x28) ∧
  (∀ w va, h.total ≠ 0 → h.total ≤ 2 ^ 40 - 1 → w < h.n1 * h.n2 → (∀ k < w, s.pkg.badRow (s.pkg.spaceOf s.pkg.cur.core) h k = none) →
    s.pkg.badRow (s.pkg.spaceOf s.pkg.cur.core) h w = some va → s.faults i 2 va 0) ∧
  (s.copyOk h → ¬ s.canDefer → exec i s = .next { s with pkg := (s.pkg.settle s.pkg.cur .cut).seal })

/-- The instruction word of a COPY without a manifest. -/
def Ins.copy (g : Guard) (srcs : List Nat) (d : SReg) (col : BitVec 3) (shape : Regs → Shape) : Ins :=
  { guard := g, srcs, dsts := [d.toNat], body := do M.copy col d (shape (← M.r)) none }

theorem State.copy_checked {s : State} {i : Instr} {g : Guard} {srcs : List Nat} {d : SReg} {col : BitVec 3} {shape : Regs → Shape}
    {h : Shape} (hready : s.ready g srcs [d.toNat]) (he : exec i s = s.issue (.copy g srcs d col shape)) (hh : shape s.regs = h) :
    s.checksCopy i h ∧ (s.copyOk h → s.canDefer →
      s.defers i (.copy h.dst h.src h.n0 h.n1 h.n2 h.ss1 h.ds1 h.ss2 h.ds2 none) col.toNat d) := by
  refine ⟨⟨fun hlong => ?long, fun w va h0 hlen hw hpre hbad => ?row, fun hok hfull => ?full⟩, fun hok hroom => ?room⟩
  case long =>
    refine State.faults_of_body (n := .copy g srcs d col shape) he hready rfl rfl rfl ?_
    simp only [Ins.copy, M.copy, M.run_bind, M.run_r, M.run_me, hh, M.checkCopy_long hlong]
  case row =>
    refine State.faults_of_body (n := .copy g srcs d col shape) he hready rfl rfl rfl ?_
    simp only [Ins.copy, M.copy, M.run_bind, M.run_r, M.run_me, hh, M.checkCopy_row h0 hlen hw hpre hbad]
  case full =>
    refine State.cuts_of_body (n := .copy g srcs d col shape) he hready rfl rfl rfl ?_
    simp only [Ins.copy, M.copy, M.run_bind, M.run_r, M.run_me, hh, M.checkCopy_ok hok, M.run_pure, M.defer_cuts hfull]
  case room =>
    refine State.defers_of_body (n := .copy g srcs d col shape) he hready rfl rfl rfl rfl ?_
    simp only [Ins.copy, M.copy, M.run_bind, M.run_r, M.run_me, hh, M.checkCopy_ok hok, M.run_pure, M.defer_appends hroom]

theorem M.checkRange_ok {s : State} {need va n : Nat} (h : s.pkg.badByte (s.pkg.spaceOf s.pkg.cur.core) need va n = none) :
    (M.checkRange s.pkg.cur need va n).run s.pkg = .ok ((), s.pkg) := by
  simp only [M.checkRange, M.run_bind, M.run_get, h, M.run_pure]

theorem M.checkRange_bad {s : State} {need va n bad : Nat}
    (h : s.pkg.badByte (s.pkg.spaceOf s.pkg.cur.core) need va n = some bad) :
    (M.checkRange s.pkg.cur need va n).run s.pkg = .error (.fault 2 bad 0) := by
  simp only [M.checkRange, M.run_bind, M.run_get, h, M.run_throw]

section
variable {s : State} {va : Word} {h : Shape}

theorem M.checkManifest_unaligned (htop : va.toNat < vaTop) (halign : va.toNat % 64 ≠ 0) :
    (M.checkManifest s.pkg.cur h va).run s.pkg = .error (.fault 6 va.toNat 0) := by
  simp only [M.checkManifest, M.run_bind, if_neg (Nat.not_le.mpr htop), if_pos halign, M.run_pure, M.run_throw]

theorem M.checkManifest_ok (htop : va.toNat < vaTop) (halign : va.toNat % 64 = 0)
    (hmap : s.pkg.badByte (s.pkg.spaceOf s.pkg.cur.core) (rENG + rWR) va.toNat
      (64 * ((h.total + shardBytes - 1) / shardBytes)) = none) :
    (M.checkManifest s.pkg.cur h va).run s.pkg = .ok ((), s.pkg) := by
  simp only [M.checkManifest, M.run_bind, if_neg (Nat.not_le.mpr htop), if_neg (not_not.mpr halign), M.run_pure,
    M.checkRange_ok hmap]

end

/-- COPY.d, its rows in order (R253): its manifest is checked, and then it is deferred. -/
theorem copyDigest_checked {s : State} {g : Guard} {col : BitVec 3} {d a b c : SReg} {h : Shape} {mf : Word}
    (hready : s.ready g [a.toNat, b.toNat, c.toNat, c.toNat + 1] [d.toNat]) (hh : copyShape1 s.regs a b c = h)
    (hm : s.regs.sn (c.toNat + 1) = mf) (hok : s.copyOk h) (hroom : s.canDefer) (htop : mf.toNat < vaTop) :
    (mf.toNat % 64 ≠ 0 → s.faults (.copyDigest g col d a b c) 6 mf.toNat 0) ∧
      (mf.toNat % 64 = 0 → s.pkg.badByte (s.pkg.spaceOf s.pkg.cur.core) (rENG + rWR) mf.toNat
          (64 * ((h.total + shardBytes - 1) / shardBytes)) = none →
        s.defers (.copyDigest g col d a b c) (.copy h.dst h.src h.n0 h.n1 h.n2 h.ss1 h.ds1 h.ss2 h.ds2 (some mf)) col.toNat d) := by
  refine ⟨fun halign => ?bad, fun halign hmap => ?ok⟩
  case bad =>
    refine State.faults_of_body (i := .copyDigest g col d a b c) rfl hready rfl rfl rfl ?_
    simp only [M.copy, M.run_bind, M.run_r, M.run_me, hh, hm, M.checkCopy_ok hok, M.checkManifest_unaligned htop halign]
  case ok =>
    refine State.defers_of_body (i := .copyDigest g col d a b c) rfl hready rfl rfl rfl rfl ?_
    simp only [M.copy, M.run_bind, M.run_r, M.run_me, hh, hm, M.checkCopy_ok hok, M.checkManifest_ok htop halign hmap,
      M.defer_appends hroom, M.run_pure]

/-! ### GET, PUT and RPAN (R255, R256) -/

theorem M.peerIndex_ok {w : Word} (h : w.toNat < 2 ^ 12) (p : Pkg) : (M.peerIndex w).run p = .ok (w.toNat, p) := by
  have : ¬ w.toNat ≥ 2 ^ 12 := Nat.not_le.mpr h
  simp only [M.peerIndex, if_neg this, M.run_bind, M.run_pure]

theorem M.peerIndex_bad {w : Word} (h : 2 ^ 12 ≤ w.toNat) (p : Pkg) : (M.peerIndex w).run p = .error (.fault 8 0 0x28) := by
  have : w.toNat ≥ 2 ^ 12 := h
  simp only [M.peerIndex, if_pos this, M.run_bind, M.invocation, M.fault, M.run_throw]

section
variable {s : State} {need : Nat} {a c : SReg}

theorem M.remote_unmapped {va : Nat}
    (h : s.pkg.badByte (s.pkg.spaceOf s.pkg.cur.core) need (s.regs.sr a).toNat (s.regs.sr c).toNat = some va) :
    (M.remote need a c).run s.pkg = .error (.fault 2 va 0) := by
  simp only [M.remote, M.run_bind, M.run_me, M.run_r, M.checkRange_bad h]

theorem M.remote_malformed (h : s.pkg.badByte (s.pkg.spaceOf s.pkg.cur.core) need (s.regs.sr a).toNat (s.regs.sr c).toNat = none)
    (hbad : 2 ^ 32 < (s.regs.sr c).toNat ∨ 2 ^ 12 ≤ (s.regs.sn (c.toNat + 1)).toNat) :
    (M.remote need a c).run s.pkg = .error (.fault 8 0 0x28) := by
  by_cases hlong : (s.regs.sr c).toNat > 2 ^ 32
  · simp only [M.remote, M.run_bind, M.run_me, M.run_r, M.checkRange_ok h, if_pos hlong, M.invocation, M.fault, M.run_throw]
  · have hpeer := hbad.resolve_left hlong
    simp only [M.remote, M.run_bind, M.run_me, M.run_r, M.checkRange_ok h, if_neg hlong, M.run_pure, M.peerIndex_bad hpeer]

theorem M.remote_ok (h : s.pkg.badByte (s.pkg.spaceOf s.pkg.cur.core) need (s.regs.sr a).toNat (s.regs.sr c).toNat = none)
    (hlen : (s.regs.sr c).toNat ≤ 2 ^ 32) (hpeer : (s.regs.sn (c.toNat + 1)).toNat < 2 ^ 12) :
    (M.remote need a c).run s.pkg = .ok (((s.regs.sr c).toNat, (s.regs.sn (c.toNat + 1)).toNat), s.pkg) := by
  have hlong : ¬ (s.regs.sr c).toNat > 2 ^ 32 := Nat.not_lt.mpr hlen
  simp only [M.remote, M.run_bind, M.run_me, M.run_r, M.checkRange_ok h, if_neg hlong, M.run_pure, M.peerIndex_ok hpeer]

end

/-- The instruction word of GET and of PUT: `kind` is what they defer. -/
def Ins.remote (g : Guard) (need : Nat) (col : BitVec 3) (d a b c : SReg) (kind : Word → Word → Nat → Nat → EKind) : Ins :=
  { guard := g, srcs := a.toNat :: b.toNat :: regRange c.toNat 2, dsts := [d.toNat],
    body := do
      let (n, peer) ← M.remote need a c
      let r ← M.r
      M.defer (← M.me) (kind (r.sr a) (r.sr b) n peer) col.toNat d
      return .next }

theorem State.remote_checked {s : State} {i : Instr} {g : Guard} {need : Nat} {col : BitVec 3} {d a b c : SReg}
    {kind : Word → Word → Nat → Nat → EKind} (hready : s.ready g (a.toNat :: b.toNat :: regRange c.toNat 2) [d.toNat])
    (he : exec i s = s.issue (.remote g need col d a b c kind)) :
    let bad := s.pkg.badByte (s.pkg.spaceOf s.pkg.cur.core) need (s.regs.sr a).toNat (s.regs.sr c).toNat
    let n := (s.regs.sr c).toNat
    let peer := (s.regs.sn (c.toNat + 1)).toNat
    (∀ va, bad = some va → s.faults i 2 va 0) ∧ (bad = none → 2 ^ 32 < n ∨ 2 ^ 12 ≤ peer → s.faults i 8 0 0x28) ∧
      (bad = none → n ≤ 2 ^ 32 → peer < 2 ^ 12 → s.canDefer → s.defers i (kind (s.regs.sr a) (s.regs.sr b) n peer) col.toNat d) := by
  refine ⟨fun va hbad => ?unmapped, fun hmap hbad => ?malformed, fun hmap hlen hpeer hroom => ?ok⟩
  case unmapped =>
    refine State.faults_of_body (n := .remote g need col d a b c kind) he hready rfl rfl rfl ?_
    simp only [Ins.remote, M.run_bind, M.remote_unmapped hbad]
  case malformed =>
    refine State.faults_of_body (n := .remote g need col d a b c kind) he hready rfl rfl rfl ?_
    simp only [Ins.remote, M.run_bind, M.remote_malformed hmap hbad]
  case ok =>
    refine State.defers_of_body (n := .remote g need col d a b c kind) he hready rfl rfl rfl rfl ?_
    simp only [Ins.remote, M.run_bind, M.remote_ok hmap hlen hpeer, M.run_r, M.run_me, M.defer_appends hroom, M.run_pure]

theorem rpan_checked {s : State} {g : Guard} {col : BitVec 3} {m : BitVec 2} {d a b c : SReg} {slot : BitVec 8}
    (hready : s.ready g (a.toNat :: c.toNat :: regRange b.toNat (2 ^ m.toNat)) [d.toNat]) :
    let i : Instr := .rpan g col m d a b c slot
    ((s.regs.sr a).toNat % 64 ≠ 0 → s.faults i 6 (s.regs.sr a).toNat 0) ∧
      ((s.regs.sr a).toNat % 64 = 0 → 2 ^ 12 ≤ (s.regs.sr c).toNat → s.faults i 8 0 0x28) ∧
      ((s.regs.sr a).toNat % 64 = 0 → (s.regs.sr c).toNat < 2 ^ 12 → s.canDefer →
        s.defers i (.rpan (s.regs.sr a) (s.regs.sr c).toNat slot.toNat (panOperand s.regs b m)) col.toNat d) := by
  intro i
  refine ⟨fun halign => ?bad, fun halign hpeer => ?peer, fun halign hpeer hroom => ?ok⟩
  case bad =>
    refine State.faults_of_body (i := i) rfl hready rfl rfl rfl ?_
    simp only [M.run_bind, M.run_r, if_pos halign, M.run_throw]
  case peer =>
    refine State.faults_of_body (i := i) rfl hready rfl rfl rfl ?_
    simp only [M.run_bind, M.run_r, if_neg (not_not.mpr halign), M.run_pure, M.peerIndex_bad hpeer]
  case ok =>
    refine State.defers_of_body (i := i) rfl hready rfl rfl rfl rfl ?_
    simp only [M.run_bind, M.run_r, if_neg (not_not.mpr halign), M.run_pure, M.peerIndex_ok hpeer, M.run_me, M.defer_appends hroom]

/-! ### PANN and PANV (R266 to R269) -/

theorem M.checkLine_run (p : Pkg) (va lane : Nat) : (M.checkLine va lane).run p = (M.checkEl p.cur rPAN va 64 lane).run p := by
  rw [M.checkLine, M.run_bind, M.run_me]

theorem pann_checked {s : State} {g : Guard} {col : BitVec 3} {m : BitVec 2} {d a b : SReg} {slot : BitVec 8}
    (hready : s.ready g (a.toNat :: regRange b.toNat (2 ^ m.toNat)) [d.toNat]) :
    let i : Instr := .pann g col m d a b slot
    let va := (s.regs.sr a).toNat
    (∀ cause, s.elBad rPAN va 64 cause → s.faults i cause va 0) ∧
      (s.elOk rPAN va 64 → s.canDefer → s.defers i
        (.pan slot.toNat [{ lane := 0, va := s.regs.sr a, operand := panOperand s.regs b m }]) col.toNat d) := by
  intro i va
  refine ⟨fun cause hbad => ?bad, fun hok hroom => ?ok⟩
  case bad =>
    refine State.faults_of_body (i := i) rfl hready rfl rfl rfl ?_
    simp only [M.run_bind, M.run_r, M.checkLine_run]
    rw [M.checkEl_bad hbad]
    rfl
  case ok =>
    refine State.defers_of_body (i := i) rfl hready rfl rfl rfl rfl ?_
    simp only [M.run_bind, M.run_r, M.checkLine_run]
    rw [M.checkEl_ok hok]
    simp only [M.run_me, M.defer_appends hroom, M.run_pure]

section
variable {s : State}

theorem M.checkLines_ok {els : List PanEl} (h : ∀ e ∈ els, s.elOk rPAN e.va.toNat 64) :
    (M.checkLines els).run s.pkg = .ok ((), s.pkg) := by
  induction els with
  | nil => rfl
  | cons e t ih =>
    rw [M.checkLines, M.run_bind, M.checkLine_run, M.checkEl_ok (h e List.mem_cons_self)]
    exact ih fun k hk => h k (List.mem_cons_of_mem e hk)

theorem M.checkLines_bad {pre post : List PanEl} {e : PanEl} {cause : Nat} (hlane : e.lane < 64)
    (hpre : ∀ k ∈ pre, s.elOk rPAN k.va.toNat 64) (hbad : s.elBad rPAN e.va.toNat 64 cause) :
    (M.checkLines (pre ++ e :: post)).run s.pkg = .error (.fault cause e.va.toNat (e.lane * 2 ^ 16)) := by
  induction pre with
  | nil =>
    rw [List.nil_append, M.checkLines, M.run_bind, M.checkLine_run, M.checkEl_bad hbad, Nat.shiftLeft_eq,
      Nat.mod_eq_of_lt (by omega)]
  | cons k t ih =>
    rw [List.cons_append, M.checkLines, M.run_bind, M.checkLine_run, M.checkEl_ok (hpre k List.mem_cons_self)]
    exact ih fun k' hk => hpre k' (List.mem_cons_of_mem k hk)

end

/-- An element of a vector form, as R268 places it. -/
def panElAt (r : Regs) (a : SReg) (b c : VReg) (j : Nat) : PanEl :=
  { lane := j, va := BitVec.ofInt 64 ((r.sr a).toInt + 64 * (r.lane b.toNat j).toInt),
    operand := BitVec.ofNat 512 ((r.lane c.toNat j).toNat + 2 ^ 32 * (r.lane (c.toNat + 1) j).toNat) }

theorem panElAt_eq (r : Regs) (a : SReg) (b c : VReg) (j : Nat) :
    panElAt r a b c j =
      { lane := j, va := r.sr a + (r.lane b.toNat j).signExtend 64 <<< 6,
        operand := ((r.lane (c.toNat + 1) j) ++ (r.lane c.toNat j)).setWidth 512 } := by
  unfold panElAt
  congr 1
  · rw [Int.mul_comm, BitVec.ofInt_add, ← show (2 : Int) ^ 6 = 64 from rfl, ofInt_mul_two_pow, BitVec.ofInt_toInt, BitVec.signExtend]
  · have hlow := (r.lane c.toNat j).isLt
    apply BitVec.eq_of_toNat_eq
    rw [BitVec.toNat_setWidth, BitVec.toNat_append, BitVec.toNat_ofNat, ← Nat.shiftLeft_add_eq_or_of_lt hlow, Nat.shiftLeft_eq,
      Nat.add_comm, Nat.mul_comm]

theorem panEls_eq (r : Regs) (a : SReg) (b c : VReg) (mask : SReg) :
    panEls r a b c mask = ((List.range 64).filter fun j => (r.sr mask).getLsbD j).map (panElAt r a b c) :=
  List.map_congr_left fun j _ => (panElAt_eq r a b c j).symm

theorem panv_checked {s : State} {g : Guard} {col : BitVec 3} {d a mask : SReg} {b c : VReg} {slot : BitVec 8}
    (hready : s.pkg.ready g [a.toNat, mask.toNat] [d.toNat] [b.toNat, c.toNat, c.toNat + 1] [] none = true) :
    let i : Instr := .panv g col d a b c mask slot
    let els := panEls s.regs a b c mask
    (∀ pre e post cause, els = pre ++ e :: post → e.lane < 64 → (∀ k ∈ pre, s.elOk rPAN k.va.toNat 64) →
      s.elBad rPAN e.va.toNat 64 cause → s.faults i cause e.va.toNat (e.lane * 2 ^ 16)) ∧
    ((∀ e ∈ els, s.elOk rPAN e.va.toNat 64) → s.canDefer → s.defers i (.pan slot.toNat els) col.toNat d) := by
  intro i els
  refine ⟨fun pre e post cause hels hlane hpre hbad => ?bad, fun hok hroom => ?ok⟩
  case bad =>
    refine State.faults_of_body (i := i) rfl hready rfl rfl rfl ?_
    have hrun := M.checkLines_bad (post := post) hlane hpre hbad
    rw [← hels] at hrun
    simp only [M.run_bind, M.run_r, els] at hrun ⊢
    rw [hrun]
  case ok =>
    refine State.defers_of_body (i := i) rfl hready rfl rfl rfl rfl ?_
    have hrun := M.checkLines_ok hok
    simp only [M.run_bind, M.run_r, els] at hrun ⊢
    rw [hrun]
    simp only [M.run_me, M.defer_appends hroom, M.run_pure]

/-- Settles O23: each deferred operation's checks, in their order, and what it adds to the list. -/
theorem deferredOperations : Obligations.DeferredOperations := by
  unfold Obligations.DeferredOperations
  constructor
  · intro s g col m d a b c slot r f sp kind h1 h2 h3 checked
    refine ⟨fun hr => State.copy_checked (shape := (copyShape1 · a b c)) hr rfl rfl,
      fun hr hok hroom htop => copyDigest_checked hr rfl rfl hok hroom htop,
      fun hr => State.copy_checked (shape := (copyShape2 · a b c)) hr rfl rfl,
      fun hr => State.copy_checked (shape := (copyShape3 · a b c)) hr rfl rfl, fun hr => ?remote, fun hr => rpan_checked hr⟩
    case remote =>
      exact ⟨State.remote_checked (kind := fun x y n k => .get x y n k) hr rfl, State.remote_checked (kind := fun x y n k => .put x y n k) hr rfl⟩
  · intro s g col m d a b mask bv cv slot r va
    refine ⟨fun hr => pann_checked hr, fun hr => ?panv⟩
    case panv =>
      intro adr js
      let at_ := panElAt r a bv cv
      obtain ⟨hbad, hok⟩ := panv_checked (col := col) (slot := slot) hr
      rw [panEls_eq] at hbad hok
      refine ⟨fun pre j post cause hjs hpre hel => ?_, fun hall hroom => ?_⟩
      · have hj : j < 64 := List.mem_range.mp (List.mem_of_mem_filter (hjs ▸ List.mem_append_right pre List.mem_cons_self))
        have hsplit : js.map at_ = pre.map at_ ++ at_ j :: post.map at_ := by rw [hjs, List.map_append, List.map_cons]
        exact hbad _ (at_ j) _ cause hsplit hj (List.forall_mem_map.mpr hpre) hel
      · exact hok (List.forall_mem_map.mpr hall) hroom

end Sys2Proof.Machine

/-! SUPPORT. Proofs: a pan application at its line's home (R157 to R164). -/

namespace Sys2Proof.Machine

/-- Whether a slice's copy of an entry is that of a slot of a space. -/
def SliceEntry.isOf (slice s slot : Nat) (c : SliceEntry) : Bool := c.slice == slice && c.space == s && c.slot == slot

/-- An entry that a slice has used it keeps (R157). -/
theorem Pkg.cached?_useEntry (p : Pkg) (slice s slot e : Nat) : (p.useEntry slice s slot e).cached? slice s slot = some e := by
  have hrest : ∀ l : List SliceEntry, (∀ c ∈ l, c.isOf slice s slot = false) →
      ((l ++ [({ slice, space := s, slot, entry := e } : SliceEntry)]).find? (SliceEntry.isOf slice s slot)).map SliceEntry.entry = some e := by
    intro l hl
    have hnone : l.find? (SliceEntry.isOf slice s slot) = none := List.find?_eq_none.mpr fun c hc => by simp [hl c hc]
    simp [List.find?_append, hnone, SliceEntry.isOf]
  have hothers : ∀ c ∈ p.entries.filter fun c => !c.isOf slice s slot, c.isOf slice s slot = false := fun c hc => by simpa using (List.mem_filter.mp hc).2
  refine hrest _ ?_
  split
  · exact hothers
  · cases hm : List.head? _ with
    | none => exact hothers
    | some c => exact fun d hd => hothers d (List.mem_of_mem_erase hd)

section
variable {p : Pkg} {slice s slot : Nat} {returning : Bool} {e : Nat}
  (he : (p.cached? slice s slot).getD (p.tableEntry s slot) = e)

theorem Pkg.panCheck_unreadable (h : p.cached? slice s slot = none ∧ p.tableUnreadable s slot = true) :
    p.panCheck slice s slot returning = .error 5 := by
  simp [Pkg.panCheck, h.1, h.2]

include he

/-- The checks of a readable entry, in their order (R158, R161). -/
theorem Pkg.panCheck_readable (h : ¬(p.cached? slice s slot = none ∧ p.tableUnreadable s slot = true)) :
    p.panCheck slice s slot returning =
      if entState e = 2 then .error 2 else if entState e ≠ 1 then .error 1
      else if (returning && !hdrRet (entHdr e)) = true then .error 3 else .ok e := by
  have hgo : ((p.cached? slice s slot).isNone && p.tableUnreadable s slot) = false := by
    rw [Bool.eq_false_iff]
    simpa using h
  simp only [Pkg.panCheck, hgo, he, Bool.false_eq_true, ↓reduceIte]

end

section
variable {p₀ : Pkg} {c : PanCall} {r : Route} (hr : p₀.route? c.attr.space c.va = some r)
include hr

theorem Pkg.panHome_refused {code : Nat} (h : p₀.panCheck (p₀.homeOf r.key) c.attr.space c.slot c.returning = .error code) :
    p₀.panHome c = .done p₀ code false false 0 := by
  simp only [Pkg.panHome, hr, h]

/-- An application to a line of a die at work, without a brine copy and without parked records, that its home has whole and in
order: what the routine makes of it decides (R159, R162 to R164). -/
theorem Pkg.panHome_runs {e : Nat} {q : Pkg} (h : p₀.panCheck (p₀.homeOf r.key) c.attr.space c.slot c.returning = .ok e)
    (hdown : (p₀.useEntry (p₀.homeOf r.key) c.attr.space c.slot e).down r.key = false) (hcopied : p₀.copied r.key = false)
    (hrec : p₀.hasRec r.key = false)
    (hfill : (p₀.useEntry (p₀.homeOf r.key) c.attr.space c.slot e).fill r.key (BitVec.allOnes 64) = .ok q)
    (hpoison : q.linePoison r.key = false) :
    let n := q.countPan (p₀.homeOf r.key) c.attr.space
    p₀.panHome c = match runRoutine (entHdr e) (entWords e) (q.lineData r.key) c.operand with
      | .fail code => .done n code true true 0
      | .done none ret => .done n 0 true true ret
      | .done (some l) ret =>
        if n.exclusiveHolds (n.levelOf c.origin [] [r.key]) c.origin [r.key] none = true then .wait
        else .done ((n.broadcast (n.levelOf c.origin [] [r.key]) c.origin [r.key] none).homeWrite r.key (BitVec.allOnes 64) l c.attr
          none) 0 true true ret := by
  intro n
  let p := p₀.useEntry (p₀.homeOf r.key) c.attr.space c.slot e
  have hnone : ∀ b ∈ p.brine, (b.key == r.key && c.recalls (p₀.homeOf r.key) b) = false := fun b hb => by
    have hkey := List.any_eq_false.mp hcopied b hb
    simp [Bool.eq_false_iff.mpr hkey]
  have hfilter : (p.brine.filter fun b => b.key == r.key && c.recalls (p₀.homeOf r.key) b) = [] :=
    List.filter_eq_nil_iff.mpr fun b hb => by simp [hnone b hb]
  have hany : (p.brine.any fun b => b.key == r.key && c.recalls (p₀.homeOf r.key) b) = false :=
    List.any_eq_false.mpr fun b hb => by simp [hnone b hb]
  have hrec' : p.hasRec r.key = false := hrec
  have hpoison' : n.linePoison r.key = false := hpoison
  simp only [Pkg.panHome, hr, h, show p₀.useEntry (p₀.homeOf r.key) c.attr.space c.slot e = p from rfl] at hdown hfill ⊢
  simp only [hfilter, List.foldl_nil, hdown, hany, hrec', hfill, Bool.and_false, Bool.false_eq_true, ↓reduceIte]
  exact if_neg fun ht => Bool.false_ne_true (hpoison'.symm.trans ht)

end

/-- Settles O25: the checks of the entry, and then what its routine makes of the line. -/
theorem panAtHome : Obligations.PanAtHome := by
  unfold Obligations.PanAtHome
  intro p₀ c r s at_ e unreadable p hr
  refine ⟨Pkg.cached?_useEntry .., fun h => Pkg.panHome_refused hr (Pkg.panCheck_unreadable h), fun h => ?_⟩
  have hcheck := Pkg.panCheck_readable (returning := c.returning) (e := e) rfl h
  refine ⟨fun h2 => ?draining, fun h1 h2 => ?empty, fun h1 hret hbit => ?noReturn, fun h1 hret hdown hcopied hrec q hfill hpoison => ?_⟩
  case draining => exact Pkg.panHome_refused hr (hcheck.trans (if_pos h2))
  case empty => exact Pkg.panHome_refused hr (hcheck.trans ((if_neg h2).trans (if_pos h1)))
  case noReturn =>
    exact Pkg.panHome_refused hr (hcheck.trans ((if_neg (by omega)).trans ((if_neg (not_not.mpr h1)).trans (if_pos (by simp [hret, hbit])))))
  have hpass : ¬(c.returning && !hdrRet (entHdr e)) = true := by
    cases hc : c.returning with
    | false => simp
    | true => simp [hret hc]
  have hok := hcheck.trans ((if_neg (by omega)).trans ((if_neg (not_not.mpr h1)).trans (if_neg hpass)))
  have hruns := Pkg.panHome_runs hr hok hdown hcopied hrec hfill hpoison
  intro n lvl
  refine ⟨fun code hf => ?_, fun ret hd => ?_, fun l ret hd hfree => ?_⟩
  · rw [hruns, hf]
  · rw [hruns, hd]
  · rw [hruns, hd]
    exact if_neg fun ht => Bool.false_ne_true (hfree.symm.trans ht)

end Sys2Proof.Machine

/-! SUPPORT. Proofs: PANLD, PANQ and PANDROP (R155 to R157, R270). -/

namespace Sys2Proof.Machine

/-! ### A squash leaves every other context (Table 2.4) -/

theorem Pkg.shed_ctx (p : Pkg) (keys : List Nat) (y : CtxRef) : (p.shed keys).ctx y = p.ctx y := by
  refine Pkg.ctx_foldl (fun p key => ?_) keys p
  split
  · split
    · exact Pkg.dropLine_ctx ..
    · rfl
  · rfl

theorem Core.ctxs_setLs (l : List Byte) (k : Core) (off : Nat) : (k.setLs off l).ctxs = k.ctxs := by
  induction l generalizing k off with
  | nil => rfl
  | cons b t ih => exact (ih ..).trans rfl

theorem ctxs_applyUndo (k : Core) (u : List (Nat × BitVec 256)) : (applyUndo k u).ctxs = k.ctxs := by
  induction u generalizing k with
  | nil => rfl
  | cons e t ih =>
    rw [applyUndo, ih, Core.ctxs_setLs]

theorem Core.ctx_of_ctxs {k k' : Core} (h : k'.ctxs = k.ctxs) (n : Nat) : k'.ctx n = k.ctx n := by
  rw [Core.ctx, h, Core.ctx]

/-- What of a core a change of its contexts, their chunks' lines and registers, and its local store leaves. -/
def Core.outside (k : Core) : Core :=
  { k with ctxs := [], l1 := [], vq := [], mq := [], ls := [], tiles := [], accs := [], squashes := 0, sqPeriod := 0 }

theorem Core.outside_setLs (l : List Byte) (k : Core) (off : Nat) : (k.setLs off l).outside = k.outside := by
  induction l generalizing k off with
  | nil => rfl
  | cons b t ih => exact (ih ..).trans rfl

theorem outside_applyUndo (k : Core) (u : List (Nat × BitVec 256)) : (applyUndo k u).outside = k.outside := by
  induction u generalizing k with
  | nil => rfl
  | cons e t ih => rw [applyUndo, ih, Core.outside_setLs]

/-- What a core makes of the end of a context's chunks. -/
theorem Core.ended_shape (k : Core) (u : List (Nat × BitVec 256)) (t : Tab TileReg) (a : Tab AccReg) (n m slot core : Nat) (c : Ctx)
    (gone : ChunkId → Bool) (keys : List Nat) :
    let k' := (({ applyUndo k u with tiles := t, accs := a, squashes := n, sqPeriod := m } : Core).setCtx slot c).endChunk core gone keys
    k'.ctxs = (k.setCtx slot c).ctxs ∧ k'.outside = k.outside := by
  refine ⟨?_, (outside_applyUndo k u).symm ▸ rfl⟩
  show (applyUndo k u).ctxs.set .reset slot c = k.ctxs.set .reset slot c
  rw [ctxs_applyUndo]

/-- A squash changes its context, on its core what chunks own there, the queue for reservations, and the caches. -/
theorem Pkg.squashFrom_shape (p : Pkg) (x : CtxRef) (whole counted : Bool) :
    ∃ (k : Core) (c : Ctx) (q : List (CtxRef × Level)) (keys : List Nat),
      p.squashFrom x whole counted = Pkg.shed { p.setCore x.core k with exclQ := q } keys ∧
      k.ctxs = ((p.core x.core).setCtx x.slot c).ctxs ∧ k.outside = (p.core x.core).outside := by
  unfold Pkg.squashFrom
  exact ⟨_, _, _, _, rfl, Core.ended_shape ..⟩

theorem Pkg.squashFrom_ctx_other (p : Pkg) {x y : CtxRef} (h : y ≠ x) (whole counted : Bool) :
    (p.squashFrom x whole counted).ctx y = p.ctx y := by
  obtain ⟨k, c, q, keys, he, hk, -⟩ := p.squashFrom_shape x whole counted
  have hcores : ({ p.setCore x.core k with exclQ := q } : Pkg).cores = (p.setCore x.core k).cores := rfl
  rw [he, Pkg.shed_ctx, Pkg.ctx_of_cores hcores, Pkg.ctx_eq, Pkg.ctx_eq]
  by_cases hc : y.core = x.core
  · have hs : y.slot ≠ x.slot := fun hs => h (by cases y; cases x; simp_all)
    rw [hc, Pkg.core_setCore_same, Core.ctx_of_ctxs hk, Core.ctx_setCtx_other _ hs]
  · rw [Pkg.core_setCore_other _ hc]

theorem Pkg.strike_ctx_other (p : Pkg) {x y : CtxRef} (h : y ≠ x) (own : Bool) (hit : Chunk → Bool) :
    (p.strike x own hit).ctx y = p.ctx y := by
  unfold Pkg.strike
  dsimp only
  split
  · rfl
  · split
    · exact Pkg.squashFrom_ctx_other p h ..
    · split
      · exact Pkg.squashFrom_ctx_other p h ..
      · rfl

/-! ### Writing what other contexts of the core have written (R64) -/

theorem Pkg.ctx_foldl_mem {α : Type} {f : Pkg → α → Pkg} {y : CtxRef} {l : List α} (h : ∀ p, ∀ a ∈ l, (f p a).ctx y = p.ctx y) (p : Pkg) :
    (l.foldl f p).ctx y = p.ctx y := by
  induction l generalizing p with
  | nil => rfl
  | cons a t ih => rw [List.foldl_cons, ih fun p b hb => h p b (List.mem_cons_of_mem a hb), h p a List.mem_cons_self]

/-- A claim leaves the claiming context as it was. -/
theorem M.claim_ctx {x : CtxRef} {others : List Nat} {holds : Chunk → Bool} {p q : Pkg}
    (h : (M.claim x others holds).run p = .ok ((), q)) : q.ctx x = p.ctx x := by
  unfold M.claim at h
  split at h
  · cases h
    rfl
  next =>
    simp only [M.run_bind, M.run_get] at h
    split at h
    · cases h
      refine Pkg.ctx_foldl_mem (fun p a ha => Pkg.strike_ctx_other p (fun he => ?_) ..) p
      have hslot : a ≠ x.slot := by simpa using (List.mem_filter.mp ha).2
      exact hslot (congrArg CtxRef.slot he).symm
    · cases h

theorem M.claim_nobody {x : CtxRef} {others : List Nat} (h : others.filter (· != x.slot) = []) (holds : Chunk → Bool) (p : Pkg) :
    (M.claim x others holds).run p = .ok ((), p) := by
  unfold M.claim
  rw [h] <;> rfl

theorem M.enterWrite_ok {x : CtxRef} {key : Nat} {p : Pkg} (h : (p.ctx x).reqWrote key = false) :
    (M.enterWrite x key).run p = .ok ((), p.modCtx x fun c => { c with ch := { c.ch with wlines := insertNat key c.ch.wlines } }) := by
  simp only [M.enterWrite, M.ctx, M.run_bind, M.run_get, M.run_pure, h, Bool.false_eq_true, ↓reduceIte, M.modChunk, M.modCtx,
    M.run_modify]

/-! ### A slot of the routine table as a chunk sees it (R156) -/

/-- The entry of a slot as the running chunk of the issuing context sees it. -/
def State.slotEntry (s : State) (slot : Nat) : Nat :=
  (s.ctx.chunks.reverse.flatMap Chunk.tabOps).foldl (tabEffect slot) (s.pkg.tableEntry (s.pkg.spaceOf s.pkg.cur.core) slot)

theorem M.tableSlot_run (s : State) (slot : Nat) : (M.tableSlot slot).run s.pkg = .ok (s.slotEntry slot, s.pkg) := by
  simp only [M.tableSlot, M.run_bind, M.run_me, M.run_get, M.run_pure]
  rfl

/-- What a change of a slot adds to its chunk. -/
theorem M.tableChange_adds {slot : Nat} {o : TabOp} {p q : Pkg} (h : (M.tableChange slot o).run p = .ok ((), q)) :
    (q.ctx p.cur).ch.tabOps = (p.ctx p.cur).ch.tabOps ++ [o] := by
  simp only [M.tableChange, M.run_bind, M.run_me, M.run_get] at h
  split at h
  next u p1 hclaim =>
    split at h
    next u' p2 henter =>
      have h1 := M.claim_ctx hclaim
      simp only [M.enterWrite, M.ctx, M.run_bind, M.run_get, M.run_pure, M.modChunk, M.modCtx] at henter h
      split at henter
      · cases henter
      · cases henter
        cases h
        rw [Pkg.ctx_modCtx_same, Pkg.ctx_modCtx_same, h1]
    next => cases h
  next => cases h

/-- A granule is decided by its first byte: an address without rights is its range's first bad byte. -/
theorem Pkg.badByte_of_unmapped {p : Pkg} {s need va n : Nat} (hn : n ≠ 0) (hva : va < 2 ^ 56) (h : p.route s va need = none) :
    p.badByte s need va n = some va := by
  have hlow : ¬ va ≥ 2 ^ 64 := by omega
  rw [Pkg.badByte, firstBad, if_neg hn, if_neg hlow, h]

theorem M.checkRange_passes {p : Pkg} {x : CtxRef} {need va n : Nat} (h : p.badByte (p.spaceOf x.core) need va n = none) :
    (M.checkRange x need va n).run p = .ok ((), p) := by
  simp only [M.checkRange, M.run_bind, M.run_get, h, M.run_pure]

section
variable {s : State} {g : Guard} {a : SReg} {slot : BitVec 8} {va : Nat} (hready : s.ready g [a.toNat] [])
  (hva : (s.regs.sr a).toNat = va)
include hready hva

theorem panld_faults {cause : Nat} (hbad : s.elBad rRD va 4 cause) : s.faults (.panld g a slot) cause va 0 := by
  refine State.faults_of_body (i := .panld g a slot) rfl hready rfl rfl rfl ?_
  obtain ⟨htop, rfl⟩ | ⟨hlow, halign, rfl⟩ | ⟨hlow, halign, hroute, rfl⟩ := hbad
  · have htop : va ≥ vaTop := htop
    simp only [M.run_bind, M.run_me, M.run_r, hva, if_pos htop, M.run_throw]
  · have htop : ¬ va ≥ vaTop := Nat.not_le.mpr hlow
    simp only [M.run_bind, M.run_me, M.run_r, hva, if_neg htop, M.run_pure, if_pos halign, M.run_throw]
  · have htop : ¬ va ≥ vaTop := Nat.not_le.mpr hlow
    have hrange := M.checkRange_bad (Pkg.badByte_of_unmapped (n := 4) (by decide) hlow hroute)
    simp only [M.run_bind, M.run_me, M.run_r, hva, if_neg htop, M.run_pure, if_neg (not_not.mpr halign), hrange]

variable (hok : s.elOk rRD va 4) (hmap : s.pkg.badByte (s.pkg.spaceOf s.pkg.cur.core) rRD va 4 = none)
include hok hmap

theorem panld_taken (hent : entState (s.slotEntry slot.toNat) ≠ 0) : s.faults (.panld g a slot) 8 0 0x01 := by
  refine State.faults_of_body (i := .panld g a slot) rfl hready rfl rfl rfl ?_
  obtain ⟨hlow, halign, -⟩ := hok
  have htop : ¬ va ≥ vaTop := Nat.not_le.mpr hlow
  simp only [M.run_bind, M.run_me, M.run_r, hva, if_neg htop, M.run_pure, if_neg (not_not.mpr halign), M.checkRange_ok hmap,
    M.tableSlot_run, if_pos hent, M.invocation, M.fault, M.run_throw]

variable (hent : entState (s.slotEntry slot.toNat) = 0) {h : Nat} {q : Pkg}
  (hload : (M.load s.pkg.cur rRD va 4 false false).run s.pkg = .ok (h, q))
include hent hload

theorem panld_badHeader (hh : headerOk h = false) : s.faults (.panld g a slot) 8 0 0x02 := by
  refine State.faults_of_body (i := .panld g a slot) rfl hready rfl rfl rfl ?_
  obtain ⟨hlow, halign, -⟩ := hok
  have htop : ¬ va ≥ vaTop := Nat.not_le.mpr hlow
  simp only [M.run_bind, M.run_me, M.run_r, hva, if_neg htop, M.run_pure, if_neg (not_not.mpr halign), M.checkRange_ok hmap,
    M.tableSlot_run, if_neg (not_not.mpr hent), hload, hh, Bool.not_false, ↓reduceIte, M.invocation, M.fault, M.run_throw]

variable (hh : headerOk h = true) (hrest : q.badByte (q.spaceOf s.pkg.cur.core) rRD (va + 4) (4 * hdrLen h) = none)
  {bs : List Byte} {q1 : Pkg}
  (hbytes : (M.loadBytes s.pkg.cur rRD false false (4 * hdrLen h / 64 + 2) (va + 4) (4 * hdrLen h)).run q = .ok (bs, q1))
include hh hrest hbytes

theorem panld_badImage {reason j : Nat} (himg : imageReason h ((wordsOf bs).map BitVec.toNat) = some (reason, j)) :
    s.faults (.panld g a slot) 8 0 (j * 2 ^ 8 + reason) := by
  refine State.faults_of_body (i := .panld g a slot) rfl hready rfl rfl rfl ?_
  obtain ⟨hlow, halign, -⟩ := hok
  have htop : ¬ va ≥ vaTop := Nat.not_le.mpr hlow
  simp only [M.run_bind, M.run_me, M.run_r, hva, if_neg htop, M.run_pure, if_neg (not_not.mpr halign), M.checkRange_ok hmap,
    M.tableSlot_run, if_neg (not_not.mpr hent), hload, hh, Bool.not_true, Bool.false_eq_true, ↓reduceIte, M.checkRange_passes hrest,
    hbytes, himg, M.run_throw, Nat.shiftLeft_eq]

theorem panld_makes (himg : imageReason h ((wordsOf bs).map BitVec.toNat) = none) {q2 : Pkg}
    (hload2 : (M.tableChange slot.toNat (.load slot.toNat (BitVec.ofNat 32 h :: wordsOf bs))).run q1 = .ok ((), q2)) :
    s.makes (.panld g a slot) q2 := by
  refine fun hfits => State.issue_body hready rfl rfl rfl rfl ?_ hfits
  obtain ⟨hlow, halign, -⟩ := hok
  have htop : ¬ va ≥ vaTop := Nat.not_le.mpr hlow
  simp only [M.run_bind, M.run_me, M.run_r, hva, if_neg htop, M.run_pure, if_neg (not_not.mpr halign), M.checkRange_ok hmap,
    M.tableSlot_run, if_neg (not_not.mpr hent), hload, hh, Bool.not_true, Bool.false_eq_true, ↓reduceIte, M.checkRange_passes hrest,
    hbytes, himg, hload2]

end

/-! ### PANQ and PANDROP (R156, R157) -/

theorem queryWord_eq (e : Nat) :
    queryWord e = if entState e = 0 then 0 else BitVec.ofNat 64 (entHdr e * 2 ^ 32 + entGen e * 2 ^ 16 + entState e) := by
  rw [queryWord, Nat.shiftLeft_eq, Nat.shiftLeft_eq]

theorem Pkg.spaceOf_modCtx (p : Pkg) (x : CtxRef) (f : Ctx → Ctx) (c : Nat) : (p.modCtx x f).spaceOf c = p.spaceOf c := by
  have hrest := congrArg Core.task (p.modCtx_core_rest x f c)
  rw [Pkg.spaceOf, Pkg.spaceOf, show ((p.modCtx x f).core c).task = (p.core c).task from hrest]

theorem Pkg.spaceOf_withRegs (p : Pkg) (x : CtxRef) (f : Regs → Regs) (c : Nat) : (p.withRegs x f).spaceOf c = p.spaceOf c :=
  Pkg.spaceOf_modCtx ..

theorem panq_makes {s : State} {g : Guard} {d : SReg} {slot : BitVec 8} (hready : s.ready g [] [d.toNat]) :
    s.makes (.panq g d slot) ((s.pkg.withRegs s.pkg.cur (·.setS d (queryWord (s.slotEntry slot.toNat)))).enterR
      (lineKey (s.pkg.spaceOf s.pkg.cur.core) (tableLineVa slot.toNat))) := by
  refine fun hfits => State.issue_body hready rfl rfl rfl rfl ?_ hfits
  simp only [M.run_bind, M.run_me, M.tableSlot_run, M.run_setS, M.space, M.run_get, M.run_pure, M.enterRead, M.modChunk, M.modCtx,
    M.run_modify, Pkg.spaceOf_withRegs]
  rfl

theorem M.tableChange_alone {p : Pkg} {slot : Nat} {o : TabOp}
    (hw : p.writable (lineKey (p.spaceOf p.cur.core) (tableLineVa slot)))
    (halone : ∀ y ∈ (p.core p.cur.core).ctxs, y.1 ≠ p.cur.slot → ∀ h ∈ y.2.chunks, h.tabOps = []) :
    (M.tableChange slot o).run p = .ok ((), (p.enterW (lineKey (p.spaceOf p.cur.core) (tableLineVa slot))).modCtx p.cur fun c =>
      { c with ch := { c.ch with tabOps := c.ch.tabOps ++ [o] } }) := by
  simp only [M.tableChange, M.run_bind, M.run_me, M.run_get]
  rw [M.claim_nobody]
  · simp only [M.enterWrite_ok hw, M.modChunk, M.modCtx, M.run_modify, Pkg.enterW]
  · refine List.filter_eq_nil_iff.mpr fun n hn => ?_
    obtain ⟨e, he, hsome⟩ := List.mem_filterMap.mp hn
    by_cases hslot : e.1 = p.cur.slot
    · split at hsome <;> simp_all
    · have hnone : ∀ c ∈ e.2.chunks, c.tabOps = [] := halone e he hslot
      split at hsome
      next hany =>
        obtain ⟨c, hc, htouch⟩ := List.any_eq_true.mp hany
        rw [hnone c hc] at htouch
        cases htouch
      next => cases hsome

theorem pandrop_makes {s : State} {g : Guard} {slot : BitVec 8} (hready : s.ready g [] [])
    (hw : s.pkg.writable (lineKey (s.pkg.spaceOf s.pkg.cur.core) (tableLineVa slot.toNat)))
    (halone : ∀ y ∈ (s.pkg.core s.pkg.cur.core).ctxs, y.1 ≠ s.pkg.cur.slot → ∀ h ∈ y.2.chunks, h.tabOps = []) :
    s.makes (.pandrop g slot) ((s.pkg.enterW (lineKey (s.pkg.spaceOf s.pkg.cur.core) (tableLineVa slot.toNat))).modCtx s.pkg.cur fun c =>
      { c with ch := { c.ch with tabOps := c.ch.tabOps ++ [.drop slot.toNat] } }) := by
  refine fun hfits => State.issue_body hready rfl rfl rfl rfl ?_ hfits
  simp only [M.run_bind, M.tableChange_alone hw halone, M.run_pure]

/-- Settles O26: PANLD's checks stand in their order, and each change of the table is an entry of its chunk. -/
theorem routineTable : Obligations.RoutineTable := by
  unfold Obligations.RoutineTable
  intro s g d a slot x va sp e key
  refine ⟨fun hready => ⟨fun cause hbad => panld_faults hready rfl hbad, fun hok hmap =>
    ⟨fun hent => panld_taken hready rfl hok hmap hent, fun hent h q hload =>
      ⟨panld_badHeader hready rfl hok hmap hent hload, fun hh hrest bs q1 hbytes =>
        ⟨fun reason j himg => panld_badImage hready rfl hok hmap hent hload hh hrest hbytes himg, fun himg q2 hq2 =>
          ⟨panld_makes hready rfl hok hmap hent hload hh hrest hbytes himg hq2, fun hcur => ?_⟩⟩⟩⟩⟩, ?_, pandrop_makes⟩
  · have hadds := M.tableChange_adds hq2
    rwa [hcur] at hadds
  · exact fun hready => queryWord_eq e ▸ panq_makes hready

end Sys2Proof.Machine

/-! SUPPORT. Proofs: power limits, firmware images, the RAS ring, holds and lanes (R425 to R431). -/

namespace Sys2Proof.Machine

/-! ### Tables written entry by entry -/

theorem Tab.get_put {α : Type} (d : α) (t : Tab α) (i j : Nat) (a : α) : (t.put i a).get d j = if i = j then a else t.get d j := by
  rw [Tab.get, Tab.find?_put]
  split <;> rfl

/-- Each index of a list without repetitions is written once, from what stood there. -/
theorem Tab.get_foldl_put {α : Type} (d : α) (f : α → α) {l : List Nat} (h : l.Nodup) (t : Tab α) (j : Nat) :
    (l.foldl (fun t i => t.put i (f (t.get d i))) t).get d j = if j ∈ l then f (t.get d j) else t.get d j := by
  induction l generalizing t with
  | nil => rfl
  | cons i l ih =>
    obtain ⟨hi, hl⟩ := List.nodup_cons.mp h
    rw [List.foldl_cons, ih hl, Tab.get_put]
    by_cases hj : i = j
    · subst hj
      simp [hi]
    · simp [hj, Ne.symm hj]

/-- The entries of a list go to their own positions. -/
theorem Tab.get_foldl_zipIdx {α : Type} (d : α) (f : Nat → Nat → α) (l : List Nat) (n : Nat) (t : Tab α) (j : Nat) :
    ((l.zipIdx n).foldl (fun t e => t.put e.2 (f e.2 e.1)) t).get d j =
      if n ≤ j ∧ j < n + l.length then f j (l.getD (j - n) 0) else t.get d j := by
  induction l generalizing n t with
  | nil => simp [Nat.not_lt.mpr]
  | cons v l ih =>
    rw [List.zipIdx_cons, List.foldl_cons, ih, Tab.get_put]
    by_cases hj : n = j
    · subst hj
      simp
    · obtain hlt | hgt := Nat.lt_or_gt_of_ne hj
      · have hsub : j - n = (j - (n + 1)) + 1 := by omega
        simp only [hj, if_false, hsub, List.getD_cons_succ, List.length_cons]
        congr 1
        exact propext ⟨fun h => by omega, fun h => by omega⟩
      · rw [if_neg (by omega), if_neg hj, if_neg (by omega)]

theorem mem_islandsOf {mask i : Nat} : i ∈ islandsOf mask ↔ i < 32 ∧ mask.testBit i = true := by
  simp [islandsOf]

/-! ### PWRSET (R428) -/

/-- The limits of a PWRSET: its module's, and those of the islands it names. -/
def Power.limited (w : Power) (lim mask ceil : Nat) : Power :=
  { w with limit := fld lim 15 0, hbmMin := fld lim 31 16, hbmMax := fld lim 47 32,
           ceil := (islandsOf mask).foldl (fun t i => t.put i ceil) w.ceil,
           freq := (islandsOf mask).foldl (fun t i => t.put i (if ceil = 0 then 800 else min ceil (t.get 3300 i))) w.freq }

theorem nodup_islandsOf (mask : Nat) : (islandsOf mask).Nodup := List.nodup_range.filter _

theorem Power.limited_ceil (w : Power) (lim mask ceil i : Nat) :
    (w.limited lim mask ceil).ceil.get 3300 i = if i < 32 ∧ mask.testBit i = true then ceil else w.ceil.get 3300 i := by
  rw [Power.limited, Tab.get_foldl_put 3300 (fun _ => ceil) (nodup_islandsOf mask)]
  simp only [mem_islandsOf]

theorem Power.limited_freq (w : Power) (lim mask ceil i : Nat) : (w.limited lim mask ceil).freq.get 3300 i =
    if i < 32 ∧ mask.testBit i = true then (if ceil = 0 then 800 else min ceil (w.freq.get 3300 i)) else w.freq.get 3300 i := by
  rw [Power.limited, Tab.get_foldl_put 3300 (fun f => if ceil = 0 then 800 else min ceil f) (nodup_islandsOf mask)]
  simp only [mem_islandsOf]

theorem setPower_cases (p : Pkg) (lim mask ceil : Nat) (hf : p.failed = false) :
    (powerBad lim mask ceil = true ∨ (ceil = 0 ∧ ∃ i ∈ (List.range 32).filter mask.testBit, p.islandBusy i = true) →
      p.setPower lim mask ceil = .err 0x05) ∧
    (¬ (powerBad lim mask ceil = true ∨ (ceil = 0 ∧ ∃ i ∈ (List.range 32).filter mask.testBit, p.islandBusy i = true)) → ∃ q,
      p.setPower lim mask ceil = .ok 0 { p with power := q } ∧ q.limit = fld lim 15 0 ∧ q.hbmMin = fld lim 31 16 ∧
      q.hbmMax = fld lim 47 32 ∧ q.budget = p.power.budget ∧
      ∀ i, q.ceil.get 3300 i = (if i < 32 ∧ mask.testBit i = true then ceil else p.power.ceil.get 3300 i) ∧
        (i < 32 → mask.testBit i = true → q.freq.get 3300 i = if ceil = 0 then 800 else min ceil (p.power.freq.get 3300 i))) := by
  have hbad : (powerBad lim mask ceil = true ∨ (ceil = 0 ∧ ∃ i ∈ (List.range 32).filter mask.testBit, p.islandBusy i = true)) ↔
      (powerBad lim mask ceil = true ∨ (ceil = 0 ∧ (islandsOf mask).any p.islandBusy = true)) := by
    rw [List.any_eq_true]
    rfl
  have hf' : ¬ p.failed = true := by simp [hf]
  rw [hbad]
  refine ⟨fun h => by rw [Pkg.setPower, if_neg hf', if_pos h], fun h => ⟨p.power.limited lim mask ceil, ?_, rfl, rfl, rfl, rfl,
    fun i => ⟨Power.limited_ceil .., fun hi hb => by rw [Power.limited_freq, if_pos ⟨hi, hb⟩]⟩⟩⟩
  rw [Pkg.setPower, if_neg hf', if_neg h] <;> rfl

/-! ### The power arbiter (R428) -/

theorem powerArbiterTick_idle {s : State} {freqs budgets : List Nat} (h : s.pkg.fw.switching ≠ none) :
    s.does (.powerArbiterTick freqs budgets) s.pkg := by
  exact State.does_of_run rfl (if_pos (.inr (.inr (Option.isSome_iff_ne_none.mpr h))))

theorem powerArbiterTick_grants {s : State} {freqs budgets : List Nat} (hfw : s.pkg.fw.switching = none)
    (hpt : s.pkg.pt % 3300000 = 0) (hnow : s.pkg.pt ≠ 0) (hf : freqs.length = 32) (hb : budgets.length = 32) :
    ∃ q, s.does (.powerArbiterTick freqs budgets) { s.pkg with power := q } ∧ q.ceil = s.pkg.power.ceil ∧
      q.limit = s.pkg.power.limit ∧ ∀ i < 32, q.freq.get 3300 i = s.pkg.boundFreq i (freqs.getD i 0) ∧
        q.budget.get 0 i = max (4 * 2 ^ 20) (budgets.getD i 0) := by
  have hgo : ¬ (s.pkg.pt % Config.powerPeriod ≠ 0 ∨ s.pkg.pt = 0 ∨ s.pkg.fw.switching.isSome) := by
    simp [hfw, hnow, Config.powerPeriod, hpt]
  refine ⟨_, State.does_of_run rfl (if_neg hgo), rfl, rfl, fun i hi => ⟨?_, ?_⟩⟩
  · rw [List.take_of_length_le hf.le, Tab.get_foldl_zipIdx 3300 s.pkg.boundFreq, if_pos (by omega), Nat.sub_zero]
  · rw [List.take_of_length_le hb.le, Tab.get_foldl_zipIdx 0 (fun _ v => max (4 * 2 ^ 20) v), if_pos (by omega), Nat.sub_zero]

/-! ### The end of a firmware's commands (R427) -/

theorem Vi.block_setBlock (v : Vi) (a b : Block) (r : BlockRegs) : (v.setBlock a r).block b = if a = b then r else v.block b := by
  cases a <;> cases b <;> rfl

/-- The end of a command ends it, and begins none. -/
theorem Pkg.endCmd_running (p : Pkg) (i : Nat) (b : Block) (v j : Nat) (c : Block) :
    (((p.endCmd i b v).vi j).block c).running = if i = j ∧ b = c then false else ((p.vi j).block c).running := by
  rw [Pkg.endCmd, Pkg.setBlock, Pkg.vi, Tab.get_put]
  by_cases h : i = j
  · subst h
    rw [if_pos rfl, Vi.block_setBlock]
    by_cases hb : b = c
    · simp [hb]
    · simp [hb]
  · simp [h, Pkg.vi]

/-- A block whose command a firmware restart has ended (R427). -/
def Pkg.abortBlock (i : Nat) (p : Pkg) (b : Block) : Pkg := if ((p.vi i).block b).running then p.endCmd i b (cmdErr 0x10) else p

theorem Pkg.abortBlock_running (p : Pkg) (i j : Nat) (b c : Block) :
    (((p.abortBlock i b).vi j).block c).running = if i = j ∧ b = c then false else ((p.vi j).block c).running := by
  rw [Pkg.abortBlock]
  split
  · exact Pkg.endCmd_running ..
  next h =>
    split
    next hj =>
      obtain ⟨rfl, rfl⟩ := hj
      exact eq_false_of_ne_true h
    · rfl

def Pkg.abortVi (p : Pkg) (i : Nat) : Pkg := [Block.cmd, .job, .debug, .platform].foldl (Pkg.abortBlock i) p

theorem Pkg.abortVi_running (p : Pkg) (i j : Nat) (c : Block) :
    (((p.abortVi i).vi j).block c).running = if i = j then false else ((p.vi j).block c).running := by
  simp only [Pkg.abortVi, List.foldl_cons, List.foldl_nil, Pkg.abortBlock_running]
  cases c <;> by_cases h : i = j <;> simp [h]

theorem Pkg.abortVis_running (l : List (Nat × Vi)) (p : Pkg) (j : Nat) (c : Block) :
    (((l.foldl (fun p e => p.abortVi e.1) p).vi j).block c).running =
      if j ∈ l.map Prod.fst then false else ((p.vi j).block c).running := by
  induction l generalizing p with
  | nil => rfl
  | cons e l ih =>
    rw [List.foldl_cons, ih, Pkg.abortVi_running]
    by_cases hj : e.1 = j
    · simp [hj]
    · have hmem : j ∈ (e :: l).map Prod.fst ↔ j ∈ l.map Prod.fst := by simp [Ne.symm hj]
      simp only [if_neg hj, hmem]

/-- An interface without registers of its own holds no command. -/
theorem Pkg.abortAll_running (p : Pkg) (j : Nat) (c : Block) :
    (((p.vis.foldl (fun p e => p.abortVi e.1) p).vi j).block c).running = false := by
  rw [Pkg.abortVis_running]
  split
  · rfl
  next h =>
    rw [Pkg.vi, Tab.get_of_notMem h]
    cases c <;> rfl

theorem Pkg.abortCommands_running (p : Pkg) (j : Nat) (c : Block) : ((p.abortCommands.vi j).block c).running = false :=
  Pkg.abortAll_running ..

/-! ### Images (R426) -/

theorem imageValid_iff {f : Fuses} {b : List Byte} : imageValid f b = true ↔ sha384 (Config.imageKey b) = f.bytes 2 6 ∧
    ecdsaVerify (Config.imageKey b) (sha384 (Config.imageBody b)) (Config.imageSig b) = true := by
  simp [imageValid]

theorem loadImage_ok {p q : Pkg} {f : Fuses} {va is len : Nat} {b : List Byte} (hs : ((p.space? is).map Space.priv) = some 2)
    (hl : len ≤ 64 * 2 ^ 20) (h : p.moduleRead is va len = .ok (b, false, q)) :
    p.loadImage f va is len = if imageValid f b = true then .ok (Config.imageVersion b % 2 ^ 32)
      { q with fw := { q.fw with pend := some (Config.imageVersion b % 2 ^ 32, BitVec.ofNat 384 (leNat (sha384 b))) } }
      else .err 0x0D := by
  have hgo : ¬ (((p.space? is).map Space.priv) ≠ some 2 ∨ len > 64 * 2 ^ 20) := not_or.mpr ⟨not_not.mpr hs, Nat.not_lt.mpr hl⟩
  rw [Pkg.loadImage, if_neg hgo]
  cases hv : imageValid f b <;> simp [h, hv]

theorem loadImage_err {p : Pkg} {f : Fuses} {va is len : Nat} (h : ((p.space? is).map Space.priv) ≠ some 2 ∨ 64 * 2 ^ 20 < len) :
    p.loadImage f va is len = .err 0x05 := if_pos h

theorem switchImage_none {p : Pkg} (h : p.fw.pend = none) : p.switchImage = .err 0x0E :=
  if_pos (by rw [h]; rfl)

theorem switchImage_ok {p : Pkg} (h : p.fw.pend ≠ none) (hm : ∀ m ∈ p.migs, m.live = false) (hr : ∀ e ∈ p.resetting, e.2.cmd = false) :
    p.switchImage = .ok 0 { p with fw := { p.fw with switching := some p.pt } } := by
  have hnone : ¬ p.fw.pend.isNone = true := by simpa using h
  have hidle : ¬ (p.migs.any Mig.live = true ∨ (p.resetting.any fun e => e.2.cmd) = true) := by
    simp only [List.any_eq_true, not_or, not_exists, not_and]
    exact ⟨fun m h => by simp [hm m h], fun e h => by simp [hr e h]⟩
  rw [Pkg.switchImage, if_neg hnone, if_neg hidle]

theorem fwReady_switches {s : State} {t v : Nat} {m : BitVec 384} (hs : s.pkg.fw.switching = some t) (hp : s.pkg.fw.pend = some (v, m))
    (ht : s.pkg.pt - t < Config.handoverTimeout) : s.does .fwReady (({ s.pkg with
      fw := { s.pkg.fw with version := v, mfw := m, pend := none, switching := none } } : Pkg).rasFirmware 0x0A) := by
  refine State.does_of_run rfl ?_
  simp only [hs, hp, if_pos ht]

theorem handoverTimeout_aborts {s : State} {t : Nat} (hs : s.pkg.fw.switching = some t) (ht : Config.handoverTimeout ≤ s.pkg.pt - t) :
    s.does .handoverTimeout (((({ s.pkg with fw := { s.pkg.fw with pend := none, switching := none } } : Pkg).abortCommands).rasFirmware
      0x0B)) := by
  refine State.does_of_run rfl ?_
  simp only [hs, if_pos ht]

/-! ### The RAS ring (R431) -/

theorem ringBad_iff {va n : Nat} : ringBad va n = true ↔ va % 64 ≠ 0 ∨ 2 ^ 56 ≤ va ∨ n < 4 ∨ 16 < n := by
  simp only [ringBad, Bool.or_eq_true, bne_iff_ne, decide_eq_true_eq, or_assoc, ge_iff_le, gt_iff_lt]
  rfl

/-- An error of the module's own is posted to the RAS rings alone. -/
theorem Pkg.rasEvent_shape (p : Pkg) (die : Nat) : ∃ r, p.rasEvent die 9 = { p with vis := r } := by
  have hreason : (9 : Nat) ≠ 1 := by decide
  rw [Pkg.rasEvent, Pkg.ras]
  simp only [if_pos hreason]
  exact p.rasAt_eq ..

/-! ### A die held for its temperature (R429) -/

theorem holdFreq_get (die i : Nat) (t : Tab Nat) :
    ([0, 1, 2, 3].foldl (fun t i => t.put (4 * die + i) 800) t).get 3300 i = if i / 4 = die then 800 else t.get 3300 i := by
  simp only [List.foldl_cons, List.foldl_nil, Tab.get_put]
  by_cases h : i / 4 = die
  · rw [if_pos h]
    repeat' split
    all_goals omega
  · rw [if_neg h]
    repeat' split
    all_goals omega

theorem thermalHold_holds {s : State} {die temp : Nat} (hd : die ≤ 7) (ht : 105 ≤ temp) (hhot : die ∉ s.pkg.hot) : ∃ q r,
    s.does (.thermalHold die temp) q ∧ q = { s.pkg with hot := q.hot, power := q.power, vis := r } ∧ die ∈ q.hot ∧
      ∀ i, q.power.freq.get 3300 i = if i / 4 = die then 800 else s.pkg.power.freq.get 3300 i := by
  have hgo : ¬ (die > 7 ∨ temp < 105 ∨ s.pkg.hot.contains die = true) := by
    simp only [List.contains_iff_mem, not_or]
    exact ⟨by omega, by omega, hhot⟩
  obtain ⟨r, hr⟩ := ({ s.pkg with
    hot := insertNat die s.pkg.hot,
    power := { s.pkg.power with freq := [0, 1, 2, 3].foldl (fun t i => t.put (4 * die + i) 800) s.pkg.power.freq } } : Pkg).rasEvent_shape die
  refine ⟨_, r, State.does_of_run rfl ((if_neg hgo).trans hr), rfl, mem_insertNat.mpr (.inr rfl), fun i => holdFreq_get ..⟩

theorem thermalRelease_releases {s : State} {die temp : Nat} (ht : temp < 100)
    (hr : ∀ r, Tab.find? s.pkg.resetting die = some r → r.trip = false) :
    s.does (.thermalRelease die temp) { s.pkg with hot := s.pkg.hot.filter (· != die) } := by
  have hgo : ¬ temp ≥ 100 := Nat.not_le.mpr ht
  have htrip : ¬ (Tab.find? s.pkg.resetting die).map DieReset.trip = some true := by
    intro h
    obtain ⟨r, hfind, hrtrip⟩ := Option.map_eq_some_iff.mp h
    rw [hr r hfind] at hrtrip
    cases hrtrip
  exact State.does_of_run rfl ((if_neg hgo).trans (if_neg htrip))

/-- Settles O52: each command's checks stand in their order, and each event changes its own fields. -/
theorem powerAndFirmware : Obligations.PowerAndFirmware := by
  unfold Obligations.PowerAndFirmware
  intro s vi p a ok no
  refine ⟨?pwrset, fun _ _ h => powerArbiterTick_idle h, fun _ _ hfw hpt hnow hf hb => powerArbiterTick_grants hfw hpt hnow hf hb,
    fun i f => ?bound, ?fwload, ?fwswitch, fun _ _ _ hs hp ht => fwReady_switches hs hp ht,
    fun _ hs ht => handoverTimeout_aborts hs ht, ⟨State.does_of_run rfl rfl, fun w _ b => Pkg.abortCommands_running ..⟩,
    ?rasring, fun _ _ hd ht hhot => thermalHold_holds hd ht hhot,
    fun _ _ ht hr => thermalRelease_releases ht hr, fun _ _ => State.does_of_run rfl rfl⟩
  case pwrset =>
    intro h is bad
    refine ⟨fun hvi => State.rejects_of_err rfl h (if_pos hvi), fun hvi hf => ?_, fun hvi hf hbad => ?_, fun hvi hf hbad => ?_⟩
    · exact State.rejects_of_err rfl h ((if_neg (not_not.mpr hvi)).trans (if_pos hf))
    · exact State.rejects_of_err rfl h ((if_neg (not_not.mpr hvi)).trans ((setPower_cases _ _ _ _ hf).1 hbad))
    · obtain ⟨q, hq, hrest⟩ := (setPower_cases _ _ _ _ hf).2 hbad
      exact ⟨q, State.accepts_of_ok rfl h ((if_neg (not_not.mpr hvi)).trans hq), hrest⟩
  case bound =>
    rw [Pkg.boundFreq]
    simp only [List.contains_iff_mem]
  case fwload =>
    intro h
    refine ⟨fun hvi => State.rejects_of_err rfl h (if_pos hvi), fun hvi hbad => ?_, fun hvi hs hl b q hread => ?_⟩
    · exact State.rejects_of_err rfl h ((if_neg (not_not.mpr hvi)).trans (loadImage_err hbad))
    · have himg := loadImage_ok (f := s.fuses) hs hl hread
      refine ⟨fun hno => ?_, fun hyes => ?_⟩
      · exact State.rejects_of_err rfl h ((if_neg (not_not.mpr hvi)).trans (himg.trans (if_neg (mt imageValid_iff.mp hno))))
      · exact State.accepts_of_ok rfl h ((if_neg (not_not.mpr hvi)).trans (himg.trans (if_pos (imageValid_iff.mpr hyes))))
  case fwswitch =>
    intro h
    refine ⟨fun hvi => State.rejects_of_err rfl h (if_pos hvi), fun hvi hp => ?_, fun hvi hp hm hr => ?_⟩
    · exact State.rejects_of_err rfl h ((if_neg (not_not.mpr hvi)).trans (switchImage_none hp))
    · exact State.accepts_of_ok rfl h ((if_neg (not_not.mpr hvi)).trans (switchImage_ok hp hm hr))
  case rasring =>
    intro h bad
    have hown {o : Bool} (ho : p.owns vi (a 2) = o) : (!p.owns vi (a 2)) = !o := congrArg _ ho
    refine ⟨fun ho => State.rejects_of_err rfl h (if_pos (hown ho)), fun ho hbad => ?_, fun ho hbad => ?_⟩
    · exact State.rejects_of_err rfl h ((if_neg (ne_true_of_eq_false (hown ho))).trans (if_pos (ringBad_iff.mpr hbad)))
    · exact State.accepts_of_ok rfl h ((if_neg (ne_true_of_eq_false (hown ho))).trans (if_neg (mt ringBad_iff.mp hbad)))

end Sys2Proof.Machine

/-! SUPPORT. Proofs: capabilities and remote commands (R319 to R322). -/

namespace Sys2Proof.Machine

/-! ### A slot's changes (R320) -/

theorem capCommit_mk (k : Core) (m rights : Nat) : (capCommit k (.mk m rights)).caps.get .zero m =
    { valid := true, gen := if (k.caps.get .zero m).valid then (k.caps.get .zero m).gen + 1 else (k.caps.get .zero m).gen, rights } := by
  simp only [capCommit, Tab.get_set_same]

theorem capCommit_rev (k : Core) (m : Nat) : (capCommit k (.rev m)).caps.get .zero m =
    if (k.caps.get .zero m).valid then { k.caps.get .zero m with valid := false, gen := (k.caps.get .zero m).gen + 1 }
    else k.caps.get .zero m := by
  rw [capCommit]
  split
  · exact Tab.get_set_same ..
  · rfl

/-- What a change makes of a core's capabilities depends on them alone. -/
theorem capCommit_caps {k k' : Core} (h : k'.caps = k.caps) (o : CapOp) : (capCommit k' o).caps = (capCommit k o).caps := by
  cases o with
  | mk slot rights => rw [capCommit, capCommit, h]
  | rev slot =>
    rw [capCommit, capCommit, h]
    split
    · rfl
    · exact h

theorem foldl_capCommit_caps (l : List CapOp) {k k' : Core} (h : k'.caps = k.caps) : (l.foldl capCommit k').caps = (l.foldl capCommit k).caps := by
  induction l generalizing k k' with
  | nil => exact h
  | cons o l ih => exact ih (capCommit_caps h o)

theorem Pkg.modCtx_caps (p : Pkg) (x : CtxRef) (f : Ctx → Ctx) (c : Nat) : ((p.modCtx x f).core c).caps = (p.core c).caps := by
  have hrest := congrArg Core.caps (p.modCtx_core_rest x f c)
  exact hrest

/-- The slot as the issuing context's chunks leave it. -/
def State.capSlot (s : State) (slot : Nat) : CapSlot :=
  ((s.ctx.chunks.reverse.flatMap Chunk.capOps).foldl capCommit (s.pkg.core s.pkg.cur.core)).caps.get .zero slot

/-- A change of a slot, added to its chunk. -/
def Pkg.capAdded (p : Pkg) (slot : Nat) (o : CapOp) : Pkg :=
  (p.enterW (p.regLine (16 + slot))).modCtx p.cur fun c => { c with ch := { c.ch with capOps := c.ch.capOps ++ [o] } }

theorem Pkg.capAdded_chunks (p : Pkg) (slot : Nat) (o : CapOp) : ((p.capAdded slot o).ctx p.cur).chunks.reverse.flatMap Chunk.capOps =
    (p.ctx p.cur).chunks.reverse.flatMap Chunk.capOps ++ [o] := by
  rw [Pkg.capAdded, Pkg.ctx_modCtx_same, Pkg.enterW, Pkg.ctx_modCtx_same]
  simp [Ctx.chunks]

theorem Pkg.capAdded_caps (p : Pkg) (slot : Nat) (o : CapOp) (c : Nat) : ((p.capAdded slot o).core c).caps = (p.core c).caps := by
  rw [Pkg.capAdded, Pkg.modCtx_caps, Pkg.enterW, Pkg.modCtx_caps]

theorem Pkg.modCtx_capCheck (p : Pkg) (x : CtxRef) (f : Ctx → Ctx) (c w : Nat) : (p.modCtx x f).capCheck c w = p.capCheck c w := by
  have hrest := congrArg Core.capDraw (p.modCtx_core_rest x f c)
  rw [Pkg.capCheck, Pkg.capCheck, Pkg.capKey, Pkg.capKey, show ((p.modCtx x f).core c).capDraw = (p.core c).capDraw from hrest]
  rfl

theorem Pkg.capAdded_capCheck (p : Pkg) (slot : Nat) (o : CapOp) (c w : Nat) : (p.capAdded slot o).capCheck c w = p.capCheck c w := by
  rw [Pkg.capAdded, Pkg.modCtx_capCheck, Pkg.enterW, Pkg.modCtx_capCheck]

/-- No other chunk of the core has a change of a capability outstanding, and the slot's line may be written. -/
structure State.capAlone (s : State) (slot : Nat) : Prop where
  writable : s.pkg.writable (s.pkg.regLine (16 + slot))
  alone : ∀ e ∈ (s.pkg.core s.pkg.cur.core).ctxs, e.1 ≠ s.pkg.cur.slot → ∀ h ∈ e.2.chunks, h.capOps = []

/-- A change that no other context's chunk has made meets none. -/
theorem holders_eq_nil {ctxs : List (Nat × Ctx)} {slot : Nat} {holds : Chunk → Bool}
    (h : ∀ e ∈ ctxs, e.1 ≠ slot → ∀ c ∈ e.2.chunks, holds c = false) :
    (ctxs.filterMap fun e => if e.2.chunks.any holds then some e.1 else none).filter (· != slot) = [] := by
  refine List.filter_eq_nil_iff.mpr fun n hn => ?_
  obtain ⟨e, he, hsome⟩ := List.mem_filterMap.mp hn
  split at hsome
  next hany =>
    obtain ⟨c, hc, htouch⟩ := List.any_eq_true.mp hany
    obtain rfl : e.1 = n := Option.some.inj hsome
    by_cases hslot : e.1 = slot
    · simp [hslot]
    · rw [h e he hslot c hc] at htouch
      cases htouch
  next => cases hsome

theorem Tab.mem_set {α : Type} [DecidableEq α] {d : α} {t : Tab α} {i : Nat} {a : α} {e : Nat × α} (h : e ∈ t.set d i a) (hi : e.1 ≠ i) :
    e ∈ t := by
  rw [Tab.set] at h
  split at h
  · rw [Tab.drop_eq_filter] at h
    exact (List.mem_filter.mp h).1
  · obtain rfl | hmem := Tab.mem_put h
    · exact absurd rfl hi
    · exact hmem

/-- A change of a context leaves its core's others. -/
theorem Pkg.mem_modCtx_ctxs {p : Pkg} {x : CtxRef} {f : Ctx → Ctx} {e : Nat × Ctx} (h : e ∈ ((p.modCtx x f).core x.core).ctxs)
    (hs : e.1 ≠ x.slot) : e ∈ (p.core x.core).ctxs := by
  rw [Pkg.modCtx_eq, Pkg.core_setCore_same] at h
  exact Tab.mem_set h hs

/-- Whether a chunk has a change of a slot. -/
def Chunk.touchesCap (slot : Nat) (h : Chunk) : Bool := h.capOps.any fun o => match o with
  | .mk s _ | .rev s => s == slot

theorem M.capChange_alone {s : State} {slot : Nat} (h : s.capAlone slot) (o : CapOp) :
    (M.capChange o slot).run s.pkg = .ok ((((s.ctx.chunks.reverse.flatMap Chunk.capOps) ++ [o]).foldl capCommit
      (s.pkg.core s.pkg.cur.core)).caps.get .zero slot, s.pkg.capAdded slot o) := by
  have hwrite := M.enterWrite_ok h.writable
  rw [Pkg.regLine] at hwrite
  simp only [M.capChange, M.regKey, M.space, M.run_bind, M.run_me, M.run_get, M.run_pure, hwrite]
  rw [M.claim_nobody]
  · simp only [M.modChunk, M.modCtx, M.run_modify]
    change Except.ok (((((s.pkg.capAdded slot o).ctx s.pkg.cur).chunks.reverse.flatMap Chunk.capOps).foldl capCommit
      ((s.pkg.capAdded slot o).core s.pkg.cur.core)).caps.get .zero slot, s.pkg.capAdded slot o) = _
    rw [Pkg.capAdded_chunks, foldl_capCommit_caps _ (Pkg.capAdded_caps ..)]
    rfl
  · refine holders_eq_nil fun e he hs c hc => ?_
    rw [h.alone e (Pkg.mem_modCtx_ctxs he hs) hs c hc]
    rfl

/-! ### CAPMK and CAPREV (R319 to R321) -/

theorem capSlot_word_iff {w : Nat} : w % 8 + fld w 11 8 <<< 8 ≠ w ↔ w / 8 % 32 ≠ 0 ∨ 2 ^ 12 ≤ w := by
  rw [fld, Nat.shiftRight_eq_div_pow, Nat.shiftLeft_eq]
  omega

theorem capRights_of_small {w : Nat} (h : w < 2 ^ 12) : fld w 11 8 = w / 2 ^ 8 := by
  rw [fld, Nat.shiftRight_eq_div_pow]
  omega

section
variable {s : State} {g : Guard} {d a : SReg} {w : Nat} (hw : (s.regs.sr a).toNat = w)
include hw

theorem capmk_faults (hready : s.ready g [a.toNat] [d.toNat]) (hbad : w / 8 % 32 ≠ 0 ∨ 2 ^ 12 ≤ w) :
    s.faults (.capmk g d a) 8 0 0x28 := by
  refine State.faults_of_body (i := .capmk g d a) rfl hready rfl rfl rfl ?_
  simp only [M.run_bind, M.run_me, M.run_r, hw, if_pos (capSlot_word_iff.mpr hbad), M.invocation, M.fault, M.run_throw]

theorem caprev_faults (hready : s.ready g [a.toNat] []) (hbad : 8 ≤ w) : s.faults (.caprev g a) 8 0 0x28 := by
  refine State.faults_of_body (i := .caprev g a) rfl hready rfl rfl rfl ?_
  have hmod : w % 8 ≠ w := by omega
  simp only [M.run_bind, M.run_me, M.run_r, hw, if_pos hmod, M.invocation, M.fault, M.run_throw]

variable (halone : s.capAlone (w % 8))
include halone

theorem capmk_makes (hready : s.ready g [a.toNat] [d.toNat]) (hslot : w / 8 % 32 = 0) (hlow : w < 2 ^ 12) :
    let gen := if (s.capSlot (w % 8)).valid = true then (s.capSlot (w % 8)).gen + 1 else (s.capSlot (w % 8)).gen
    let q := s.pkg.capAdded (w % 8) (.mk (w % 8) (w / 2 ^ 8))
    let word := s.pkg.cur.core * 2 ^ 55 + w % 8 * 2 ^ 52 + gen.toNat * 2 ^ 32 + w / 2 ^ 8 * 2 ^ 24
    s.makes (.capmk g d a) (q.withRegs q.cur (·.setS d (BitVec.ofNat 64 (word + s.pkg.capCheck s.pkg.cur.core word)))) := by
  intro gen q word hfits
  refine State.issue_body hready rfl rfl rfl rfl ?_ hfits
  have hok : ¬ w % 8 + (w / 2 ^ 8) <<< 8 ≠ w := capRights_of_small hlow ▸ fun h => by
    obtain h | h := capSlot_word_iff.mp h <;> omega
  have hslotWord : ((((s.ctx.chunks.reverse.flatMap Chunk.capOps) ++ [CapOp.mk (w % 8) (w / 2 ^ 8)]).foldl capCommit
      (s.pkg.core s.pkg.cur.core)).caps.get .zero (w % 8)) = { valid := true, gen, rights := w / 2 ^ 8 } := by
    rw [List.foldl_append, List.foldl_cons, List.foldl_nil, capCommit_mk]
    rfl
  have hword : q.capWord s.pkg.cur.core (w % 8) gen (w / 2 ^ 8) = BitVec.ofNat 64 (word + s.pkg.capCheck s.pkg.cur.core word) := by
    simp only [Pkg.capWord, Nat.shiftLeft_eq, q, Pkg.capAdded_capCheck]
    rfl
  simp only [M.run_bind, M.run_me, M.run_r, hw, if_neg hok, M.run_pure, capRights_of_small hlow, M.capChange_alone halone, hslotWord,
    M.run_get, M.run_setS]
  rw [← hword] <;> rfl

theorem caprev_makes (hready : s.ready g [a.toNat] []) (hlow : w < 8) :
    s.makes (.caprev g a) (s.pkg.capAdded (w % 8) (.rev (w % 8))) := by
  intro hfits
  refine State.issue_body hready rfl rfl rfl rfl ?_ hfits
  have hmod : ¬ w % 8 ≠ w := by omega
  simp only [M.run_bind, M.run_me, M.run_r, hw, if_neg hmod, M.run_pure, M.capChange_alone halone]

end

/-! ### MXSEND (R322) -/

theorem M.checkSend_ok {p : Pkg} {x : CtxRef} {n : Nat} {l : List Nat}
    (h : ∀ va ∈ l, p.badByte (p.spaceOf x.core) (rENG + rRD) va n = none) : (M.checkSend x n l).run p = .ok ((), p) := by
  induction l with
  | nil => rfl
  | cons va l ih =>
    simp only [M.checkSend, M.run_bind, M.checkRange_passes (h va List.mem_cons_self),
      ih fun v hv => h v (List.mem_cons_of_mem va hv)]

/-- Issue of a cut instruction that does not ask a replay's log first, and stops. -/
theorem State.issue_early_stops {s : State} {n : Instr} {i : Ins} {e : Stop_} {q : Pkg} (hi : exec n s = s.issue i) (h : s.pkg.readyEarly i.guard i.srcs i.dsts i.vsrcs i.vdsts = true)
    (hp : i.priv s.pkg = true) (hc : i.cut = true) (he : i.early = true) (hn : i.engine = none) (hb : i.body.run s.pkg = .error e)
    (hq : i.stopped e s.pkg = q) : exec n s = .next { s with pkg := ((q.modCtx s.pkg.cur Ctx.enterCut).settle s.pkg.cur e).seal } := by
  simp only [Pkg.readyEarly, Bool.and_eq_true] at h
  obtain ⟨h, hidle⟩ := h
  have hrun : (i.run s.pkg.cur).run s.pkg = .error e := by
    simp only [Ins.run, M.run_bind, M.checks_ok (i := i) (p := s.pkg) (by rw [hn]; exact h) hp, hb]
  obtain ⟨hm, hg⟩ := Pkg.ready_issues h
  rw [hi, State.issue_eq]
  congr 3
  simp only [Pkg.issue, hm, hc, he, hg, hrun, hq, Ctx.count_of_idle hidle, hidle, Bool.not_true, Bool.and_false, bne_self_eq_false,
    Bool.false_eq_true, Bool.false_and, ↓reduceIte]

/-- A wait for operations, outside a debug step. -/
theorem Pkg.settle_ops (p : Pkg) (x : CtxRef) : ∃ w : Ctx → Option (WaitKind × Nat),
    p.settle x (.wait .ops) = p.modCtx x fun c => { c with st := .waiting, held := none, wait := w c } := by
  refine ⟨fun c => _, if_neg ?_⟩
  rw [WaitKind.waiting, Bool.and_false]
  exact Bool.false_ne_true

/-- A command that its MXSEND has not handed over becomes an operation of the issuing context. -/
theorem Pkg.sendMx_adds {p : Pkg} {kind : EKind} {col : Nat} {d : SReg} (h : ∀ o ∈ p.ops, o.sentBy p.cur (p.ctx p.cur) = false) :
    ∃ o n, p.sendMx kind col d = { p with ops := p.ops ++ [o], nextOp := n } ∧ o.kind = kind ∧ o.tok = some d.toNat ∧ o.col = col ∧
      o.who = p.cur ∧ o.gen = (p.ctx p.cur).gen ∧ o.chunk = (p.ctx p.cur).chunkseq.toNat := by
  have hnone : ¬ (p.ops.any fun o => o.sentBy p.cur (p.ctx p.cur)) = true := by simpa using h
  exact ⟨_, _, if_neg hnone, rfl, rfl, rfl, rfl, rfl, rfl⟩

theorem mxCommand_cls (r : Regs) (kind : MxKind) (n : BReg) (a b c : SReg) : (mxCommand r kind n a b c).cls = 1 := by
  cases kind <;> rfl

theorem mxsend_hands {s : State} {g : Guard} {col : BitVec 3} {kind : MxKind} {n : BReg} {d a b c : SReg}
    (hready : s.pkg.readyEarly g (mxSources kind a b c) [d.toNat] [] [] = true) (hnew : ∀ o ∈ s.pkg.ops, o.sentBy s.pkg.cur s.ctx = false)
    (hrows : ∀ va ∈ rowVas (s.regs.sr b) (s.regs.sr c) (mxRows kind),
      s.pkg.badByte (s.pkg.spaceOf s.pkg.cur.core) (rENG + rRD) va (mxRowBytes kind) = none) :
    exec (.mxsend g col kind n d a b c) s = .next { s with pkg :=
      (((s.pkg.sendMx (mxCommand s.regs kind n a b c) col.toNat d).modCtx s.pkg.cur Ctx.enterCut).settle s.pkg.cur (.wait .ops)).seal } := by
  have hnone : (s.pkg.ops.any fun o => o.sentBy s.pkg.cur (s.pkg.ctx s.pkg.cur)) = false := by
    rw [List.any_eq_false]
    exact fun o ho => ne_true_of_eq_false (hnew o ho)
  refine State.issue_early_stops rfl hready rfl rfl rfl rfl ?_ rfl
  simp only [M.run_bind, M.run_me, M.run_r, M.run_get, hnone, Bool.not_false, ↓reduceIte, M.checkSend_ok hrows, M.run_throw]

/-- Settles O40: a slot's changes are entries of their chunk, and a command is an operation handed over once. -/
theorem capabilities : Obligations.Capabilities := by
  unfold Obligations.Capabilities
  intro s g col kind n d a b c p x w slot key mineOnly k added
  refine ⟨fun hready hmine => ⟨fun hbad => capmk_faults rfl hready hbad, fun h0 hlow => capmk_makes rfl ⟨hmine.1, hmine.2⟩ hready h0 hlow⟩,
    fun hready hmine => ⟨fun hbad => caprev_faults rfl hready hbad, fun hlow => ?caprev⟩,
    fun k m rights => ⟨capCommit_mk k m rights, capCommit_rev k m⟩, fun hready hstep hnew hrows => ?mxsend⟩
  case caprev => exact caprev_makes rfl ⟨hmine.1, hmine.2⟩ hready hlow
  case mxsend =>
    obtain ⟨o, m, hsend, hkind, htok, hcol, hwho, hgen, hchunk⟩ :=
      Pkg.sendMx_adds (kind := mxCommand s.regs kind n a b c) (col := col.toNat) (d := d) hnew
    obtain ⟨w, hsettle⟩ := Pkg.settle_ops ((s.pkg.sendMx (mxCommand s.regs kind n a b c) col.toNat d).modCtx x Ctx.enterCut) x
    have hctx : (((s.pkg.sendMx (mxCommand s.regs kind n a b c) col.toNat d).modCtx x Ctx.enterCut).settle x (.wait .ops)).ctx x =
        { s.ctx.enterCut with st := .waiting, held := none, wait := w s.ctx.enterCut } := by
      rw [hsettle, Pkg.ctx_modCtx_same, Pkg.ctx_modCtx_same, hsend]
      rfl
    have hcur : (((s.pkg.sendMx (mxCommand s.regs kind n a b c) col.toNat d).modCtx x Ctx.enterCut).settle x (.wait .ops)).cur = x := by
      rw [hsettle, hsend]
      rfl
    have hops : (((s.pkg.sendMx (mxCommand s.regs kind n a b c) col.toNat d).modCtx x Ctx.enterCut).settle x (.wait .ops)).ops =
        s.pkg.ops ++ [o] := by
      rw [hsettle, hsend]
      rfl
    refine ⟨_, o, mxsend_hands hready hnew hrows, ?_, hops, hkind, htok, hcol, ?_⟩
    · rw [State.ctx, Pkg.seal_cur, Pkg.seal_ctx, hcur, hctx]
    · rw [State.ctx, Pkg.seal_cur, Pkg.seal_ctx, hcur, hctx, Op.sentBy, hkind, mxCommand_cls, hwho, hgen, hchunk]
      simp [State.ctx, Ctx.enterCut, x, p]

end Sys2Proof.Machine

/-! SUPPORT. Proofs: BLOAD and BQUERY (R307, R308, Table 11.3). -/

namespace Sys2Proof.Machine

/-! ### Tables by index -/

theorem find?_range'_filterMap {α : Type} [DecidableEq α] (d : α) (f : Nat → α) (n m i : Nat) :
    Tab.get d ((List.range' m n).filterMap fun i => if f i = d then none else some (i, f i)) i =
      if m ≤ i ∧ i < m + n then f i else d := by
  induction n generalizing m with
  | zero => simp [Nat.not_lt.mpr]
  | succ n ih =>
    rw [List.range'_succ]
    by_cases hd : f m = d
    · rw [List.filterMap_cons_none (by rw [if_pos hd]), ih]
      by_cases hi : i = m
      · subst hi
        simp [hd]
      · congr 1
        exact propext ⟨fun h => by omega, fun h => by omega⟩
    · rw [List.filterMap_cons_some (by rw [if_neg hd]), Tab.get, Tab.find?]
      by_cases hi : m = i
      · subst hi
        simp
      · rw [if_neg hi]
        refine (ih (m + 1)).trans ?_
        congr 1
        exact propext ⟨fun h => by omega, fun h => by omega⟩

/-- A table of `n` entries reads as the function that gives them. -/
theorem tabOf_get {α : Type} [DecidableEq α] (d : α) (f : Nat → α) {n i : Nat} (h : i < n) : (tabOf d n f).get d i = f i := by
  rw [tabOf, List.range_eq_range']
  exact (find?_range'_filterMap d f n 0 i).trans (if_pos (by omega))

theorem BSlot.setCols_cell (b : BSlot) {cols : List (List BGrp)} {c i : Nat} (hc : c < cols.length) (hlow : c < 256) (hi : i < 128) :
    (b.setCols 0 cols).cells.get 0 (256 * i + c) = ((bgrpAt cols c (i / 16)).cells[i % 16]?).getD 0 := by
  have hrow : (256 * i + c) / 256 = i := by omega
  have hcol : (256 * i + c) % 256 = c := by omega
  rw [BSlot.setCols, tabOf_get _ _ (by omega), hrow, hcol, Nat.sub_zero]
  simp [hc]

theorem BSlot.setCols_scale (b : BSlot) {cols : List (List BGrp)} {c g : Nat} (hc : c < cols.length) (hlow : c < 256) (hg : g < 8) :
    (b.setCols 0 cols).sc.get 0x7F (256 * g + c) = (bgrpAt cols c g).sc := by
  have hrow : (256 * g + c) / 256 = g := by omega
  have hcol : (256 * g + c) % 256 = c := by omega
  rw [BSlot.setCols, tabOf_get _ _ (by omega), hrow, hcol, Nat.sub_zero]
  simp [hc]

/-! ### BLOAD (R308) -/

theorem Pkg.modBslot_get (p : Pkg) (c n : Nat) (f : BSlot → BSlot) :
    ((p.modBslot c n f).core c).bslots.get .zero n = f ((p.core c).bslots.get .zero n) := by
  rw [Pkg.modBslot, Pkg.modCore, Pkg.core_setCore_same, Tab.get_set_same]

theorem Pkg.modBslot_ctx (p : Pkg) (c n : Nat) (f : BSlot → BSlot) (y : CtxRef) : (p.modBslot c n f).ctx y = p.ctx y :=
  Pkg.ctx_modCore rfl y

/-- What a BLOAD of these columns leaves in its slot. -/
def BSlot.filled (b : BSlot) (core f k : Nat) (cols : List (List BGrp)) : BSlot :=
  { BSlot.zero.setCols 0 cols with st := .loaded, fmt := f, k, stamp := b.stamp + 1, ldcore := core }

theorem BSlot.filled_cells (b : BSlot) (core f k : Nat) (cols : List (List BGrp)) :
    (b.filled core f k cols).cells = (BSlot.zero.setCols 0 cols).cells := by
  simp only [BSlot.filled]

theorem BSlot.filled_sc (b : BSlot) (core f k : Nat) (cols : List (List BGrp)) :
    (b.filled core f k cols).sc = (BSlot.zero.setCols 0 cols).sc := by
  simp only [BSlot.filled]

theorem bload_fills {s : State} {g : Guard} {h : Hint} {fmt : BitVec 3} {b : BReg} {m : MemOp} (hready : s.readyCut g (memSrcs m) [])
    {w : Nat} {l : Loaded} {q0 q1 q : Pkg}
    (hwidth : (M.rowWidth s.pkg.cur (memBase s.regs m).toNat (if fmt.toNat = 0 then none else some (fmtWidth fmt.toNat)) 0x22 false).run
      s.pkg = .ok (w, q0))
    (hrows : (M.loadRows s.pkg.cur (rowVas (memBase s.regs m) (memPitch s.regs m) (if w = 16 then 128 else 256))
      (if fmt.toNat = 0 then none else some (fmtWidth fmt.toNat)) (fun f => fmt.toNat == 0 || fmt.toNat == f) 0x22
      (M.bloadWaits s.pkg.cur b.toNat) false (h == .noalloc)).run q0 = .ok (l, q1))
    (hsquash : q1.squashReaders s.pkg.cur.core b.toNat (some s.pkg.cur) = some q) (hcur : q.cur = s.pkg.cur) :
    let f := if l.fmt = 0 then fmt.toNat else l.fmt
    let cols := l.rows.map fun gs => gs.map (BGrp.of f l.k)
    s.makesCut (.bload g h fmt b m)
      ((q.modBslot s.pkg.cur.core b.toNat (·.filled s.pkg.cur.core f l.k cols)).counting 15 (roundsOf cols)) := by
  intro f cols
  have hcount : (M.count s.pkg.cur cRoundings (roundsOf cols)).run (q.modBslot s.pkg.cur.core b.toNat (·.filled s.pkg.cur.core f l.k cols)) =
      .ok ((), (q.modBslot s.pkg.cur.core b.toNat (·.filled s.pkg.cur.core f l.k cols)).counting 15 (roundsOf cols)) := by
    have hrun := M.run_count (q.modBslot s.pkg.cur.core b.toNat (·.filled s.pkg.cur.core f l.k cols)) cRoundings (roundsOf cols)
    rwa [show (q.modBslot s.pkg.cur.core b.toNat (·.filled s.pkg.cur.core f l.k cols)).cur = s.pkg.cur from hcur] at hrun
  refine State.issue_cut hready rfl rfl rfl ?_
  simp only [M.run_bind, M.run_me, M.run_r, hwidth, hrows, M.run_get, hsquash, M.run_set]
  simp only [BSlot.filled, f, cols] at hcount ⊢
  rw [hcount] <;> rfl

/-! ### A slot in use makes its writer wait (R308, R323) -/

theorem Pkg.squashReaders_inUse {p : Pkg} {c n : Nat} {e : Option CtxRef} (h : (p.core c).slotInUse n = true) :
    p.squashReaders c n e = none :=
  if_pos (by rw [h, Bool.true_or])

theorem M.bloadWaits_ops {q : Pkg} {n : Nat} (hres : q.rcdBit q.cur.core (272 + n) = true)
    (huse : ((q.core q.cur.core).bslots.get .zero n).busy ≠ none ∨ (q.core q.cur.core).slotInUse n = true) :
    (M.bloadWaits q.cur n).run q = .error (.wait .ops) := by
  have hwait : q.bloadWaits q.cur n = true := by
    rw [Pkg.bloadWaits, Bool.or_eq_true]
    exact huse.imp Option.isSome_iff_ne_none.mpr fun h => by rw [Pkg.squashReaders_inUse h]; rfl
  simp only [M.bloadWaits, M.bReserved, M.run_bind, M.run_get, M.run_me, hres, Bool.not_true, Bool.false_eq_true, ↓reduceIte,
    M.run_pure, hwait, M.run_throw]

/-! ### BQUERY (Table 11.3) -/

theorem BSlot.word_eq (k : BSlot) : k.word =
    k.stamp.toNat * 2 ^ 32 + k.ldcore * 2 ^ 23 + k.k * 2 ^ 8 + k.fmt * 2 ^ 4 + (if ∃ e ∈ k.inv, e.2 = true then 8 else 0) +
      (match k.st with
        | .empty => 0
        | .loaded => 1
        | .partly => 2) := by
  simp only [BSlot.word, Nat.shiftLeft_eq, List.any_eq_true]
  cases k.st <;> rfl

section
variable {s : State} {g : Guard} {b : BReg} {d : SReg} (hready : s.readyM g [] [d.toNat] [] [])
include hready

theorem bquery_faults (hres : s.pkg.rcdBit s.pkg.cur.core (272 + b.toNat) = false) : s.faults (.bquery g d b) 8 0 0x20 := by
  refine State.faults_of_body (i := .bquery g d b) rfl hready rfl rfl rfl ?_
  simp only [Ins.mx, M.bslot, M.bReserved, M.run_bind, M.run_get, M.run_me, hres, Bool.not_false, ↓reduceIte, M.invocation, M.fault,
    M.run_throw]

theorem bquery_reads (hres : s.pkg.rcdBit s.pkg.cur.core (272 + b.toNat) = true) :
    s.makesQueued (.bquery g d b) true [d.toNat] [] ((s.pkg.enterR (s.pkg.regLine (12 + b.toNat))).withRegs s.pkg.cur
      (·.setS d (BitVec.ofNat 64 ((s.pkg.core s.pkg.cur.core).bslots.get .zero b.toNat).word))) := by
  refine fun hfits => State.issue_engine (m := true) hready rfl rfl rfl rfl ?_ rfl hfits
  have hslots : ((s.pkg.enterR (s.pkg.regLine (12 + b.toNat))).core s.pkg.cur.core).bslots = (s.pkg.core s.pkg.cur.core).bslots := by
    have hrest := congrArg Core.bslots (s.pkg.modCtx_core_rest s.pkg.cur
      (fun c => { c with ch := { c.ch with rlines := insertNat (s.pkg.regLine (12 + b.toNat)) c.ch.rlines } }) s.pkg.cur.core)
    exact hrest
  rw [← hslots]
  simp only [Ins.mx, M.bslot, M.bReserved, M.regKey, M.space, M.run_bind, M.run_get, M.run_me, hres, Bool.not_true, Bool.false_eq_true,
    ↓reduceIte, M.run_pure, M.enterRead, M.modChunk, M.modCtx, M.run_modify, M.run_setS]
  rfl

end

/-- Settles O36: the slot's columns are those loaded, under the next stamp, and BQUERY reads the slot's word. -/
theorem bSlots : Obligations.BSlots := by
  unfold Obligations.BSlots
  intro s g h fmt b d m p x r code plain k
  refine ⟨?load, fun q hcur hres huse => ?wait, fun hready =>
    ⟨bquery_faults hready, fun hres => ?query⟩⟩
  case load =>
    intro hready w q0 l q1 q hwidth hrows hsquash hcur f cols
    have hload := bload_fills hready hwidth hrows hsquash hcur
    refine ⟨_, _, hload, Pkg.modBslot_get .., rfl, rfl, rfl, rfl, rfl,
      fun c hc hlow i hi => ?cell, fun c hc hlow g hg => ?scale,
      fun y => Pkg.modBslot_ctx ..⟩
    case cell => rw [BSlot.filled_cells, BSlot.setCols_cell _ hc hlow hi]
    case scale => rw [BSlot.filled_sc, BSlot.setCols_scale _ hc hlow hg]
  case wait =>
    rw [← hcur] at hres huse ⊢
    exact M.bloadWaits_ops hres huse
  case query =>
    have hreads := bquery_reads hready hres
    rwa [BSlot.word_eq] at hreads

end Sys2Proof.Machine

/-! SUPPORT. Proofs: matrix registers in a chunk and the instructions of the matrix queue (R297 to R299, R303 to R306). -/

namespace Sys2Proof.Machine

/-! ### Register lines -/

theorem Pkg.regLine_modCtx (p : Pkg) (x : CtxRef) (f : Ctx → Ctx) (n : Nat) : (p.modCtx x f).regLine n = p.regLine n := by
  rw [Pkg.regLine, Pkg.spaceOf_modCtx, Pkg.regLine] <;> rfl

theorem Pkg.regLine_enterR (p : Pkg) (key n : Nat) : (p.enterR key).regLine n = p.regLine n := Pkg.regLine_modCtx ..

theorem M.run_regKey (p : Pkg) (n : Nat) : (M.regKey n).run p = .ok (p.regLine n, p) := by
  simp only [M.regKey, M.space, M.run_bind, M.run_me, M.run_get, M.run_pure, Pkg.regLine]

theorem M.run_enterRead (p : Pkg) (key : Nat) : (M.enterRead p.cur key).run p = .ok ((), p.enterR key) := rfl

theorem M.run_enterWrite {p : Pkg} {key : Nat} (h : p.writable key) : (M.enterWrite p.cur key).run p = .ok ((), p.enterW key) :=
  M.enterWrite_ok h

theorem Pkg.modCtx_tiles (p : Pkg) (x : CtxRef) (f : Ctx → Ctx) (c : Nat) : ((p.modCtx x f).core c).tiles = (p.core c).tiles := by
  have hrest := congrArg Core.tiles (p.modCtx_core_rest x f c)
  exact hrest

theorem Pkg.modCtx_accs (p : Pkg) (x : CtxRef) (f : Ctx → Ctx) (c : Nat) : ((p.modCtx x f).core c).accs = (p.core c).accs := by
  have hrest := congrArg Core.accs (p.modCtx_core_rest x f c)
  exact hrest

theorem Pkg.writable_enterR {p : Pkg} {key : Nat} (h : p.writable key) (k : Nat) : (p.enterR k).writable key := by
  rw [Pkg.writable, Pkg.enterR, show (p.modCtx p.cur _).cur = p.cur from rfl, Pkg.ctx_modCtx_same]
  exact h

theorem Pkg.tileFree_enterR {p : Pkg} {n : TReg} (h : p.tileFree n) (k : Nat) : (p.enterR k).tileFree n := by
  obtain ⟨hw, hs⟩ := h
  refine ⟨?_, fun c old => ?_⟩
  · rw [Pkg.regLine_enterR]
    exact Pkg.writable_enterR hw k
  · rw [show (p.enterR k).cur = p.cur from rfl, Pkg.enterR, Pkg.modCtx_tiles]
    exact hs c old

theorem Pkg.accFree_enterR {p : Pkg} {n : Nat} (h : p.accFree n) (k : Nat) : (p.enterR k).accFree n := by
  obtain ⟨hw, hs⟩ := h
  refine ⟨?_, fun c => ?_⟩
  · rw [Pkg.regLine_enterR]
    exact Pkg.writable_enterR hw k
  · rw [show (p.enterR k).cur = p.cur from rfl, Pkg.enterR, Pkg.modCtx_accs]
    exact hs c

/-! ### Reads and writes (R298) -/

theorem M.run_tileRead (p : Pkg) (n : TReg) : (M.tileRead n).run p = .ok (p.tile n, p.enterR (p.regLine n.toNat)) := by
  simp only [M.tileRead, M.run_bind, M.run_me, M.run_regKey, M.run_enterRead, M.run_get, M.run_pure]
  rw [Pkg.enterR, Pkg.modCtx_tiles, Pkg.tile] <;> rfl

theorem M.run_accRead (p : Pkg) (n : Nat) : (M.accRead n).run p = .ok (p.acc n, p.enterR (p.regLine (8 + n))) := by
  simp only [M.accRead, M.run_bind, M.run_me, M.run_regKey, M.run_enterRead, M.run_get, M.run_pure]
  rw [Pkg.enterR, Pkg.modCtx_accs, Pkg.acc]

/-- A holder in the writing context itself is nobody else's. -/
theorem holder_eq_nil {o : Option Nat} {slot : Nat} (h : ∀ k, o = some k → k = slot) : o.toList.filter (· != slot) = [] := by
  cases o with
  | none => rfl
  | some k => simp [h k rfl]

theorem M.tileWrite_free {p : Pkg} {n : TReg} (h : p.tileFree n) (v : Tile) : (M.tileWrite n v).run p = .ok ((), p.putTile n v) := by
  obtain ⟨hw, hs⟩ := h
  simp only [M.tileWrite, M.run_bind, M.run_me, M.run_regKey, M.run_enterWrite hw, M.run_get]
  rw [M.claim_nobody (holder_eq_nil fun k hk => ?owner)]
  case owner =>
    rw [Pkg.enterW, Pkg.modCtx_tiles] at hk
    obtain ⟨⟨c, old⟩, hsh, rfl⟩ := Option.map_eq_some_iff.mp hk
    exact hs c old hsh
  rfl

theorem M.accWrite_free {p : Pkg} {n : Nat} (h : p.accFree n) (f : AccBank → AccBank) : (M.accWrite n f).run p = .ok ((), p.putAcc n f) := by
  obtain ⟨hw, hs⟩ := h
  simp only [M.accWrite, M.run_bind, M.run_me, M.run_regKey, M.run_enterWrite hw, M.run_get]
  rw [M.claim_nobody (holder_eq_nil fun k hk => ?owner)]
  case owner =>
    rw [Pkg.enterW, Pkg.modCtx_accs] at hk
    obtain ⟨c, hc, rfl⟩ := Option.map_eq_some_iff.mp hk
    exact hs c hc
  rfl

/-! ### The matrix queue (R299) -/

section
variable {s : State} {i : Instr} {g : Guard} {srcs dsts vsrcs vdsts : List Nat} {body : M Unit}
  (he : exec i s = s.issue (.mx g srcs dsts vsrcs vdsts body)) (hready : s.readyM g srcs dsts vsrcs vdsts)
include he hready

theorem mx_makes {q : Pkg} (hb : body.run s.pkg = .ok ((), q)) (hcur : q.cur = s.pkg.cur) : s.makesQueued i true dsts vdsts q := by
  intro hfits
  rw [he]
  refine State.issue_engine (m := true) hready rfl rfl rfl rfl ?_ hcur hfits
  simp only [Ins.mx, M.run_bind, hb, M.run_pure]

theorem mx_faults {cause addr info : Nat} (hb : body.run s.pkg = .error (.fault cause addr info)) : s.faults i cause addr info := by
  refine State.faults_of_body he hready rfl rfl rfl ?_
  simp only [Ins.mx, M.run_bind, hb]

end

end Sys2Proof.Machine

/-! SUPPORT. Proofs: tile registers (R303 to R306). -/

namespace Sys2Proof.Machine

/-! ### Tiles as rows of groups -/

theorem Tile.ofRows_code (fmt pw k : Nat) (rows : List (List Grp)) {r c : Nat} (hr : r < 16) (hc : c < 128) :
    (Tile.ofRows fmt pw k rows).code r c = ((grpAt rows r (c / 16)).codes[c % 16]?).getD 0 := by
  have hrow : (128 * r + c) / 128 = r := by omega
  have hcol : (128 * r + c) % 128 = c := by omega
  have helem : (128 * r + c) % 16 = c % 16 := by omega
  rw [Tile.code, Tile.ofRows, tabOf_get _ _ (by omega), hrow, hcol, helem]

theorem Tile.ofRows_sc (fmt pw k : Nat) (rows : List (List Grp)) {i : Nat} (hi : i < 128) :
    (Tile.ofRows fmt pw k rows).sc.get 0x7F i = (grpAt rows (i / 8) (i % 8)).sc := tabOf_get _ _ hi

theorem Tile.ofRows_eb (fmt pw k : Nat) (rows : List (List Grp)) {i : Nat} (hi : i < 128) :
    (Tile.ofRows fmt pw k rows).eb.get 0 i = (grpAt rows (i / 8) (i % 8)).eb := tabOf_get _ _ hi

/-- Rows and groups by their places. -/
theorem grpAt_eq {rows : List (List Grp)} {l : List Grp} {r g : Nat} {a : Grp} (hl : rows[r]? = some l) (ha : l[g]? = some a) :
    grpAt rows r g = a := by
  rw [grpAt, hl, Option.getD_some, ha, Option.getD_some]

theorem Tile.rows_getElem? (t : Tile) {r : Nat} (hr : r < 16) : t.rows[r]? = some ((List.range 8).map (t.grp r)) := by
  simp [Tile.rows, hr]

theorem Tile.grp_code (t : Tile) (r g : Nat) {j : Nat} (hj : j < 16) : ((t.grp r g).codes[j]?).getD 0 = t.code r (16 * g + j) := by
  simp [Tile.grp, hj]

/-- A rewritten row keeps codes, scale codes and escape bytes (R302). -/
theorem refreshEp_getElem? (fmt : Nat) (first : Bool) (n : Nat) (l : List Grp) (i : Nat) :
    ∃ e, (refreshEp fmt first n l)[i]? = (l[i]?).map fun g => { g with ep := e } := by
  induction l generalizing first n i with
  | nil => exact ⟨0, rfl⟩
  | cons g l ih =>
    cases i with
    | zero => exact ⟨_, rfl⟩
    | succ i => exact ih ..

/-- A row's groups after `setRow`. -/
theorem Tile.setRow_grp (t : Tile) (r : Nat) (f : Nat → Grp → Grp) {m g : Nat} (hm : m < 16) (hg : g < 8) : ∃ e,
    grpAt (t.rows.zipIdx.map fun e => if e.2 = r then refreshEp t.fmt true 0 (e.1.zipIdx.map fun g => f g.2 g.1) else e.1) m g =
      if m = r then { f g (t.grp m g) with ep := e } else t.grp m g := by
  have hrow : (t.rows.zipIdx)[m]? = some ((List.range 8).map (t.grp m), m) := by
    rw [List.getElem?_zipIdx, t.rows_getElem? hm]
    simp
  by_cases h : m = r
  · obtain ⟨e, he⟩ := refreshEp_getElem? t.fmt true 0 ((((List.range 8).map (t.grp m)).zipIdx).map fun g => f g.2 g.1) g
    refine ⟨e, (grpAt_eq (l := refreshEp t.fmt true 0 ((((List.range 8).map (t.grp m)).zipIdx).map fun g => f g.2 g.1))
      (a := { f g (t.grp m g) with ep := e }) ?_ ?_).trans (if_pos h).symm⟩
    · rw [List.getElem?_map, hrow]
      exact congrArg some (if_pos h)
    · rw [he]
      simp [hg]
  · refine ⟨0, (grpAt_eq (l := (List.range 8).map (t.grp m)) (a := t.grp m g) ?_ ?_).trans (if_neg h).symm⟩
    · rw [List.getElem?_map, hrow]
      exact congrArg some (if_neg h)
    · simp [hg]

theorem Tile.grp_sc (t : Tile) (i : Nat) : (t.grp (i / 8) (i % 8)).sc = t.sc.get 0x7F i := by
  rw [Tile.grp, Nat.div_add_mod]

theorem Tile.grp_eb (t : Tile) (i : Nat) : (t.grp (i / 8) (i % 8)).eb = t.eb.get 0 i := by
  rw [Tile.grp, Nat.div_add_mod]

theorem Tile.setRow_code (t : Tile) (r : Nat) (f : Nat → Grp → Grp) {m c : Nat} (hm : m < 16) (hc : c < 128) :
    (t.setRow r f).code m c = if m = r then ((f (c / 16) (t.grp m (c / 16))).codes[c % 16]?).getD 0 else t.code m c := by
  obtain ⟨e, he⟩ := t.setRow_grp r f hm (g := c / 16) (by omega)
  rw [Tile.setRow, Tile.ofRows_code _ _ _ _ hm hc, he]
  split
  · rfl
  · rw [Tile.grp_code _ _ _ (by omega), Nat.div_add_mod]

theorem Tile.setRow_sc (t : Tile) (r : Nat) (f : Nat → Grp → Grp) {i : Nat} (hi : i < 128) :
    (t.setRow r f).sc.get 0x7F i = if i / 8 = r then (f (i % 8) (t.grp (i / 8) (i % 8))).sc else t.sc.get 0x7F i := by
  obtain ⟨e, he⟩ := t.setRow_grp r f (m := i / 8) (g := i % 8) (by omega) (by omega)
  rw [Tile.setRow, Tile.ofRows_sc _ _ _ _ hi, he]
  split
  · rfl
  · rw [Tile.grp, Nat.div_add_mod]

theorem Tile.setRow_eb (t : Tile) (r : Nat) (f : Nat → Grp → Grp) {i : Nat} (hi : i < 128) :
    (t.setRow r f).eb.get 0 i = if i / 8 = r then (f (i % 8) (t.grp (i / 8) (i % 8))).eb else t.eb.get 0 i := by
  obtain ⟨e, he⟩ := t.setRow_grp r f (m := i / 8) (g := i % 8) (by omega) (by omega)
  rw [Tile.setRow, Tile.ofRows_eb _ _ _ _ hi, he]
  split
  · rfl
  · rw [Tile.grp, Nat.div_add_mod]

theorem Tile.setRow_fmt (t : Tile) (r : Nat) (f : Nat → Grp → Grp) : (t.setRow r f).fmt = t.fmt := by
  simp only [Tile.setRow, Tile.ofRows]

theorem Tile.setRow_k (t : Tile) (r : Nat) (f : Nat → Grp → Grp) : (t.setRow r f).k = t.k := by
  simp only [Tile.setRow, Tile.ofRows]

theorem Tile.transposed_code (t : Tile) {n j c : Nat} (hn : n < 16) (hj : j < 8) (hc : c < 16) :
    t.transposed.code n (16 * j + c) = t.code c (16 * j + n) := by
  have hgrp : (16 * j + c) / 16 = j := by omega
  have helem : (16 * j + c) % 16 = c := by omega
  rw [Tile.transposed, Tile.ofRows_code _ _ _ _ hn (by omega), hgrp, helem]
  have hat : grpAt (t.rows.zipIdx.map fun e => e.1.zipIdx.map fun g =>
      { g.1 with codes := (List.range 16).map fun c => t.code c (16 * g.2 + e.2) }) n j =
      { t.grp n j with codes := (List.range 16).map fun c => t.code c (16 * j + n) } := by
    refine grpAt_eq (l := ((List.range 8).map (t.grp n)).zipIdx.map fun g =>
      { g.1 with codes := (List.range 16).map fun c => t.code c (16 * g.2 + n) }) ?_ ?_
    · rw [List.getElem?_map, List.getElem?_zipIdx, t.rows_getElem? hn]
      simp
    · simp [hj]
  rw [hat]
  simp [hc]

/-! ### Fields of words -/

theorem packFields_field (w : Nat) {l : List Nat} {i : Nat} (hi : i < l.length) :
    packFields w l / 2 ^ (w * i) % 2 ^ w = l[i] % 2 ^ w := by
  induction l generalizing i with
  | nil => cases hi
  | cons c l ih =>
    have hpos : 0 < 2 ^ w := by positivity
    cases i with
    | zero => simp [packFields]
    | succ i =>
      have hdiv : packFields w (c :: l) / 2 ^ (w * (i + 1)) = packFields w l / 2 ^ (w * i) := by
        rw [Nat.mul_add_one, Nat.pow_add', ← Nat.div_div_eq_div_mul, packFields, Nat.add_mul_div_left _ _ hpos,
          Nat.div_eq_of_lt (Nat.mod_lt _ hpos), Nat.zero_add]
      rw [hdiv]
      exact ih (Nat.lt_of_succ_lt_succ hi)

theorem packFields_lt (w : Nat) (l : List Nat) : packFields w l < 2 ^ (w * l.length) := by
  induction l with
  | nil => simp [packFields]
  | cons c l ih =>
    have hpos : 0 < 2 ^ w := by positivity
    rw [packFields, List.length_cons, Nat.mul_add_one, Nat.pow_add']
    calc c % 2 ^ w + 2 ^ w * packFields w l < 2 ^ w * (packFields w l + 1) := by
          rw [Nat.mul_add_one, Nat.add_comm]
          exact Nat.add_lt_add_left (Nat.mod_lt _ hpos) _
      _ ≤ 2 ^ w * 2 ^ (w * l.length) := Nat.mul_le_mul_left _ ih

/-- Byte `i` of a word of eight fields. -/
theorem scaleWord_byte (f : Nat → Nat) {i : Nat} (hi : i < 8) :
    (BitVec.ofNat 64 (packFields 8 ((List.range 8).map f)) >>> (8 * i)).toNat % 256 = f i % 256 := by
  have hlt : packFields 8 ((List.range 8).map f) < 2 ^ 64 := by
    have h := packFields_lt 8 ((List.range 8).map f)
    rwa [List.length_map, List.length_range] at h
  have hfield := packFields_field 8 (l := (List.range 8).map f) (i := i) (by simpa using hi)
  rw [BitVec.toNat_ushiftRight, BitVec.toNat_ofNat, Nat.mod_eq_of_lt hlt, Nat.shiftRight_eq_div_pow]
  simpa using hfield

/-- A field of the lane that a row's elements are packed into. -/
theorem packLane_word {w : Nat} (hw : w = 4 ∨ w = 8 ∨ w = 16) (l : Nat) (f : Nat → Nat) {i : Nat} (hi : i < 32 / w) :
    (BitVec.ofNat 32 (packLane w l f (32 / w))).toNat / 2 ^ (i * w) % 2 ^ w = f (l * (32 / w) + i) % 2 ^ w := by
  have hlt : packLane w l f (32 / w) < 2 ^ 32 := by
    have h := packLane_lt w l f (32 / w)
    obtain rfl | rfl | rfl := hw <;> exact h
  rw [BitVec.toNat_ofNat, Nat.mod_eq_of_lt hlt, packLane_field _ _ _ hi]

/-! ### The instructions -/

section
variable {s : State} {g : Guard} {t src : Ty} {rm : RM} {d a : TReg} {row : BitVec 4}

section
variable (hready : s.readyM g [] [] [] [])
include hready

theorem tmov_makes (hfree : s.pkg.tileFree d) :
    s.makesQueued (.tmov g d a) true [] [] ((s.pkg.enterR (s.pkg.regLine a.toNat)).putTile d (s.pkg.tile a)) := by
  refine mx_makes rfl hready ?_ rfl
  simp only [M.run_bind, M.run_tileRead, M.tileWrite_free (Pkg.tileFree_enterR hfree _)]

theorem tmovTr_makes (hfree : s.pkg.tileFree d) (hscale : (s.pkg.tile a).oneScale = true)
    (hesc : (s.pkg.tile a).fmt = 1 → ∀ e ∈ (s.pkg.tile a).codes, e.2 ≠ 8) :
    s.makesQueued (.tmovTr g d a) true [] [] ((s.pkg.enterR (s.pkg.regLine a.toNat)).putTile d (s.pkg.tile a).transposed) := by
  refine mx_makes rfl hready ?_ rfl
  have hok : ¬ (!(s.pkg.tile a).oneScale || ((s.pkg.tile a).fmt == 1 && (s.pkg.tile a).codes.any fun e => e.2 == 8)) = true := by
    rw [Bool.or_eq_true, Bool.and_eq_true, List.any_eq_true]
    rintro (hno | ⟨hfmt, e, he, h8⟩)
    · simp [hscale] at hno
    · exact hesc (beq_iff_eq.mp hfmt) e he (beq_iff_eq.mp h8)
  simp only [M.run_bind, M.run_tileRead, if_neg hok, M.run_pure, M.tileWrite_free (Pkg.tileFree_enterR hfree _)]

theorem tmovTr_faults (hbad : (s.pkg.tile a).oneScale = false ∨ ((s.pkg.tile a).fmt = 1 ∧ ∃ e ∈ (s.pkg.tile a).codes, e.2 = 8)) :
    s.faults (.tmovTr g d a) 8 0 0x25 := by
  refine mx_faults rfl hready ?_
  have hno : (!(s.pkg.tile a).oneScale || ((s.pkg.tile a).fmt == 1 && (s.pkg.tile a).codes.any fun e => e.2 == 8)) = true := by
    simpa using hbad
  simp only [M.run_bind, M.run_tileRead, if_pos hno, M.invocation, M.fault, M.run_throw]

theorem tcvt_makes (hfree : s.pkg.tileFree d) {f : Nat} (hsrc : tcvtSource (s.pkg.tile a) src = some f) :
    s.makesQueued (.tcvt g t src rm d a) true [] [] ((s.pkg.enterR (s.pkg.regLine a.toNat)).putTile d
      ((s.pkg.tile a).convert f t fun i => { rm, seed := s.regs.seed.toNat, idx := i, ftz := false })) := by
  refine mx_makes rfl hready ?_ rfl
  simp only [M.run_bind, M.run_r, M.run_tileRead, hsrc, M.tileWrite_free (Pkg.tileFree_enterR hfree _)]

theorem tcvt_faults (hsrc : tcvtSource (s.pkg.tile a) src = none) : s.faults (.tcvt g t src rm d a) 8 0 0x22 := by
  refine mx_faults rfl hready ?_
  simp only [M.run_bind, M.run_r, M.run_tileRead, hsrc, M.invocation, M.fault, M.run_throw]

theorem tzero_makes (hfree : s.pkg.tileFree d) : s.makesQueued (.tzero g d) true [] [] (s.pkg.putTile d .zero) :=
  mx_makes rfl hready (M.tileWrite_free hfree _) rfl

end

theorem tldv_makes {v : VReg} (hready : s.readyM g [] [] [v.toNat] []) (hfree : s.pkg.tileFree d) :
    s.makesQueued (.tldv g d v row) true [] [] ((s.pkg.enterR (s.pkg.regLine d.toNat)).putTile d ((s.pkg.tile d).setRow row.toNat
      fun i g => { g with codes := (List.range 16).map fun j => s.regs.field v.toNat (s.pkg.tile d).width (16 * i + j) })) := by
  refine mx_makes rfl hready ?_ rfl
  simp only [M.run_bind, M.run_r, M.run_tileRead, M.tileWrite_free (Pkg.tileFree_enterR hfree _)]

theorem tstv_makes {v : VReg} (hready : s.readyM g [] [] [] [v.toNat]) :
    s.makesQueued (.tstv g v a row) true [] [v.toNat] ((s.pkg.enterR (s.pkg.regLine a.toNat)).withRegs s.pkg.cur (·.setLanes v.toNat
      fun l => some (BitVec.ofNat 32 (packLane (s.pkg.tile a).width l (fun f => if f < 128 then (s.pkg.tile a).code row.toNat f else 0)
        (32 / (s.pkg.tile a).width))))) := by
  refine mx_makes rfl hready ?_ rfl
  simp only [M.run_bind, M.run_tileRead, M.run_setRegs]
  rfl

theorem tgetsc_makes {sd : SReg} (hready : s.readyM g [] [sd.toNat] [] []) :
    s.makesQueued (.tgetsc g sd a row) true [sd.toNat] [] ((s.pkg.enterR (s.pkg.regLine a.toNat)).withRegs s.pkg.cur (·.setS sd
      (BitVec.ofNat 64 (packFields 8 ((List.range 8).map fun i =>
        if (s.pkg.tile a).fmt = 0 then 0x7F else (s.pkg.tile a).sc.get 0x7F (8 * row.toNat + i)))))) := by
  refine mx_makes rfl hready ?_ rfl
  simp only [M.run_bind, M.run_tileRead, M.run_setS]
  rfl

section
variable {sd : SReg} (hready : s.readyM g [sd.toNat] [] [] [])
include hready

theorem tsetsc_faults (hfmt : (s.pkg.tile d).fmt = 0) : s.faults (.tsetsc g d sd row) 8 0 0x25 := by
  refine mx_faults rfl hready ?_
  simp only [M.run_bind, M.run_r, M.run_tileRead, if_pos hfmt, M.invocation, M.fault, M.run_throw]

theorem tsetsc_makes (hfree : s.pkg.tileFree d) (hfmt : (s.pkg.tile d).fmt ≠ 0) :
    s.makesQueued (.tsetsc g d sd row) true [] [] ((s.pkg.enterR (s.pkg.regLine d.toNat)).putTile d ((s.pkg.tile d).setRow row.toNat
      fun i g => { g with sc := fld (s.regs.sr sd).toNat (8 * i + 7) (8 * i) })) := by
  refine mx_makes rfl hready ?_ rfl
  simp only [M.run_bind, M.run_r, M.run_tileRead, if_neg hfmt, M.run_pure, M.tileWrite_free (Pkg.tileFree_enterR hfree _)]

end

end

/-- Settles O34: each instruction reads and writes tiles through its context's view, and a row write leaves the other rows. -/
theorem tileRegisters : Obligations.TileRegisters := by
  unfold Obligations.TileRegisters
  intro s g t src rm d a v sd row p r x y q q' makes
  refine ⟨fun hready hfree => ⟨tmov_makes hready hfree, tmovTr_makes hready hfree, tmovTr_faults hready,
    fun n hn j hj c hc => Tile.transposed_code _ hn hj hc, fun f hsrc => tcvt_makes hready hfree hsrc, tcvt_faults hready,
    tzero_makes hready hfree⟩, fun hready hfree => ?tldv, fun hready => ?tstv, fun hready => ?tgetsc, fun hready hfree =>
    ⟨tsetsc_faults hready, fun hfmt => ?tsetsc⟩⟩
  case tldv =>
    refine ⟨_, tldv_makes hready hfree, fun c hc => ?_, fun m hm c hc hne => ?_, Tile.setRow_fmt .., Tile.setRow_k .., fun i hi => ⟨?_, ?_⟩⟩
    · rw [Tile.setRow_code _ _ _ row.isLt hc, if_pos rfl]
      have hj : c % 16 < 16 := by omega
      simp [hj, Nat.div_add_mod]
      rfl
    · rw [Tile.setRow_code _ _ _ hm hc, if_neg hne]
    · rw [Tile.setRow_sc _ _ _ hi]
      split
      · exact Tile.grp_sc ..
      · rfl
    · rw [Tile.setRow_eb _ _ _ hi]
      split
      · exact Tile.grp_eb ..
      · rfl
  case tstv =>
    refine ⟨_, tstv_makes hready, fun hw l hl i hi => ?_⟩
    rw [packLane_word hw _ _ hi]
    dsimp only
    split
    · rfl
    · exact Nat.zero_mod _
  case tgetsc =>
    refine ⟨_, tgetsc_makes hready, fun i hi => ?_⟩
    rw [scaleWord_byte _ hi]
    split
    · rfl
    · rfl
  case tsetsc =>
    refine ⟨_, tsetsc_makes hready hfree hfmt, fun i hi => ?_, fun i hi hne => ?_, fun i hi => ?_⟩
    · have hg : (8 * row.toNat + i) % 8 = i := by omega
      have hsc := Tile.setRow_sc (s.pkg.tile d) row.toNat (fun i g => { g with sc := fld (s.regs.sr sd).toNat (8 * i + 7) (8 * i) })
        (i := 8 * row.toNat + i) (by omega)
      refine hsc.trans ((if_pos (by omega)).trans ?_)
      rw [hg, fld, Nat.shiftRight_eq_div_pow, show 8 * i + 7 + 1 - 8 * i = 8 by omega] <;> rfl
    · rw [Tile.setRow_sc _ _ _ hi, if_neg hne]
    · have hcode := Tile.setRow_code (s.pkg.tile d) row.toNat
        (fun i g => { g with sc := fld (s.regs.sr sd).toNat (8 * i + 7) (8 * i) }) (m := i / 128) (c := i % 128) (by omega) (by omega)
      have hsame : ((s.pkg.tile d).setRow row.toNat fun i g =>
          { g with sc := fld (s.regs.sr sd).toNat (8 * i + 7) (8 * i) }).code (i / 128) (i % 128) =
          (s.pkg.tile d).code (i / 128) (i % 128) := by
        refine hcode.trans ?_
        split
        · refine (Tile.grp_code _ _ _ (by omega)).trans ?_
          rw [Nat.div_add_mod]
        · rfl
      rwa [Tile.code, Tile.code, Nat.div_add_mod] at hsame

end Sys2Proof.Machine

/-! SUPPORT. Proofs: accumulator instructions, MXSTAT and MFENCE (R314 to R318). -/

namespace Sys2Proof.Machine

/-! ### Reservation, banks and words -/

theorem M.accReserved_ok {p : Pkg} {n : Nat} (h : p.accMine n) : (M.accReserved n).run p = .ok ((), p) := by
  obtain ⟨hlow, hbit⟩ := h
  have hok : ¬ (decide (n ≥ 4) || !p.rcdBit p.cur.core (268 + n)) = true := by simp [hlow, hbit]
  simp only [M.accReserved, M.run_bind, M.run_get, M.run_me, if_neg hok, M.run_pure]

theorem M.accReserved_bad {p : Pkg} {n : Nat} (h : ¬ p.accMine n) : (M.accReserved n).run p = .error (.fault 8 0 0x20) := by
  have hno : (decide (n ≥ 4) || !p.rcdBit p.cur.core (268 + n)) = true := by
    rw [Pkg.accMine, not_and_or] at h
    obtain hhigh | hbit := h
    · simp [Nat.not_lt.mp hhigh]
    · simp [hbit]
  simp only [M.accReserved, M.run_bind, M.run_get, M.run_me, hno, ↓reduceIte, M.invocation, M.fault, M.run_throw]

theorem Pkg.modCtx_rcdBit (p : Pkg) (x : CtxRef) (f : Ctx → Ctx) (c n : Nat) : (p.modCtx x f).rcdBit c n = p.rcdBit c n := by
  have hrest := congrArg Core.task (p.modCtx_core_rest x f c)
  rw [Pkg.rcdBit, Pkg.rcdBit, show ((p.modCtx x f).core c).task = (p.core c).task from hrest]

theorem Pkg.acc_enterR (p : Pkg) (key n : Nat) : (p.enterR key).acc n = p.acc n := by
  rw [Pkg.acc, Pkg.enterR, Pkg.modCtx_accs, Pkg.acc] <;> rfl

/-- The sum of two accumulators with one anchor (R315). -/
def AccBank.plus (b y : AccBank) : AccBank :=
  { b with x := tabOf 0 1024 fun i => accSum (b.x.get 0 i) (y.x.get 0 i), clamped := b.clamped || y.clamped }

theorem AccBank.plus_get (b y : AccBank) {i : Nat} (h : i < 1024) : (b.plus y).x.get 0 i =
    if b.x.get 0 i = sentinel ∨ y.x.get 0 i = sentinel then sentinel else b.x.get 0 i + y.x.get 0 i := by
  simp only [AccBank.plus, tabOf_get _ _ h, accSum]

theorem AccBank.plus_clamped (b y : AccBank) : (b.plus y).clamped = (b.clamped || y.clamped) := by
  simp only [AccBank.plus]

theorem AccBank.plus_anchor (b y : AccBank) : (b.plus y).anchor = b.anchor := by
  simp only [AccBank.plus]

theorem AccBank.word_eq (b : AccBank) : b.word =
    (if ∃ e ∈ b.x, e.2 ≠ sentinel ∧ accOverflows e.2 = true then 2 ^ 18 else 0) + (if ∃ e ∈ b.x, e.2 = sentinel then 2 ^ 17 else 0) +
      (if b.clamped = true then 2 ^ 16 else 0) + b.anchor.toNat := by
  simp only [AccBank.word, List.any_eq_true, Bool.and_eq_true, bne_iff_ne, beq_iff_eq]

section
variable {s : State} {g : Guard} {h : Hint} {t : Ty} {rm : RM} {mk : Option SReg} {d a : AReg} {sd : SReg} {v : VReg} {m : MemOp}
  {imm : BitVec 16} {row : BitVec 4} {r5 : BitVec 5}

/-! ### ACCZ, ACCANCH and ACCADD (R314, R315) -/

section
variable (hready : s.readyM g [] [] [] [])
include hready

theorem accz_faults (hno : ¬ s.pkg.accMine d.toNat) : s.faults (.accz g d) 8 0 0x20 := by
  refine mx_faults rfl hready ?_
  simp only [M.run_bind, M.accReserved_bad hno]

theorem accanch_faults (hno : ¬ s.pkg.accMine d.toNat) : s.faults (.accanch g d imm) 8 0 0x20 := by
  refine mx_faults rfl hready ?_
  simp only [M.run_bind, M.accReserved_bad hno]

theorem accadd_target_faults (hno : ¬ s.pkg.accMine d.toNat) : s.faults (.accadd g d a) 8 0 0x20 := by
  refine mx_faults rfl hready ?_
  simp only [M.run_bind, M.accReserved_bad hno]

variable (hmine : s.pkg.accMine d.toNat) (hfree : s.pkg.accFree d.toNat)
include hmine

theorem accadd_source_faults (hno : ¬ s.pkg.accMine a.toNat) : s.faults (.accadd g d a) 8 0 0x20 := by
  refine mx_faults rfl hready ?_
  simp only [M.run_bind, M.accReserved_ok hmine, M.accReserved_bad hno]

theorem accadd_anchor_faults (hsrc : s.pkg.accMine a.toNat) (hne : (s.pkg.acc a.toNat).anchor ≠ (s.pkg.acc d.toNat).anchor) :
    s.faults (.accadd g d a) 8 0 0x24 := by
  refine mx_faults rfl hready ?_
  simp only [M.run_bind, M.accReserved_ok hmine, M.accReserved_ok hsrc, M.run_accRead, Pkg.acc_enterR, if_pos hne, M.invocation, M.fault,
    M.run_throw]

include hfree

theorem accz_makes : s.makesQueued (.accz g d) true [] [] (s.pkg.putAcc d.toNat fun b => { b with x := [], clamped := false }) := by
  refine mx_makes rfl hready ?_ rfl
  simp only [M.run_bind, M.accReserved_ok hmine, M.accWrite_free hfree]

theorem accanch_makes : s.makesQueued (.accanch g d imm) true [] [] (s.pkg.putAcc d.toNat fun b => { b with anchor := imm }) := by
  refine mx_makes rfl hready ?_ rfl
  simp only [M.run_bind, M.accReserved_ok hmine, M.accWrite_free hfree]

theorem accadd_makes (hsrc : s.pkg.accMine a.toNat) (heq : (s.pkg.acc a.toNat).anchor = (s.pkg.acc d.toNat).anchor) :
    s.makesQueued (.accadd g d a) true [] [] (((s.pkg.enterR (s.pkg.regLine (8 + a.toNat))).enterR
      (s.pkg.regLine (8 + d.toNat))).putAcc d.toNat (·.plus (s.pkg.acc a.toNat))) := by
  refine mx_makes rfl hready ?_ (Pkg.putAcc_cur ..)
  have hfree' := Pkg.accFree_enterR (Pkg.accFree_enterR hfree (s.pkg.regLine (8 + a.toNat))) (s.pkg.regLine (8 + d.toNat))
  simp only [M.run_bind, M.accReserved_ok hmine, M.accReserved_ok hsrc, M.run_accRead, Pkg.acc_enterR, Pkg.regLine_enterR,
    if_neg (not_not.mpr heq), M.run_pure, M.accWrite_free hfree']
  rfl

end

/-! ### ACCOUT and MXSTAT (R316, Table 11.4) -/

theorem accout_faults (hready : s.readyM g (maskSrcs mk) [] [] [v.toNat]) (hno : ¬ s.pkg.accMine a.toNat) :
    s.faults (.accout g t rm mk v a row) 8 0 0x20 := by
  refine mx_faults rfl hready ?_
  simp only [M.run_bind, M.accReserved_bad hno]

theorem accout_makes (hready : s.readyM g (maskSrcs mk) [] [] [v.toNat]) (hmine : s.pkg.accMine a.toNat) :
    s.makesQueued (.accout g t rm mk v a row) true [] [v.toNat] ((s.pkg.enterR (s.pkg.regLine (8 + a.toNat))).withRegs s.pkg.cur
      (·.mapLanes mk v fun c => laneInt t (readout t
        { rm, seed := s.regs.seed.toNat, idx := row.toNat * 64 + c, ftz := s.regs.ftz.getLsbD 2 } ((s.pkg.acc a.toNat).el row.toNat c)
        (s.pkg.acc a.toNat).anchor))) := by
  refine mx_makes rfl hready ?_ rfl
  have hregs : ((s.pkg.enterR (s.pkg.regLine (8 + a.toNat))).ctx s.pkg.cur).regs = s.regs := by
    rw [Pkg.enterR, Pkg.ctx_modCtx_same] <;> rfl
  simp only [M.run_bind, M.accReserved_ok hmine, M.run_accRead, M.run_setRegs]
  refine congrArg (fun q => Except.ok ((), q)) (Pkg.withRegs_congr ?_)
  rw [show (s.pkg.enterR (s.pkg.regLine (8 + a.toNat))).cur = s.pkg.cur from rfl, hregs]

theorem mxstat_faults (hready : s.readyM g [] [sd.toNat] [] []) (hno : ¬ s.pkg.accMine a.toNat) : s.faults (.mxstat g sd a) 8 0 0x20 := by
  refine mx_faults rfl hready ?_
  simp only [M.run_bind, M.accReserved_bad hno]

theorem mxstat_makes (hready : s.readyM g [] [sd.toNat] [] []) (hmine : s.pkg.accMine a.toNat) :
    s.makesQueued (.mxstat g sd a) true [sd.toNat] [] ((s.pkg.enterR (s.pkg.regLine (8 + a.toNat))).withRegs s.pkg.cur (·.setS sd
      (BitVec.ofNat 64 (s.pkg.acc a.toNat).word))) := by
  refine mx_makes rfl hready ?_ rfl
  simp only [M.run_bind, M.accReserved_ok hmine, M.run_accRead, M.run_setS]
  rfl

/-! ### ACCST and ACCLD (R317) -/

section
variable (hready : s.readyM g (memSrcs m) [] [] []) {va : Nat} (hva : (memAddr s.regs m).toNat = va)
include hready hva

theorem accst_bad {cause : Nat} (hbad : s.elBad rWR va 64 cause) : s.faults (.accst g h d m r5) cause va 0 := by
  refine mx_faults rfl hready ?_
  simp only [M.run_bind, M.run_me, M.run_r, hva, M.checkEl_bad hbad]
  rfl

theorem accld_bad {cause : Nat} (hbad : s.elBad rRD va 64 cause) : s.faults (.accld g h d m r5) cause va 0 := by
  refine mx_faults rfl hready ?_
  simp only [M.run_bind, M.run_me, M.run_r, hva, M.checkEl_bad hbad]
  rfl

theorem accst_unmapped (hok : s.elOk rWR va 64) {u : Nat}
    (hu : s.pkg.badByte (s.pkg.spaceOf s.pkg.cur.core) rWR va (accBytes r5) = some u) : s.faults (.accst g h d m r5) 2 u 0 := by
  refine mx_faults rfl hready ?_
  simp only [M.run_bind, M.run_me, M.run_r, hva, M.checkEl_ok hok, M.checkRange_bad hu]

theorem accld_unmapped (hok : s.elOk rRD va 64) {u : Nat}
    (hu : s.pkg.badByte (s.pkg.spaceOf s.pkg.cur.core) rRD va (accBytes r5) = some u) : s.faults (.accld g h d m r5) 2 u 0 := by
  refine mx_faults rfl hready ?_
  simp only [M.run_bind, M.run_me, M.run_r, hva, M.checkEl_ok hok, M.checkRange_bad hu]

section
variable (hok : s.elOk rWR va 64) (hmap : s.pkg.badByte (s.pkg.spaceOf s.pkg.cur.core) rWR va (accBytes r5) = none)
include hok hmap

theorem accst_faults (hno : ¬ s.pkg.accMine d.toNat) : s.faults (.accst g h d m r5) 8 0 0x20 := by
  refine mx_faults rfl hready ?_
  simp only [M.run_bind, M.run_me, M.run_r, hva, M.checkEl_ok hok, M.checkRange_ok hmap, M.accReserved_bad hno]

theorem accst_makes (hmine : s.pkg.accMine d.toNat) {q : Pkg} (hcur : q.cur = s.pkg.cur)
    (hstore : (M.storeBytes s.pkg.cur 18 va ((s.pkg.acc d.toNat).bytes r5.toNat)).run (s.pkg.enterR (s.pkg.regLine (8 + d.toNat))) =
      .ok ((), q)) : s.makesQueued (.accst g h d m r5) true [] [] q := by
  refine mx_makes rfl hready ?_ hcur
  simp only [M.run_bind, M.run_me, M.run_r, hva, M.checkEl_ok hok, M.checkRange_ok hmap, M.accReserved_ok hmine, M.run_accRead, hstore]

end

section
variable (hok : s.elOk rRD va 64) (hmap : s.pkg.badByte (s.pkg.spaceOf s.pkg.cur.core) rRD va (accBytes r5) = none)
include hok hmap

theorem accld_faults (hno : ¬ s.pkg.accMine d.toNat) : s.faults (.accld g h d m r5) 8 0 0x20 := by
  refine mx_faults rfl hready ?_
  simp only [M.run_bind, M.run_me, M.run_r, hva, M.checkEl_ok hok, M.checkRange_ok hmap, M.accReserved_bad hno]

variable (hmine : s.pkg.accMine d.toNat) {bs : List Byte} {q : Pkg} (hcur : q.cur = s.pkg.cur)
  (hload : (M.loadBytes s.pkg.cur rRD false (h == .noalloc) 18 va (accBytes r5)).run s.pkg = .ok (bs, q))
include hmine hload

theorem accld_trailer_faults (hrow : r5.toNat = 16) (hbig : 2 ^ 17 ≤ leNat bs) : s.faults (.accld g h d m r5) 8 0 0x24 := by
  refine mx_faults rfl hready ?_
  simp only [M.run_bind, M.run_me, M.run_r, hva, M.checkEl_ok hok, M.checkRange_ok hmap, M.accReserved_ok hmine, hload,
    if_pos (And.intro hrow hbig), M.invocation, M.fault, M.run_throw]

include hcur

theorem accld_makes (hsmall : r5.toNat < 16 ∨ leNat bs < 2 ^ 17) (hfree : q.accFree d.toNat) :
    s.makesQueued (.accld g h d m r5) true [] [] (q.putAcc d.toNat (·.setRow r5.toNat bs)) := by
  refine mx_makes rfl hready ?_ hcur
  have hgo : ¬ (r5.toNat = 16 ∧ leNat bs ≥ 2 ^ 17) := fun hbad => by
    obtain ⟨hrow, hbig⟩ := hbad
    obtain hlow | hlt := hsmall
    · omega
    · exact absurd hbig (Nat.not_le.mpr hlt)
  simp only [M.run_bind, M.run_me, M.run_r, hva, M.checkEl_ok hok, M.checkRange_ok hmap, M.accReserved_ok hmine, hload, if_neg hgo,
    M.run_pure, M.accWrite_free hfree]

end

end

/-! ### MFENCE (R318) -/

theorem mfence_passes (hready : s.ready g [] []) (hnone : ∀ e ∈ (s.pkg.core s.pkg.cur.core).mq, e.owner.slot ≠ s.pkg.cur.slot) :
    exec (.mfence g) s = .next (s.retiredOn s.pkg .next) := by
  have hq : ¬ ((s.pkg.core s.pkg.cur.core).mq.any fun q => q.owner.slot == s.pkg.cur.slot) = true := by simpa using hnone
  refine State.issue_body hready rfl rfl rfl rfl ?_ (Pkg.fits_self hready)
  simp only [M.run_bind, M.run_me, M.run_get, if_neg hq, M.run_pure]

theorem mfence_waits (hready : s.ready g [] []) (hsome : ∃ e ∈ (s.pkg.core s.pkg.cur.core).mq, e.owner.slot = s.pkg.cur.slot) :
    s.waits (.mfence g) .mfence := by
  have hq : ((s.pkg.core s.pkg.cur.core).mq.any fun q => q.owner.slot == s.pkg.cur.slot) = true := by simpa using hsome
  refine State.issue_stops hready rfl rfl rfl ?_
  simp only [M.run_bind, M.run_me, M.run_get, if_pos hq, M.run_throw]

end

/-- Settles O39: each instruction's checks stand in their order, and its effect is on the bank that its context sees. -/
theorem accumulators : Obligations.Accumulators := by
  unfold Obligations.Accumulators
  intro s g h t rm mk d a sd v m imm row r5 p x r y z ra rd va n makes
  refine ⟨fun hready => ⟨fun hno => ⟨accz_faults hready hno, accanch_faults hready hno, accadd_target_faults hready hno⟩,
    fun hmine hfree => ⟨accz_makes hready hmine hfree, accanch_makes hready hmine hfree, accadd_source_faults hready hmine,
      accadd_anchor_faults hready hmine, fun hsrc heq => ⟨_, accadd_makes hready hmine hfree hsrc heq,
        fun i hi => AccBank.plus_get _ _ hi, AccBank.plus_clamped .., AccBank.plus_anchor ..⟩⟩⟩,
    fun hready => ⟨accout_faults hready, accout_makes hready⟩,
    fun hready => ⟨fun cause hbad => accst_bad hready rfl hbad, fun cause hbad => accld_bad hready rfl hbad,
      fun hok u hu => accst_unmapped hready rfl hok hu, fun hok u hu => accld_unmapped hready rfl hok hu,
      fun hok hmap hno => accst_faults hready rfl hok hmap hno, fun hok hmap hno => accld_faults hready rfl hok hmap hno,
      fun hok hmap hmine q hcur hstore => accst_makes hready rfl hok hmap hmine hcur hstore, fun hok hmap hmine bs q hcur hload =>
      ⟨fun hrow hbig => accld_trailer_faults hready rfl hok hmap hmine hload hrow hbig,
        fun hsmall hfree => accld_makes hready rfl hok hmap hmine hcur hload hsmall hfree⟩⟩,
    fun hready => ⟨mxstat_faults hready, fun hmine => ?mxstat⟩, fun hready => ⟨mfence_passes hready, mfence_waits hready⟩⟩
  case mxstat =>
    have hmakes := mxstat_makes hready hmine
    rwa [AccBank.word_eq] at hmakes

end Sys2Proof.Machine

/-! SUPPORT. Proofs: MMA and MMAX (R310 to R312). -/

namespace Sys2Proof.Machine

/-! ### The checks before the product -/

theorem M.run_bslot {p : Pkg} {n : BReg} (h : p.rcdBit p.cur.core (272 + n.toNat) = true) :
    (M.bslot n).run p = .ok ((p.core p.cur.core).bslots.get .zero n.toNat, p.enterR (p.regLine (12 + n.toNat))) := by
  have hslots : ((p.enterR (p.regLine (12 + n.toNat))).core p.cur.core).bslots = (p.core p.cur.core).bslots := by
    have hrest := congrArg Core.bslots (p.modCtx_core_rest p.cur
      (fun c => { c with ch := { c.ch with rlines := insertNat (p.regLine (12 + n.toNat)) c.ch.rlines } }) p.cur.core)
    exact hrest
  have hno : ¬ (!p.rcdBit p.cur.core (272 + n.toNat)) = true := by simp [h]
  simp only [M.bslot, M.bReserved, M.run_bind, M.run_me, M.run_get, if_neg hno, M.run_pure, M.run_regKey, M.run_enterRead, hslots]

theorem M.bslot_unreserved {p : Pkg} {n : BReg} (h : ¬ p.rcdBit p.cur.core (272 + n.toNat) = true) :
    (M.bslot n).run p = .error (.fault 8 0 0x20) := by
  have hno : (!p.rcdBit p.cur.core (272 + n.toNat)) = true := by simp [h]
  simp only [M.bslot, M.bReserved, M.run_bind, M.run_me, M.run_get, if_pos hno, M.invocation, M.fault, M.run_throw]

theorem M.checkAccs_ok {p : Pkg} {d n : Nat} (h : ∀ k < n, p.accMine (d + k)) : (M.checkAccs d n).run p = .ok ((), p) := by
  induction n with
  | zero => rfl
  | succ n ih =>
    simp only [M.checkAccs, M.run_bind, ih fun k hk => h k (Nat.lt_succ_of_lt hk), M.accReserved_ok (h n (Nat.lt_succ_self n))]

theorem M.checkAccs_bad {p : Pkg} {d n : Nat} (h : ¬ ∀ k < n, p.accMine (d + k)) :
    (M.checkAccs d n).run p = .error (.fault 8 0 0x20) := by
  induction n with
  | zero => exact absurd (fun k hk => absurd hk (Nat.not_lt_zero k)) h
  | succ n ih =>
    by_cases hpre : ∀ k < n, p.accMine (d + k)
    · have hlast : ¬ p.accMine (d + n) := fun hn => h fun k hk => by
        obtain hlt | rfl := Nat.lt_succ_iff_lt_or_eq.mp hk
        · exact hpre k hlt
        · exact hn
      simp only [M.checkAccs, M.run_bind, M.checkAccs_ok hpre, M.accReserved_bad hlast]
    · simp only [M.checkAccs, M.run_bind, ih hpre]

/-! ### The quarters -/

/-- A quarter of the product goes into accumulator `d + i`, whose line enters the read signature. -/
def Pkg.mmaQuarter (p : Pkg) (d i : Nat) (rows : List ARow) (cols : List (List (List Int × Int) × Bool)) : Pkg :=
  (p.enterR (p.regLine (8 + d + i))).putAcc (d + i) (·.mma rows cols)

theorem Pkg.spaceOf_modCore {p : Pkg} {c : Nat} {f : Core → Core} (h : (f (p.core c)).task = (p.core c).task) (d : Nat) :
    (p.modCore c f).spaceOf d = p.spaceOf d := by
  by_cases hd : d = c
  · rw [hd, Pkg.spaceOf, Pkg.modCore, Pkg.core_setCore_same, h, Pkg.spaceOf]
  · rw [Pkg.spaceOf, Pkg.modCore, Pkg.core_setCore_other _ hd, Pkg.spaceOf]

theorem Pkg.regLine_putAcc (p : Pkg) (n : Nat) (f : AccBank → AccBank) (k : Nat) : (p.putAcc n f).regLine k = p.regLine k := by
  have hspace : (p.putAcc n f).spaceOf p.cur.core = p.spaceOf p.cur.core := by
    rw [Pkg.putAcc, Pkg.spaceOf_modCore rfl, Pkg.enterW, Pkg.spaceOf_modCtx]
  rw [Pkg.regLine, Pkg.putAcc_cur, hspace, Pkg.regLine]

theorem Pkg.putAcc_ctx (p : Pkg) (n : Nat) (f : AccBank → AccBank) (y : CtxRef) :
    (p.putAcc n f).ctx y = (p.enterW (p.regLine (8 + n))).ctx y := by
  rw [Pkg.putAcc, Pkg.ctx_modCore rfl]

theorem Pkg.writable_enterW {p : Pkg} {key : Nat} (h : p.writable key) (k : Nat) : (p.enterW k).writable key := by
  rw [Pkg.writable, Pkg.enterW, show (p.modCtx p.cur _).cur = p.cur from rfl, Pkg.ctx_modCtx_same]
  exact h

theorem Pkg.accFree_putAcc {p : Pkg} {n m : Nat} (h : p.accFree n) (hne : n ≠ m) (f : AccBank → AccBank) : (p.putAcc m f).accFree n := by
  obtain ⟨hw, hs⟩ := h
  obtain ⟨c, -, haccs⟩ := p.putAcc_accs m f
  refine ⟨?_, fun k => ?_⟩
  · rw [Pkg.regLine_putAcc, Pkg.writable, Pkg.putAcc_cur, Pkg.putAcc_ctx]
    exact Pkg.writable_enterW hw _
  · rw [Pkg.putAcc_cur, haccs, Tab.get_set_other _ _ hne]
    exact hs k

theorem M.mmaQuarters_run (d : Nat) (rows : List ARow) (b : BSlot) {qs : List Nat} {i : Nat} {p : Pkg}
    (h : ∀ n, i ≤ n → n < i + qs.length → p.accFree (d + n)) : (M.mmaQuarters d rows b i qs).run p =
      .ok ((), (qs.zipIdx i).foldl (fun p e => p.mmaQuarter d e.2 rows ((List.range 64).map fun c => b.col (64 * e.1 + c))) p) := by
  induction qs generalizing i p with
  | nil => rfl
  | cons q qs ih =>
    have hfree := Pkg.accFree_enterR (h i (Nat.le_refl i) (by simp)) (p.regLine (8 + d + i))
    simp only [M.mmaQuarters, M.run_bind, M.run_me, M.run_regKey, M.run_enterRead, M.accWrite_free hfree,
      List.zipIdx_cons, List.foldl_cons]
    refine ih fun n hn hlt => Pkg.accFree_putAcc (Pkg.accFree_enterR (h n (by omega) (by simp; omega)) _) (by omega) _

theorem Pkg.mmaQuarter_cur (p : Pkg) (d i : Nat) (rows : List ARow) (cols : List (List (List Int × Int) × Bool)) :
    (p.mmaQuarter d i rows cols).cur = p.cur := by
  rw [Pkg.mmaQuarter, Pkg.putAcc_cur] <;> rfl

theorem Pkg.foldl_mmaQuarter_cur (l : List (Nat × Nat)) (p : Pkg) (d : Nat) (rows : List ARow)
    (cols : Nat × Nat → List (List (List Int × Int) × Bool)) :
    (l.foldl (fun p e => p.mmaQuarter d e.2 rows (cols e)) p).cur = p.cur := by
  induction l generalizing p with
  | nil => rfl
  | cons e l ih => rw [List.foldl_cons, ih, Pkg.mmaQuarter_cur]

/-! ### MMA and MMAX -/

theorem Pkg.tile_enterR (p : Pkg) (key : Nat) (n : TReg) : (p.enterR key).tile n = p.tile n := by
  rw [Pkg.tile, Pkg.enterR, Pkg.modCtx_tiles, Pkg.tile] <;> rfl

theorem quarters_fit {nmask : BitVec 4} {w : Nat} (h : ∀ n ∈ quarters nmask, 64 * n < w) :
    ¬ ((quarters nmask).any fun q => decide (w ≤ 64 * q)) = true := by simpa using h

theorem Pkg.counting_cur (p : Pkg) (c n : Nat) : (p.counting c n).cur = p.cur := by
  unfold Pkg.counting
  split <;> rfl

section
variable {s : State} {g : Guard} {exact : Bool} {nmask : BitVec 4} {af : BitVec 3} {d : AReg} {a : TReg} {b : BReg}

/-- The instruction of either alignment. -/
def mmaInstr (exact : Bool) (g : Guard) (nmask : BitVec 4) (af : BitVec 3) (d : AReg) (a : TReg) (b : BReg) : Instr :=
  if exact = true then .mmax g nmask af d a b else .mma g nmask af d a b

theorem exec_mmaInstr (s : State) : exec (mmaInstr exact g nmask af d a b) s = s.issue (.mma g exact nmask af d a b) := by
  cases exact <;> rfl

variable (hready : s.readyM g [] [] [] [])
include hready

theorem mma_faults {cause addr info : Nat} (hb : (M.mma exact nmask af d a b).run s.pkg = .error (.fault cause addr info)) :
    s.faults (mmaInstr exact g nmask af d a b) cause addr info := by
  refine State.faults_of_body (exec_mmaInstr s) hready rfl rfl rfl ?_
  simp only [Ins.mma, Ins.mx, M.run_bind, hb]

theorem mma_unreserved (hno : (¬ ∀ n < (quarters nmask).length, s.pkg.accMine (d.toNat + n)) ∨
    ¬ s.pkg.rcdBit s.pkg.cur.core (272 + b.toNat) = true) : s.faults (mmaInstr exact g nmask af d a b) 8 0 0x20 := by
  refine mma_faults hready ?_
  by_cases hmine : ∀ n < (quarters nmask).length, s.pkg.accMine (d.toNat + n)
  · have hslot := hno.resolve_left (not_not.mpr hmine)
    simp only [M.mma, M.run_bind, M.run_me, M.checkAccs_ok hmine, M.bslot_unreserved hslot]
  · simp only [M.mma, M.run_bind, M.run_me, M.checkAccs_bad hmine]

variable (hmine : ∀ n < (quarters nmask).length, s.pkg.accMine (d.toNat + n)) (hheld : s.pkg.rcdBit s.pkg.cur.core (272 + b.toNat) = true)
include hmine hheld

theorem mma_unloaded (hno : ((s.pkg.core s.pkg.cur.core).bslots.get .zero b.toNat).st ≠ .loaded ∨
    ∃ n ∈ quarters nmask, bCols ((s.pkg.core s.pkg.cur.core).bslots.get .zero b.toNat).fmt ≤ 64 * n) :
    s.faults (mmaInstr exact g nmask af d a b) 8 0 0x21 := by
  refine mma_faults hready ?_
  by_cases hst : ((s.pkg.core s.pkg.cur.core).bslots.get .zero b.toNat).st = .loaded
  · have hcols : ((quarters nmask).any fun q => decide (bCols ((s.pkg.core s.pkg.cur.core).bslots.get .zero b.toNat).fmt ≤ 64 * q)) =
        true := by
      simpa [hst] using hno
    simp only [M.mma, M.run_bind, M.run_me, M.checkAccs_ok hmine, M.run_bslot hheld, if_neg (not_not.mpr hst), M.run_pure,
      if_pos hcols, M.invocation, M.fault, M.run_throw]
  · simp only [M.mma, M.run_bind, M.run_me, M.checkAccs_ok hmine, M.run_bslot hheld, if_pos hst, M.invocation, M.fault, M.run_throw]

variable (hst : ((s.pkg.core s.pkg.cur.core).bslots.get .zero b.toNat).st = .loaded)
  (hcols : ∀ n ∈ quarters nmask, 64 * n < bCols ((s.pkg.core s.pkg.cur.core).bslots.get .zero b.toNat).fmt)
include hst hcols

theorem mma_format_faults (hf : effective (s.pkg.tile a) af.toNat = none) : s.faults (mmaInstr exact g nmask af d a b) 8 0 0x22 := by
  refine mma_faults hready ?_
  simp only [M.mma, M.run_bind, M.run_me, M.checkAccs_ok hmine, M.run_bslot hheld, if_neg (not_not.mpr hst), M.run_pure,
    if_neg (quarters_fit hcols), M.run_tileRead, Pkg.tile_enterR, hf, M.invocation, M.fault, M.run_throw]

theorem mma_makes {f : Nat} (hf : effective (s.pkg.tile a) af.toNat = some f)
    (hfree : ∀ n < (quarters nmask).length, s.pkg.accFree (d.toNat + n)) :
    let k := (s.pkg.core s.pkg.cur.core).bslots.get .zero b.toNat
    let rows := (List.range 16).map ((s.pkg.tile a).alignRow f exact)
    let q := (quarters nmask).zipIdx.foldl (fun p e => p.mmaQuarter d.toNat e.2 rows
      ((List.range 64).map fun c => k.col (64 * e.1 + c))) ((s.pkg.enterR (s.pkg.regLine (12 + b.toNat))).enterR (s.pkg.regLine a.toNat))
    s.makesQueued (mmaInstr exact g nmask af d a b) true [] []
      ((q.counting (macCounter (if fmtWidth f < fmtWidth k.fmt then k.fmt else f)) (131072 * (quarters nmask).length)).counting 15
        (rows.foldl (fun n r => n + r.rounds) 0)) (some b.toNat) := by
  intro k rows q hfits
  have hcur : q.cur = s.pkg.cur := Pkg.foldl_mmaQuarter_cur ..
  have hrun : (M.mmaQuarters d.toNat rows k 0 (quarters nmask)).run ((s.pkg.enterR (s.pkg.regLine (12 + b.toNat))).enterR
      (s.pkg.regLine a.toNat)) = .ok ((), q) :=
    M.mmaQuarters_run _ _ _ fun n _ hn => Pkg.accFree_enterR (Pkg.accFree_enterR (hfree n (by simpa using hn)) _) _
  have hcount (p : Pkg) (c n : Nat) (h : p.cur = s.pkg.cur) : (M.count s.pkg.cur c n).run p = .ok ((), p.counting c n) := by
    rw [← h]
    exact M.run_count p c n
  rw [exec_mmaInstr]
  refine State.issue_engine (m := true) hready rfl rfl rfl rfl ?_ ?_ hfits
  · simp only [Ins.mma, Ins.mx, M.mma, M.run_bind, M.run_me, M.checkAccs_ok hmine, M.run_bslot hheld, if_neg (not_not.mpr hst), M.run_pure,
      if_neg (quarters_fit hcols), M.run_tileRead, Pkg.tile_enterR, Pkg.regLine_enterR, hf]
    rw [hrun]
    simp only [hcount q _ _ hcur, hcount (q.counting _ _) _ _ ((Pkg.counting_cur ..).trans hcur)]
    rfl
  · exact (Pkg.counting_cur ..).trans ((Pkg.counting_cur ..).trans hcur)

end

/-- Settles O37: the checks stand in their order, and each quarter goes into its accumulator in turn. -/
theorem matrixMultiply : Obligations.MatrixMultiply := by
  unfold Obligations.MatrixMultiply
  intro s g exact nmask af d a b hready p x qs i k t mine held q cols
  refine ⟨mma_unreserved hready, fun hmine hheld => ⟨?loaded, fun hst hcols => ⟨?format, ?makes⟩⟩⟩
  case loaded => exact mma_unloaded hready hmine hheld
  case format => exact mma_format_faults hready hmine hheld hst hcols
  case makes =>
    intro f hf hfree
    exact mma_makes hready hmine hheld hst hcols hf hfree

end Sys2Proof.Machine

/-! SUPPORT. Proofs: the ends of waits (R227, R232, R258 to R264, R343, R420). -/

namespace Sys2Proof.Machine

/-! ### A waiting instruction retires -/

/-- A context whose instruction has ended with these registers: it runs on, or its next chunk waits for its reservation (R65). -/
structure Pkg.EndsAs (p q : Pkg) (x : CtxRef) (f : Regs) : Prop where
  regs : (q.ctx x).regs = f.retire .next
  bars : q.bars = p.bars
  runs : ((q.ctx x).st = .running ∧ (q.ctx x).wait = none) ∨ ((p.ctx x).nextWant ≠ none ∧ (q.ctx x).req ≠ none ∧
    (q.ctx x).st = .waiting ∧ ∃ u, (q.ctx x).wait = some (.exclusive, u))

theorem Pkg.Keeps.bars {p q : Pkg} {x : CtxRef} (h : p.Keeps q x) : q.bars = p.bars := by
  obtain ⟨_, _, _, _, rfl⟩ := h.rest
  rfl

theorem Pkg.finishIn_ends (p : Pkg) (x : CtxRef) : p.EndsAs (p.finishIn x .next) x (p.ctx x).regs := by
  obtain ⟨h, -⟩ | ⟨h, -, -⟩ | h := p.finishIn_cases x .next
  · rw [h]
    exact ⟨by rw [Pkg.stepOn_ctx]; rfl, (p.stepOn_keeps x .next).bars, .inl ⟨by rw [Pkg.stepOn_ctx]; rfl, by rw [Pkg.stepOn_ctx]; rfl⟩⟩
  · rw [h]
    refine ⟨by rw [Pkg.ask_ctx, Pkg.stepOn_ctx]; rfl, ((p.stepOn_keeps x .next).trans (.ask _ x)).bars, ?_⟩
    rw [Pkg.ask_ctx, Pkg.stepOn_ctx]
    by_cases hw : (p.ctx x).nextWant = none
    · refine .inl ⟨?_, ?_⟩ <;> simp [Ctx.ask, Ctx.stepOn, hw]
    · have hsome : (p.ctx x).nextWant.isSome = true := Option.isSome_iff_ne_none.mpr hw
      refine .inr ⟨hw, ?_, ?_, p.pt, ?_⟩
      · simp [Ctx.ask]
      · simp [Ctx.ask, Ctx.stepOn, hsome]
      · simp [Ctx.ask, Ctx.stepOn, hsome]
        rfl
  · rw [h]
    refine ⟨by rw [Pkg.ctx_modCtx_same, Pkg.stepOn_ctx]; rfl, ((p.stepOn_keeps x .next).trans (.modCtx _ x _)).bars, .inl ⟨?_, ?_⟩⟩
    · rw [Pkg.ctx_modCtx_same, Pkg.stepOn_ctx]
      rfl
    · rw [Pkg.ctx_modCtx_same, Pkg.stepOn_ctx]
      rfl

/-- What the end of a cut instruction makes of its context, and what of the others. -/
theorem Pkg.finishCut_ctx (p : Pkg) (x : CtxRef) (fl : Flow) : ∃ n,
    (p.finishCut x fl).ctx x = Ctx.cutDone { p.ctx x with regs := (p.ctx x).regs.retire fl, sqUncounted := 0 } n := by
  obtain ⟨q, hq, h⟩ := p.finishCut_eq x fl
  refine ⟨q.free, ?_⟩
  rw [h, Pkg.ctx_modCtx_same, hq.ctx, Pkg.ctx_modCtx_same, Pkg.ctx_modCtx_same]

theorem Pkg.finishCut_ctx_other (p : Pkg) {x y : CtxRef} (hy : y ≠ x) (fl : Flow) : (p.finishCut x fl).ctx y = p.ctx y := by
  obtain ⟨q, hq, h⟩ := p.finishCut_eq x fl
  rw [h, Pkg.ctx_modCtx_other _ hy, hq.ctx, Pkg.ctx_modCtx_other _ hy, Pkg.ctx_modCtx_other _ hy]

theorem Pkg.LogsTo.bars {p q : Pkg} (h : p.LogsTo q) : q.bars = p.bars := by
  obtain ⟨_, _, _, _, rfl⟩ := h
  rfl

theorem Pkg.finishCut_bars (p : Pkg) (x : CtxRef) (fl : Flow) : (p.finishCut x fl).bars = p.bars := by
  obtain ⟨q, hq, h⟩ := p.finishCut_eq x fl
  rw [h]
  exact hq.bars

theorem Pkg.finishCut_ends (p : Pkg) (x : CtxRef) : p.EndsAs (p.finishCut x .next) x (p.ctx x).regs := by
  obtain ⟨n, h⟩ := p.finishCut_ctx x .next
  exact ⟨by rw [h]; rfl, Pkg.finishCut_bars .., .inl ⟨by rw [h]; rfl, by rw [h]; rfl⟩⟩

/-! ### Timeouts (R420) -/

theorem Pkg.replayOutcome_of_none {p : Pkg} {x : CtxRef} (h : p.replayOf (p.spaceOf x.core) = none) : p.replayOutcome x = none := by
  rw [Pkg.replayOutcome, h]

/-- A chunk's log gains the outcome of its instruction. -/
def Pkg.noted (p : Pkg) (out : Nat) (v : Word) : Pkg :=
  p.modCtx p.cur fun c => { c with ch := { c.ch with outs := c.ch.outs ++ [{ out, value := v, place := c.ch.count % 256 }] } }

theorem M.outcome_run {p : Pkg} (h : p.replayOf (p.spaceOf p.cur.core) = none) (out : Nat) (v : Word) :
    (M.outcome out v).run p = .ok (v, p.noted out v) := by
  simp only [M.outcome, M.run_bind, M.run_get, Pkg.replayOutcome_of_none h, M.modChunk, M.modCtx, M.run_modify, M.run_pure]
  rfl

theorem Pkg.noted_ctx (p : Pkg) (out : Nat) (v : Word) : ∃ h, (p.noted out v).ctx p.cur = { p.ctx p.cur with ch := h } :=
  ⟨_, Pkg.ctx_modCtx_same ..⟩

/-- The package of a waiting instruction that has timed out, before it retires. -/
def Pkg.timed (p : Pkg) (x : CtxRef) (f : Regs → Regs) (v : Word) : Pkg := (({ p with cur := x } : Pkg).noted 2 v).withRegs x f

theorem Pkg.timed_ctx (p : Pkg) (x : CtxRef) (f : Regs → Regs) (v : Word) :
    ((p.timed x f v).ctx x).regs = f (p.ctx x).regs ∧ ((p.timed x f v).ctx x).nextWant = (p.ctx x).nextWant := by
  obtain ⟨h, hctx⟩ := Pkg.noted_ctx { p with cur := x } 2 v
  have hctx : (({ p with cur := x } : Pkg).noted 2 v).ctx x = { p.ctx x with ch := h } := hctx
  rw [Pkg.timed, Pkg.withRegs, Pkg.ctx_modCtx_same, hctx]
  exact ⟨rfl, rfl⟩

theorem Pkg.timeOut_eq {p : Pkg} {x : CtxRef} (h : p.replayOf (p.spaceOf x.core) = none) (cut : Bool) (f : Word → Regs → Regs) (v : Word) :
    p.timeOut x cut f v = if cut = true then (p.timed x (f v) v).finishCut x .next else (p.timed x (f v) v).finishIn x .next := by
  have houtcome := M.outcome_run (p := { p with cur := x }) h 2 v
  unfold Pkg.timeOut
  simp only [M.run_bind, houtcome, M.run_setRegs, M.run_pure]
  rfl

theorem Pkg.timeOut_ends {p : Pkg} {x : CtxRef} (h : p.replayOf (p.spaceOf x.core) = none) (cut : Bool) (f : Word → Regs → Regs) (v : Word) :
    p.EndsAs (p.timeOut x cut f v) x (f v (p.ctx x).regs) := by
  obtain ⟨hregs, hwant⟩ := p.timed_ctx x (f v) v
  rw [Pkg.timeOut_eq h, ← hregs]
  split
  · obtain ⟨hr, hb, hruns⟩ := (p.timed x (f v) v).finishCut_ends x
    exact ⟨hr, hb, hwant ▸ hruns⟩
  · obtain ⟨hr, hb, hruns⟩ := (p.timed x (f v) v).finishIn_ends x
    exact ⟨hr, hb, hwant ▸ hruns⟩

section
variable {s : State} {x : CtxRef} {k : WaitKind} {limit : Nat}

/-- A wait that has lasted its limit, outside a replay. -/
structure State.Late (s : State) (x : CtxRef) (k : WaitKind) (limit : Nat) : Prop where
  issues : (s.pkg.ctx x).mayIssue = true
  waits : (s.pkg.ctx x).st = .waiting
  free : s.pkg.replayOf (s.pkg.spaceOf x.core) = none
  since : ∃ t, (s.pkg.ctx x).wait = some (k, t) ∧ limit ≤ s.pkg.pt - t

theorem State.Late.expired (h : s.Late x k limit) : s.pkg.expired x k limit = true := by
  obtain ⟨hissue, hwait, hfree, t, ht, hlim⟩ := h
  simp [Pkg.expired, hissue, hwait, hfree, ht, hlim]

/-- The outcome of a timeout event: the wait ends, or nothing happens. -/
theorem State.Late.times (h : s.Late x k limit) {i : Instr} {open_ : Prop} {cut : Bool} {f : Word → Regs → Regs} {v : Word}
    (hends : open_ → s.does i (s.pkg.timeOut x cut f v)) (hstays : ¬ open_ → s.does i s.pkg) :
    (open_ → ∃ t, exec i s = .next t ∧ (t.pkg.ctx x).regs = (f v (s.pkg.ctx x).regs).retire .next ∧ t.pkg.bars = s.pkg.bars ∧
      (((t.pkg.ctx x).st = .running ∧ (t.pkg.ctx x).wait = none) ∨ ((s.pkg.ctx x).nextWant ≠ none ∧ (t.pkg.ctx x).req ≠ none ∧
        (t.pkg.ctx x).st = .waiting ∧ ∃ u, (t.pkg.ctx x).wait = some (.exclusive, u)))) ∧ (¬ open_ → s.does i s.pkg) := by
  refine ⟨fun hopen => ?_, hstays⟩
  obtain ⟨hregs, hbars, hruns⟩ := Pkg.timeOut_ends h.free cut f v
  exact ⟨_, hends hopen, hregs, hbars, hruns⟩

end

/-! The six events, by what each finds open. -/

section
variable {s : State} {core slot : Nat} {g : Guard} {d a c : SReg} {b : BitVec 4}

theorem joinTimeout_does (hi : s.pkg.instrAt ⟨core, slot⟩ = some (.join g d a)) (h : s.Late ⟨core, slot⟩ .join (2 ^ 24)) :
    (s.pkg.joinCode core ((s.pkg.ctx ⟨core, slot⟩).regs.sr a) = none →
      s.does (.joinTimeout core slot) (s.pkg.timeOut ⟨core, slot⟩ false (fun w r => r.setS d w) 2)) ∧
    (¬ s.pkg.joinCode core ((s.pkg.ctx ⟨core, slot⟩).regs.sr a) = none → s.does (.joinTimeout core slot) s.pkg) := by
  have hexp : s.pkg.expired ⟨core, slot⟩ .join Config.joinTimeout = true := h.expired
  refine ⟨fun hopen => State.does_of_run rfl ?_, fun hopen => State.does_of_run rfl ?_⟩
  · simp only [hexp, hi, hopen, Option.isSome_none, Bool.false_eq_true, ↓reduceIte]
  · simp only [hexp, hi, Option.isSome_iff_ne_none, ne_eq, hopen, not_false_eq_true, ↓reduceIte]

theorem msgrecvTimeout_does (hi : s.pkg.instrAt ⟨core, slot⟩ = some (.msgrecv g d a)) (h : s.Late ⟨core, slot⟩ .msgrecv (2 ^ 18)) :
    ((s.pkg.ctx ⟨core, slot⟩).inbox = [] →
      s.does (.msgrecvTimeout core slot) (s.pkg.timeOut ⟨core, slot⟩ false (fun w r => r.setS a w) (BitVec.allOnes 64))) ∧
    (¬ (s.pkg.ctx ⟨core, slot⟩).inbox = [] → s.does (.msgrecvTimeout core slot) s.pkg) := by
  have hexp : s.pkg.expired ⟨core, slot⟩ .msgrecv Config.msgTimeout = true := h.expired
  refine ⟨fun hopen => State.does_of_run rfl ?_, fun hopen => State.does_of_run rfl ?_⟩
  · simp only [hexp, hi, hopen, List.isEmpty_nil, Bool.not_true, Bool.false_eq_true, ↓reduceIte]
  · have hsome : (!(s.pkg.ctx ⟨core, slot⟩).inbox.isEmpty) = true := by simpa using hopen
    simp only [hexp, hi, hsome, ↓reduceIte]

theorem fenceETimeout_does {k : BitVec 4} {w : BitVec 8} (hi : s.pkg.instrAt ⟨core, slot⟩ = some (.fenceE g d w k))
    (h : s.Late ⟨core, slot⟩ .fenceE (2 ^ 26)) :
    (s.pkg.fenceOpen ⟨core, slot⟩ w k Op.localOpen = true →
      s.does (.fenceETimeout core slot) (s.pkg.timeOut ⟨core, slot⟩ false (fun w r => r.setS d w) 1)) ∧
    (¬ s.pkg.fenceOpen ⟨core, slot⟩ w k Op.localOpen = true → s.does (.fenceETimeout core slot) s.pkg) := by
  have hexp : s.pkg.expired ⟨core, slot⟩ .fenceE Config.fenceETimeout = true := h.expired
  refine ⟨fun hopen => State.does_of_run rfl ?_, fun hopen => State.does_of_run rfl ?_⟩
  · simp only [hexp, hi, hopen, Bool.not_true, Bool.false_eq_true, ↓reduceIte]
  · simp only [hexp, hi, eq_false_of_ne_true hopen, Bool.not_false, ↓reduceIte]

theorem fenceXTimeout_does {w : BitVec 8} (hi : s.pkg.instrAt ⟨core, slot⟩ = some (.fenceX g d w))
    (h : s.Late ⟨core, slot⟩ .fenceX (2 ^ 30)) :
    (s.pkg.fenceOpen ⟨core, slot⟩ w 4 (fun _ => true) = true →
      s.does (.fenceXTimeout core slot) (s.pkg.timeOut ⟨core, slot⟩ false (fun w r => r.setS d w) 1)) ∧
    (¬ s.pkg.fenceOpen ⟨core, slot⟩ w 4 (fun _ => true) = true → s.does (.fenceXTimeout core slot) s.pkg) := by
  have hexp : s.pkg.expired ⟨core, slot⟩ .fenceX Config.fenceXTimeout = true := h.expired
  refine ⟨fun hopen => State.does_of_run rfl ?_, fun hopen => State.does_of_run rfl ?_⟩
  · simp only [hexp, hi, hopen, Bool.not_true, Bool.false_eq_true, ↓reduceIte]
  · simp only [hexp, hi, eq_false_of_ne_true hopen, Bool.not_false, ↓reduceIte]

theorem flagSet_iff {p : Pkg} {bg core : Nat} : p.flagSet bg core = true ↔ ∀ y, Tab.find? p.bars bg = some y → core ∈ y.flags := by
  rw [Pkg.flagSet]
  cases Tab.find? p.bars bg <;> simp

theorem phaseOver_iff {p : Pkg} {bg : Nat} {v : Word} :
    ¬ p.phaseOver bg v = true ↔ ∀ y, Tab.find? p.bars bg = some y → y.phase = v.getLsbD 0 := by
  rw [Pkg.phaseOver]
  cases Tab.find? p.bars bg <;> simp

theorem bararrTimeout_does (hi : s.pkg.instrAt ⟨core, slot⟩ = some (.bararr g d b)) (h : s.Late ⟨core, slot⟩ .bararr (2 ^ 24)) :
    ((∀ y, Tab.find? s.pkg.bars b.toNat = some y → core ∈ y.flags) →
      s.does (.bararrTimeout core slot) (s.pkg.timeOut ⟨core, slot⟩ true (fun w r => r.setS d w) (BitVec.allOnes 64))) ∧
    (¬ (∀ y, Tab.find? s.pkg.bars b.toNat = some y → core ∈ y.flags) → s.does (.bararrTimeout core slot) s.pkg) := by
  have hexp : s.pkg.expired ⟨core, slot⟩ .bararr Config.barTimeout = true := h.expired
  rw [← flagSet_iff]
  refine ⟨fun hopen => State.does_of_run rfl ?_, fun hopen => State.does_of_run rfl ?_⟩
  · simp only [hexp, hi, hopen, Bool.not_true, Bool.false_eq_true, ↓reduceIte]
  · simp only [hexp, hi, eq_false_of_ne_true hopen, Bool.not_false, ↓reduceIte]

theorem barwaitTimeout_does (hi : s.pkg.instrAt ⟨core, slot⟩ = some (.barwait g d a b)) (h : s.Late ⟨core, slot⟩ .barwait (2 ^ 24)) :
    ((∀ y, Tab.find? s.pkg.bars b.toNat = some y → y.phase = ((s.pkg.ctx ⟨core, slot⟩).regs.sr a).getLsbD 0) →
      s.does (.barwaitTimeout core slot) (s.pkg.timeOut ⟨core, slot⟩ false (fun w r => r.setS d w) 1)) ∧
    (¬ (∀ y, Tab.find? s.pkg.bars b.toNat = some y → y.phase = ((s.pkg.ctx ⟨core, slot⟩).regs.sr a).getLsbD 0) →
      s.does (.barwaitTimeout core slot) s.pkg) := by
  have hexp : s.pkg.expired ⟨core, slot⟩ .barwait Config.barTimeout = true := h.expired
  rw [← phaseOver_iff, not_not]
  refine ⟨fun hopen => State.does_of_run rfl ?_, fun hopen => State.does_of_run rfl ?_⟩
  · simp only [hexp, hi, hopen, Bool.false_eq_true, ↓reduceIte]
  · simp only [hexp, hi, hopen, ↓reduceIte]

end

/-! ### Memory waits issue again (R264) -/

section
variable {s : State} {core slot : Nat} {g : Guard} {wide : Bool} {d : SReg} {m : MemOp} {t : Nat}

/-- The state in which the waiting context issues. -/
def State.at_ (s : State) (x : CtxRef) : State := { s with pkg := { s.pkg with cur := x } }

theorem waitRecheck_issues (hi : s.pkg.instrAt ⟨core, slot⟩ = some (.waitz g wide d m)) (hst : (s.pkg.ctx ⟨core, slot⟩).st = .waiting)
    (hw : (s.pkg.ctx ⟨core, slot⟩).wait = some (.waitz, t)) :
    exec (.waitRecheck core slot) s = exec (.waitz g wide d m) (s.at_ ⟨core, slot⟩) := by
  have hwait : (s.pkg.ctx ⟨core, slot⟩).inMemWait = true := by simp [Ctx.inMemWait, hst, hw]
  have hdoes : s.does (.waitRecheck core slot) (({ s.pkg with cur := ⟨core, slot⟩ } : Pkg).issue (waitzIns g wide d m false)) := by
    refine State.does_of_run rfl ?_
    simp only [hwait, ↓reduceIte, Pkg.waitAgain, hi]
  exact hdoes

theorem waitTimeout_issues (hi : s.pkg.instrAt ⟨core, slot⟩ = some (.waitz g wide d m)) (hlate : s.Late ⟨core, slot⟩ .waitz (2 ^ 24)) :
    exec (.waitTimeout core slot) s = (s.at_ ⟨core, slot⟩).issue (waitzIns g wide d m true) := by
  have hexp : s.pkg.expired ⟨core, slot⟩ .waitz Config.waitTimeout = true := hlate.expired
  have hdoes : s.does (.waitTimeout core slot) (({ s.pkg with cur := ⟨core, slot⟩ } : Pkg).issue (waitzIns g wide d m true)) := by
    refine State.does_of_run rfl ?_
    simp only [hexp, Bool.true_or, ↓reduceIte, Pkg.waitAgain, hi]
  exact hdoes

/-- Between these packages the context's chunk has changed, and no register or space. -/
structure Pkg.Notes (p q : Pkg) (x : CtxRef) : Prop where
  cur : q.cur = p.cur
  regs : (q.ctx x).regs = (p.ctx x).regs
  replay : q.replayOf (q.spaceOf x.core) = p.replayOf (p.spaceOf x.core)

theorem Pkg.Notes.refl (p : Pkg) (x : CtxRef) : p.Notes p x := ⟨rfl, rfl, rfl⟩

theorem Pkg.Notes.trans {p q r : Pkg} {x : CtxRef} (h : p.Notes q x) (h' : q.Notes r x) : p.Notes r x :=
  ⟨h'.cur.trans h.cur, h'.regs.trans h.regs, h'.replay.trans h.replay⟩

theorem Pkg.Notes.modChunk (p : Pkg) (x : CtxRef) (f : Chunk → Chunk) : p.Notes (p.modCtx x fun c => { c with ch := f c.ch }) x :=
  ⟨rfl, by rw [Pkg.ctx_modCtx_same], by rw [Pkg.spaceOf_modCtx]; rfl⟩

theorem M.watch_notes (x : CtxRef) (va n bit : Nat) (p : Pkg) : ∃ q, (M.watch x va n bit).run p = .ok ((), q) ∧ p.Notes q x := by
  unfold M.watch
  simp only [M.run_bind, M.run_get]
  split
  · exact ⟨p, rfl, .refl p x⟩
  · generalize List.filterMap _ _ = hits
    by_cases hnone : hits.isEmpty = true
    · exact ⟨p, by rw [if_pos hnone, M.run_pure], .refl p x⟩
    · exact ⟨_, by rw [if_neg hnone]; rfl, .modChunk p x fun h => { h with hits := h.hits ++ hits }⟩

theorem M.count_notes (x : CtxRef) (ix n : Nat) (p : Pkg) : ∃ q, (M.count x ix n).run p = .ok ((), q) ∧ p.Notes q x := by
  unfold M.count
  split
  · exact ⟨p, rfl, .refl p x⟩
  · exact ⟨_, rfl, .modChunk p x fun h => { h with adv := h.adv.put ix (h.adv.get 0 ix + n) }⟩

/-- An outcome outside a replay, written to a register. -/
theorem M.outcome_setS {p : Pkg} (h : p.replayOf (p.spaceOf p.cur.core) = none) (out : Nat) (d : SReg) (v : Word) : ∃ q,
    (do M.setS d (← M.outcome out v); return Flow.next : M Flow).run p = .ok (.next, q) ∧
      (q.ctx p.cur).regs = (p.ctx p.cur).regs.setS d v := by
  obtain ⟨h', hctx⟩ := p.noted_ctx out v
  refine ⟨(p.noted out v).withRegs p.cur (·.setS d v), ?_, ?_⟩
  · simp only [M.run_bind, M.outcome_run h, M.run_setS, M.run_pure]
    rfl
  · rw [Pkg.withRegs, Pkg.ctx_modCtx_same, hctx]

theorem M.waitDone_run {p : Pkg} (h : p.replayOf (p.spaceOf p.cur.core) = none) (d : SReg) (va n : Nat) (v : Word) : ∃ q,
    (M.waitDone d va n v).run p = .ok (.next, q) ∧ (q.ctx p.cur).regs = (p.ctx p.cur).regs.setS d v := by
  obtain ⟨q1, h1, hn1⟩ := M.watch_notes p.cur va n 5 p
  obtain ⟨q2, h2, hn2⟩ := M.count_notes p.cur cMemBytes n q1
  obtain ⟨hcur, hregs, hreplay⟩ := hn1.trans hn2
  have hfree : q2.replayOf (q2.spaceOf q2.cur.core) = none := by rw [hcur, hreplay, h]
  obtain ⟨q, hq, hset⟩ := M.outcome_setS hfree 1 d v
  refine ⟨q, ?_, ?_⟩
  · simp only [M.run_bind] at hq
    simp only [M.waitDone, M.run_bind, M.run_me, h1, h2, hq]
  · rw [← hregs, ← hcur]
    exact hset

section
variable {m : MemOp} {wide late : Bool} {p q : Pkg} {va v : Nat} {test : Nat → Bool}
  (hword : (M.waitWord m (if wide = true then 8 else 4)).run p = .ok ((va, v), q)) (hfree : q.replayOf (q.spaceOf q.cur.core) = none)
include hword hfree

/-- A wait whose word satisfies it, or whose limit has passed, writes the word. -/
theorem M.waitLoop_ends (k : WaitKind) (d : SReg) (shown : Nat → Word) (hend : test v = true ∨ late = true) : ∃ q',
    (M.waitLoop k d m wide late test shown).run p = .ok (.next, q') ∧ (q'.ctx q.cur).regs = (q.ctx q.cur).regs.setS d (shown v) := by
  by_cases ht : test v = true
  · obtain ⟨q', hq, hset⟩ := M.waitDone_run hfree d va (if wide = true then 8 else 4) (shown v)
    refine ⟨q', ?_, hset⟩
    simp only [M.waitLoop, M.run_bind, hword, M.run_get, Pkg.replayOutcome_of_none hfree, ht, ↓reduceIte, hq]
  · obtain ⟨q', hq, hset⟩ := M.outcome_setS hfree 2 d (shown v)
    refine ⟨q', ?_, hset⟩
    simp only [M.run_bind] at hq
    simp only [M.waitLoop, M.run_bind, hword, M.run_get, Pkg.replayOutcome_of_none hfree, if_neg ht, if_pos (hend.resolve_left ht), hq]

end

/-- A cut instruction that completes: its registers retire, and the context runs on. -/
theorem State.issue_cut_runs {s : State} {i : Ins} {q : Pkg} (h : s.pkg.readyCut i.guard i.srcs i.dsts i.vsrcs i.vdsts = true)
    (hp : i.priv s.pkg = true) (hc : i.cut = true) (ha : i.after = id) (hn : i.engine = none) (hb : i.body.run s.pkg = .ok (.next, q)) :
    ∃ u, s.issue i = .next u ∧ (u.pkg.ctx s.pkg.cur).regs = (q.ctx s.pkg.cur).regs.retire .next ∧ (u.pkg.ctx s.pkg.cur).st = .running := by
  obtain ⟨n, hctx⟩ := q.finishCut_ctx s.pkg.cur .next
  refine ⟨_, State.issue_cut h hp hc hn hb, ?_, ?_⟩
  · rw [ha]
    exact congrArg Ctx.regs hctx
  · rw [ha]
    exact congrArg Ctx.st hctx

end

theorem signWord_eq (wide : Bool) (v : Nat) :
    signWord wide v = if wide = true then BitVec.ofNat 64 v else (BitVec.ofNat 32 v).signExtend 64 := by
  rw [signWord, signExt_eq_toInt, toWord]
  cases wide with
  | true => exact BitVec.ofInt_toInt
  | false => rfl

theorem waitRecheck_completes {s : State} {core slot : Nat} {g : Guard} {wide : Bool} {d : SReg} {m : MemOp} {va : Nat} {q : Pkg}
    (hissues : exec (.waitRecheck core slot) s = exec (.waitz g wide d m) (s.at_ ⟨core, slot⟩))
    (hready : (s.at_ ⟨core, slot⟩).readyCut g (memSrcs m) [d.toNat])
    (hword : (M.waitWord m (if wide = true then 8 else 4)).run (s.at_ ⟨core, slot⟩).pkg = .ok ((va, 0), q)) (hcur : q.cur = ⟨core, slot⟩)
    (hfree : q.replayOf (q.spaceOf core) = none) : ∃ u, exec (.waitRecheck core slot) s = .next u ∧
      (u.pkg.ctx ⟨core, slot⟩).regs = ((q.ctx ⟨core, slot⟩).regs.setS d 0).retire .next ∧ (u.pkg.ctx ⟨core, slot⟩).st = .running := by
  have hfree' : q.replayOf (q.spaceOf q.cur.core) = none := by rw [hcur, hfree]
  obtain ⟨q', hbody, hset⟩ := M.waitLoop_ends (late := false) (test := fun v => v == 0 || !(signWord wide v).msb) hword hfree' .waitz d
    (signWord wide) (.inl rfl)
  obtain ⟨u, hu, hregs, hst⟩ := State.issue_cut_runs (i := waitzIns g wide d m false) hready rfl rfl rfl rfl hbody
  have hzero : signWord wide 0 = 0 := by
    rw [signWord_eq]
    cases wide <;> rfl
  rw [hcur, hzero] at hset
  refine ⟨u, hissues.trans hu, hregs.trans ?_, hst⟩
  exact congrArg (Regs.retire · .next) hset

theorem waitTimeout_completes {s : State} {core slot : Nat} {g : Guard} {wide : Bool} {d : SReg} {m : MemOp} {va v : Nat} {q : Pkg}
    (hissues : exec (.waitTimeout core slot) s = (s.at_ ⟨core, slot⟩).issue (waitzIns g wide d m true))
    (hready : (s.at_ ⟨core, slot⟩).readyCut g (memSrcs m) [d.toNat])
    (hword : (M.waitWord m (if wide = true then 8 else 4)).run (s.at_ ⟨core, slot⟩).pkg = .ok ((va, v), q)) (hcur : q.cur = ⟨core, slot⟩)
    (hfree : q.replayOf (q.spaceOf core) = none) : ∃ u, exec (.waitTimeout core slot) s = .next u ∧
      (u.pkg.ctx ⟨core, slot⟩).regs = ((q.ctx ⟨core, slot⟩).regs.setS d
        (if wide = true then BitVec.ofNat 64 v else (BitVec.ofNat 32 v).signExtend 64)).retire .next := by
  have hfree' : q.replayOf (q.spaceOf q.cur.core) = none := by rw [hcur, hfree]
  obtain ⟨q', hbody, hset⟩ := M.waitLoop_ends (late := true) (test := fun v => v == 0 || !(signWord wide v).msb) hword hfree' .waitz d
    (signWord wide) (.inr rfl)
  obtain ⟨u, hu, hregs, -⟩ := State.issue_cut_runs (i := waitzIns g wide d m true) hready rfl rfl rfl rfl hbody
  rw [hcur, signWord_eq] at hset
  exact ⟨u, hissues.trans hu, hregs.trans (congrArg (Regs.retire · .next) hset)⟩

/-! ### The end of a debug step (R343) -/

theorem stepWord_eq (reason n : Nat) : stepWord reason n = BitVec.ofNat 64 (reason * 2 ^ 62 + n) := by
  rw [stepWord, Nat.shiftLeft_eq]

theorem Pkg.countSquashes_ctx (p : Pkg) (x y : CtxRef) :
    (p.countSquashes x).ctx y = (p.modCtx x fun c => { c with sqUncounted := 0 }).ctx y :=
  (Pkg.advance_logs ..).ctx y

section
variable {p : Pkg} {x : CtxRef} {k : Stepping} (hk : (p.ctx x).stepping = some k) (hne : k.issuer ≠ x) (hst : (p.ctx x).st ≠ .free)
  (hstop : (p.ctx x).stop.isSome = true) (hwait : (p.ctx k.issuer).st = .waiting) (hstep : ∃ t, (p.ctx k.issuer).wait = some (.step, t))
include hk hne hst hstop hwait hstep

/-- The target of a step once it is reported. -/
def Ctx.stepped (c : Ctx) : Ctx :=
  { c with stepping := none, wait := none, held := none, st := if c.st = .free then .free else if c.stop.isSome then .halted else .running }

omit hk hne hst hstop hwait hstep in
theorem Ctx.stepped_eq : (fun c : Ctx => { c with
    stepping := none, wait := none, held := none,
    st := if c.st = .free then .free else if c.stop.isSome then .halted else .running }) = Ctx.stepped := rfl

theorem Pkg.reportStep_eq (reason : Nat) : p.reportStep x reason =
    (((p.modCtx x Ctx.stepped).countSquashes x).modCtx k.issuer fun i => { i with regs := i.regs.setSn k.reg (stepWord reason
      (((p.ctx x).req.getD (p.ctx x).ch).start.retired - k.from_).toNat) }).finishCut k.issuer .next := by
  have htarget : ((p.modCtx x Ctx.stepped).ctx x).st = .halted := by
    rw [Pkg.ctx_modCtx_same]
    exact (if_neg hst).trans (if_pos hstop)
  obtain ⟨t, ht⟩ := hstep
  have hissuer : ((p.modCtx x Ctx.stepped).countSquashes x).ctx k.issuer = p.ctx k.issuer := by
    rw [Pkg.countSquashes_ctx, Pkg.ctx_modCtx_other _ hne, Pkg.ctx_modCtx_other _ hne]
  have hgo : (((p.modCtx x Ctx.stepped).countSquashes x).ctx k.issuer).st = .waiting ∧
      (((p.modCtx x Ctx.stepped).countSquashes x).ctx k.issuer).wait.map Prod.fst = some .step := by
    rw [hissuer, ht]
    exact ⟨hwait, rfl⟩
  unfold Pkg.reportStep
  simp only [hk]
  change (if _ then _ else _) = _
  rw [Ctx.stepped_eq, if_pos htarget, if_pos hgo]

/-- A step's report halts the target, and completes the issuer's DBGSTEP with the count. -/
theorem Pkg.reportStep_ends (reason : Nat) : ((p.reportStep x reason).ctx x).st = .halted ∧ ((p.reportStep x reason).ctx x).stepping = none ∧
    ((p.reportStep x reason).ctx k.issuer).regs = ((p.ctx k.issuer).regs.setSn k.reg (BitVec.ofNat 64 (reason * 2 ^ 62 +
      ((((p.ctx x).req.getD (p.ctx x).ch).start.retired - k.from_).toNat)))).retire .next ∧
    ((p.reportStep x reason).ctx k.issuer).st = .running := by
  have hnx : x ≠ k.issuer := hne.symm
  have htarget : (p.ctx x).stepped.st = .halted := (if_neg hst).trans (if_pos hstop)
  rw [Pkg.reportStep_eq hk hne hst hstop hwait hstep, Pkg.finishCut_ctx_other _ hnx, Pkg.ctx_modCtx_other _ hnx, Pkg.countSquashes_ctx,
    Pkg.ctx_modCtx_same, Pkg.ctx_modCtx_same]
  obtain ⟨n, hissuer⟩ := Pkg.finishCut_ctx (((p.modCtx x Ctx.stepped).countSquashes x).modCtx k.issuer fun i =>
    { i with regs := i.regs.setSn k.reg (stepWord reason (((p.ctx x).req.getD (p.ctx x).ch).start.retired - k.from_).toNat) })
    k.issuer .next
  rw [Pkg.ctx_modCtx_same, Pkg.countSquashes_ctx, Pkg.ctx_modCtx_other _ hne, Pkg.ctx_modCtx_other _ hne] at hissuer
  rw [hissuer, ← stepWord_eq]
  exact ⟨htarget, rfl, rfl, rfl⟩

end

theorem stepEnd_reports {s : State} {core slot : Nat} {k : Stepping} (hk : (s.pkg.ctx ⟨core, slot⟩).stepping = some k)
    (hdone : (s.pkg.ctx ⟨core, slot⟩).stepDone = true)
    (hallow : s.pkg.replayAllows (s.pkg.spaceOf k.issuer.core) 2 k.issuer.gcid (s.pkg.ctx k.issuer).chunkseq.toNat 0 = true) :
    s.does (.stepEnd core slot) (s.pkg.reportStep ⟨core, slot⟩ (k.reason.getD 0)) := by
  refine State.does_of_run rfl ?_
  simp only [hk, hdone, hallow, Bool.and_self, ↓reduceIte]

theorem dbgstepTimeout_leaves {s : State} {x y : CtxRef} (hexp : s.pkg.expired y .step (2 ^ 24) = true)
    (hby : s.pkg.steppedBy y = some x) : s.does (.dbgstepTimeout y.core y.slot) (s.pkg.breakStep x 3) := by
  have hexp : s.pkg.expired ⟨y.core, y.slot⟩ .step Config.stepTimeout = true := hexp
  have hby : s.pkg.steppedBy ⟨y.core, y.slot⟩ = some x := hby
  refine State.does_of_run rfl ?_
  simp only [hexp, ↓reduceIte, Pkg.leaveStep, hby]

/-- What a squash of a whole context leaves of it for a step's report. -/
structure Ctx.Restarted (c c' : Ctx) : Prop where
  stepping : c'.stepping = c.stepping.map fun s => { s with reason := none }
  stop : c'.stop = c.stop
  st : c.st ≠ .free → c'.st ≠ .free
  start : (c'.req.getD c'.ch).start = (c.req.getD c.ch).start

theorem CState.waitingOr_ne_free (c : Prop) [Decidable c] : (if c then CState.waiting else CState.running) ≠ .free := by
  split <;> exact nofun

theorem Pkg.squash_restarts (p : Pkg) (x : CtxRef) : (p.ctx x).Restarted ((p.squash x).ctx x) := by
  have hshape : ∃ (k : Core) (c : Ctx) (q : List (CtxRef × Level)) (keys : List Nat),
      p.squash x = Pkg.shed { p.setCore x.core k with exclQ := q } keys ∧ k.ctxs = ((p.core x.core).setCtx x.slot c).ctxs ∧
      (p.ctx x).Restarted c := by
    unfold Pkg.squash Pkg.squashFrom
    refine ⟨_, _, _, _, rfl, (Core.ended_shape ..).1, rfl, rfl, fun hst => ?_, rfl⟩
    dsimp only
    split
    · contradiction
    · exact nofun
    all_goals exact CState.waitingOr_ne_free _
  obtain ⟨k, c, q, keys, he, hk, hc⟩ := hshape
  have hcores : ({ p.setCore x.core k with exclQ := q } : Pkg).cores = (p.setCore x.core k).cores := rfl
  rwa [he, Pkg.shed_ctx, Pkg.ctx_of_cores hcores, Pkg.ctx_eq (p.setCore x.core k) x, Pkg.core_setCore_same, Core.ctx_of_ctxs hk, Core.ctx_setCtx_same]

/-- A step that its issuer gives up: the target's open chunks are discarded, and the step is reported. -/
theorem Pkg.breakStep_ends {p : Pkg} {x : CtxRef} {k : Stepping} (hk : (p.ctx x).stepping = some k) (hne : k.issuer ≠ x)
    (hst : (p.ctx x).st ≠ .free) (hstop : (p.ctx x).stop.isSome = true) (hwait : (p.ctx k.issuer).st = .waiting)
    (hstep : ∃ t, (p.ctx k.issuer).wait = some (.step, t)) (reason : Nat) :
    ((p.breakStep x reason).ctx x).st = .halted ∧ ((p.breakStep x reason).ctx k.issuer).regs =
      ((p.ctx k.issuer).regs.setSn k.reg (BitVec.ofNat 64 (reason * 2 ^ 62 +
        ((((p.ctx x).req.getD (p.ctx x).ch).start.retired - k.from_).toNat)))).retire .next := by
  have hsome : ¬ (p.ctx x).stepping.isNone = true := by simp [hk]
  rw [Pkg.breakStep, if_neg hsome]
  split
  · have hother : (p.squash x).ctx k.issuer = p.ctx k.issuer := Pkg.squashFrom_ctx_other p hne true true
    obtain ⟨hstepping, hstop', hst', hstart⟩ := p.squash_restarts x
    rw [hk] at hstepping
    rw [← hother] at hwait hstep
    obtain ⟨hx, -, hregs, -⟩ := Pkg.reportStep_ends (k := { k with reason := none }) hstepping hne (hst' hst) (hstop' ▸ hstop) hwait
      hstep reason
    rw [hstart] at hregs
    exact ⟨hx, hregs.trans (by rw [← hother])⟩
  · obtain ⟨hx, -, hregs, -⟩ := Pkg.reportStep_ends hk hne hst hstop hwait hstep reason
    exact ⟨hx, hregs⟩

/-- Settles O29: a wait's end retires the waiting instruction with its outcome, and a step's report completes its DBGSTEP. -/
theorem waitEnds : Obligations.WaitEnds := by
  unfold Obligations.WaitEnds
  refine ⟨?timeouts, ?memory, ?steps⟩
  case timeouts =>
    intro s core slot x p r late ends times
    have hlate {k : WaitKind} {limit : Nat} (h : late k limit) : s.Late x k limit := by
      obtain ⟨hissue, hwait, hfree, hsince⟩ := h
      exact ⟨hissue, hwait, hfree, hsince⟩
    refine ⟨fun g d a hi h => ?_, fun g d a hi h => ?_, fun g d c k hi h => ?_, fun g d c hi h => ?_, fun g d b hi h => ?_,
      fun g d a b hi h => ?_⟩
    · obtain ⟨hends, hstays⟩ := joinTimeout_does hi (hlate h)
      exact (hlate h).times hends hstays
    · obtain ⟨hends, hstays⟩ := msgrecvTimeout_does hi (hlate h)
      exact (hlate h).times hends hstays
    · obtain ⟨hends, hstays⟩ := fenceETimeout_does hi (hlate h)
      exact (hlate h).times hends hstays
    · obtain ⟨hends, hstays⟩ := fenceXTimeout_does hi (hlate h)
      exact (hlate h).times hends hstays
    · obtain ⟨hends, hstays⟩ := bararrTimeout_does hi (hlate h)
      exact (hlate h).times hends hstays
    · obtain ⟨hends, hstays⟩ := barwaitTimeout_does hi (hlate h)
      exact (hlate h).times hends hstays
  case memory =>
    intro s core slot g wide d m t x here c hi hst hw
    have hissues := waitRecheck_issues hi hst hw
    refine ⟨hissues, fun hready hfree va v q hword hcur hq hv => ?_, fun hissue hfree hlim hready va v q hword hlt hcur hq => ?_⟩
    · subst hv
      exact waitRecheck_completes hissues hready hword hcur hq
    · exact waitTimeout_completes (waitTimeout_issues hi ⟨hissue, hst, hfree, t, hw, hlim⟩) hready hword hcur hq
  case steps =>
    intro s core slot k x p c i word hk hne hst hstop hwait hstep
    refine ⟨fun hdone hallow => ?_, fun hexp hby => ?_⟩
    · obtain ⟨hx, hnone, hregs, hruns⟩ := Pkg.reportStep_ends hk hne hst hstop hwait hstep (k.reason.getD 0)
      exact ⟨_, stepEnd_reports hk hdone hallow, hx, hnone, hregs, hruns⟩
    · obtain ⟨hx, hregs⟩ := Pkg.breakStep_ends hk hne hst hstop hwait hstep 3
      exact ⟨_, dbgstepTimeout_leaves hexp hby, hx, hregs⟩

end Sys2Proof.Machine

/-! SUPPORT. Proofs: grants, commits and their end, reservations, and the engines' queues (R61, R63, R65, R66). -/

namespace Sys2Proof.Machine

/-! ### A commit's broadcast strikes the committer's next chunk (R61, R63) -/

/-- A next chunk that has been squashed, the chunk before it standing. -/
structure Ctx.Rewound (c c' : Ctx) : Prop where
  req : c'.req = c.req
  inflight : c'.inflight = c.inflight
  chunkseq : c'.chunkseq = c.chunkseq
  excl : c'.excl = c.excl
  exclNo : c'.exclNo = c.exclNo
  st : c.st ≠ .free → c'.st ≠ .free
  count : c'.ch.count = 0
  rlines : c'.ch.rlines = []
  wlines : c'.ch.wlines = []
  pc : c'.regs.pc = c.ch.start.pc

theorem Pkg.squashFrom_rewinds (p : Pkg) (x : CtxRef) (h : (p.ctx x).exclRuns = false) (counted : Bool) :
    (p.ctx x).Rewound ((p.squashFrom x false counted).ctx x) := by
  have hshape : ∃ (k : Core) (c : Ctx) (q : List (CtxRef × Level)) (keys : List Nat),
      p.squashFrom x false counted = Pkg.shed { p.setCore x.core k with exclQ := q } keys ∧
      k.ctxs = ((p.core x.core).setCtx x.slot c).ctxs ∧ (p.ctx x).Rewound c := by
    unfold Pkg.squashFrom
    refine ⟨_, _, _, _, rfl, (Core.ended_shape ..).1, rfl, rfl, rfl, ?_, rfl, fun hst => ?_, rfl, rfl, rfl, rfl⟩
    · dsimp only
      rw [h]
      rfl
    · dsimp only
      split
      · contradiction
      · exact nofun
      all_goals exact CState.waitingOr_ne_free _
  obtain ⟨k, c, q, keys, he, hk, hc⟩ := hshape
  have hcores : ({ p.setCore x.core k with exclQ := q } : Pkg).cores = (p.setCore x.core k).cores := rfl
  rwa [he, Pkg.shed_ctx, Pkg.ctx_of_cores hcores, Pkg.ctx_eq (p.setCore x.core k) x, Pkg.core_setCore_same, Core.ctx_of_ctxs hk,
    Core.ctx_setCtx_same]

theorem sigBank_nil (j : Nat) : sigBank [] j = 0 := rfl

theorem intersects_nil (w : List Nat) : intersects [] w = false := by
  simp [intersects, sigBank_nil]

theorem Chunk.meets_of_nil {h : Chunk} (hr : h.rlines = []) (hw : h.wlines = []) (w : List Nat) : h.meets w = false := by
  rw [Chunk.meets, hr, hw, intersects_nil, Bool.or_self]

/-- One context's part of a commit's broadcast. -/
def Pkg.struckBy (l : Level) (w : List Nat) (x : CtxRef) (p : Pkg) (y : CtxRef) : Pkg :=
  if (p.ctx y).live && inDomain l x.core y.core then p.strike y (some y == some x) (·.meets w) else p

theorem Pkg.broadcast_eq (p : Pkg) (l : Level) (w : List Nat) (x : CtxRef) :
    p.broadcast l x.core w (some x) = p.allCtxs.foldl (Pkg.struckBy l w x) p := rfl

theorem inDomain_self (l : Level) (c : Nat) : inDomain l c c = true := by
  cases l <;> simp [inDomain]

section
variable {l : Level} {w : List Nat} {x : CtxRef}

theorem Pkg.struckBy_keeps {p : Pkg} (h : (p.ctx x).exclRuns = true ∨ (p.ctx x).ch.meets w = false) (y : CtxRef) :
    (Pkg.struckBy l w x p y).ctx x = p.ctx x := by
  rw [Pkg.struckBy]
  split
  · by_cases hy : y = x
    · subst hy
      rw [Pkg.strike]
      obtain hruns | hmiss := h
      · rw [if_pos hruns]
      · simp [hmiss]
    · exact Pkg.strike_ctx_other p (Ne.symm hy) ..
  · rfl

theorem Pkg.foldl_struckBy_keeps {p : Pkg} (h : (p.ctx x).exclRuns = true ∨ (p.ctx x).ch.meets w = false) (ys : List CtxRef) :
    (ys.foldl (Pkg.struckBy l w x) p).ctx x = p.ctx x := by
  induction ys generalizing p with
  | nil => rfl
  | cons y ys ih =>
    have hstep := Pkg.struckBy_keeps (l := l) h y
    rw [List.foldl_cons, ih (hstep.symm ▸ h), hstep]

theorem Pkg.foldl_struckBy_rewinds {p : Pkg} (hlive : (p.ctx x).live = true) (hruns : (p.ctx x).exclRuns = false)
    (hmeets : (p.ctx x).ch.meets w = true) {ys : List CtxRef} (hx : x ∈ ys) :
    (p.ctx x).Rewound ((ys.foldl (Pkg.struckBy l w x) p).ctx x) := by
  induction ys generalizing p with
  | nil => cases hx
  | cons y ys ih =>
    rw [List.foldl_cons]
    by_cases hy : y = x
    · have hstrike : Pkg.struckBy l w x p y = p.squashFrom x false true := by
        subst hy
        simp [Pkg.struckBy, Pkg.strike, hlive, hruns, hmeets, inDomain_self]
      have hrew := p.squashFrom_rewinds x hruns true
      rw [hstrike, Pkg.foldl_struckBy_keeps (.inr (Chunk.meets_of_nil hrew.rlines hrew.wlines w))]
      exact hrew
    · have hsame : (Pkg.struckBy l w x p y).ctx x = p.ctx x := by
        rw [Pkg.struckBy]
        split
        · exact Pkg.strike_ctx_other p (Ne.symm hy) ..
        · rfl
      have hmem : x ∈ ys := (List.mem_cons.mp hx).resolve_left (Ne.symm hy)
      rw [← hsame] at hlive hruns hmeets ⊢
      exact ih hlive hruns hmeets hmem

end

theorem Tab.mem_of_find? {α : Type} {t : Tab α} {i : Nat} {a : α} (h : Tab.find? t i = some a) : (i, a) ∈ t := by
  induction t with
  | nil => cases h
  | cons e t ih =>
    obtain ⟨j, b⟩ := e
    rw [Tab.find?] at h
    split at h
    next hj =>
      cases h
      rw [hj]
      exact List.mem_cons_self
    next => exact List.mem_cons_of_mem _ (ih h)

/-- A context that asks for a commit is one of its package's. -/
theorem Pkg.mem_allCtxs_of_req {p : Pkg} {x : CtxRef} (h : (p.ctx x).req ≠ none) : x ∈ p.allCtxs := by
  have hctx : x.slot ∈ (p.core x.core).ctxs.map Prod.fst := by
    by_contra hno
    refine h ?_
    rw [Pkg.ctx_eq, Core.ctx, Tab.get_of_notMem hno]
    rfl
  have hcore : ∃ k, (x.core, k) ∈ p.cores ∧ p.core x.core = k := by
    cases hfind : Tab.find? p.cores x.core with
    | none =>
      rw [Pkg.core, Tab.get, hfind] at hctx
      cases hctx
    | some k => exact ⟨k, Tab.mem_of_find? hfind, by rw [Pkg.core, Tab.get, hfind]; rfl⟩
  obtain ⟨k, hk, hcore⟩ := hcore
  rw [hcore] at hctx
  obtain ⟨⟨n, c⟩, he, hslot⟩ := List.mem_map.mp hctx
  refine List.mem_flatMap.mpr ⟨(x.core, k), hk, List.mem_map.mpr ⟨(n, c), he, ?_⟩⟩
  exact congrArg (CtxRef.mk x.core) hslot

/-! ### What a commit leaves of its context -/

/-- What tokens that become ready change in a context. -/
structure Ctx.Tokened (c c' : Ctx) : Prop where
  req : c.req = none → c'.req = none
  inflight : c'.inflight = c.inflight
  chunkseq : c'.chunkseq = c.chunkseq
  excl : c'.excl = c.excl
  ch : { c'.ch with start := c.ch.start } = c.ch
  pc : c'.regs.pc = c.regs.pc

theorem Ctx.Tokened.refl (c : Ctx) : c.Tokened c := ⟨id, rfl, rfl, rfl, rfl, rfl⟩

theorem Ctx.Tokened.trans {a b c : Ctx} (h : a.Tokened b) (h' : b.Tokened c) : a.Tokened c where
  req hn := h'.req (h.req hn)
  inflight := h'.inflight.trans h.inflight
  chunkseq := h'.chunkseq.trans h.chunkseq
  excl := h'.excl.trans h.excl
  ch := by
    have hc := congrArg (fun k : Chunk => { k with start := a.ch.start }) h'.ch
    exact hc.trans h.ch
  pc := h'.pc.trans h.pc

theorem Regs.tokenDone_pc (r : Regs) (reg tag : Nat) (v : Word) : (r.tokenDone reg tag v).pc = r.pc := by
  rw [Regs.tokenDone]
  split <;> rfl

theorem Ctx.tokenDone_tokened (c : Ctx) (gen : BitVec 16) (reg tag : Nat) (v : Word) : c.Tokened (c.tokenDone gen reg tag v) := by
  rw [Ctx.tokenDone]
  split
  · exact ⟨fun h => by rw [h]; rfl, rfl, rfl, rfl, rfl, Regs.tokenDone_pc ..⟩
  · exact .refl c

theorem Pkg.release_tokened (p : Pkg) (x : CtxRef) (chunk ix : Nat) (d : Deferred) :
    (p.ctx x).Tokened ((p.release x chunk ix d).ctx x) := by
  have hdone (v : Word) : (p.ctx x).Tokened ((match d.tok with
      | some r => p.tokenDone x (p.ctx x).gen r (chunk * 64 + ix) v
      | none => p : Pkg).ctx x) := by
    cases d.tok with
    | none => exact .refl _
    | some r =>
      rw [Pkg.tokenDone_ctx]
      exact Ctx.tokenDone_tokened ..
  unfold Pkg.release
  dsimp only
  split
  · exact hdone _
  · exact hdone _
  · exact .refl _
  · split
    · exact hdone _
    · exact .refl _
  · split
    · exact hdone _
    · exact .refl _
  · exact .refl _

theorem putLs_ctxs (core off : Nat) (m : BitVec 64) (d : Line) (k : Core) (n : Nat) : (putLs core off m d k n).ctxs = k.ctxs := by
  induction n with
  | zero =>
    rw [putLs]
    split <;> rfl
  | succ n ih =>
    rw [putLs]
    split
    · exact ih
    · exact ih

theorem Pkg.publish_ctx (p : Pkg) (x : CtxRef) (e : Nat × BitVec 64 × Line) (y : CtxRef) : (p.publish x e).ctx y = p.ctx y := by
  unfold Pkg.publish
  dsimp only
  split
  · split
    · split
      · exact Pkg.ctx_modCore rfl y
      · rfl
    · exact Pkg.ctx_modCore (putLs_ctxs ..) y
  · exact Pkg.homeWrite_ctx ..

theorem Pkg.setTableEntry_ctx (p : Pkg) (s slot e : Nat) (y : CtxRef) : (p.setTableEntry s slot e).ctx y = p.ctx y := by
  unfold Pkg.setTableEntry
  split <;> rfl

theorem Pkg.newTableEntry_ctx (p : Pkg) (s slot e : Nat) (y : CtxRef) : (p.newTableEntry s slot e).ctx y = p.ctx y := by
  unfold Pkg.newTableEntry
  split
  · exact Pkg.setTableEntry_ctx ..
  · rfl

theorem Pkg.tabCommit_ctx (p : Pkg) (s : Nat) (o : TabOp) (y : CtxRef) : (Pkg.tabCommit s p o).ctx y = p.ctx y := by
  cases o with
  | load slot image => exact Pkg.newTableEntry_ctx ..
  | drop slot =>
    unfold Pkg.tabCommit
    dsimp only
    split
    · rw [Pkg.drainDone_ctx, Pkg.ctx_foldl (fun p b => Pkg.crystallize_ctx p b y), Pkg.setTableEntry_ctx]
    · rfl

theorem capCommit_ctxs (k : Core) (o : CapOp) : (capCommit k o).ctxs = k.ctxs := by
  cases o with
  | mk slot rights => rfl
  | rev slot =>
    unfold capCommit
    dsimp only
    split <;> rfl

theorem foldl_capCommit_ctxs (os : List CapOp) (k : Core) : (os.foldl capCommit k).ctxs = k.ctxs := by
  induction os generalizing k with
  | nil => rfl
  | cons o os ih => rw [List.foldl_cons, ih, capCommit_ctxs]

theorem Pkg.retryBack_ctx (p : Pkg) (x y : CtxRef) : (p.retryBack x).ctx y = p.ctx y := by
  unfold Pkg.retryBack Pkg.retryBackBut
  dsimp only
  rw [Pkg.ctx_foldl fun q key => ?_, Pkg.ctx_foldl fun q key => ?_]
  · split
    · rfl
    · rw [Pkg.writeBack_ctx, Pkg.recall_ctx]
  · split
    · rfl
    · exact Pkg.thirdAttr_ctx ..

theorem Pkg.foldl_release_tokened (x : CtxRef) (chunk : Nat) (ds : List (Deferred × Nat)) (p : Pkg) :
    (p.ctx x).Tokened ((ds.foldl (fun p e => p.release x chunk e.2 e.1) p).ctx x) := by
  induction ds generalizing p with
  | nil => exact .refl _
  | cons d ds ih => exact (p.release_tokened x chunk d.2 d.1).trans (ih _)

theorem Pkg.countSquashes_tokened (p : Pkg) (x : CtxRef) : (p.ctx x).Tokened ((p.countSquashes x).ctx x) := by
  rw [Pkg.countSquashes_ctx, Pkg.ctx_modCtx_same]
  exact ⟨id, rfl, rfl, rfl, rfl, rfl⟩

/-- What a commit leaves of its own context: the context as the broadcast leaves it, committed, with tokens that became ready. -/
theorem Pkg.commit_ctx {p : Pkg} {x : CtxRef} {h : Chunk} (hreq : (p.ctx x).req = some h) :
    (((p.broadcast (p.levelOf x.core h.rlines h.wlines) x.core h.wlines (some x)).ctx x).committed h
      (p.levelOf x.core h.rlines h.wlines)).Tokened ((p.commit x).ctx x) := by
  unfold Pkg.commit
  dsimp only
  rw [hreq]
  dsimp only
  refine .trans ?_ (Pkg.countSquashes_tokened ..)
  rw [(Pkg.advance_logs ..).ctx, (Pkg.LogsTo.foldl (fun q e => q.advance_logs _ _ _) _ _).ctx]
  refine .trans ?_ (Pkg.foldl_release_tokened ..)
  rw [Pkg.retryBack_ctx, Pkg.shed_ctx, Pkg.ctx_modCore rfl, Pkg.ctx_modCtx_same, (Pkg.logChunk_logs ..).ctx, (Pkg.skid_logs ..).ctx,
    (Pkg.LogsTo.foldl Pkg.hitIfSet_logs _ _).ctx, Pkg.ctx_modCore rfl, Pkg.ctx_modCore (foldl_capCommit_ctxs ..),
    Pkg.ctx_foldl fun q o => Pkg.tabCommit_ctx q _ o x, Pkg.ctx_foldl fun q e => Pkg.publish_ctx q x e x,
    Pkg.ctx_foldl (f := Pkg.rememberGranule _ _) fun _ _ => rfl]
  exact .refl _

theorem Pkg.broadcast_keeps {p : Pkg} {x : CtxRef} {l : Level} {w : List Nat}
    (h : (p.ctx x).ch.meets w = false ∨ (p.ctx x).exclRuns = true) : (p.broadcast l x.core w (some x)).ctx x = p.ctx x := by
  rw [Pkg.broadcast_eq]
  exact Pkg.foldl_struckBy_keeps h.symm _

theorem Pkg.broadcast_rewinds {p : Pkg} {x : CtxRef} {h : Chunk} (l : Level) {w : List Nat} (hreq : (p.ctx x).req = some h)
    (hlive : (p.ctx x).live = true) (hruns : (p.ctx x).exclRuns = false) (hmeets : (p.ctx x).ch.meets w = true) :
    (p.ctx x).Rewound ((p.broadcast l x.core w (some x)).ctx x) := by
  rw [Pkg.broadcast_eq]
  refine Pkg.foldl_struckBy_rewinds hlive hruns hmeets (Pkg.mem_allCtxs_of_req ?_)
  rw [hreq]
  exact nofun

/-- What a grantable request has met: nothing (R61, R66). -/
structure Pkg.Grantable (p : Pkg) (x : CtxRef) (h : Chunk) : Prop where
  live : (p.ctx x).live = true
  inflight : (p.ctx x).inflight = none
  busy : (p.core x.core).busyFor ⟨x.slot, (p.ctx x).chunkseq.toNat⟩ = false
  flight : p.flightMeets x (p.levelOf x.core h.rlines h.wlines) h = false
  exclusive : p.exclusiveMeets x (p.levelOf x.core h.rlines h.wlines) h = false
  down : p.commitDown (p.spaceOf x.core) h = false

theorem Pkg.grantable_spec {p : Pkg} {x : CtxRef} (hg : p.grantable x = true) : ∃ h, (p.ctx x).req = some h ∧ p.Grantable x h := by
  unfold Pkg.grantable at hg
  dsimp only at hg
  split at hg
  · cases hg
  next h hreq =>
    simp only [Bool.and_eq_true, Bool.not_eq_true', Option.isNone_iff_eq_none] at hg
    obtain ⟨⟨⟨⟨⟨⟨⟨hlive, hfl⟩, hbusy⟩, hflight⟩, hexcl⟩, hdown⟩, _⟩, _⟩ := hg
    exact ⟨h, hreq, hlive, hfl, hbusy, hflight, hexcl, hdown⟩

theorem Core.not_busyFor_iff {k : Core} {o : ChunkId} : k.busyFor o = false ↔ ∀ e ∈ k.vq ++ k.mq, e.owner ≠ o := by
  simp only [Core.busyFor, List.any_eq_false, beq_iff_eq]

theorem Pkg.down_of_commitDown {p : Pkg} {s : Nat} {h : Chunk} (hd : p.commitDown s h = false) :
    ∀ k ∈ h.wlines ++ h.wbs, p.down k = false := by
  simp only [Pkg.commitDown, Bool.or_eq_false_iff, List.any_eq_false, Bool.not_eq_true] at hd
  obtain ⟨⟨hw, hb⟩, _⟩ := hd
  exact List.forall_mem_append.mpr ⟨hw, hb⟩

theorem Pkg.flight_free {p : Pkg} {x : CtxRef} {l : Level} {h : Chunk} (hf : p.flightMeets x l h = false) {y : CtxRef}
    (hy : y ∈ p.allCtxs) (hne : y ≠ x) {w : List Nat} {m : Level} (hfl : (p.ctx y).inflight = some (w, m))
    (ho : overlaps l x.core m y.core = true) : intersects h.rlines w = false ∧ intersects h.wlines w = false := by
  have hy' := List.any_eq_false.mp hf y hy
  rw [hfl] at hy'
  simpa [hne, ho, Chunk.meets] using hy'

theorem Pkg.exclusive_free {p : Pkg} {x : CtxRef} {l : Level} {h : Chunk} (hf : p.exclusiveMeets x l h = false) {y : CtxRef}
    (hy : y ∈ p.allCtxs) (hne : y ≠ x) {m : Level} (hst : (p.ctx y).st ≠ .free) (hexcl : (p.ctx y).excl = some m)
    (ho : overlaps l x.core m y.core = true) {g : Chunk} (hg : g ∈ (p.ctx y).guarded) :
    h.meets g.rlines = false ∧ h.meets g.wlines = false := by
  have hy' := List.any_eq_false.mp hf y hy
  dsimp only at hy'
  rw [hexcl] at hy'
  have hlive : (p.ctx y).live = true := by simpa [Ctx.live] using hst
  have hguard := (Bool.not_eq_true _).mp hy'
  rw [bne_iff_ne.mpr hne, hlive, Bool.true_and, Bool.true_and] at hguard
  dsimp only at hguard
  rw [ho, Bool.true_and] at hguard
  exact Bool.or_eq_false_iff.mp ((Bool.not_eq_true _).mp (List.any_eq_false.mp hguard g hg))

/-! ### The four events -/

theorem Pkg.exclBlocked_free {p : Pkg} {x : CtxRef} {l : Level}
    (hq : ∀ e ∈ p.exclQ.takeWhile (fun e => e.1 != x), (p.ctx e.1).st ≠ .halted → overlaps l x.core e.2 e.1.core = false)
    (hx : ∀ y ∈ p.allCtxs, ∀ m, (p.ctx y).excl = some m → overlaps l x.core m y.core = false) : p.exclBlocked x l = false := by
  rw [Pkg.exclBlocked, Bool.or_eq_false_iff, List.any_eq_false, List.any_eq_false]
  refine ⟨fun e he => ?_, fun y hy => ?_⟩
  · by_cases hst : (p.ctx e.1).st = .halted
    · rw [hst]
      exact nofun
    · rw [hq e he hst, Bool.and_false]
      exact nofun
  · split
    next m hm =>
      rw [hx y hy m hm]
      exact nofun
    next => exact nofun

theorem Ctx.idle_of_due {c : Ctx} (hin : c.inflight = none) (hreq : c.req = none) (hcount : c.ch.count = 0) : c.idle = true := by
  simp [Ctx.idle, hin, hreq, hcount]

/-- Settles O41: the broadcast of a commit spares its own context or rewinds its next chunk, and the rest of the commit only makes
tokens ready there. -/
theorem sluiceEvents : Obligations.SluiceEvents := by
  unfold Obligations.SluiceEvents
  refine ⟨fun s core slot => ?events, fun p x => ?landed⟩
  case events =>
    intro p x c at_
    have hat : at_.grantable x = p.grantable x := rfl
    refine ⟨fun hg => ?free, fun h hreq hg => ⟨fun he => ?squash, fun he => ⟨?commit, ?left⟩⟩, fun hg => ?shut, fun hfl => ?complete,
      fun l hfind hst hq hx => ?exclusive, fun m => State.does_of_run rfl rfl⟩
    case free =>
      obtain ⟨h, hreq, hfree⟩ := Pkg.grantable_spec hg
      refine ⟨hfree.inflight, h, hreq, Core.not_busyFor_iff.mp hfree.busy, Pkg.down_of_commitDown hfree.down, ?_, ?_⟩
      · exact fun y hy hne w m => Pkg.flight_free hfree.flight hy hne
      · exact fun y hy hne m hst hexcl ho g hg => Pkg.exclusive_free hfree.exclusive hy hne hst hexcl ho hg
    case squash =>
      refine State.does_of_run rfl ?_
      change (if (!at_.grantable x) = true then at_ else if (c.req.map (at_.escalates x c.chunkseq.toNat)).getD false = true then
        at_.squash x else at_.commit x) = at_.squash x
      rw [hat, hg, hreq]
      exact if_pos he
    case commit =>
      refine State.does_of_run rfl ?_
      change (if (!at_.grantable x) = true then at_ else if (c.req.map (at_.escalates x c.chunkseq.toNat)).getD false = true then
        at_.squash x else at_.commit x) = at_.commit x
      rw [hat, hg, hreq]
      exact if_neg (ne_true_of_eq_false he)
    case left =>
      intro d
      obtain ⟨_, _, hfree⟩ := Pkg.grantable_spec hg
      have htok := Pkg.commit_ctx (p := at_) (x := x) hreq
      generalize hb : at_.broadcast (at_.levelOf x.core h.rlines h.wlines) x.core h.wlines (some x) = b at htok
      have hkept (hk : c.ch.meets h.wlines = false ∨ c.exclRuns = true) : b.ctx x = c := hb ▸ Pkg.broadcast_keeps (p := at_) hk
      have hrew (hruns : c.exclRuns = false) (hm : c.ch.meets h.wlines = true) : c.Rewound (b.ctx x) :=
        hb ▸ Pkg.broadcast_rewinds (p := at_) _ hreq hfree.live hruns hm
      obtain ⟨hseq, hexcl, hno⟩ : (b.ctx x).chunkseq = c.chunkseq ∧ (b.ctx x).excl = c.excl ∧ (b.ctx x).exclNo = c.exclNo := by
        by_cases hk : c.ch.meets h.wlines = false ∨ c.exclRuns = true
        · rw [hkept hk]
          exact ⟨rfl, rfl, rfl⟩
        · rw [not_or, Bool.not_eq_false, Bool.not_eq_true] at hk
          exact ⟨(hrew hk.2 hk.1).chunkseq, (hrew hk.2 hk.1).excl, (hrew hk.2 hk.1).exclNo⟩
      refine ⟨htok.req rfl, htok.inflight, htok.chunkseq.trans (congrArg (· + 1) hseq), htok.excl.trans ?_, fun hk => ?_, fun hm hruns => ?_⟩
      · rw [← hseq, ← hexcl, ← hno]
        rfl
      · rw [hkept hk] at htok
        exact ⟨htok.ch, htok.pc⟩
      · exact ⟨(congrArg Chunk.count htok.ch).trans (hrew hruns hm).count, htok.pc.trans (hrew hruns hm).pc⟩
    case shut =>
      have hdoes : s.does (.sluiceGrant core slot) at_ := State.does_of_run rfl (if_pos (by rw [hat, hg]; rfl))
      exact hdoes
    case complete =>
      intro q
      exact State.does_of_run rfl (if_neg (by rwa [Option.isNone_iff_eq_none]))
    case exclusive =>
      refine State.does_of_run rfl ?_
      dsimp only
      rw [hfind]
      exact if_neg (not_or.mpr ⟨hst, ne_true_of_eq_false (Pkg.exclBlocked_free hq hx)⟩)
  case landed =>
    intro c q
    have hqc : q.ctx x = { c with inflight := none, owed := [], counted := [] } := Pkg.ctx_modCtx_same ..
    have hphase : (q.ctx x).phase = c.phase := (congrArg Ctx.phase hqc).trans rfl
    have hqreq : (q.ctx x).req = c.req := (congrArg Ctx.req hqc).trans rfl
    have hdue : (q.ctx x).due = c.due := (congrArg Ctx.due hqc).trans rfl
    refine ⟨fun hno => ?stays, fun hph hreq => ?asks⟩
    case stays =>
      have hask : ¬ ((q.ctx x).phase = .requested ∧ (q.ctx x).req.isNone = true) := by
        rw [hphase, hqreq, Option.isNone_iff_eq_none]
        exact fun h => hno.elim (fun hn => hn h.1) fun hn => hn h.2
      have hland : p.landed x = match (q.ctx x).due with
          | some (cause, addr, info) => if (q.ctx x).idle = true then q.takeFault x cause addr info else q
          | none => q := by
        unfold Pkg.landed
        dsimp only
        rw [if_neg hask] <;> rfl
      rw [hdue] at hland
      refine ⟨fun hn => ?_, fun k a i hd hcount hr => ?_⟩
      · rw [hland]
        split
        next hd =>
          refine if_neg fun hidle => ?_
          have hi : ((q.ctx x).ch.count = 0 ∧ (q.ctx x).req = none) ∧ (q.ctx x).inflight = none := by simpa [Ctx.idle] using hidle
          rw [hqc] at hi
          obtain hd' | hcount | hr := hn
          · exact absurd hd' (hd ▸ nofun)
          · exact hcount hi.1.1
          · exact hr hi.1.2
        next => rfl
      · rw [hland, hd]
        exact if_pos (Ctx.idle_of_due (by rw [hqc]) (hqreq.trans hr) (by rwa [hqc]))
    case asks =>
      have hask : (q.ctx x).phase = .requested ∧ (q.ctx x).req.isNone = true := by
        rw [hphase, hqreq, Option.isNone_iff_eq_none]
        exact ⟨hph, hreq⟩
      have hasked : (q.ask x).ctx x = (q.ctx x).ask q.free q.pt := q.ask_ctx x
      have hland : p.landed x = q.ask x := by
        unfold Pkg.landed
        dsimp only
        rw [if_pos hask]
        split
        · refine if_neg ?_
          rw [hasked]
          simp [Ctx.idle, Ctx.ask]
        · rfl
      intro d
      have hd : d = (q.ctx x).ask q.free q.pt := (congrArg (Pkg.ctx · x) hland).trans hasked
      rw [hd, hqc]
      refine ⟨rfl, rfl, rfl, rfl, rfl, rfl, rfl, rfl, fun y hy => ?_⟩
      rw [hland, (Pkg.Keeps.ask q x).others y hy]
      exact Pkg.ctx_modCtx_other p hy _

end Sys2Proof.Machine

/-! SUPPORT. Proofs: all that the operations at a line's home leave of a package (R77 to R82, R112, R165 to R167, R395 to R397). -/

namespace Sys2Proof.Machine

/-- A package without what an operation at a line's home may change. -/
def Pkg.sansHome (p : Pkg) : Pkg :=
  { p with log := [], poison := [], vpoison := [], spaces := [], cores := [], l2 := [], past := [], l2miss := [], missed := [],
           transl := [], scale := [], recs := [], brine := [], drains := [], vis := [], corrected := [], hotness := [] }

/-- `q` is `p` after operations at homes: beyond the state of lines, their reports and counts, only lines leave or enter an L1. -/
structure Pkg.AtHomes (p q : Pkg) : Prop where
  rest : q.sansHome = p.sansHome
  core : ∀ c, { q.core c with l1 := [] } = { p.core c with l1 := [] }
  windows : ∀ s, (q.space? s).map Space.windows = (p.space? s).map Space.windows

namespace Pkg.AtHomes

theorem refl (p : Pkg) : p.AtHomes p := ⟨rfl, fun _ => rfl, fun _ => rfl⟩

theorem trans {p q r : Pkg} (h : p.AtHomes q) (h' : q.AtHomes r) : p.AtHomes r :=
  ⟨h'.rest.trans h.rest, fun c => (h'.core c).trans (h.core c), fun s => (h'.windows s).trans (h.windows s)⟩

theorem foldl {α : Type} {f : Pkg → α → Pkg} (h : ∀ (p : Pkg) a, p.AtHomes (f p a)) (l : List α) (p : Pkg) :
    p.AtHomes (l.foldl f p) := by
  induction l generalizing p with
  | nil => exact refl p
  | cons a t ih => exact (h p a).trans (ih _)

/-- A change of the lines of one core's L1. -/
theorem modCore {p : Pkg} {c : Nat} {f : Core → Core} (h : { f (p.core c) with l1 := [] } = { p.core c with l1 := [] }) :
    p.AtHomes (p.modCore c f) where
  rest := rfl
  core d := by
    rw [Pkg.modCore_eq]
    by_cases hd : d = c
    · rw [hd, Pkg.core_setCore_same, h]
    · rw [Pkg.core_setCore_other _ hd]
  windows _ := rfl

section
variable {p q : Pkg}

theorem task (h : p.AtHomes q) (c : Nat) : (q.core c).task = (p.core c).task := by
  have hc := congrArg Core.task (h.core c)
  exact hc

theorem preempt (h : p.AtHomes q) (c : Nat) : (q.core c).preempt = (p.core c).preempt := by
  have hc := congrArg Core.preempt (h.core c)
  exact hc

theorem ctx (h : p.AtHomes q) (y : CtxRef) : q.ctx y = p.ctx y := by
  have hc := congrArg Core.ctxs (h.core y.core)
  rw [Pkg.ctx_eq, Pkg.ctx_eq]
  exact congrArg (Tab.get Ctx.reset · y.slot) hc

theorem mem (h : p.AtHomes q) : q.mem = p.mem := by
  have hm := congrArg Pkg.mem h.rest
  exact hm

theorem pt (h : p.AtHomes q) : q.pt = p.pt := by
  have hm := congrArg Pkg.pt h.rest
  exact hm

theorem resetting (h : p.AtHomes q) : q.resetting = p.resetting := by
  have hm := congrArg Pkg.resetting h.rest
  exact hm

theorem qslots (h : p.AtHomes q) : q.qslots = p.qslots := by
  have hm := congrArg Pkg.qslots h.rest
  exact hm

theorem queues (h : p.AtHomes q) : q.queues = p.queues := by
  have hm := congrArg Pkg.queues h.rest
  exact hm

end
end Pkg.AtHomes

open Pkg (AtHomes)

/-! ### Reports, poison, records -/

theorem Pkg.ras_atHomes (p : Pkg) (va space gcid die block reason count : Nat) :
    p.AtHomes (p.ras va space gcid die block reason count) := by
  obtain ⟨v, c, h⟩ := p.ras_eq va space gcid die block reason count
  rw [h]
  exact ⟨rfl, fun _ => rfl, fun _ => rfl⟩

theorem Pkg.rasAt_atHomes (p : Pkg) (pt va space gcid die block reason count : Nat) :
    p.AtHomes (p.rasAt pt va space gcid die block reason count) := by
  obtain ⟨v, h⟩ := p.rasAt_eq pt va space gcid die block reason count
  rw [h]
  exact ⟨rfl, fun _ => rfl, fun _ => rfl⟩

theorem Pkg.poisonLine_atHomes (p : Pkg) (key : Nat) : p.AtHomes (p.poisonLine key) := by
  unfold Pkg.poisonLine
  dsimp only
  split <;> split <;> exact ⟨rfl, fun _ => rfl, fun _ => rfl⟩

theorem Pkg.unpoison_atHomes (p : Pkg) (key : Nat) : p.AtHomes (p.unpoison key) := by
  unfold Pkg.unpoison
  dsimp only
  split <;> exact ⟨rfl, fun _ => rfl, fun _ => rfl⟩

theorem Pkg.poisonWith_atHomes (p : Pkg) (key space gcid die block : Nat) : p.AtHomes (p.poisonWith key space gcid die block) := by
  unfold Pkg.poisonWith
  split
  · exact p.poisonLine_atHomes key
  · exact (Pkg.ras_atHomes ..).trans (Pkg.poisonLine_atHomes ..)

theorem Pkg.modSpace_windows (p : Pkg) (s : Nat) {f : Space → Space} (h : ∀ x, (f x).windows = x.windows) (n : Nat) :
    ((p.modSpace s f).space? n).map Space.windows = (p.space? n).map Space.windows := by
  unfold Pkg.modSpace
  split
  next x hx =>
    by_cases hn : n = s
    · rw [hn, hx, Pkg.space?, Tab.find?_put_same, Option.map_some, Option.map_some, h]
    · rw [Pkg.space?, Tab.find?_put, if_neg (Ne.symm hn), Pkg.space?]
  · rfl

theorem Pkg.modSpace_atHomes (p : Pkg) (s : Nat) {f : Space → Space} (h : ∀ x, (f x).windows = x.windows) :
    p.AtHomes (p.modSpace s f) where
  rest := by unfold Pkg.modSpace; split <;> rfl
  core c := by unfold Pkg.modSpace; split <;> rfl
  windows := p.modSpace_windows s h

theorem Pkg.modFring_atHomes (p : Pkg) (s : Nat) (f : Ring → Ring) : p.AtHomes (p.modFring s f) :=
  p.modSpace_atHomes s fun _ => rfl

theorem Pkg.notice_atHomes (p : Pkg) (n : Notice) : p.AtHomes (p.notice n) := by
  unfold Pkg.notice
  dsimp only
  split
  · exact (Pkg.modFring_atHomes ..).trans (Pkg.modFring_atHomes ..)
  · exact Pkg.modFring_atHomes ..

theorem Pkg.parkRec_atHomes (p : Pkg) (r : Rec) : p.AtHomes (p.parkRec r) := by
  unfold Pkg.parkRec
  extract_lets q pan n q'
  have hq : p.AtHomes q := ⟨rfl, fun _ => rfl, fun _ => rfl⟩
  have hq' : p.AtHomes q' := hq.trans (q.notice_atHomes n)
  split
  · exact hq'.trans (Pkg.notice_atHomes ..)
  · exact hq'

theorem parkAll_atHomes (key cause : Nat) (data : Line) (l : List Attr) (p : Pkg) : p.AtHomes (parkAll key cause data l p).1 := by
  induction l generalizing p with
  | nil => exact .refl p
  | cons a t ih =>
    unfold parkAll
    split
    · exact .refl p
    · exact (Pkg.parkRec_atHomes ..).trans (ih _)

/-! ### Lines that leave their home, and writes there -/

theorem Pkg.physWrite_atHomes (p : Pkg) (a : Nat) (m : BitVec 64) (l : Line) (b : Bool) : p.AtHomes (p.physWrite a m l b) := by
  unfold Pkg.physWrite
  dsimp only
  split
  · exact ⟨rfl, fun _ => rfl, fun _ => rfl⟩
  · split <;> exact ⟨rfl, fun _ => rfl, fun _ => rfl⟩

theorem Core.loseLine_l1 (k : Core) (key : Nat) : { k.loseLine key with l1 := [] } = { k with l1 := [] } := by
  unfold Core.loseLine
  split <;> rfl

theorem Pkg.loseLine_atHomes (key : Nat) (l : List Nat) (p : Pkg) :
    p.AtHomes (l.foldl (fun p c => p.modCore c (·.loseLine key)) p) :=
  .foldl (fun _ _ => .modCore (Core.loseLine_l1 ..)) l p

theorem Pkg.dropLine_atHomes (p : Pkg) (key : Nat) : p.AtHomes (p.dropLine key) := by
  unfold Pkg.dropLine
  split
  · exact .refl p
  · extract_lets kept q
    have hq : p.AtHomes q := ⟨rfl, fun _ => rfl, fun _ => rfl⟩
    exact hq.trans (Pkg.loseLine_atHomes ..)

theorem Pkg.poisonIf_atHomes (p : Pkg) (b : Bool) (key : Nat) : p.AtHomes (if b then p.poisonLine key else p) := by
  split
  · exact p.poisonLine_atHomes key
  · exact .refl p

theorem Pkg.writeBack_atHomes (p : Pkg) (key cause : Nat) : p.AtHomes (p.writeBack key cause) := by
  unfold Pkg.writeBack
  split
  · exact .refl p
  next l _ =>
    split
    · exact .refl p
    · split
      · exact (Pkg.physWrite_atHomes ..).trans ⟨rfl, fun _ => rfl, fun _ => rfl⟩
      · split
        · exact .refl p
        · dsimp only
          have hpark := (p.poisonIf_atHomes l.poison key).trans
            (parkAll_atHomes key cause l.data l.attrs (if l.poison then p.poisonLine key else p))
          split
          next q heq =>
            rw [heq] at hpark
            exact hpark.trans (q.dropLine_atHomes key)
          next q left _ heq =>
            rw [heq] at hpark
            exact hpark.trans ⟨rfl, fun _ => rfl, fun _ => rfl⟩

theorem Pkg.thirdAttr_atHomes (p : Pkg) (key : Nat) : p.AtHomes (p.thirdAttr key) := by
  unfold Pkg.thirdAttr
  split
  · exact .refl p
  · split
    · split
      · exact (Pkg.physWrite_atHomes ..).trans ⟨rfl, fun _ => rfl, fun _ => rfl⟩
      · exact p.writeBack_atHomes key _
    all_goals exact .refl p

theorem Pkg.unpoisonIf_atHomes (p : Pkg) (key : Nat) (c : Prop) [Decidable c] : p.AtHomes (if c then p.unpoison key else p) := by
  split
  · exact p.unpoison_atHomes key
  · exact .refl p

theorem Pkg.homeWrite_atHomes (p : Pkg) (key : Nat) (m : BitVec 64) (data : Line) (a : Attr) (keep : Option Nat) :
    p.AtHomes (p.homeWrite key m data a keep) := by
  unfold Pkg.homeWrite
  extract_lets p₁ l p₂ others p₃ l'
  have h₁ : p.AtHomes p₁ := ⟨rfl, fun _ => rfl, fun _ => rfl⟩
  have h₂ : p₁.AtHomes p₂ := p₁.unpoisonIf_atHomes key _
  have h₃ : p₂.AtHomes p₃ := Pkg.loseLine_atHomes ..
  have h₄ : p₃.AtHomes { p₃ with l2 := p₃.l2.put key l' } := ⟨rfl, fun _ => rfl, fun _ => rfl⟩
  exact (((h₁.trans h₂).trans h₃).trans h₄).trans (Pkg.thirdAttr_atHomes ..)

theorem Pkg.parkLine_atHomes (p : Pkg) (key : Nat) : p.AtHomes (p.parkLine key) := by
  unfold Pkg.parkLine
  dsimp only
  refine .trans (p.writeBack_atHomes key 0x20) ?_
  split
  · split
    · exact (Pkg.poisonIf_atHomes ..).trans (Pkg.dropLine_atHomes ..)
    · exact .refl _
  · exact .refl _

theorem Pkg.shed_atHomes (p : Pkg) (keys : List Nat) : p.AtHomes (p.shed keys) := by
  refine AtHomes.foldl (fun p key => ?_) keys p
  split
  · split
    · exact Pkg.dropLine_atHomes ..
    · exact .refl _
  · exact .refl _

/-! ### Allocation, fill, brine copies -/

theorem Pkg.alloc_atHomes {p q : Pkg} {key : Nat} (h : p.alloc key = .ok q) : p.AtHomes q := by
  unfold Pkg.alloc at h
  split at h
  · cases h
    exact .refl p
  · split at h
    · cases h
    next hside =>
      obtain ⟨t, rfl⟩ := Pkg.sidecar_eq hside
      have hscale : p.AtHomes { p with scale := t } := ⟨rfl, fun _ => rfl, fun _ => rfl⟩
      extract_lets old q' at h
      have hq' : p.AtHomes q' := by
        refine hscale.trans ?_
        simp only [q']
        split
        · exact Pkg.ras_atHomes ..
        · exact .refl _
      cases h
      exact hq'.trans ⟨rfl, fun _ => rfl, fun _ => rfl⟩

theorem Pkg.countHot_atHomes (p : Pkg) (key : Nat) : p.AtHomes (p.countHot key) := by
  unfold Pkg.countHot
  dsimp only
  split
  · split
    · exact ⟨rfl, fun _ => rfl, fun _ => rfl⟩
    · split <;> exact ⟨rfl, fun _ => rfl, fun _ => rfl⟩
  · exact .refl p

theorem Pkg.addMiss_atHomes (p : Pkg) (key : Nat) : p.AtHomes (p.addMiss key) := by
  unfold Pkg.addMiss
  extract_lets a
  have h : p.AtHomes { p with l2miss := p.l2miss.put a (p.l2miss.get 0 a + 1) } := ⟨rfl, fun _ => rfl, fun _ => rfl⟩
  exact h.trans (Pkg.countHot_atHomes ..)

theorem Pkg.countMiss_atHomes (p : Pkg) (key : Nat) : p.AtHomes (p.countMiss key) := by
  unfold Pkg.countMiss
  split
  · exact ⟨rfl, fun _ => rfl, fun _ => rfl⟩
  · exact p.addMiss_atHomes key

theorem Pkg.putCount_atHomes (p : Pkg) (key : Nat) (l : L2Line) :
    p.AtHomes (({ p with l2 := p.l2.put key l }.countMiss key).countTransl key) := by
  have hput : p.AtHomes { p with l2 := p.l2.put key l } := ⟨rfl, fun _ => rfl, fun _ => rfl⟩
  exact (hput.trans (Pkg.countMiss_atHomes _ key)).trans ⟨rfl, fun _ => rfl, fun _ => rfl⟩

theorem Pkg.fill_atHomes {p q : Pkg} {key : Nat} {mask : BitVec 64} (h : p.fill key mask = .ok q) : p.AtHomes q := by
  unfold Pkg.fill at h
  split at h
  · cases h
  next p' halloc =>
    refine (Pkg.alloc_atHomes halloc).trans ?_
    dsimp only at h
    split at h
    · cases h
      exact .refl q
    · split at h
      · cases h
        exact Pkg.putCount_atHomes p' key _
      · cases h

theorem Pkg.lostCopy_atHomes (p : Pkg) (b : Brine) : p.AtHomes (p.lostCopy b) :=
  (Pkg.poisonWith_atHomes ..).trans (Pkg.ras_atHomes ..)

theorem Pkg.drainDone_atHomes (p : Pkg) (s slot : Nat) : p.AtHomes (p.drainDone s slot) := by
  unfold Pkg.drainDone
  split
  · exact ⟨rfl, fun _ => rfl, fun _ => rfl⟩
  · exact .refl p

theorem Pkg.failMiss_atHomes (p : Pkg) (key : Nat) : p.AtHomes (p.failMiss key) := by
  unfold Pkg.failMiss
  split
  · exact .refl p
  · exact p.addMiss_atHomes key

theorem Pkg.crystallize_atHomes (p : Pkg) (b : Brine) : p.AtHomes (p.crystallize b) := by
  unfold Pkg.crystallize
  dsimp only
  refine .trans ?_ (Pkg.drainDone_atHomes ..)
  have hbrine : p.AtHomes { p with brine := p.brine.filter fun c => !(c.die == b.die && c.key == b.key) } := ⟨rfl, fun _ => rfl, fun _ => rfl⟩
  split
  · exact hbrine.trans (Pkg.lostCopy_atHomes ..)
  · split
    · split
      · exact .refl p
      · exact ((hbrine.trans (Pkg.failMiss_atHomes ..)).trans (Pkg.parkLine_atHomes ..)).trans (Pkg.parkRec_atHomes ..)
    next q hfill =>
      refine (hbrine.trans (Pkg.fill_atHomes hfill)).trans ?_
      split
      · exact Pkg.ras_atHomes ..
      · split
        · exact Pkg.homeWrite_atHomes ..
        · exact .refl q
        · exact .refl q

theorem Pkg.recall_atHomes (p : Pkg) (key : Nat) : p.AtHomes (p.recall key) := .foldl Pkg.crystallize_atHomes _ p

theorem Pkg.serve_atHomes {p q : Pkg} {key : Nat} {mask : BitVec 64} (h : p.serve key mask = .ok q) : p.AtHomes q := by
  unfold Pkg.serve at h
  dsimp only at h
  split at h
  · cases h
  · exact (p.recall_atHomes key).trans (Pkg.fill_atHomes h)

theorem Pkg.retryBackBut_atHomes (p : Pkg) (x : CtxRef) (away : Pkg → Nat → Bool) : p.AtHomes (p.retryBackBut x away) := by
  unfold Pkg.retryBackBut
  dsimp only
  refine .trans (.foldl (fun p key => ?_) _ _) (.foldl (fun p key => ?_) _ _)
  · split
    · exact .refl p
    · exact (p.recall_atHomes key).trans (Pkg.writeBack_atHomes ..)
  · split
    · exact .refl p
    · exact p.thirdAttr_atHomes key

theorem Pkg.retryBack_atHomes (p : Pkg) (x : CtxRef) : p.AtHomes (p.retryBack x) := p.retryBackBut_atHomes x _

/-! ### Ways of an L1 -/

theorem Pkg.addHolder_atHomes (p : Pkg) (key core : Nat) : p.AtHomes (p.addHolder key core) := by
  unfold Pkg.addHolder
  split
  · exact ⟨rfl, fun _ => rfl, fun _ => rfl⟩
  · exact .refl p

theorem Pkg.dropHolder_atHomes (p : Pkg) (key core : Nat) : p.AtHomes (p.dropHolder key core) := by
  unfold Pkg.dropHolder
  split
  · exact ⟨rfl, fun _ => rfl, fun _ => rfl⟩
  · exact .refl p

theorem Pkg.l1Drop_atHomes (p : Pkg) (core key : Nat) : p.AtHomes (p.l1Drop core key) :=
  (AtHomes.modCore rfl).trans (Pkg.dropHolder_atHomes _ key core)

theorem Pkg.takeWay_atHomes {p q : Pkg} {core key : Nat} (h : p.takeWay core key = some q) : p.AtHomes q := by
  have hput : ∀ (p : Pkg) (w : Nat), p.AtHomes ((p.modCore core fun k => { k with l1 := k.l1.put key w }).addHolder key core) :=
    fun p w => (AtHomes.modCore rfl).trans (Pkg.addHolder_atHomes _ key core)
  unfold Pkg.takeWay at h
  dsimp only at h
  split at h
  · cases h
    exact Pkg.addHolder_atHomes p key core
  · split at h
    · cases h
      exact hput p _
    · cases h
      exact (Pkg.l1Drop_atHomes p core _).trans (hput _ _)
    · cases h

end Sys2Proof.Machine

/-! SUPPORT. Proofs: pre-emption, against a halted context that another one steps (R69, R70, R342). -/

namespace Sys2Proof.Machine

/-- Space 0's launched core, its control context halted without a stop of its own and stepped by the running context of slot 1. -/
def steppedWhileHalted : State :=
  let s := State.reset.withFetchWord 96 0
  let p := s.pkg.modCtx ⟨0, 0⟩ fun c =>
    { c with st := .halted, stepping := some { issuer := ⟨0, 1⟩, reg := 0, left := 1, from_ := 0, reason := none } }
  { s with pkg := p.modCtx ⟨0, 1⟩ fun c => { c with st := .running } }

/-- The package that an instruction leaves is as the statement's, up to the end of the step. -/
theorem State.does_ctx {s : State} {i : Instr} {p q : Pkg} (he : exec i s = .next { s with pkg := p.seal }) (h : s.does i q) (y : CtxRef) :
    q.ctx y = p.ctx y := by
  rw [State.does, he] at h
  injection h with hstate
  have hctx := congrArg (fun u : State => u.pkg.ctx y) hstate
  simp only [Pkg.seal_ctx] at hctx
  exact hctx.symm

theorem steppedWhileHalted_goes_on : (((steppedWhileHalted.pkg.gangCores 0).filter fun c =>
    (steppedWhileHalted.pkg.core c).preemptible).foldl Pkg.preemptCore steppedWhileHalted.pkg |>.ctx ⟨0, 0⟩).st = .running := by
  decide +kernel

/-- Refutes O46: a context that is halted when its core is pre-empted runs again when the context that steps it is halted after it, for
a step that ends so leaves its target running where it has no stop of its own. -/
theorem not_taskEvents : ¬ Obligations.TaskEvents := by
  unfold Obligations.TaskEvents
  intro h
  obtain ⟨-, -, -, hpreempt, -⟩ := h steppedWhileHalted 0
  have hgo : (steppedWhileHalted.pkg.core 0).preemptible = true := by decide +kernel
  have hcores : steppedWhileHalted.pkg.gangCores 0 = [0] := by decide +kernel
  have hspawn : (steppedWhileHalted.pkg.core 0).spawning = false := by decide +kernel
  have hnone : ∀ c ∈ steppedWhileHalted.pkg.gangCores 0, (steppedWhileHalted.pkg.core c).spawning = false := by
    rw [hcores]
    exact List.forall_mem_singleton.mpr hspawn
  obtain ⟨q, hdoes, hq⟩ := hpreempt hgo hnone
  have hstill := (hq 0 (by rw [hcores]; exact List.mem_singleton_self 0) hgo).2 0 (by decide)
  have hfold : steppedWhileHalted.does (.preemptionRequest 0) (((steppedWhileHalted.pkg.gangCores 0).filter fun c =>
      (steppedWhileHalted.pkg.core c).preemptible).foldl Pkg.preemptCore steppedWhileHalted.pkg) := by
    refine State.does_of_run rfl ?_
    dsimp only
    rw [if_pos hgo, if_neg]
    simp [hcores, hspawn]
  rw [State.does_ctx hfold hdoes, steppedWhileHalted_goes_on] at hstill
  exact absurd hstill (by decide)

end Sys2Proof.Machine

/-! SUPPORT. Proofs: what halting, stepping and ending contexts leave of tasks and of the package (R69, R70, R342). -/

namespace Sys2Proof.Machine

/-- A task without the time from which it is charged. -/
def Task.untimed (t : Task) : Task := { t with start := 0 }

/-- What a halt keeps of a core: its task, but for its time, its inbox, and whether it is pre-empted. -/
structure Core.Halts (k k' : Core) : Prop where
  preempt : k'.preempt = k.preempt
  task : k'.task.map Task.untimed = k.task.map Task.untimed
  inbox : k'.inbox = k.inbox

theorem Core.Halts.refl (k : Core) : k.Halts k := ⟨rfl, rfl, rfl⟩

theorem Core.Halts.trans {a b c : Core} (h : a.Halts b) (h' : b.Halts c) : a.Halts c :=
  ⟨h'.preempt.trans h.preempt, h'.task.trans h.task, h'.inbox.trans h.inbox⟩

/-- A task that stands after a halt stood before it, but for its time. -/
theorem Core.Halts.task_of {k k' : Core} (h : k.Halts k') {t : Task} (ht : k'.task = some t) :
    ∃ u, k.task = some u ∧ u.untimed = t.untimed := by
  have hmap := h.task
  rw [ht] at hmap
  exact Option.map_eq_some_iff.mp hmap.symm

/-- `q` is `p` after contexts have been halted, squashed, stepped or freed: every core keeps its task, its inbox and whether it is
pre-empted; the package keeps its memory, its time, its resets and its queues. -/
structure Pkg.Halts (p q : Pkg) : Prop where
  core : ∀ c, (p.core c).Halts (q.core c)
  mem : q.mem = p.mem
  pt : q.pt = p.pt
  resetting : q.resetting = p.resetting
  queues : q.queues = p.queues

namespace Pkg.Halts

theorem refl (p : Pkg) : p.Halts p := ⟨fun _ => .refl _, rfl, rfl, rfl, rfl⟩

theorem trans {p q r : Pkg} (h : p.Halts q) (h' : q.Halts r) : p.Halts r where
  core c := (h.core c).trans (h'.core c)
  mem := h'.mem.trans h.mem
  pt := h'.pt.trans h.pt
  resetting := h'.resetting.trans h.resetting
  queues := h'.queues.trans h.queues

theorem foldl {α : Type} {f : Pkg → α → Pkg} (h : ∀ (p : Pkg) a, p.Halts (f p a)) (l : List α) (p : Pkg) : p.Halts (l.foldl f p) := by
  induction l generalizing p with
  | nil => exact refl p
  | cons a t ih => exact (h p a).trans (ih _)

theorem of_cores {p q : Pkg} (hc : q.cores = p.cores) (hm : q.mem = p.mem) (ht : q.pt = p.pt) (hr : q.resetting = p.resetting)
    (hq : q.queues = p.queues) : p.Halts q :=
  ⟨fun c => by rw [Pkg.core_of_cores hc]; exact .refl _, hm, ht, hr, hq⟩

theorem setCore {p : Pkg} {c : Nat} {k : Core} (h : (p.core c).Halts k) : p.Halts (p.setCore c k) where
  core d := by
    by_cases hd : d = c
    · rw [hd, Pkg.core_setCore_same]
      exact h
    · rw [Pkg.core_setCore_other _ hd]
      exact .refl _
  mem := rfl
  pt := rfl
  resetting := rfl
  queues := rfl

theorem modCore {p : Pkg} {c : Nat} {f : Core → Core} (h : (p.core c).Halts (f (p.core c))) : p.Halts (p.modCore c f) := by
  rw [Pkg.modCore_eq]
  exact setCore h

theorem modCtx (p : Pkg) (x : CtxRef) (f : Ctx → Ctx) : p.Halts (p.modCtx x f) where
  core c := by
    have hp := congrArg Core.preempt (p.modCtx_core_rest x f c)
    have ht := congrArg (fun k => k.task.map Task.untimed) (p.modCtx_core_rest x f c)
    have hi := congrArg Core.inbox (p.modCtx_core_rest x f c)
    exact ⟨hp, ht, hi⟩
  mem := rfl
  pt := rfl
  resetting := rfl
  queues := rfl

end Pkg.Halts

theorem Pkg.AtHomes.halts {p q : Pkg} (h : p.AtHomes q) : p.Halts q where
  core c := by
    have hi := congrArg Core.inbox (h.core c)
    exact ⟨h.preempt c, congrArg (Option.map Task.untimed) (h.task c), hi⟩
  mem := h.mem
  pt := h.pt
  resetting := h.resetting
  queues := h.queues

theorem Pkg.LogsTo.halts {p q : Pkg} (h : p.LogsTo q) : p.Halts q := by
  obtain ⟨sp, st, n, v, rfl⟩ := h
  exact .of_cores rfl rfl rfl rfl rfl

open Pkg (Halts)

theorem Pkg.squashFrom_halts (p : Pkg) (x : CtxRef) (whole counted : Bool) : p.Halts (p.squashFrom x whole counted) := by
  obtain ⟨k, c, q, keys, h, hctxs, hout⟩ := p.squashFrom_shape x whole counted
  have hset : p.Halts (p.setCore x.core k) := by
    have hp := congrArg Core.preempt hout
    have ht := congrArg (fun k => k.task.map Task.untimed) hout
    have hi := congrArg Core.inbox hout
    exact .setCore ⟨hp, ht, hi⟩
  have hq : (p.setCore x.core k).Halts { p.setCore x.core k with exclQ := q } := .of_cores rfl rfl rfl rfl rfl
  rw [h]
  exact (hset.trans hq).trans (Pkg.shed_atHomes ..).halts

theorem Pkg.countSquashes_halts (p : Pkg) (x : CtxRef) : p.Halts (p.countSquashes x) :=
  (Halts.modCtx ..).trans (Pkg.advance_logs ..).halts

theorem Pkg.finishCut_halts (p : Pkg) (x : CtxRef) (f : Flow) : p.Halts (p.finishCut x f) := by
  unfold Pkg.finishCut
  dsimp only
  refine .trans ?_ (Halts.modCtx ..)
  refine .trans ?_ (Pkg.logChunk_logs ..).halts
  refine .trans ?_ (Pkg.skid_logs ..).halts
  refine .trans ?_ (Pkg.LogsTo.foldl Pkg.hitIfSet_logs _ _).halts
  refine .trans ?_ (Pkg.countSquashes_halts ..)
  refine .trans ?_ (Pkg.advance_logs ..).halts
  exact (Halts.modCtx ..).trans (Pkg.LogsTo.foldl (fun q e => q.advance_logs _ _ _) _ _).halts

theorem Pkg.reportStep_halts (p : Pkg) (x : CtxRef) (reason : Nat) : p.Halts (p.reportStep x reason) := by
  unfold Pkg.reportStep
  extract_lets c q q'
  split
  · exact .refl p
  · extract_lets n i
    have hq : p.Halts q := Halts.modCtx ..
    have hq' : p.Halts q' := by
      refine hq.trans ?_
      simp only [q']
      split
      · exact q.countSquashes_halts x
      · exact .refl q
    split
    · exact (hq'.trans (Halts.modCtx ..)).trans (Pkg.finishCut_halts ..)
    · exact hq'

theorem Pkg.breakStep_halts (p : Pkg) (x : CtxRef) (reason : Nat) : p.Halts (p.breakStep x reason) := by
  unfold Pkg.breakStep
  split
  · exact .refl p
  · refine .trans ?_ (Pkg.reportStep_halts ..)
    split
    · exact p.squashFrom_halts x _ _
    · exact .refl p

theorem Pkg.leaveStep_halts (p : Pkg) (x : CtxRef) : p.Halts (p.leaveStep x) := by
  unfold Pkg.leaveStep
  split
  · exact .refl p
  · exact p.breakStep_halts _ _

theorem Pkg.leaveMx_halts (p : Pkg) (x : CtxRef) : p.Halts (p.leaveMx x) := by
  unfold Pkg.leaveMx
  split
  · exact .refl p
  · split
    · exact .of_cores rfl rfl rfl rfl rfl
    · exact (Halts.modCtx ..).trans (Pkg.finishCut_halts ..)

theorem Pkg.haltCtx_halts (p : Pkg) (x : CtxRef) : p.Halts (p.haltCtx x) := by
  unfold Pkg.haltCtx
  dsimp only
  split
  · exact .refl p
  · refine .trans ?_ (Pkg.countSquashes_halts ..)
    refine .trans ?_ (Halts.modCtx ..)
    refine .trans ?_ (Pkg.retryBack_atHomes ..).halts
    refine .trans ?_ (Pkg.reportStep_halts ..)
    refine .trans (p.leaveStep_halts x) ?_
    split
    · exact Pkg.squashFrom_halts ..
    · exact Pkg.leaveMx_halts ..

theorem Pkg.haltCore_halts (p : Pkg) (core : Nat) : p.Halts (p.haltCore core) := .foldl Pkg.haltCtx_halts _ p

theorem Pkg.charge_halts (p : Pkg) (core : Nat) : p.Halts (p.charge core) := by
  unfold Pkg.charge
  split
  · exact .refl p
  next t ht =>
    split
    · exact .refl p
    · extract_lets c q f q'
      have hq : p.LogsTo q := p.advance_logs ..
      have hq' : q.Halts q' := .of_cores rfl rfl rfl rfl rfl
      have hcore : q'.core core = p.core core := Pkg.core_of_cores hq.cores core
      have huntimed : (q'.core core).task.map Task.untimed = some t.untimed := by rw [hcore, ht]; rfl
      have hcharged : q'.Halts (q'.modCore core fun k => { k with task := some { t with start := q'.pt } }) :=
        .modCore ⟨by dsimp only, by rw [huntimed]; rfl, by dsimp only⟩
      exact (hq.halts.trans hq').trans hcharged

theorem Pkg.abandonLoad_halts (p : Pkg) (x : CtxRef) : p.Halts (p.abandonLoad x) := by
  unfold Pkg.abandonLoad
  split
  · exact .refl p
  · exact .modCore ⟨rfl, rfl, rfl⟩

/-- A core that is pre-empted, beside what the halt leaves. -/
theorem Pkg.preemptCore_eq (p : Pkg) (core : Nat) :
    ∃ q : Pkg, p.Halts q ∧ p.preemptCore core = q.modCore core fun k => { k with preempt := true } :=
  ⟨_, ((Halts.foldl Pkg.abandonLoad_halts _ p).trans (Pkg.haltCore_halts ..)).trans (Pkg.charge_halts ..), rfl⟩

theorem Pkg.preemptCore_same (p : Pkg) (core : Nat) : ((p.preemptCore core).core core).preempt = true := by
  obtain ⟨q, -, h⟩ := p.preemptCore_eq core
  rw [h, Pkg.modCore_eq, Pkg.core_setCore_same]

theorem Pkg.preemptCore_other (p : Pkg) {core c : Nat} (hc : c ≠ core) :
    ((p.preemptCore core).core c).preempt = (p.core c).preempt := by
  obtain ⟨q, hq, h⟩ := p.preemptCore_eq core
  rw [h, Pkg.modCore_eq, Pkg.core_setCore_other _ hc, (hq.core c).preempt]

/-- Each of the cores pre-empted stays so. -/
theorem Pkg.preemptCores_preempt {cs : List Nat} {c : Nat} (p : Pkg) (h : c ∈ cs ∨ (p.core c).preempt = true) :
    ((cs.foldl Pkg.preemptCore p).core c).preempt = true := by
  induction cs generalizing p with
  | nil => exact h.resolve_left nofun
  | cons d cs ih =>
    rw [List.foldl_cons]
    refine ih (p.preemptCore d) ?_
    by_cases hd : c = d
    · exact .inr (hd ▸ p.preemptCore_same c)
    · rw [p.preemptCore_other hd]
      exact h.imp (fun hm => (List.mem_cons.mp hm).resolve_left hd) id

end Sys2Proof.Machine

/-! SUPPORT. Proofs: queue slots, entries and the arbiter (R374 to R379). -/

namespace Sys2Proof.Machine

theorem Pkg.hasSlot_given_up (p : Pkg) (n : Nat) :
    Pkg.hasSlot { p with qslots := p.qslots.map fun (e : Nat × QSlot) => if e.2.queue = some n then (e.1, .reset) else e } n = false := by
  rw [Pkg.hasSlot, List.any_eq_false]
  intro e he
  obtain ⟨a, -, rfl⟩ := List.mem_map.mp he
  split
  · exact nofun
  next hne => simpa using hne

/-- A queue that is to have a free slot next has its turn (R376). -/
theorem Pkg.slotTurn_of_first {p : Pkg} {n : Nat} (hst : (p.queue n).st = .active) (hslot : p.hasSlot n = false)
    (hfirst : ∀ e ∈ p.queues, e.2.st = .active → p.hasSlot e.1 = false →
      (n + 1024 - p.slotPos) % 1024 ≤ (e.1 + 1024 - p.slotPos) % 1024) : p.slotTurn n = true := by
  have hwants : (p.queue n).wantsSlot = true := by rw [Queue.wantsSlot, hst]; rfl
  simp only [Pkg.slotTurn, hwants, hslot, Bool.not_false, Bool.true_and, List.all_eq_true, Bool.or_eq_true, Bool.not_eq_true',
    Bool.and_eq_false_iff, decide_eq_true_eq]
  intro e he
  by_cases hwant : e.2.wantsSlot = true ∧ p.hasSlot e.1 = false
  · exact .inr (hfirst e he (by simpa [Queue.wantsSlot] using hwant.1) hwant.2)
  · exact .inl (by grind)

theorem State.does_entryTake {s : State} {n : Nat} (hst : (s.pkg.queue n).st = .active) (hgraph : (s.pkg.queue n).graph = none)
    (hwait : (s.pkg.queue n).waiting = []) (htail : (s.pkg.queue n).stail ≠ (s.pkg.queue n).shead) (hslot : s.pkg.hasSlot n = true)
    {q : Pkg} (h : s.pkg.takeEntry n = q) : s.does (.entryTake n) q := by
  refine State.does_of_run rfl ((if_pos ⟨hst, ?_, ?_, htail, hslot⟩).trans h)
  · rw [hgraph]
    rfl
  · rw [hwait]
    rfl

/-- Settles O47: an eviction pre-empts every core of the queue that may be, and what one core's halt leaves of another's pre-emption
carries it through. -/
theorem frontEndEvents : Obligations.FrontEndEvents := by
  unfold Obligations.FrontEndEvents
  intro s n p x turn
  refine ⟨fun i hst hslot hfirst hfree => ?slot, fun hslot hst hspawn => ?evict, fun hst hgraph hwait htail hslot => ?entry, ?arbiter⟩
  case slot =>
    refine State.does_of_run rfl ?_
    have hturn : (!p.slotTurn n) = false := by rw [Pkg.slotTurn_of_first hst hslot hfirst]; rfl
    unfold Pkg.takeSlot
    dsimp only
    rw [hfree]
    exact if_neg (ne_true_of_eq_false hturn)
  case evict =>
    have hnone : (p.coresOf n).any (fun c => (p.core c).spawning) = false := by
      rw [List.any_eq_false]
      intro c hc
      rw [hspawn c hc]
      exact nofun
    refine ⟨_, State.does_of_run rfl (if_neg ?_), Pkg.hasSlot_given_up .., fun c hc hgo => ?_⟩
    · rw [hslot, hnone]
      simpa using hst
    · exact Pkg.preemptCores_preempt p (.inl (List.mem_filter.mpr ⟨hc, hgo⟩))
  case entry =>
    intro va begun
    refine ⟨fun b q hread => ⟨fun hok => ?_, fun hok l q' hroots => ?_⟩, fun hread => ?_⟩
    all_goals
      refine State.does_entryTake hst hgraph hwait htail hslot ?_
      unfold Pkg.takeEntry
      dsimp only
      rw [hread]
      dsimp only
    · exact if_pos (by rw [hok]; rfl)
    · rw [if_neg (by rw [hok]; exact nofun), hroots]
    · rfl
  case arbiter =>
    intro at_ sl put
    refine ⟨fun hq => ?_, fun m hq htake => ?_, fun m u cores g hq htake hgraph => ⟨fun hd => ?_, fun hd hu => ?_, fun hd hu => ?_⟩⟩
    all_goals
      refine State.does_of_run rfl ?_
      unfold Pkg.visitSlot
      dsimp only
      rw [hq]
    · dsimp only
      rw [htake]
      dsimp only [at_, put]
      rw [hq]
    · dsimp only
      rw [htake, hgraph]
      dsimp only
      rw [if_pos hd]
      dsimp only [at_, put]
      rw [hq]
    · dsimp only
      rw [htake, hgraph]
      dsimp only
      rw [if_neg (Int.not_le.mpr hd), if_pos hu] <;> rfl
    · dsimp only
      rw [htake, hgraph]
      dsimp only
      rw [if_neg (Int.not_le.mpr hd), if_neg (ne_true_of_eq_false hu)] <;> rfl

end Sys2Proof.Machine

/-! SUPPORT. Proofs: resets of the module and of a die (R428, R436 to R438). -/

namespace Sys2Proof.Machine

/-- The core has no task, or one that has ended. -/
def Core.settled (k : Core) : Prop := ∀ t, k.task = some t → t.ended ≠ none

theorem Core.settled_of_halts {k k' : Core} (h : k.Halts k') (hk : k.settled) : k'.settled := by
  intro t ht
  obtain ⟨u, hu, hut⟩ := h.task_of ht
  have hended := congrArg Task.ended hut
  exact ne_of_eq_of_ne hended.symm (hk u hu)

/-- `q` is `p` after tasks have ended: a core whose task is over has none that runs, and the package keeps its memory, its time and
its resets. -/
structure Pkg.Closes (p q : Pkg) : Prop where
  settled : ∀ c, (p.core c).settled → (q.core c).settled
  mem : q.mem = p.mem
  pt : q.pt = p.pt
  resetting : q.resetting = p.resetting

theorem Pkg.Halts.closes {p q : Pkg} (h : p.Halts q) : p.Closes q := ⟨fun c => Core.settled_of_halts (h.core c), h.mem, h.pt, h.resetting⟩

theorem Pkg.AtHomes.closes {p q : Pkg} (h : p.AtHomes q) : p.Closes q := h.halts.closes

namespace Pkg.Closes

theorem refl (p : Pkg) : p.Closes p := ⟨fun _ => id, rfl, rfl, rfl⟩

theorem trans {p q r : Pkg} (h : p.Closes q) (h' : q.Closes r) : p.Closes r where
  settled c hc := h'.settled c (h.settled c hc)
  mem := h'.mem.trans h.mem
  pt := h'.pt.trans h.pt
  resetting := h'.resetting.trans h.resetting

theorem foldl {α : Type} {f : Pkg → α → Pkg} (h : ∀ (p : Pkg) a, p.Closes (f p a)) (l : List α) (p : Pkg) : p.Closes (l.foldl f p) := by
  induction l generalizing p with
  | nil => exact refl p
  | cons a t ih => exact (h p a).trans (ih _)

/-- A fold that closes each core that it visits. -/
theorem foldl_over {f : Pkg → Nat → Pkg} (h : ∀ (p : Pkg) a, p.Closes (f p a)) (hf : ∀ p c, ((f p c).core c).settled) {l : List Nat}
    {c : Nat} (hc : c ∈ l) (p : Pkg) : ((l.foldl f p).core c).settled := by
  induction l generalizing p with
  | nil => cases hc
  | cons a t ih =>
    obtain rfl | ht := List.mem_cons.mp hc
    · exact (foldl h t _).settled c (hf p c)
    · exact ih ht _

theorem modCore {p : Pkg} {c : Nat} {f : Core → Core} (h : (p.core c).settled → (f (p.core c)).settled) : p.Closes (p.modCore c f) where
  settled d hd := by
    rw [Pkg.modCore_eq]
    by_cases hc : d = c
    · subst hc
      rw [Pkg.core_setCore_same]
      exact h hd
    · rwa [Pkg.core_setCore_other _ hc]
  mem := rfl
  pt := rfl
  resetting := rfl

end Pkg.Closes

/-- A change of every core that is listed. -/
theorem Tab.get_map {α : Type} {f : Nat × α → Nat × α} (hf : ∀ e, (f e).1 = e.1) (d : α) (t : Tab α) (i : Nat) :
    Tab.get d (t.map f) i = ((Tab.find? t i).map fun a => (f (i, a)).2).getD d := by
  rw [Tab.get]
  congr 1
  induction t with
  | nil => rfl
  | cons e t ih =>
    obtain ⟨j, a⟩ := e
    have hj := hf (j, a)
    rw [List.map_cons, Tab.find?, hj, ih, Tab.find?]
    split
    next heq =>
      subst heq
      rfl
    · rfl

theorem Core.reset_settled : Core.reset.settled := by
  intro t ht
  have hnone : Core.reset.task = none := rfl
  rw [hnone] at ht
  cases ht

theorem Pkg.Closes.mapCores {p q : Pkg} {f : Nat × Core → Nat × Core} (hf : ∀ e, (f e).1 = e.1) (hover : ∀ e, e.2.settled → (f e).2.settled)
    (hc : q.cores = p.cores.map f) (hm : q.mem = p.mem) (ht : q.pt = p.pt) (hr : q.resetting = p.resetting) : p.Closes q where
  settled c hk := by
    rw [Pkg.core, hc, Tab.get_map hf]
    rw [Pkg.core, Tab.get] at hk
    cases hfind : Tab.find? p.cores c with
    | none =>
      rw [Option.map_none, Option.getD_none]
      exact Core.reset_settled
    | some k =>
      rw [hfind] at hk
      rw [Option.map_some, Option.getD_some]
      exact hover (c, k) hk
  mem := hm
  pt := ht
  resetting := hr

/-! ### Ending tasks -/

theorem Pkg.freeCtx_halts (p : Pkg) (x : CtxRef) : p.Halts (p.freeCtx x) := by
  unfold Pkg.freeCtx
  extract_lets c q
  have hq : p.Halts q := .of_cores rfl rfl rfl rfl rfl
  exact hq.trans (.modCore ⟨rfl, rfl, rfl⟩)

theorem Core.settled_endedWith (k : Core) (e : Nat × Nat × Word) (silent : Bool) :
    Core.settled { k with task := k.task.map fun t => { t with ended := some e, silent }, vq := [], mq := [], preempt := false } := by
  intro t ht
  obtain ⟨u, -, rfl⟩ := Option.map_eq_some_iff.mp ht
  exact nofun

theorem Pkg.endOne_closes (cause gcid : Nat) (pc : Word) (silent : Bool) (p : Pkg) (core : Nat) :
    p.Closes (p.endOne cause gcid pc silent core) ∧ ((p.endOne cause gcid pc silent core).core core).settled := by
  unfold Pkg.endOne
  split
  next hnone => exact ⟨.refl p, fun t ht => absurd (hnone.symm.trans ht) nofun⟩
  next t ht =>
    split
    next hend =>
      refine ⟨.refl p, fun u hu => ?_⟩
      cases ht.symm.trans hu
      exact Option.isSome_iff_ne_none.mp hend
    next =>
      extract_lets q r u
      have hq : p.Halts q := .foldl (fun p y => p.breakStep_halts y 2) _ p
      have hr : q.Halts r := by
        simp only [r]
        split
        · exact q.haltCore_halts core
        · exact (q.haltCore_halts core).trans (Pkg.charge_halts ..)
      have hu : r.Halts u := .foldl Pkg.freeCtx_halts _ r
      refine ⟨((hq.trans hr).trans hu).closes.trans (.modCore fun _ => Core.settled_endedWith _ _ _), ?_⟩
      rw [Pkg.modCore_eq, Pkg.core_setCore_same]
      exact Core.settled_endedWith _ _ _

theorem Pkg.self_mem_gangCores (p : Pkg) {core : Nat} (h : ¬ (p.core core).settled) : core ∈ p.gangCores core := by
  rw [Pkg.gangCores]
  split
  · exact List.mem_singleton_self core
  next g hg =>
    rw [Pkg.gangOf] at hg
    cases ht : (p.core core).task with
    | none =>
      refine absurd (fun t h' => ?_) h
      rw [ht] at h'
      cases h'
    | some t =>
      rw [ht] at hg
      have hg : t.info.gang = some g := hg
      have hfind : Tab.find? p.cores core = some (p.core core) := by
        cases hf : Tab.find? p.cores core with
        | none =>
          rw [Pkg.core, Tab.get, hf] at ht
          cases ht
        | some k => rw [Pkg.core, Tab.get, hf, Option.getD_some]
      refine List.mem_filterMap.mpr ⟨_, Tab.mem_of_find? hfind, ?_⟩
      simp only [ht, hg, ↓reduceIte]

theorem doomInbox_settled (g cause gcid : Nat) (pc : Word) (e : Nat × Core) (h : e.2.settled) : (doomInbox g cause gcid pc e).2.settled := h

theorem Pkg.endTask_closes (p : Pkg) (core cause gcid : Nat) (pc : Word) (silent : Bool) :
    p.Closes (p.endTask core cause gcid pc silent) ∧ ((p.endTask core cause gcid pc silent).core core).settled := by
  unfold Pkg.endTask
  extract_lets g q r
  have hq : p.Closes q := .foldl (fun p c => (Pkg.endOne_closes cause gcid pc silent p c).1) _ p
  have hr : q.Closes r := by
    cases hg : g with
    | none => simp only [r, hg]; exact .refl q
    | some g' =>
      simp only [r, hg]
      exact .mapCores (f := doomInbox g' cause gcid pc) (fun _ => rfl) (doomInbox_settled g' cause gcid pc) rfl rfl rfl rfl
  have hover : (q.core core).settled := by
    by_cases h : (p.core core).settled
    · exact hq.settled core h
    · exact Pkg.Closes.foldl_over (fun p c => (Pkg.endOne_closes cause gcid pc silent p c).1)
        (fun p c => (Pkg.endOne_closes cause gcid pc silent p c).2) (p.self_mem_gangCores h) p
  have hlast : r.Halts { r with bars := r.bars.filter fun b => some b.2.gang != g, stops := r.stops.filterMap (Stop.without r.hasEnded) } :=
    .of_cores rfl rfl rfl rfl rfl
  exact ⟨(hq.trans hr).trans hlast.closes, hlast.closes.settled core (hr.settled core hover)⟩

/-- The tasks of a die end: none of its cores has one that runs. -/
theorem Pkg.endDieTasks_closes (p : Pkg) (d : Nat) :
    p.Closes (p.endDieTasks d) ∧ ∀ c ∈ dieCores d, ((p.endDieTasks d).core c).settled := by
  unfold Pkg.endDieTasks
  extract_lets q doom waiting r
  have hstep (p : Pkg) (c : Nat) : p.Closes (match p.dieEnd c with | (cause, gcid, pc) => p.endTask c cause gcid pc) ∧
      ((match p.dieEnd c with | (cause, gcid, pc) => p.endTask c cause gcid pc).core c).settled := by
    split
    exact Pkg.endTask_closes ..
  have hq : p.Closes q := .foldl (fun p c => (hstep p c).1) _ p
  have hover (c : Nat) (hc : c ∈ dieCores d) : (q.core c).settled :=
    Pkg.Closes.foldl_over (fun p c => (hstep p c).1) (fun p c => (hstep p c).2) hc p
  have hr : q.Closes r := by
    refine .foldl (fun p e => ?_) _ q
    dsimp only
    split
    · exact (Pkg.endTask_closes ..).1
    · exact .mapCores (f := doomInbox e.1 _ _ _) (fun _ => rfl) (doomInbox_settled _ _ _ _) rfl rfl rfl rfl
  have hlast (l : List Nat) : r.Closes (l.foldl (fun (p : Pkg) c =>
      if (p.core c).inbox.isEmpty then p
      else p.modCore c fun k => { k with inbox := k.inbox.map fun (i : TaskInfo) => doom i c }) r) := by
    refine .foldl (fun p c => ?_) l r
    split
    · exact .refl p
    · exact .modCore id
  exact ⟨(hq.trans hr).trans (hlast _), fun c hc => (hlast _).settled c (hr.settled c (hover c hc))⟩

end Sys2Proof.Machine

/-! SUPPORT. Proofs: how a die is drained, wiped and returned (R436 to R438). -/

namespace Sys2Proof.Machine

theorem Pkg.drainDie_atHomes (p : Pkg) (d : Nat) : p.AtHomes (p.drainDie d) :=
  (Pkg.AtHomes.foldl Pkg.crystallize_atHomes _ p).trans (.foldl (fun p (e : Nat × L2Line) => p.writeBack_atHomes e.1 0x21) _ _)

theorem Pkg.discardRecs_atHomes (p : Pkg) (d : Nat) : p.AtHomes (p.discardRecs d) := by
  unfold Pkg.discardRecs
  extract_lets mine gone
  have hdrop : p.AtHomes { p with recs := p.recs.filter fun r => !mine r } := ⟨rfl, fun _ => rfl, fun _ => rfl⟩
  refine hdrop.trans (.foldl (fun p r => ?_) gone _)
  dsimp only
  split
  · exact ((Pkg.poisonWith_atHomes ..).trans (Pkg.ras_atHomes ..)).trans (Pkg.drainDone_atHomes ..)
  · exact (Pkg.poisonWith_atHomes ..).trans (Pkg.ras_atHomes ..)

theorem Pkg.wipeDie_closes (p : Pkg) (d : Nat) : p.Closes (p.wipeDie d) := by
  unfold Pkg.wipeDie
  extract_lets keep mineHolders line wipe q
  have hwipe (e : Nat × Core) : (wipe e).1 = e.1 ∧ (wipe e).2.task = e.2.task := by
    simp only [wipe]
    split <;> exact ⟨rfl, rfl⟩
  have hq : p.Closes q := .mapCores (fun e => (hwipe e).1) (fun e he t ht => he t ((hwipe e).2 ▸ ht)) rfl rfl rfl rfl
  exact hq.trans (.foldl (fun p c => .modCore id) _ q)

theorem Pkg.dieSteps_closes (p : Pkg) (d : Nat) : p.Closes (p.dieSteps d) := by
  unfold Pkg.dieSteps
  extract_lets q
  have hq : p.Closes q := (p.drainDie_atHomes d).closes
  split
  · exact (hq.trans (q.discardRecs_atHomes d).closes).trans (Pkg.wipeDie_closes ..)
  · exact hq

theorem mem_dieCores {d c : Nat} (h : c / 64 = d) : c ∈ dieCores d :=
  List.mem_map.mpr ⟨c % 64, List.mem_range.mpr (Nat.mod_lt _ (by decide)), by omega⟩

theorem Pkg.rasEvent_atHomes (p : Pkg) (die reason : Nat) : p.AtHomes (p.rasEvent die reason) := p.ras_atHomes ..

theorem Pkg.preemptCore_closes (p : Pkg) (core : Nat) : p.Closes (p.preemptCore core) := by
  obtain ⟨q, hq, h⟩ := p.preemptCore_eq core
  rw [h]
  exact hq.closes.trans (.modCore id)

/-- A die reset that begins: it is entered with the time of its begin, and the die's tasks have ended. -/
theorem Pkg.beginDieReset_begins (p : Pkg) (d : Nat) (trip cmd : Bool) :
    Tab.find? (p.beginDieReset d trip cmd).resetting d = some { since := p.pt, orderly := true, trip, cmd } ∧
      ∀ c, c / 64 = d → ((p.beginDieReset d trip cmd).core c).settled := by
  unfold Pkg.beginDieReset
  extract_lets q r
  have hq : p.Closes q := (p.rasEvent_atHomes d 7).closes
  have hr : p.Closes r := (hq.trans (.foldl Pkg.preemptCore_closes _ q)).trans (Pkg.endDieTasks_closes ..).1
  have hover (c : Nat) (hc : c / 64 = d) : (r.core c).settled := (Pkg.endDieTasks_closes ..).2 c (mem_dieCores hc)
  clear_value r
  have hsteps := Pkg.dieSteps_closes { r with resetting := r.resetting.put d { since := r.pt, orderly := true, trip, cmd } } d
  refine ⟨?_, fun c hc => ?_⟩
  case refine_2 =>
    refine hsteps.settled c ?_
    exact hover c hc
  rw [hsteps.resetting, Tab.find?_put_same, hr.pt]

theorem Pkg.endCmd_resetting (p : Pkg) (vi : Nat) (b : Block) (v : Nat) : (p.endCmd vi b v).resetting = p.resetting := rfl

/-- A drained die that may return is no longer in reset. -/
theorem Pkg.returnDie_ends {p : Pkg} {d : Nat} {r : DieReset} {cool : Bool} (hr : Tab.find? p.resetting d = some r)
    (hcool : r.trip = false ∨ cool = true) (hdone : (p.dieSteps d).dieDrained d = true) :
    Tab.find? (p.returnDie d cool).resetting d = none := by
  unfold Pkg.returnDie
  rw [hr]
  have hgo : ¬ ((r.trip && !cool) || !(p.dieSteps d).dieDrained d) = true := by
    rw [hdone]
    obtain h | h := hcool <;> simp [h]
  dsimp only
  rw [if_neg hgo]
  have hgone : Tab.find? (Pkg.rasEvent { p.dieSteps d with resetting := (p.dieSteps d).resetting.drop d } d 8).resetting d = none := by
    rw [(Pkg.rasEvent_atHomes ..).resetting, Tab.find?_drop_same]
  split
  · rw [Pkg.endCmd_resetting, hgone]
  · exact hgone

theorem Pkg.failDie_resets (p : Pkg) (d : Nat) : ∃ r, Tab.find? (p.failDie d).resetting d = some r ∧ r.orderly = false := by
  unfold Pkg.failDie
  extract_lets
  rw [(Pkg.wipeDie_closes ..).resetting, (Pkg.discardRecs_atHomes ..).resetting, Tab.find?_put_same]
  exact ⟨_, rfl, rfl⟩

theorem State.does_of_command {s : State} {i : Instr} {vi : Nat} {b : Block} {code : Nat} {f : (Nat → Nat) → CmdEnd} {q : Pkg}
    (he : exec i s = s.run fun p => p.command vi b code f) (h : s.runs vi b code) (hf : f (s.arg vi b) = .run q) : s.does i q := by
  have hdoes := State.exec_command he h
  rw [hf] at hdoes
  exact hdoes

theorem Pkg.moduleReset_epochs (p : Pkg) (fails : Bool) {i : Nat} (h : i < 16) :
    (p.moduleReset fails).epochs.get 0 i = p.epochs.get 0 i + 1 := by
  have hmap : ∀ (l : List Nat), i ∈ l → Tab.get 0 (l.map fun j => (j, p.epochs.get 0 j + 1)) i = p.epochs.get 0 i + 1 := by
    intro l
    induction l with
    | nil => exact nofun
    | cons j l ih =>
      intro hi
      rw [List.map_cons, Tab.get, Tab.find?]
      split
      next hj => rw [hj]; rfl
      next hj => exact ih ((List.mem_cons.mp hi).resolve_left (Ne.symm hj))
  exact hmap _ (List.mem_range.mpr h)

/-- Settles O53: a die that enters reset keeps its entry, and its tasks stay ended, through every step of its reset. -/
theorem resets : Obligations.Resets := by
  unfold Obligations.Resets
  intro s vi die temp fails p d begun
  have hbegins (d : Nat) (trip cmd : Bool) : begun d (p.beginDieReset d trip cmd) trip cmd :=
    ⟨(p.beginDieReset_begins d trip cmd).1, fun c t hc => (p.beginDieReset_begins d trip cmd).2 c hc t⟩
  refine ⟨?module, fun h => ⟨fun hvi => ?_, fun hvi => ?_⟩, fun r hr hlate => ?timeout, fun h => ?command, fun hdie => ?error,
    fun r hr htrip htemp => ?release, fun r cool hr hcool hdone => Pkg.returnDie_ends hr hcool hdone⟩
  case module =>
    intro q
    refine ⟨State.does_of_run rfl rfl, fun k => rfl, rfl, rfl, rfl, rfl, rfl, rfl, rfl, rfl, rfl, rfl, rfl, rfl, rfl, rfl, rfl, rfl,
      fun i hi => Pkg.moduleReset_epochs p fails hi⟩
  · exact State.rejects_of_err rfl h (if_pos hvi)
  · exact State.does_of_command rfl h (if_neg (not_not.mpr hvi))
  case timeout =>
    refine State.does_of_run rfl ?_
    dsimp only
    rw [hr]
    exact if_pos hlate
  case command =>
    refine ⟨fun hvi => State.rejects_of_err rfl h (if_pos hvi), fun hvi hf => ?_, fun hvi hf hd => ?_, fun hvi hf hd => ?_⟩
    · exact State.rejects_of_err rfl h ((if_neg (not_not.mpr hvi)).trans (if_pos hf))
    · exact State.rejects_of_err rfl h ((if_neg (not_not.mpr hvi)).trans ((if_neg (ne_true_of_eq_false hf)).trans (if_pos hd)))
    · have hreset : s.pkg.resetDie (s.arg vi .platform 1) = match Tab.find? p.resetting d with
          | none => .run (if p.steady then p.beginDieReset d false true else p)
          | some r => if r.cmd && r.orderly then .run (p.returnDie d false) else .run { p with resetting := p.resetting.put d { r with cmd := true } } :=
        (if_neg (ne_true_of_eq_false hf)).trans (if_neg (Nat.not_lt.mpr hd))
      refine ⟨fun hnone hst => ⟨p.beginDieReset d false true, ?_, hbegins d false true⟩, fun hnone hst => ?_,
        fun r hr hcmd hord => ?_⟩
      all_goals
        refine State.does_of_command rfl h ((if_neg (not_not.mpr hvi)).trans (hreset.trans ?_))
      · rw [hnone]
        exact congrArg CmdEnd.run (if_pos hst)
      · rw [hnone]
        exact congrArg CmdEnd.run (if_neg (ne_true_of_eq_false hst))
      · rw [hr]
        exact if_pos (by rw [hcmd, hord]; rfl)
  case error =>
    have hle : ¬ die > 7 := Nat.not_lt.mpr hdie
    refine ⟨fun r hr hord => ?_, fun hord => ⟨fun hgo => ?_, p.failDie_resets die⟩, fun hnone hst => ?_,
      fun htemp => ⟨fun hnone hst => ⟨p.beginDieReset die true false, ?_, hbegins die true false⟩, fun hnone hst => ?_, fun r hr => ?_⟩⟩
    · refine State.does_of_run rfl ((if_neg hle).trans ?_)
      rw [hr]
      exact if_neg (ne_true_of_eq_false hord)
    · refine State.does_of_run rfl ((if_neg hle).trans ?_)
      cases hr : Tab.find? p.resetting die with
      | none => exact if_pos (hgo.resolve_right (not_not.mpr hr))
      | some r => exact if_pos (hord r hr)
    · refine State.does_of_run rfl ((if_neg hle).trans ?_)
      rw [hnone]
      exact if_neg (ne_true_of_eq_false hst)
    all_goals
      have hgo : ¬ (die > 7 ∨ temp < 120) := not_or.mpr ⟨hle, Nat.not_lt.mpr htemp⟩
      refine State.does_of_run rfl ((if_neg hgo).trans ?_)
    · rw [hnone]
      exact if_pos hst
    · rw [hnone]
      exact if_neg (ne_true_of_eq_false hst)
    · rw [hr]
  case release =>
    refine State.does_of_run rfl ((if_neg (Nat.not_le.mpr htemp)).trans (if_pos ?_))
    rw [hr]
    exact congrArg some htrip

end Sys2Proof.Machine

/-! SUPPORT. Proofs: the broadcast of a stop, against a halted context that another one steps (R342, R409). -/

namespace Sys2Proof.Machine

/-- A stop that is still to reach the task of core 0. -/
def stopOfSteppedTask : Stop :=
  { seq := 1, cause := 0x31, tool := 0, target := 0, dom := 0, tasks := [⟨0, steppedWhileHalted.pkg.launchOf 0⟩], halted := [], hits := [],
    skids := [], notes := [], recorded := false, rel := false, raised := 0, strayed := false }

/-- `steppedWhileHalted` as that stop has been raised. -/
def stopReachesStepped : State := { steppedWhileHalted with pkg := { steppedWhileHalted.pkg with stops := [stopOfSteppedTask] } }

theorem stopReachesStepped_goes_on :
    ((stopReachesStepped.pkg.receiveStop stopOfSteppedTask ⟨0, steppedWhileHalted.pkg.launchOf 0⟩).ctx ⟨0, 0⟩).st = .running := by
  decide +kernel

/-- Refutes O51: a context that is halted when a stop reaches its core runs again when the context that steps it is halted after it, for
a step that ends so leaves its target running where it has no stop of its own. -/
theorem not_traceEvents : ¬ Obligations.TraceEvents := by
  unfold Obligations.TraceEvents
  intro h
  obtain ⟨-, -, -, -, -, -, -, hstops, -⟩ := h stopReachesStepped 0
  obtain ⟨hreach, -, -⟩ := hstops 1 0 stopOfSteppedTask
  have hspawn : (stopReachesStepped.pkg.core 0).spawning = false := by decide +kernel
  have hruns : (stopReachesStepped.pkg.core 0).runs ⟨0, steppedWhileHalted.pkg.launchOf 0⟩ = true := by decide +kernel
  have hfind : List.find? (fun (t : Stop) => t.seq == 1) stopReachesStepped.pkg.stops = some stopOfSteppedTask := by decide +kernel
  have htask : List.find? (fun (r : TaskRef) => r.core == 0 && stopOfSteppedTask.reaching r) stopOfSteppedTask.tasks =
      some ⟨0, steppedWhileHalted.pkg.launchOf 0⟩ := by decide +kernel
  obtain ⟨q, hdoes, hq, -⟩ := hreach _ hspawn hfind htask
  have hreceive : stopReachesStepped.does (.stopBroadcast 1 0)
      (stopReachesStepped.pkg.receiveStop stopOfSteppedTask ⟨0, steppedWhileHalted.pkg.launchOf 0⟩) := by
    refine State.does_of_run rfl ((if_neg (ne_true_of_eq_false hspawn)).trans ?_)
    rw [hfind]
    dsimp only
    rw [htask]
  have hstill := hq hruns 0 (by decide)
  rw [State.does_ctx hreceive hdoes, stopReachesStepped_goes_on] at hstill
  exact absurd hstill (by decide)

end Sys2Proof.Machine

/-! SUPPORT. Proofs: queues as a host enables, writes and resets them (R373, R376, R382). -/

namespace Sys2Proof.Machine

/-! ### Cores under a change of all -/

/-- A core that has a task is listed. -/
theorem Pkg.mem_cores_of_task {p : Pkg} {c : Nat} {t : Task} (ht : (p.core c).task = some t) : (c, p.core c) ∈ p.cores := by
  refine Tab.mem_of_find? ?_
  cases hf : Tab.find? p.cores c with
  | none =>
    rw [Pkg.core, Tab.get, hf] at ht
    cases ht
  | some k => rw [Pkg.core, Tab.get, hf, Option.getD_some]

/-- A core after a change of every core that is listed. -/
theorem Pkg.core_mapCores {p q : Pkg} {f : Nat × Core → Nat × Core} (hf : ∀ e, (f e).1 = e.1) (hc : q.cores = p.cores.map f) (c : Nat) :
    q.core c = (f (c, p.core c)).2 ∨ q.core c = .reset := by
  have hq : q.core c = ((Tab.find? p.cores c).map fun a => (f (c, a)).2).getD .reset := by rw [Pkg.core, hc, Tab.get_map hf]
  cases hfind : Tab.find? p.cores c with
  | none =>
    rw [hfind] at hq
    exact .inr hq
  | some k =>
    rw [hfind] at hq
    have hk : p.core c = k := by rw [Pkg.core, Tab.get, hfind, Option.getD_some]
    rw [hk]
    exact .inl hq

/-! ### What the end of tasks leaves of records and queues -/

/-- `q` is `p` after tasks have ended: no task and no record has come, and the queues stand. -/
structure Pkg.OnlyEnds (p q : Pkg) : Prop where
  queues : q.queues = p.queues
  inbox : ∀ c, ∀ i ∈ (q.core c).inbox, ∃ j ∈ (p.core c).inbox, j.queue = i.queue
  task : ∀ c t, (q.core c).task = some t → ∃ u, (p.core c).task = some u ∧ u.info = t.info

namespace Pkg.OnlyEnds

theorem refl (p : Pkg) : p.OnlyEnds p := ⟨rfl, fun _ i hi => ⟨i, hi, rfl⟩, fun _ t ht => ⟨t, ht, rfl⟩⟩

theorem trans {p q r : Pkg} (h : p.OnlyEnds q) (h' : q.OnlyEnds r) : p.OnlyEnds r where
  queues := h'.queues.trans h.queues
  inbox c i hi := by
    obtain ⟨j, hj, hji⟩ := h'.inbox c i hi
    obtain ⟨k, hk, hkj⟩ := h.inbox c j hj
    exact ⟨k, hk, hkj.trans hji⟩
  task c t ht := by
    obtain ⟨u, hu, hut⟩ := h'.task c t ht
    obtain ⟨v, hv, hvu⟩ := h.task c u hu
    exact ⟨v, hv, hvu.trans hut⟩

theorem foldl {α : Type} {f : Pkg → α → Pkg} (h : ∀ (p : Pkg) a, p.OnlyEnds (f p a)) (l : List α) (p : Pkg) : p.OnlyEnds (l.foldl f p) := by
  induction l generalizing p with
  | nil => exact refl p
  | cons a t ih => exact (h p a).trans (ih _)

theorem of_cores {p q : Pkg} (hc : q.cores = p.cores) (hq : q.queues = p.queues) : p.OnlyEnds q where
  queues := hq
  inbox c i hi := ⟨i, Pkg.core_of_cores hc c ▸ hi, rfl⟩
  task c t ht := ⟨t, Pkg.core_of_cores hc c ▸ ht, rfl⟩

end Pkg.OnlyEnds

theorem Pkg.Halts.onlyEnds {p q : Pkg} (h : p.Halts q) : p.OnlyEnds q where
  queues := h.queues
  inbox c i hi := ⟨i, (h.core c).inbox ▸ hi, rfl⟩
  task c t ht := by
    obtain ⟨u, hu, hut⟩ := (h.core c).task_of ht
    have hinfo := congrArg Task.info hut
    exact ⟨u, hu, hinfo⟩

theorem Pkg.modCore_ended_onlyEnds (p : Pkg) (core : Nat) (e : Nat × Nat × Word) (silent : Bool) :
    p.OnlyEnds (p.modCore core fun k =>
      { k with task := k.task.map fun t => { t with ended := some e, silent }, vq := [], mq := [], preempt := false }) where
  queues := rfl
  inbox c i hi := by
    rw [Pkg.modCore_eq] at hi
    by_cases hc : c = core
    · subst hc
      rw [Pkg.core_setCore_same] at hi
      exact ⟨i, hi, rfl⟩
    · rw [Pkg.core_setCore_other _ hc] at hi
      exact ⟨i, hi, rfl⟩
  task c t ht := by
    rw [Pkg.modCore_eq] at ht
    by_cases hc : c = core
    · subst hc
      rw [Pkg.core_setCore_same] at ht
      obtain ⟨v, hv, rfl⟩ := Option.map_eq_some_iff.mp ht
      exact ⟨v, hv, rfl⟩
    · rw [Pkg.core_setCore_other _ hc] at ht
      exact ⟨t, ht, rfl⟩

theorem Pkg.endOne_onlyEnds (cause gcid : Nat) (pc : Word) (silent : Bool) (p : Pkg) (core : Nat) :
    p.OnlyEnds (p.endOne cause gcid pc silent core) := by
  unfold Pkg.endOne
  split
  · exact .refl p
  · split
    · exact .refl p
    · extract_lets q r u
      have hq : p.Halts q := .foldl (fun p y => p.breakStep_halts y 2) _ p
      have hr : q.Halts r := by
        simp only [r]
        split
        · exact q.haltCore_halts core
        · exact (q.haltCore_halts core).trans (Pkg.charge_halts ..)
      have hu : r.Halts u := .foldl Pkg.freeCtx_halts _ r
      exact ((hq.trans hr).trans hu).onlyEnds.trans (Pkg.modCore_ended_onlyEnds ..)

theorem Pkg.doomed_onlyEnds {p q : Pkg} (g cause gcid : Nat) (pc : Word) (hc : q.cores = p.cores.map (doomInbox g cause gcid pc))
    (hq : q.queues = p.queues) : p.OnlyEnds q where
  queues := hq
  inbox c i hi := by
    obtain h | h := Pkg.core_mapCores (f := doomInbox g cause gcid pc) (fun _ => rfl) hc c
    · rw [h] at hi
      obtain ⟨j, hj, rfl⟩ := List.mem_map.mp hi
      refine ⟨j, hj, ?_⟩
      split <;> rfl
    · rw [h] at hi
      cases hi
  task c t ht := by
    obtain h | h := Pkg.core_mapCores (f := doomInbox g cause gcid pc) (fun _ => rfl) hc c
    · rw [h] at ht
      exact ⟨t, ht, rfl⟩
    · rw [h] at ht
      cases ht

theorem Pkg.endTask_onlyEnds (p : Pkg) (core cause gcid : Nat) (pc : Word) (silent : Bool) :
    p.OnlyEnds (p.endTask core cause gcid pc silent) := by
  unfold Pkg.endTask
  extract_lets g q r
  have hq : p.OnlyEnds q := .foldl (Pkg.endOne_onlyEnds cause gcid pc silent) _ p
  have hr : q.OnlyEnds r := by
    cases hg : g with
    | none => simp only [r, hg]; exact .refl q
    | some g' =>
      simp only [r, hg]
      exact Pkg.doomed_onlyEnds g' cause gcid pc rfl rfl
  exact (hq.trans hr).trans (.of_cores rfl rfl)

/-! ### Operations that are cancelled -/

theorem Pkg.endOp_halts (p : Pkg) (o : Op) (v : Word) : p.Halts (p.endOp o v) := by
  unfold Pkg.endOp
  extract_lets q
  have hq : p.Halts q := .of_cores rfl rfl rfl rfl rfl
  split
  next reg _ =>
    have hmod := Pkg.Halts.modCtx q o.who fun c => c.tokenDone o.gen reg (o.chunk * 64 + o.lidx) v
    exact (hq.trans hmod).trans (.of_cores rfl rfl rfl rfl rfl)
  · exact hq

theorem Pkg.copyEnd_halts (p : Pkg) (o : Op) (x : Shape) : p.Halts (p.copyEnd o x) := by
  unfold Pkg.copyEnd
  split
  · exact p.endOp_halts o _
  · exact .of_cores rfl rfl rfl rfl rfl

theorem Pkg.cancelOp_halts (p : Pkg) (o : Op) : p.Halts (p.cancelOp o) := by
  unfold Pkg.cancelOp
  split
  case h_2 =>
    unfold Pkg.cancelCopy
    split
    · exact p.endOp_halts o _
    · dsimp only
      split
      · exact p.endOp_halts o _
      · exact p.copyEnd_halts _ _
  case h_6 | h_7 => exact .trans (.modCore ⟨rfl, rfl, rfl⟩) (Pkg.endOp_halts ..)
  all_goals exact p.endOp_halts o _

/-! ### The begin of a queue's reset -/

/-- Nothing of a queue runs: no record of it waits at a core, and its tasks have ended and report nothing. -/
structure Pkg.Vacated (p : Pkg) (n : Nat) : Prop where
  inbox : ∀ c, ∀ i ∈ (p.core c).inbox, i.queue ≠ n
  task : ∀ c t, (p.core c).task = some t → t.info.queue = n → t.ended ≠ none ∧ t.silent = true

theorem Pkg.Vacated.of_cores {p q : Pkg} {n : Nat} (h : p.Vacated n) (hc : q.cores = p.cores) : q.Vacated n where
  inbox c i hi := h.inbox c i (Pkg.core_of_cores hc c ▸ hi)
  task c t ht := h.task c t (Pkg.core_of_cores hc c ▸ ht)

theorem Pkg.Vacated.halts {p q : Pkg} {n : Nat} (h : p.Vacated n) (hq : p.Halts q) : q.Vacated n where
  inbox c i hi := h.inbox c i ((hq.core c).inbox ▸ hi)
  task c t ht hn := by
    obtain ⟨u, hu, hut⟩ := (hq.core c).task_of ht
    have hinfo := congrArg (fun t : Task => t.info.queue) hut
    have hended := congrArg Task.ended hut
    have hsilent := congrArg Task.silent hut
    obtain ⟨he, hs⟩ := h.task c u hu (hinfo.trans hn)
    exact ⟨ne_of_eq_of_ne hended.symm he, hsilent.symm.trans hs⟩

/-- Once the tasks of a queue have ended, silence leaves nothing of it. -/
theorem Pkg.silence_vacated {p : Pkg} {n : Nat} (hbox : ∀ c, ∀ i ∈ (p.core c).inbox, i.queue ≠ n)
    (hend : ∀ c t, (p.core c).task = some t → t.info.queue = n → t.ended ≠ none) : (p.silence n).Vacated n where
  inbox c i hi := by
    obtain h | h := Pkg.core_mapCores (p := p) (q := p.silence n) (f := fun (e : Nat × Core) =>
      (e.1, { e.2 with task := e.2.task.map fun (t : Task) => if t.info.queue = n then { t with silent := true } else t })) (fun _ => rfl) rfl c
    · rw [h] at hi
      exact hbox c i hi
    · rw [h] at hi
      cases hi
  task c t ht hn := by
    obtain h | h := Pkg.core_mapCores (p := p) (q := p.silence n) (f := fun (e : Nat × Core) =>
      (e.1, { e.2 with task := e.2.task.map fun (t : Task) => if t.info.queue = n then { t with silent := true } else t })) (fun _ => rfl) rfl c
    · rw [h] at ht
      obtain ⟨u, hu, hut⟩ := Option.map_eq_some_iff.mp ht
      have hun : u.info.queue = n := by
        rw [← hut] at hn
        split at hn <;> exact hn
      rw [if_pos hun] at hut
      rw [← hut]
      exact ⟨hend c u hu hun, rfl⟩
    · rw [h] at ht
      cases ht

theorem Pkg.mem_coresOf {p : Pkg} {n c : Nat} {t : Task} (ht : (p.core c).task = some t) (hn : t.info.queue = n) : c ∈ p.coresOf n :=
  List.mem_filterMap.mpr ⟨_, Pkg.mem_cores_of_task ht, by simp [ht, hn]⟩

/-- The tasks of a queue whose records are gone from the inboxes end. -/
theorem Pkg.endTasks_of_queue {p : Pkg} {n : Nat} (hbox : ∀ c, ∀ i ∈ (p.core c).inbox, i.queue ≠ n) :
    let q := (p.coresOf n).foldl (fun p c => p.endTask c 0 0 0 true) p
    q.queues = p.queues ∧ (∀ c, ∀ i ∈ (q.core c).inbox, i.queue ≠ n) ∧
      ∀ c t, (q.core c).task = some t → t.info.queue = n → t.ended ≠ none := by
  intro q
  have hq : p.OnlyEnds q := .foldl (fun p c => p.endTask_onlyEnds c 0 0 0 true) _ p
  refine ⟨hq.queues, fun c i hi => ?_, fun c t ht hn => ?_⟩
  · obtain ⟨j, hj, hji⟩ := hq.inbox c i hi
    exact hji ▸ hbox c j hj
  · obtain ⟨u, hu, hut⟩ := hq.task c t ht
    have hmem : c ∈ p.coresOf n := Pkg.mem_coresOf hu (by rw [hut, hn])
    exact Pkg.Closes.foldl_over (fun p c => (p.endTask_closes c 0 0 0 true).1) (fun p c => (p.endTask_closes c 0 0 0 true).2) hmem p t ht

theorem Pkg.queue_putQueue (p : Pkg) (n : Nat) (q : Queue) : (p.putQueue n q).queue n = q := by
  rw [Pkg.putQueue, Pkg.queue, Tab.get_put, if_pos rfl]

theorem Pkg.freeSlot_spec (p : Pkg) (n : Nat) : (p.freeSlot n).cores = p.cores ∧ (p.freeSlot n).queue n = p.queue n := by
  unfold Pkg.freeSlot
  split
  next q hq =>
    refine ⟨rfl, ?_⟩
    rw [Pkg.queue_putQueue, Pkg.queue, Tab.get, hq, Option.getD_some]
  next => exact ⟨rfl, rfl⟩

theorem Pkg.withoutRecords_inbox (p : Pkg) (n : Nat) (t : Tab Queue) (c : Nat) :
    ∀ i ∈ (Pkg.core { p with queues := t, cores := p.cores.map fun (e : Nat × Core) =>
      (e.1, { e.2 with inbox := e.2.inbox.filter fun (i : TaskInfo) => i.queue != n }) } c).inbox, i.queue ≠ n := by
  intro i hi
  obtain h | h := Pkg.core_mapCores (p := p) (q := { p with queues := t, cores := p.cores.map fun (e : Nat × Core) =>
      (e.1, { e.2 with inbox := e.2.inbox.filter fun (i : TaskInfo) => i.queue != n }) }) (f := fun (e : Nat × Core) =>
      (e.1, { e.2 with inbox := e.2.inbox.filter fun (i : TaskInfo) => i.queue != n })) (fun _ => rfl) rfl c
  · rw [h] at hi
    simpa using (List.mem_filter.mp hi).2
  · rw [h] at hi
    cases hi

/-- What a reset does beside ending tasks leaves the queue and its absence alone. -/
theorem Pkg.Vacated.rest {p : Pkg} {n : Nat} (h : p.Vacated n) (saved : List (Nat × Core)) (bars : Tab Bar) (gone : List (Nat × Core))
    (ops : List Op) (f : Op → Op) :
    let q := ops.foldl Pkg.cancelOp (Pkg.lapse { p with saved, bars } gone)
    (Pkg.freeSlot { q with ops := q.ops.map f } n).queue n = p.queue n ∧ (Pkg.freeSlot { q with ops := q.ops.map f } n).Vacated n := by
  intro q
  have hq : (Pkg.lapse { p with saved, bars } gone).Halts q := .foldl Pkg.cancelOp_halts ops _
  have hlapse : (Pkg.lapse { p with saved, bars } gone).Vacated n := h.of_cores rfl
  have hvac : q.Vacated n := hlapse.halts hq
  have hqueue : q.queue n = p.queue n := congrArg (Tab.get Queue.reset · n) hq.queues
  clear_value q
  obtain ⟨hcores, hfree⟩ := Pkg.freeSlot_spec { q with ops := q.ops.map f } n
  exact ⟨hfree.trans hqueue, hvac.of_cores hcores⟩

theorem Pkg.Vacated.resetting {p q : Pkg} {n pt : Nat} {x : Queue} (hrest : q.queue n = p.queue n ∧ q.Vacated n) (hx : p.queue n = x)
    (hst : x.st = .resetting) (hgraph : x.graph = none) (hpt : x.resetAt = pt) :
    (q.queue n).st = .resetting ∧ (q.queue n).graph = none ∧ (q.queue n).resetAt = pt ∧ q.Vacated n := by
  obtain ⟨hqueue, hvac⟩ := hrest
  rw [hqueue, hx]
  exact ⟨hst, hgraph, hpt, hvac⟩

/-- A queue as its reset begins. -/
def Queue.resets (x : Queue) (pt : Nat) : Queue :=
  { x with st := .resetting, graph := none, resetAt := pt, held := none, resetTag := (x.graph.map Graph.tag).getD 0 }

/-- A queue's reset begins: the queue is RESETTING without a graph, and nothing of it runs. -/
theorem Pkg.beginReset_vacates {p : Pkg} {n : Nat} (hst : (p.queue n).st = .idle ∨ (p.queue n).st = .active) :
    ((p.beginReset n).queue n).st = .resetting ∧ ((p.beginReset n).queue n).graph = none ∧ ((p.beginReset n).queue n).resetAt = p.pt ∧
      (p.beginReset n).Vacated n := by
  have hgo : ¬ ((p.queue n).st ≠ .idle ∧ (p.queue n).st ≠ .active) := fun h => hst.elim h.1 h.2
  unfold Pkg.beginReset
  dsimp only
  rw [if_neg hgo]
  obtain ⟨hqueues, hbox, hend⟩ := Pkg.endTasks_of_queue (Pkg.withoutRecords_inbox p n (p.queues.put n ((p.queue n).resets p.pt)))
  refine Pkg.Vacated.resetting (x := (p.queue n).resets p.pt) ((Pkg.silence_vacated hbox hend).rest ..)
    ((congrArg (Tab.get Queue.reset · n) hqueues).trans ?_) rfl rfl rfl
  exact (Tab.get_put ..).trans (if_pos rfl)

end Sys2Proof.Machine

/-! SUPPORT. Proofs: requests of hosts, register pages and the ends of commands (R366 to R373, R463). -/

namespace Sys2Proof.Machine

/-! ### Slots and enabling -/

theorem Pkg.queueEmpty_iff (p : Pkg) (n : Nat) (q : Queue) :
    p.queueEmpty n q = true ↔ q.st ≠ .active ∧ (q.st = .resetting → q.graph = none ∧ q.stail = q.shead ∧ p.hasTask n = false) := by
  unfold Pkg.queueEmpty
  cases q.st <;> simp [and_assoc]

theorem Pkg.putQueue_frees {p : Pkg} {n : Nat} {q : Queue} (h : p.queueEmpty n q = true) : (p.putQueue n q).hasSlot n = false := by
  rw [Pkg.hasSlot, Pkg.putQueue, List.any_eq_false]
  intro e he
  obtain ⟨a, -, rfl⟩ := List.mem_map.mp he
  rw [h, Bool.true_and]
  split
  · exact nofun
  next hne => exact hne

theorem Pkg.putQueue_keeps {p : Pkg} {n : Nat} {q : Queue} (h : p.queueEmpty n q = false) :
    p.putQueue n q = { p with queues := p.queues.put n q } := by
  rw [Pkg.putQueue, h]
  simp

/-- What R373 asks of a configuration. -/
theorem Pkg.refuses_iff (p : Pkg) (vi : Nat) (x : Queue) : p.refuses vi x = false ↔
    (p.space? x.space.toNat).map Space.owner = some vi ∧ 4 ≤ x.slog2.toNat ∧ x.slog2.toNat ≤ 16 ∧ 4 ≤ x.clog2.toNat ∧
      x.clog2.toNat ≤ 16 ∧ x.subva.toNat % (32 * 2 ^ x.slog2.toNat) = 0 ∧ x.cmpva.toNat % (32 * 2 ^ x.clog2.toNat) = 0 ∧
      x.nmode ≠ 3 ∧ x.resv = 0 := by
  simp only [Pkg.refuses, Bool.or_eq_false_iff, bne_eq_false_iff_eq, Bool.not_eq_false', Bool.and_eq_true, decide_eq_true_eq,
    beq_eq_false_iff_ne]
  tauto

/-! ### Requests (R368) -/

theorem Pkg.arrive_of_busy {p : Pkg} {r : Inbound} (h : (∃ a ∈ p.inbound, a.who = r.who) ∨ p.inboundStep r = none) :
    p.arrive r = { p with inbound := p.inbound ++ [r] } := by
  unfold Pkg.arrive
  split
  · rfl
  next hidle =>
    have hnone : p.inboundStep r = none := h.resolve_left fun ⟨a, ha, hw⟩ => hidle (List.any_eq_true.mpr ⟨a, ha, beq_iff_eq.mpr hw⟩)
    rw [hnone]

theorem Pkg.arrive_of_idle {p q : Pkg} {r : Inbound} {l : Option Inbound} (h : ∀ a ∈ p.inbound, a.who ≠ r.who)
    (hs : p.inboundStep r = some (l, q)) : p.arrive r = { q with inbound := q.inbound ++ l.toList } := by
  unfold Pkg.arrive
  have hidle : ¬ (p.inbound.any fun a => a.who == r.who) = true := by
    rw [List.any_eq_true]
    rintro ⟨a, ha, hw⟩
    exact h a ha (beq_iff_eq.mp hw)
  rw [if_neg hidle, hs]

/-- A host's write of a tail, as a request. -/
def tailRequest (n : Nat) (v : BitVec 32) : Inbound :=
  { who := .host (n / 16), epoch := 0, space := 0, va := 0, what := .stail n v, limit := 0, done := 0, got := [] }

theorem Pkg.inboundStep_tail (p : Pkg) (n : Nat) (v : BitVec 32) : p.inboundStep (tailRequest n v) = some (none, p.writeStail n v) := rfl

theorem Pkg.hostStail_of_idle {p : Pkg} {n : Nat} {v : BitVec 32} (h : ∀ a ∈ p.inbound, a.who ≠ .host (n / 16)) :
    p.hostStail n v = p.writeStail n v := by
  have harrive : p.hostStail n v = { p.writeStail n v with inbound := (p.writeStail n v).inbound ++ [] } :=
    Pkg.arrive_of_idle (r := tailRequest n v) h (p.inboundStep_tail n v)
  rw [harrive, List.append_nil]

/-- A queue after a write of its tail. -/
theorem Queue.settle_spec (x : Queue) : x.settle = { x with st := x.settle.st } ∧
    (x.st = .idle → x.stail ≠ x.shead → x.settle.st = .active) ∧ (x.st ≠ .idle → x.st ≠ .active → x.settle.st = x.st) := by
  unfold Queue.settle
  cases hst : x.st <;> simp_all <;> rw [← hst]

section
variable {p q : Pkg} {r : Inbound} {vi : Nat}

/-- The place and size of a request's next line. -/
theorem Inbound.settle_eq (r : Inbound) (q : Pkg) (hlim : r.limit = r.what.size) :
    r.settle q = if r.done < r.limit then (some r, q) else (none, r.reply q 0) := by
  rw [Inbound.settle, if_pos hlim]

theorem Pkg.inboundStep_read {m : Nat} {y : Piece} (hwho : r.who = .host vi) (hspace : p.space? r.space ≠ none)
    (hdone : r.done < r.limit) (hwhat : r.what = .read m)
    (hread : p.readPiece r.space (rENG + rRD) (r.va + r.done) (min (r.limit - r.done) (64 - (r.va + r.done) % 64)) = .ok (y, q)) :
    p.inboundStep r = if y.poison = true then some (none, r.reply q 0x14)
      else some (Inbound.settle { r with done := r.done + min (r.limit - r.done) (64 - (r.va + r.done) % 64), got := r.got ++ y.bytes } q) := by
  have hnone : ¬ (p.space? r.space).isNone = true := fun h => hspace (Option.isNone_iff_eq_none.mp h)
  have htouch : r.touched q = q := by rw [Inbound.touched, hwho, hwhat]
  unfold Pkg.inboundStep
  dsimp only
  rw [hwho, hwhat]
  dsimp only
  rw [if_neg Bool.false_ne_true, if_neg hnone, if_neg (Nat.not_le.mpr hdone), hread]
  dsimp only
  rw [htouch]

theorem Pkg.inboundStep_write {b : List Byte} (hwho : r.who = .host vi) (hspace : p.space? r.space ≠ none)
    (hdone : r.done < r.limit) (hwhat : r.what = .write b)
    (hwrite : p.writePiece none r.space (rENG + rWR) (r.va + r.done)
      ((b.drop r.done).take (min (r.limit - r.done) (64 - (r.va + r.done) % 64))) (.module_ r.space) = .ok q) :
    p.inboundStep r = some (Inbound.settle { r with done := r.done + min (r.limit - r.done) (64 - (r.va + r.done) % 64) }
      (q.endHolds.openLog r.space)) := by
  have hnone : ¬ (p.space? r.space).isNone = true := fun h => hspace (Option.isNone_iff_eq_none.mp h)
  have htouch (u : Pkg) : r.touched u = u.openLog r.space := by rw [Inbound.touched, hwho, hwhat]
  unfold Pkg.inboundStep
  dsimp only
  rw [hwho, hwhat]
  dsimp only
  rw [if_neg Bool.false_ne_true, if_neg hnone, if_neg (Nat.not_le.mpr hdone), hwrite]
  dsimp only
  rw [htouch]

end

/-! ### Halves of a doubleword -/

theorem getLsbD_lowHalf (x : Word) (v i : Nat) :
    (lowHalf x v).getLsbD i = if i < 32 then v.testBit i else x.getLsbD i := by
  have hlow : v % 2 ^ 32 < 2 ^ 32 := Nat.mod_lt _ (by decide)
  rw [lowHalf, BitVec.getLsbD_ofNat, Nat.mul_comm, Nat.testBit_two_pow_mul_add _ hlow]
  split
  next h =>
    rw [Nat.testBit_mod_two_pow]
    simp [h, Nat.lt_trans h (by decide : 32 < 64)]
  next h =>
    rw [Nat.testBit_div_two_pow, Nat.sub_add_cancel (Nat.not_lt.mp h), BitVec.testBit_toNat]
    by_cases hi : i < 64
    · simp [hi]
    · simp [hi, BitVec.getLsbD_of_ge x i (Nat.not_lt.mp hi)]

theorem getLsbD_highHalf (x : Word) (v : Nat) {i : Nat} (hi : i < 64) :
    (highHalf x v).getLsbD i = if i < 32 then x.getLsbD i else v.testBit (i - 32) := by
  have hlow : x.toNat % 2 ^ 32 < 2 ^ 32 := Nat.mod_lt _ (by decide)
  rw [highHalf, BitVec.getLsbD_ofNat, Nat.add_comm, Nat.mul_comm, Nat.testBit_two_pow_mul_add _ hlow]
  split
  next h =>
    rw [Nat.testBit_mod_two_pow, BitVec.testBit_toNat]
    simp [h, hi]
  next h =>
    have hj : i - 32 < 32 := by omega
    rw [Nat.testBit_mod_two_pow]
    simp [hj, hi]

/-- The high half and then the low one, each under a mask, are the value under it. -/
theorem lowHalf_highHalf (w v m : Word) :
    lowHalf (highHalf w (v.toNat / 2 ^ 32) &&& m) (v.toNat % 2 ^ 32) &&& m = v &&& m := by
  apply BitVec.eq_of_getLsbD_eq
  intro i hi
  rw [BitVec.getLsbD_and, BitVec.getLsbD_and, getLsbD_lowHalf]
  cases hm : m.getLsbD i with
  | false => rw [Bool.and_false, Bool.and_false]
  | true =>
    rw [Bool.and_true, Bool.and_true]
    split
    next h =>
      rw [Nat.testBit_mod_two_pow, BitVec.testBit_toNat]
      simp [h]
    next h =>
      rw [BitVec.getLsbD_and, getLsbD_highHalf w _ hi, if_neg h, hm, Bool.and_true, Nat.testBit_div_two_pow,
        Nat.sub_add_cancel (Nat.not_lt.mp h), BitVec.testBit_toNat]

theorem halves_eq (w : Word) : BitVec.ofNat 64 (lowPart w + highPart w <<< 32) = w := by
  have hw := w.isLt
  apply BitVec.eq_of_toNat_eq
  rw [BitVec.toNat_ofNat, lowPart, highPart, fld_low, fld, Nat.shiftLeft_eq, Nat.shiftRight_eq_div_pow]
  omega

/-! ### Blocks of a register page (R370, R463) -/

/-- Offset of a block in its page. -/
def blockBase : Block → Nat
  | .cmd => 0x400
  | .job => 0x440
  | .debug => 0x800
  | .platform => 0xC00

theorem blockBase_le (b : Block) : 0x400 ≤ blockBase b := by cases b <;> decide

theorem blockBase_mod (b : Block) : blockBase b % 64 = 0 := by cases b <;> decide

theorem blockAt_base (b : Block) {k : Nat} (hk : k < 64) : blockAt (blockBase b + k) = some b := by
  have hdiv : (blockBase b + k) / 64 = blockBase b / 64 := by
    have hmod := blockBase_mod b
    omega
  rw [blockAt, hdiv]
  cases b <;> rfl

theorem Pkg.vi_setBlock_same (p : Pkg) (vi : Nat) (b : Block) (r : BlockRegs) : (p.setBlock vi b r).vi vi = (p.vi vi).setBlock b r := by
  rw [Pkg.setBlock, Pkg.vi, Tab.get_put, if_pos rfl]

theorem Pkg.writePart_block (p : Pkg) (vi : Nat) (b : Block) {k : Nat} (hk : k < 64) (v : Nat) :
    p.writePart vi (blockBase b + k) v = p.setBlock vi b (((p.vi vi).block b).writePart (k / 4) v) := by
  have hlow : ¬ blockBase b + k < 0x400 := by
    have hbase := blockBase_le b
    omega
  have hmod : (blockBase b + k) % 64 = k := by
    have hbase := blockBase_mod b
    omega
  rw [Pkg.writePart, if_neg hlow, blockAt_base b hk]
  dsimp only
  rw [hmod]

/-- The block after a write of one of its doublewords: the high part, then the low one. -/
theorem Pkg.writeReg_block {p : Pkg} {vi : Nat} (hvi : vi < 64) (b : Block) {j : Nat} (hj : j < 8) (v : Word) :
    ((p.writeReg vi (blockBase b + 8 * j) 8 v).vi vi).block b =
      ((((p.vi vi).block b).writePart (2 * j + 1) (v.toNat / 2 ^ 32)).writePart (2 * j) (v.toNat % 2 ^ 32)) := by
  have halign : (blockBase b + 8 * j) % 8 = 0 := by
    have hbase := blockBase_mod b
    omega
  have h8 : ¬ ((8 : Nat) = 4 ∧ (blockBase b + 8 * j) % 4 = 0) := fun h => absurd h.1 (by decide)
  rw [Pkg.writeReg, if_neg (Nat.not_le.mpr hvi), if_neg h8, if_pos ⟨rfl, halign⟩, Nat.add_assoc, p.writePart_block vi b (by omega),
    Pkg.writePart_block _ vi b (by omega), Pkg.vi_setBlock_same, Pkg.vi_setBlock_same, Vi.block_setBlock, Vi.block_setBlock,
    if_pos rfl, if_pos rfl, show (8 * j + 4) / 4 = 2 * j + 1 by omega, show 8 * j / 4 = 2 * j by omega]

/-- A doubleword of a block's arguments. -/
theorem BlockRegs.writePart_argument (r : BlockRegs) {j i : Nat} (hj : i / 2 = j) (h0 : j ≠ 0) (h7 : j ≠ 7) (v : Nat) :
    r.writePart i v = { r with dw := r.dw.set 0 j (if i % 2 = 0 then lowHalf (r.dw.get 0 j) v else highHalf (r.dw.get 0 j) v) } := by
  have hi : i ≠ 0 := by omega
  have hstay : ¬ (decide (j = 7) || decide (j = 0) && r.running) = true := by simp [h0, h7]
  unfold BlockRegs.writePart
  dsimp only
  rw [hj, if_neg hstay, if_neg hi, if_neg h0, BitVec.and_allOnes]

theorem BlockRegs.write_argument (r : BlockRegs) {j : Nat} (h0 : j ≠ 0) (h7 : j ≠ 7) (v : Word) :
    ((r.writePart (2 * j + 1) (v.toNat / 2 ^ 32)).writePart (2 * j) (v.toNat % 2 ^ 32)) =
      { r with dw := (r.dw.set 0 j (highHalf (r.dw.get 0 j) (v.toNat / 2 ^ 32))).set 0 j v } := by
  have hval := lowHalf_highHalf (r.dw.get 0 j) v (BitVec.allOnes 64)
  rw [BitVec.and_allOnes, BitVec.and_allOnes, BitVec.and_allOnes] at hval
  rw [r.writePart_argument (i := 2 * j + 1) (by omega) h0 h7, BlockRegs.writePart_argument _ (i := 2 * j) (by omega) h0 h7,
    if_neg (by omega), if_pos (by omega), Tab.get_set_same, hval]

/-- A write of doubleword 0 starts the block's command. -/
theorem BlockRegs.write_command {r : BlockRegs} (h : r.running = false) (v : Word) :
    ((r.writePart 1 (v.toNat / 2 ^ 32)).writePart 0 (v.toNat % 2 ^ 32)) =
      { dw := ((r.dw.set 0 0 (highHalf (r.dw.get 0 0) (v.toNat / 2 ^ 32) &&& blockFields)).set 0 0 (v &&& blockFields)).set 0 7 0,
        running := true } := by
  have hval := lowHalf_highHalf (r.dw.get 0 0) v blockFields
  have hhigh : r.writePart 1 (v.toNat / 2 ^ 32) =
      { r with dw := r.dw.set 0 0 (highHalf (r.dw.get 0 0) (v.toNat / 2 ^ 32) &&& blockFields) } := by
    simp [BlockRegs.writePart, h]
  rw [hhigh]
  rw [← hval]
  simp [BlockRegs.writePart, h]

/-- What a host reads of a doubleword. -/
theorem Pkg.readReg_block {p : Pkg} {vi : Nat} (hvi : vi < 64) (b : Block) {j : Nat} (hj : j < 8) :
    p.readReg vi (blockBase b + 8 * j) 8 = ((p.vi vi).block b).dw.get 0 j := by
  have hbase := blockBase_mod b
  have hle := blockBase_le b
  have h8 : ¬ ((8 : Nat) = 4 ∧ (blockBase b + 8 * j) % 4 = 0) := fun h => absurd h.1 (by decide)
  have hpart (k : Nat) (hk : k < 64) : p.readPart vi (blockBase b + k) =
      if k % 8 = 0 then lowPart (((p.vi vi).block b).dw.get 0 (k / 8)) else highPart (((p.vi vi).block b).dw.get 0 (k / 8)) := by
    rw [Pkg.readPart, if_neg (by omega), blockAt_base b hk]
    dsimp only
    rw [show (blockBase b + k) % 64 = k by omega, show (blockBase b + k) % 8 = k % 8 by omega]
  rw [Pkg.readReg, if_neg (Nat.not_le.mpr hvi), if_neg h8, if_pos ⟨rfl, by omega⟩, Nat.add_assoc, hpart _ (by omega), hpart _ (by omega),
    if_pos (by omega), if_neg (by omega), show 8 * j / 8 = j by omega, show (8 * j + 4) / 8 = j by omega, halves_eq]

theorem Pkg.readReg_queue {p : Pkg} {vi q : Nat} (hvi : vi < 64) (hq : q < 16) {i : Nat} (hi : i < 16) :
    p.readReg vi (64 * q + 4 * i) 4 = BitVec.ofNat 64 ((p.queue (16 * vi + q)).part i) := by
  rw [Pkg.readReg, if_neg (Nat.not_le.mpr hvi), if_pos ⟨rfl, by omega⟩, Pkg.readPart, if_pos (by omega), queueNo,
    show (64 * q + 4 * i) / 64 = q by omega, show (64 * q + 4 * i) % 64 / 4 = i by omega]

/-! ### Ends of commands -/

/-- A code that the block's table does not list. -/
theorem assigned_eq (b : Block) (code : Nat) : assigned b code = decide (code ∈ (match b with
    | .cmd => [2, 3, 4, 0x10, 0x11, 0x12, 0x13, 0x14, 0x15, 0x16, 0x17, 0x18, 0x19]
    | .job => [1, 2]
    | .debug | .platform => [1, 2, 3, 4, 5, 6] : List Nat)) := by
  cases b <;> simp only [assigned, List.mem_cons, List.not_mem_nil, or_false] <;> rw [Bool.eq_iff_iff] <;>
    simp only [Bool.or_eq_true, Bool.and_eq_true, decide_eq_true_eq, beq_iff_eq] <;> omega

/-- What the end of a command leaves of its block, and of everything else. -/
theorem Pkg.endCmd_spec (p : Pkg) (vi : Nat) (b : Block) (n : Nat) :
    ((p.endCmd vi b n).vi vi).block b = { dw := ((((p.vi vi).block b).dw.set 0 7 (BitVec.ofNat 64 n)).set 0 0
        (((p.vi vi).block b).dw.get 0 0 ||| 0x100000000)), running := false } ∧
      (∀ c, c ≠ b → ((p.endCmd vi b n).vi vi).block c = ((p.vi vi).block c)) ∧ ∀ w, w ≠ vi → (p.endCmd vi b n).vi w = p.vi w := by
  rw [Pkg.endCmd, Pkg.vi_setBlock_same]
  refine ⟨?_, fun c hc => ?_, fun w hw => ?_⟩
  · rw [Vi.block_setBlock, if_pos rfl]
    rfl
  · rw [Vi.block_setBlock, if_neg hc.symm]
  · rw [Pkg.setBlock, Pkg.vi, Tab.get_put, if_neg hw.symm]
    rfl

theorem Pkg.hostAccess_refused {p : Pkg} {vi space va need : Nat} {what : Asked}
    (h : 64 ≤ vi ∨ p.owns vi space = false ∨ p.admitted space need va what.size ≠ what.size) :
    p.hostAccess vi space va what need = p.hostReply vi false [] := by
  refine if_pos ?_
  obtain h | h | h := h <;> simp [h]

theorem Pkg.hostAccess_admitted {p : Pkg} {vi space va need : Nat} {what : Asked} (hvi : vi < 64) (hown : p.owns vi space = true)
    (h : p.admitted space need va what.size = what.size) : p.hostAccess vi space va what need =
      p.arrive { who := .host vi, epoch := 0, space, va, what, limit := what.size, done := 0, got := [] } :=
  if_neg (by simp [hvi, hown, h])

theorem Inbound.reply_host {r : Inbound} {vi : Nat} (hwho : r.who = .host vi) (p : Pkg) (code : Nat) :
    (∀ m, r.what = .read m → r.reply p code = p.hostReply vi (code == 0) (if code = 0 then r.got else [])) ∧
      ∀ b, r.what = .write b → r.reply p code = p.hostReply vi (code == 0) [] := by
  refine ⟨fun m h => ?_, fun b h => ?_⟩ <;> rw [Inbound.reply, hwho, h]

/-- A command that its block runs, under a switched-on firmware, ends with its error. -/
theorem State.runs.command_err {s : State} {vi : Nat} {b : Block} {code : Nat} (h : s.runs vi b code) (e : Nat) :
    s.pkg.command vi b code (fun _ => .err e) = s.pkg.endCmd vi b (cmdErr e) := by
  have hcode := State.runs_code h
  obtain ⟨-, -, hfw⟩ := h
  exact if_neg (by simp [hcode, hfw])

/-- Settles O48: registers are read and written by their halves, requests of one asker move in turn, and the begin of a queue's reset
ends its tasks before it silences them. -/
theorem hostEvents : Obligations.HostEvents := by
  unfold Obligations.HostEvents
  refine ⟨fun s n v => ?queues, fun s vi b p n v => ?blocks⟩
  case queues =>
    intro p x frees legal
    have hlegal : p.refuses (n / 16) x = false ↔ legal := p.refuses_iff (n / 16) x
    refine ⟨fun q => ⟨p.queue_putQueue n q, fun h => Pkg.putQueue_frees ((p.queueEmpty_iff n q).mpr h), fun h => ?keeps⟩,
      fun hn hst => ?enable, fun hst => State.does_of_run rfl (if_pos hst), fun hn hidle => ?tail, fun hn hbusy => ?waits,
      fun hn hv => ?head, fun hn hv => ?headBad, fun hst => ?reset, fun vi space va len => ?access, fun modid vi m => ?bridge⟩
    case keeps => exact Pkg.putQueue_keeps ((Bool.not_eq_true _).mp fun he => h ((p.queueEmpty_iff n q).mp he))
    case enable =>
      have hoff : ¬ (!x.off) = true := by
        obtain h | h := hst <;> rw [Queue.off, h] <;> exact nofun
      refine ⟨fun hl => ?_, fun hl => ?_⟩
      all_goals refine State.does_of_run rfl ((if_pos hn).trans ((if_neg hoff).trans ?_))
      · exact if_neg (ne_true_of_eq_false (hlegal.mpr hl))
      · exact if_pos ((Bool.not_eq_false _).mp fun h => hl (hlegal.mp h))
    case tail =>
      refine ⟨fun hlo hhi => ⟨Queue.settle { x with stail := v }, ?_, ?_⟩, fun hbad => ?_⟩
      · exact State.does_of_run rfl ((if_pos hn).trans ((Pkg.hostStail_of_idle hidle).trans (if_pos ⟨hlo, hhi⟩)))
      · exact Queue.settle_spec { x with stail := v }
      · refine State.does_of_run rfl ((if_pos hn).trans ((Pkg.hostStail_of_idle hidle).trans (if_neg ?_)))
        exact fun h => hbad.elim (Nat.not_lt.mpr h.1) (Nat.not_lt.mpr h.2)
    case waits =>
      exact ⟨tailRequest n v, rfl, rfl, State.does_of_run rfl ((if_pos hn).trans (Pkg.arrive_of_busy (.inl hbusy))), p.inboundStep_tail n v⟩
    case head => exact State.does_of_run rfl ((if_pos hn).trans (if_pos hv))
    case headBad => exact State.does_of_run rfl ((if_pos hn).trans (if_neg (Nat.not_le.mpr hv)))
    case reset =>
      obtain ⟨hst, hgraph, hpt, hvac⟩ := Pkg.beginReset_vacates hst
      exact ⟨_, State.does_of_run rfl rfl, hst, hgraph, hpt, hvac.inbox, hvac.task⟩
    case access =>
      intro reply asked arrives
      refine ⟨fun hno d => ?_, fun hvi hown => ⟨fun b hb => ?_, fun hl => ?_, fun b hb => ?_, fun hl => ?_⟩,
        fun r hwho hspace hdone hlim => ?_⟩
      · have hbad {need : Nat} {what : Asked} : p.hostAccess vi space va what need = reply p false [] :=
          Pkg.hostAccess_refused (hno.imp_right .inl)
        cases d with
        | none => exact State.does_of_run rfl hbad
        | some b => exact State.does_of_run rfl hbad
      · have hpass := Pkg.hostAccess_admitted (what := .write b) hvi hown hb
        exact ⟨fun h => State.does_of_run rfl (hpass.trans (Pkg.arrive_of_busy h)),
          fun l q h hs => State.does_of_run rfl (hpass.trans (Pkg.arrive_of_idle h hs))⟩
      · have hpass := Pkg.hostAccess_admitted (what := .read len) hvi hown hl
        exact ⟨fun h => State.does_of_run rfl (hpass.trans (Pkg.arrive_of_busy h)),
          fun l q h hs => State.does_of_run rfl (hpass.trans (Pkg.arrive_of_idle h hs))⟩
      · exact State.does_of_run rfl (Pkg.hostAccess_refused (.inr (.inr hb)))
      · exact State.does_of_run rfl (Pkg.hostAccess_refused (.inr (.inr hl)))
      · intro a k
        refine ⟨fun m y q hwhat hread => ?_, fun b q hwhat hwrite => ?_⟩
        · have hstep := Pkg.inboundStep_read hwho hspace hdone hwhat hread
          have hreply := (Inbound.reply_host (r := { r with done := r.done + k, got := r.got ++ y.bytes }) hwho q 0).1 m hwhat
          refine ⟨fun hp => ?_, fun hp => ?_⟩
          · rw [hstep, if_pos hp, (Inbound.reply_host hwho q 0x14).1 m hwhat]
            rfl
          · rw [hstep, if_neg (ne_true_of_eq_false hp)]
            refine congrArg some ((Inbound.settle_eq { r with done := r.done + k, got := r.got ++ y.bytes } q hlim).trans ?_)
            rw [hreply]
            rfl
        · have hreply := (Inbound.reply_host (r := { r with done := r.done + k }) hwho (q.endHolds.openLog r.space) 0).2 b hwhat
          rw [Pkg.inboundStep_write hwho hspace hdone hwhat hwrite]
          refine congrArg some ((Inbound.settle_eq { r with done := r.done + k } (q.endHolds.openLog r.space) hlim).trans ?_)
          rw [hreply]
          rfl
    case bridge =>
      refine ⟨fun hb hgroup hne => State.does_of_run rfl (if_pos ?_), fun hb => State.does_of_run rfl (if_neg ?_)⟩
      · simp [hb, hgroup, hne]
      · simp [hb]
  case blocks =>
    intro base listed
    have hbase : base = blockBase b := by cases b <;> rfl
    rw [hbase]
    refine ⟨?done, fun code hruns hcode => ?unassigned, fun hvi hrun => ?command, fun hvi j h1 h6 => ?argument,
      fun hvi off size => State.does_of_run rfl (if_pos hvi), fun off size => State.does_of_run rfl rfl, fun off size hbad => ?odd,
      fun hvi => ⟨fun j hj => Pkg.readReg_block hvi b hj, fun q hq => ?queue⟩, fun code f hsw => ?switch⟩
    case done =>
      intro q r t
      obtain ⟨ht, hblocks, hvis⟩ := p.endCmd_spec vi b n
      refine ⟨congrArg BlockRegs.running ht, ?_, ?_, fun j h1 h6 => ?_, hblocks, hvis, rfl⟩
      all_goals
        refine (congrArg (fun k : BlockRegs => k.dw.get 0 _) ht).trans ?_
        dsimp only
        rw [Tab.get_set, Tab.get_set]
      · rfl
      · rfl
      · rw [if_neg (by omega), if_neg (by omega)]
    case unassigned =>
      have hcodes := State.runs_code hruns
      have hnot : assigned b code = false := (assigned_eq b code).trans (decide_eq_false hcode)
      rw [State.rejects, ← cmdErr_eq]
      refine State.does_of_run rfl ?_
      dsimp only
      rw [hcodes]
      exact (if_neg (ne_true_of_eq_false hnot)).trans (hruns.command_err _)
    case command =>
      refine ⟨_, State.does_of_run rfl rfl, ?_⟩
      have ht := (Pkg.writeReg_block (p := s.pkg) hvi b (j := 0) (by decide) v).trans (BlockRegs.write_command hrun v)
      rw [Nat.mul_zero, Nat.add_zero] at ht
      intro t
      refine ⟨congrArg BlockRegs.running ht, ?_, ?_, fun j h1 h6 => ?_⟩
      all_goals
        refine (congrArg (fun k : BlockRegs => k.dw.get 0 _) ht).trans ?_
        dsimp only
        rw [Tab.get_set, Tab.get_set, Tab.get_set]
      · rfl
      · rfl
      · rw [if_neg (by omega), if_neg (by omega), if_neg (by omega)]
    case argument =>
      refine ⟨_, State.does_of_run rfl rfl, ?_⟩
      have ht := (Pkg.writeReg_block (p := s.pkg) hvi b (by omega) v).trans (BlockRegs.write_argument _ (j := j) (by omega) (by omega) v)
      intro t
      refine ⟨(congrArg BlockRegs.running ht).trans rfl, ?_, fun i hi => ?_⟩
      all_goals
        refine (congrArg (fun k : BlockRegs => k.dw.get 0 _) ht).trans ?_
        dsimp only
        rw [Tab.get_set, Tab.get_set]
      · rw [if_pos rfl]
      · rw [if_neg hi.symm, if_neg hi.symm]
    case odd =>
      rw [Pkg.readReg]
      obtain h | ⟨h4, h8⟩ := hbad
      · rw [if_pos h]
      · rw [if_neg h4, if_neg h8, ite_self]
    case queue =>
      intro x
      refine ⟨Pkg.readReg_queue hvi hq (i := 1) (by decide), (Pkg.readReg_queue hvi hq (i := 9) (by decide)).trans ?_,
        (Pkg.readReg_queue hvi hq (i := 10) (by decide)).trans ?_, (Pkg.readReg_queue hvi hq (i := 11) (by decide)).trans ?_,
        (Pkg.readReg_queue hvi hq (i := 12) (by decide)).trans ?_, (Pkg.readReg_queue hvi hq (i := 0) (by decide)).trans ?_⟩
      · exact BitVec.ofNat_toNat ..
      · exact BitVec.ofNat_toNat ..
      · exact BitVec.ofNat_toNat ..
      · exact BitVec.ofNat_toNat ..
      · have hoff : x.off = decide (x.st = .disabled ∨ x.st = .refused) := by
          rw [Queue.off, Bool.decide_or]
          cases x.st <;> rfl
        change BitVec.ofNat 64 (x.nmode.toNat <<< 6 + x.st.code <<< 3 + if x.off then 0 else 1) = _
        rw [Nat.shiftLeft_eq, Nat.shiftLeft_eq, hoff]
        simp only [decide_eq_true_eq]
    case switch =>
      exact if_pos (.inr (Option.isSome_iff_ne_none.mpr hsw))

end Sys2Proof.Machine

/-! SUPPORT. Proofs: requests and answers between modules, and link epochs (R115, R255 to R257). -/

namespace Sys2Proof.Machine

/-! ### The destination side -/

theorem firstBad_none (p : Pkg) (s need k va : Nat) : firstBad p s need k va 0 = none := by
  cases k <;> simp [firstBad]

theorem Pkg.admitted_local {p : Pkg} {s need va n : Nat} (h : lsBase ≤ va) : p.admitted s need va n = 0 := by
  rw [Pkg.admitted, if_pos h, Pkg.badByte, firstBad_none]

theorem Pkg.admitted_below {p : Pkg} {s need va n : Nat} (h : va < lsBase) (hn : va + n ≤ lsBase) :
    p.admitted s need va n = match p.badByte s need va n with
      | some b => b - va
      | none => n := by
  rw [Pkg.admitted, if_neg (Nat.not_le.mpr h), Nat.min_eq_left (by omega)] <;> rfl

section
variable {p q : Pkg} {src epoch space va need : Nat} {what : Asked}

theorem Pkg.fromPeer_stale (h : epoch < p.epochs.get 0 (src % 16)) : p.fromPeer src epoch space va need what = p :=
  if_pos (decide_eq_true h)

/-- A peer's request as it arrives. -/
def Pkg.peerRequest (p : Pkg) (src epoch space va need : Nat) (what : Asked) : Inbound :=
  { who := .peer src, epoch, space, va, what, limit := p.admitted space need va what.size, done := 0, got := [] }

theorem Pkg.fromPeer_absent (h : p.epochs.get 0 (src % 16) ≤ epoch) (hs : p.space? space = none) :
    p.fromPeer src epoch space va need what = (p.peerRequest src epoch space va need what).reply p 0x15 := by
  have hfresh : ¬ p.stale src epoch = true := fun hst => Nat.not_lt.mpr h (of_decide_eq_true hst)
  exact (if_neg hfresh).trans (if_pos (Option.isNone_iff_eq_none.mpr hs))

theorem Pkg.fromPeer_arrives (h : p.epochs.get 0 (src % 16) ≤ epoch) (hs : p.space? space ≠ none) :
    p.fromPeer src epoch space va need what = p.arrive (p.peerRequest src epoch space va need what) := by
  have hfresh : ¬ p.stale src epoch = true := fun hst => Nat.not_lt.mpr h (of_decide_eq_true hst)
  exact (if_neg hfresh).trans (if_neg fun hn => hs (Option.isNone_iff_eq_none.mp hn))

end

section
variable {p q : Pkg} {r : Inbound} {src : Nat}

theorem Inbound.reply_peer (hwho : r.who = .peer src) (p : Pkg) (code : Nat) :
    (∀ m, r.what = .read m → r.reply p code = p.answer src code r.done r.got) ∧
      (∀ b, r.what = .write b → r.reply p code = p.answer src code r.done r.got) ∧
      ∀ m o, r.what = .rpan m o → r.reply p code = p.answer src (code + 0x10) 0 [] := by
  refine ⟨fun m h => ?_, fun b h => ?_, fun m o h => ?_⟩ <;> rw [Inbound.reply, hwho, h]

theorem Inbound.touched_peer (hwho : r.who = .peer src) (p : Pkg) : r.touched p = p.openLog r.space := by
  rw [Inbound.touched, hwho]

theorem Pkg.inboundStep_peer_read {m : Nat} {y : Piece} (hwho : r.who = .peer src) (hfresh : p.stale src r.epoch = false)
    (hspace : p.space? r.space ≠ none) (hdone : r.done < r.limit) (hwhat : r.what = .read m)
    (hread : p.readPiece r.space (rENG + rRD) (r.va + r.done) (min (r.limit - r.done) (64 - (r.va + r.done) % 64)) = .ok (y, q)) :
    p.inboundStep r = if y.poison = true then some (none, r.reply (q.openLog r.space) 0x14)
      else some (Inbound.settle { r with done := r.done + min (r.limit - r.done) (64 - (r.va + r.done) % 64), got := r.got ++ y.bytes }
        (q.openLog r.space)) := by
  have hnone : ¬ (p.space? r.space).isNone = true := fun h => hspace (Option.isNone_iff_eq_none.mp h)
  have htouch := Inbound.touched_peer hwho q
  unfold Pkg.inboundStep
  dsimp only
  rw [hwho, hwhat]
  dsimp only
  rw [if_neg (ne_true_of_eq_false hfresh), if_neg hnone, if_neg (Nat.not_le.mpr hdone), hread]
  dsimp only
  rw [htouch]

theorem Pkg.inboundStep_peer_write {b : List Byte} (hwho : r.who = .peer src) (hfresh : p.stale src r.epoch = false)
    (hspace : p.space? r.space ≠ none) (hdone : r.done < r.limit) (hwhat : r.what = .write b)
    (hwrite : p.writePiece none r.space (rENG + rWR) (r.va + r.done)
      ((b.drop r.done).take (min (r.limit - r.done) (64 - (r.va + r.done) % 64))) (.module_ r.space) = .ok q) :
    p.inboundStep r = some (Inbound.settle { r with done := r.done + min (r.limit - r.done) (64 - (r.va + r.done) % 64) }
      (q.endHolds.openLog r.space)) := by
  have hnone : ¬ (p.space? r.space).isNone = true := fun h => hspace (Option.isNone_iff_eq_none.mp h)
  have htouch := Inbound.touched_peer hwho q.endHolds
  unfold Pkg.inboundStep
  dsimp only
  rw [hwho, hwhat]
  dsimp only
  rw [if_neg (ne_true_of_eq_false hfresh), if_neg hnone, if_neg (Nat.not_le.mpr hdone), hwrite]
  dsimp only
  rw [htouch]

/-- A peer's request that is over, or goes on. -/
theorem Inbound.settle_peer (hwho : r.who = .peer src) (hdata : (∃ m, r.what = .read m) ∨ ∃ b, r.what = .write b) (q : Pkg) :
    r.settle q = if r.done < r.limit then (some r, q)
      else (none, q.answer src (if r.limit = r.what.size then 0 else 0x13) r.done r.got) := by
  unfold Inbound.settle
  obtain ⟨m, h⟩ | ⟨b, h⟩ := hdata
  · rw [(Inbound.reply_peer hwho q _).1 m h]
  · rw [(Inbound.reply_peer hwho q _).2.1 b h]

theorem Pkg.inboundStep_peer_rpan {m : Nat} {o : Line} (hwho : r.who = .peer src) (hfresh : p.stale src r.epoch = false)
    (hspace : p.space? r.space ≠ none) (hwhat : r.what = .rpan m o) :
    (lsBase ≤ r.va ∨ p.route r.space r.va rPAN = none → p.inboundStep r = some (none, p.answer src 0x23 0 [])) ∧
      ∀ t q code counted ran ret, r.va < lsBase → p.route r.space r.va rPAN = some t →
        p.panHome { attr := .module_ r.space, origin := p.homeOf t.key, slot := m, lidx := 0, lane := 0, va := r.va, operand := o,
                    returning := false, outside := true } = .done q code counted ran ret →
        p.inboundStep r = some (none, (q.openLog r.space).answer src code counted.toNat []) := by
  have hnone : ¬ (p.space? r.space).isNone = true := fun h => hspace (Option.isNone_iff_eq_none.mp h)
  have hreply := (Inbound.reply_peer hwho p 0x13).2.2 m o hwhat
  refine ⟨fun hno => ?_, fun t q code counted ran ret hva hroute hpan => ?_⟩
  · have hplace : (if lsBase ≤ r.va then none else p.route r.space r.va rPAN) = none := by
      split
      · rfl
      next h => exact hno.resolve_left h
    unfold Pkg.inboundStep
    dsimp only
    rw [hwho, hwhat]
    dsimp only
    rw [if_neg (ne_true_of_eq_false hfresh), if_neg hnone, hplace]
    dsimp only
    rw [hreply]
  · have hplace : (if lsBase ≤ r.va then none else p.route r.space r.va rPAN) = some t := (if_neg (Nat.not_le.mpr hva)).trans hroute
    have htouch := Inbound.touched_peer hwho q
    unfold Pkg.inboundStep
    dsimp only
    rw [hwho, hwhat]
    dsimp only
    rw [if_neg (ne_true_of_eq_false hfresh), if_neg hnone, hplace]
    dsimp only
    rw [hpan]
    dsimp only
    rw [htouch]

end

/-! ### The issuing side -/

theorem Pkg.endOp_ops (p : Pkg) (o : Op) (v : Word) : (p.endOp o v).ops = p.ops.filter fun a => a.id != o.id := by
  unfold Pkg.endOp
  dsimp only
  split <;> rfl

theorem Pkg.endOp_epochs (p : Pkg) (o : Op) (v : Word) : (p.endOp o v).epochs = p.epochs := by
  unfold Pkg.endOp
  dsimp only
  split <;> rfl

theorem Pkg.unanswered_spec (p : Pkg) {o : Op} (ho : o.remote = true) :
    (p.unanswered o).ops = p.ops.filter (fun a => a.id != o.id) ∧ (p.unanswered o).epochs = p.epochs := by
  unfold Pkg.unanswered
  rw [Op.remote, beq_iff_eq] at ho
  split
  · exact ⟨p.endOp_ops o _, p.endOp_epochs o _⟩
  · exact ⟨p.endOp_ops o _, p.endOp_epochs o _⟩
  · exact ⟨p.endOp_ops o _, p.endOp_epochs o _⟩
  all_goals
    next hk =>
      rw [hk] at ho
      cases ho

/-- Operations that end unanswered are gone, and the epochs stand. -/
theorem Pkg.foldl_unanswered {os : List Op} (h : ∀ o ∈ os, o.remote = true) (p : Pkg) :
    (∀ a ∈ (os.foldl Pkg.unanswered p).ops, a ∈ p.ops ∧ ∀ o ∈ os, a.id ≠ o.id) ∧ (os.foldl Pkg.unanswered p).epochs = p.epochs := by
  induction os generalizing p with
  | nil => exact ⟨fun a ha => ⟨ha, fun _ ho => absurd ho List.not_mem_nil⟩, rfl⟩
  | cons o os ih =>
    obtain ⟨hops, hepochs⟩ := p.unanswered_spec (h o List.mem_cons_self)
    obtain ⟨hrest, hkeep⟩ := ih (fun o ho => h o (List.mem_cons_of_mem _ ho)) (p.unanswered o)
    refine ⟨fun a ha => ?_, hkeep.trans hepochs⟩
    obtain ⟨hin, hout⟩ := hrest a ha
    rw [hops] at hin
    obtain ⟨hp, hne⟩ := List.mem_filter.mp hin
    have hid : a.id ≠ o.id := by simpa using hne
    exact ⟨hp, List.forall_mem_cons.mpr ⟨hid, hout⟩⟩

theorem Pkg.newEpoch_spec (p : Pkg) (port : Nat) : (p.newEpoch port).epochs.get 0 port = p.epochs.get 0 port + 1 ∧
    (∀ k, k ≠ port → (p.newEpoch port).epochs.get 0 k = p.epochs.get 0 k) ∧
    ∀ o ∈ (p.newEpoch port).ops, o.kind.cls = 2 → o.ack = none → portOf o.peer ≠ port := by
  unfold Pkg.newEpoch
  dsimp only
  generalize hgone : (p.ops.filter fun o => o.remote && o.ack.isNone && portOf o.peer == port) = gone
  have hremote : ∀ o ∈ gone, o.remote = true := fun o ho => by
    have hcond := (List.mem_filter.mp (hgone ▸ ho)).2
    rw [Bool.and_eq_true, Bool.and_eq_true] at hcond
    exact hcond.1.1
  obtain ⟨hops, hepochs⟩ := Pkg.foldl_unanswered hremote p
  refine ⟨?_, fun k hk => ?_, fun o ho hcls hack hport => ?_⟩
  · rw [Tab.get_put, if_pos rfl, hepochs]
  · rw [Tab.get_put, if_neg hk.symm, hepochs]
  · obtain ⟨hin, hout⟩ := hops o ho
    refine hout o (hgone ▸ List.mem_filter.mpr ⟨hin, ?_⟩) rfl
    simp [Op.remote, hcls, hack, hport]

section
variable {p : Pkg} {o : Op} {code count : Nat} {data : List Byte}

theorem Pkg.acked_rpan {rem : Word} {peer slot : Nat} {x : Line} (hk : o.kind = .rpan rem peer slot x) :
    p.acked o code count data =
      if o.sent then (p.advance o.space cPanInv count).endOp o (panStatus (if code = 0 then 1 else 2) code 0 count) else p := by
  unfold Pkg.acked
  rw [hk]

theorem Pkg.acked_get {loc rem : Word} {n peer : Nat} (hk : o.kind = .get loc rem n peer) :
    p.acked o code count data = if (p.queues.get .reset o.queue).st = .resetting then p.endOp o (engineStatus 3 0 0)
      else if o.sent && o.ack.isNone then p.remoteEnd
        { o with ack := some (code, min count (min data.length (Shape.total ⟨loc, rem, n, 1, 1, 0, 0, 0, 0⟩))), pieces := o.pieces.put 0 data }
        ⟨loc, rem, n, 1, 1, 0, 0, 0, 0⟩
      else p := by
  unfold Pkg.acked
  rw [hk]
  rfl

theorem Pkg.acked_put {loc rem : Word} {n peer : Nat} (hk : o.kind = .put loc rem n peer) :
    p.acked o code count data = if o.sent || code != 0 then p.endOp { o with ack := some (code, count), sent := true }
        (if o.code = 1 then engineStatus 2 1 (min count (o.moved ⟨rem, loc, n, 1, 1, 0, 0, 0, 0⟩))
         else engineStatus (if code = 0 then 1 else 2) code count) else p := by
  cases o
  dsimp only at hk
  subst hk
  rfl

end

/-- Settles O44: a peer's request moves line by line as the windows admit it, and an operation that is answered, or no longer awaited,
ends. -/
theorem remoteEvents : Obligations.RemoteEvents := by
  unfold Obligations.RemoteEvents
  intro s src epoch space va n slot data operand p port get put rpan
  refine ⟨fun h => ⟨?_, ?_, ?_⟩, fun h => ⟨fun hs => ⟨?_, ?_, ?_⟩, fun hs => ?asked⟩, fun need => ?admitted, fun r hwho hfresh hspace => ?step,
    fun id o ho => ?issuer, fun q x hq hst hlate => ?late, p.newEpoch_spec port⟩
  · exact State.does_of_run rfl (Pkg.fromPeer_stale h)
  · exact State.does_of_run rfl (Pkg.fromPeer_stale h)
  · exact State.does_of_run rfl (Pkg.fromPeer_stale h)
  · exact State.does_of_run rfl ((Pkg.fromPeer_absent h hs).trans rfl)
  · exact State.does_of_run rfl ((Pkg.fromPeer_absent h hs).trans rfl)
  · exact State.does_of_run rfl ((Pkg.fromPeer_absent h hs).trans rfl)
  case asked =>
    intro asked arrives
    refine ⟨⟨fun hb => ?_, fun l q hi hq => ?_⟩, ⟨fun hb => ?_, fun l q hi hq => ?_⟩, ⟨fun hb => ?_, fun l q hi hq => ?_⟩⟩
    · exact State.does_of_run rfl ((Pkg.fromPeer_arrives h hs).trans (Pkg.arrive_of_busy hb))
    · exact State.does_of_run rfl ((Pkg.fromPeer_arrives h hs).trans (Pkg.arrive_of_idle hi hq))
    · exact State.does_of_run rfl ((Pkg.fromPeer_arrives h hs).trans (Pkg.arrive_of_busy hb))
    · exact State.does_of_run rfl ((Pkg.fromPeer_arrives h hs).trans (Pkg.arrive_of_idle hi hq))
    · exact State.does_of_run rfl ((Pkg.fromPeer_arrives h hs).trans (Pkg.arrive_of_busy hb))
    · exact State.does_of_run rfl ((Pkg.fromPeer_arrives h hs).trans (Pkg.arrive_of_idle hi hq))
  case admitted =>
    refine ⟨Pkg.admitted_local, fun hva hn => ⟨fun hb => ?_, fun e he => ?_⟩⟩
    · rw [Pkg.admitted_below hva hn, hb]
    · rw [Pkg.admitted_below hva hn, he]
  case step =>
    intro a k goes
    refine ⟨fun hdone => ⟨fun m x q hwhat hread => ⟨fun hp => ?_, fun hp => ?_⟩, fun b q hwhat hwrite => ?_⟩, fun m o hwhat =>
      Pkg.inboundStep_peer_rpan hwho hfresh hspace hwhat⟩
    · rw [Pkg.inboundStep_peer_read hwho hfresh hspace hdone hwhat hread, if_pos hp, (Inbound.reply_peer hwho _ 0x14).1 m hwhat]
    · refine ((Pkg.inboundStep_peer_read hwho hfresh hspace hdone hwhat hread).trans (if_neg (ne_true_of_eq_false hp))).trans ?_
      exact congrArg some (Inbound.settle_peer (r := { r with done := r.done + k, got := r.got ++ x.bytes }) hwho (.inl ⟨m, hwhat⟩)
        (q.openLog r.space))
    · refine (Pkg.inboundStep_peer_write hwho hfresh hspace hdone hwhat hwrite).trans ?_
      exact congrArg some (Inbound.settle_peer (r := { r with done := r.done + k }) hwho (.inr ⟨b, hwhat⟩) (q.endHolds.openLog r.space))
  case issuer =>
    have hacked (code count : Nat) {u : Pkg} (hu : p.acked o code count data = u) : s.does (.remoteAck id code count data) u := by
      refine State.does_of_run rfl ?_
      dsimp only
      rw [ho]
      exact hu
    refine ⟨fun code count hsent => ⟨fun rem peer slot x hk => hacked code count ?_, fun loc rem n peer hk => hacked code count ?_,
      fun loc rem n peer hk hst => hacked code count ?_, fun loc rem n peer hk hack hst => hacked code count ?_⟩, fun hcls hack hlate => ?_⟩
    · rw [Pkg.acked_rpan hk]
      exact if_pos hsent
    · rw [Pkg.acked_put hk]
      exact if_pos (by rw [hsent]; rfl)
    · rw [Pkg.acked_get hk]
      exact if_pos hst
    · rw [Pkg.acked_get hk, if_neg hst, if_pos (by rw [hsent, hack]; rfl), Shape.total, Nat.mul_one, Nat.mul_one]
    · have hends {u : Pkg} (hu : p.unanswered o = u) : s.does (.remoteAckTimeout id) u := by
        refine State.does_of_run rfl ?_
        dsimp only
        rw [ho]
        refine (if_pos ?_).trans hu
        rw [Op.remote, hcls, hack]
        exact decide_eq_true hlate
      refine ⟨fun hno => hends ?_, fun rem peer slot x hk => hends ?_⟩
      · unfold Pkg.unanswered
        split
        next hk => exact absurd hk (hno _ _ _ _)
        · rfl
        · rfl
        all_goals
          next hk =>
            rw [hk] at hcls
            cases hcls
      · rw [Pkg.unanswered, hk] <;> rfl
  case late =>
    refine State.does_of_run rfl ?_
    dsimp only
    rw [hq]
    exact if_pos ⟨hst, hlate⟩

end Sys2Proof.Machine

/-! SUPPORT. Proofs: lines that leave a cache, the copies of a migration and the patrol scrub (R77, R79, R401, R432). -/

namespace Sys2Proof.Machine

/-! ### Bytes of physical memory -/

theorem leNat_div_mod (l : List Byte) {i : Nat} (h : i < l.length) : leNat l / 256 ^ i % 256 = l[i].toNat := by
  induction l generalizing i with
  | nil => cases h
  | cons b t ih =>
    have hb := b.isLt
    cases i with
    | zero =>
      rw [leNat, Nat.pow_zero, Nat.div_one, List.getElem_cons_zero]
      omega
    | succ i =>
      rw [leNat, List.getElem_cons_succ, ← ih (Nat.lt_of_succ_lt_succ h), Nat.pow_succ, Nat.mul_comm (256 ^ i), ← Nat.div_div_eq_div_mul]
      congr 2
      omega

theorem lineByte_lineOf (l : List Byte) {i : Nat} (h : i < l.length) (hi : i < 64) : lineByte (lineOf l) i = l[i] := by
  apply BitVec.eq_of_toNat_eq
  rw [← leNat_div_mod l h, lineByte, lineOf, BitVec.extractLsb'_toNat, BitVec.toNat_ofNat, Nat.shiftRight_eq_div_pow, Nat.pow_mul]
  have hsplit : 2 ^ 512 = 2 ^ (8 * i) * 2 ^ (512 - 8 * i) := by rw [← Nat.pow_add]; congr 1; omega
  have hdvd : 2 ^ 8 ∣ 2 ^ (512 - 8 * i) := Nat.pow_dvd_pow 2 (by omega)
  rw [hsplit, show (2 ^ 8) ^ i = 2 ^ (8 * i) from (Nat.pow_mul ..).symm, Nat.mod_mul_right_div_self, Nat.mod_mod_of_dvd _ hdvd, Nat.pow_mul,
    show (2 : Nat) ^ 8 = 256 from rfl]

theorem Pkg.physBytes_length (p : Pkg) (a n : Nat) : (p.physBytes a n).length = n := by
  induction n generalizing a with
  | zero => rfl
  | succ n ih => rw [Pkg.physBytes, List.length_cons, ih]

theorem Pkg.physBytes_getElem (p : Pkg) (a n : Nat) {i : Nat} (h : i < (p.physBytes a n).length) :
    (p.physBytes a n)[i] = p.physByte (a + i) := by
  induction n generalizing a i with
  | zero => cases h
  | succ n ih =>
    cases i with
    | zero => rfl
    | succ i =>
      simp only [Pkg.physBytes, List.getElem_cons_succ]
      rw [ih, Nat.add_assoc, Nat.add_comm 1]

/-- A byte after the masked bytes of a line have been written. -/
theorem physGet_physPutMask (l : Line) (m : BitVec 64) (a : Nat) (log : List PhysOp) (mem : List Host.Cell) (n e : Nat) :
    physGet (physPutMask l m a log n) mem e =
      if a ≤ e ∧ e < a + n ∧ m.getLsbD (e - a) = true then lineByte l (e - a) else physGet log mem e := by
  induction n with
  | zero => rw [physPutMask, if_neg (by omega)]
  | succ n ih =>
    rw [physPutMask]
    by_cases he : e = a + n
    · subst he
      have hdiff : a + n - a = n := Nat.add_sub_cancel_left ..
      split
      next hm => simp [physGet, hm]
      next hm =>
        rw [ih, if_neg (by omega), if_neg]
        rw [hdiff]
        exact fun h => hm h.2.2
    · have hiff : (a ≤ e ∧ e < a + (n + 1) ∧ m.getLsbD (e - a) = true) ↔ (a ≤ e ∧ e < a + n ∧ m.getLsbD (e - a) = true) := by
        refine and_congr_right fun _ => and_congr_left fun _ => ?_
        omega
      split
      · rw [physGet, if_neg he, ih]
        simp only [hiff]
      · rw [ih]
        simp only [hiff]

theorem Pkg.physWrite_log (p : Pkg) (a : Nat) (m : BitVec 64) (l : Line) (b : Bool) :
    (p.physWrite a m l b).log = physPutMask l m (a / 64 * 64) p.log 64 := by
  unfold Pkg.physWrite
  dsimp only
  split
  · rfl
  · split <;> rfl

theorem Pkg.physWrite_cores (p : Pkg) (a : Nat) (m : BitVec 64) (l : Line) (b : Bool) : (p.physWrite a m l b).cores = p.cores := by
  unfold Pkg.physWrite
  dsimp only
  split
  · rfl
  · split <;> rfl

theorem Pkg.physWrite_migs (p : Pkg) (a : Nat) (m : BitVec 64) (l : Line) (b : Bool) :
    (p.physWrite a m l b).migs = p.migs ∧ (p.physWrite a m l b).leaves = p.leaves := by
  unfold Pkg.physWrite
  dsimp only
  split
  · exact ⟨rfl, rfl⟩
  · split <;> exact ⟨rfl, rfl⟩

/-- A byte of memory after a line's masked bytes have been written there. -/
theorem Pkg.physByte_physWrite (p : Pkg) (a : Nat) (m : BitVec 64) (l : Line) (b : Bool) :
    (∀ i < 64, (p.physWrite a m l b).physByte (a / 64 * 64 + i) =
      if m.getLsbD i = true then lineByte l i else p.physByte (a / 64 * 64 + i)) ∧
      ∀ e, e / 64 ≠ a / 64 → (p.physWrite a m l b).physByte e = p.physByte e := by
  have hbyte (e : Nat) : (p.physWrite a m l b).physByte e = if a / 64 * 64 ≤ e ∧ e < a / 64 * 64 + 64 ∧ m.getLsbD (e - a / 64 * 64) = true
      then lineByte l (e - a / 64 * 64) else p.physByte e := by
    rw [Pkg.physByte, p.physWrite_log, (p.physWrite_atHomes a m l b).mem, physGet_physPutMask]
    rfl
  refine ⟨fun i hi => ?_, fun e he => ?_⟩
  · rw [hbyte, Nat.add_sub_cancel_left]
    by_cases hm : m.getLsbD i = true
    · rw [if_pos ⟨by omega, by omega, hm⟩, if_pos hm]
    · rw [if_neg fun h => hm h.2.2, if_neg hm]
  · rw [hbyte, if_neg]
    rintro ⟨hlo, hhi, -⟩
    omega

/-- A whole line that is written reads back. -/
theorem Pkg.physLine_physWrite (p : Pkg) (a old : Nat) (b : Bool) :
    (p.physWrite a (BitVec.allOnes 64) (p.physLine old) b).physLine a = p.physLine old := by
  obtain ⟨hin, -⟩ := p.physByte_physWrite a (BitVec.allOnes 64) (p.physLine old) b
  refine congrArg lineOf (List.ext_getElem (by rw [Pkg.physBytes_length, Pkg.physBytes_length]) fun i hi hi' => ?_)
  have hlt : i < 64 := by rwa [Pkg.physBytes_length] at hi
  have hone : (BitVec.allOnes 64).getLsbD i = true := BitVec.getLsbD_allOnes.trans (decide_eq_true hlt)
  rw [Pkg.physBytes_getElem, hin i hlt, if_pos hone, Pkg.physLine, lineByte_lineOf _ hi' hlt]

/-! ### Lines that leave a cache -/

theorem Pkg.l1Drop_gone (p : Pkg) (core key : Nat) : Tab.find? ((p.l1Drop core key).core core).l1 key = none := by
  have hcore : (p.l1Drop core key).core core = (p.modCore core fun k => { k with l1 := k.l1.drop key }).core core := by
    unfold Pkg.l1Drop Pkg.dropHolder
    split <;> rfl
  rw [hcore, Pkg.modCore_eq, Pkg.core_setCore_same, Tab.find?_drop_same]

/-- The data of every line stand where a line that is written keeps its data and its home. -/
theorem Pkg.lineData_put {p : Pkg} {key : Nat} {l l' : L2Line} (hl : Tab.find? p.l2 key = some l) (hdata : l'.data = l.data)
    (hhome : l'.home = l.home) (k : Nat) : Pkg.lineData { p with l2 := p.l2.put key l' } k = p.lineData k := by
  have hput := Tab.find?_put p.l2 key k l'
  by_cases hk : key = k
  · subst hk
    rw [if_pos rfl] at hput
    have haliased : Pkg.aliased { p with l2 := p.l2.put key l' } key = p.aliased key := by
      unfold Pkg.aliased
      dsimp only
      rw [hput, hl, Option.map_some, Option.map_some, hhome]
      rfl
    unfold Pkg.lineData
    rw [haliased]
    dsimp only
    rw [hput, hl, Option.getD_some, Option.getD_some, hdata]
  · rw [if_neg hk] at hput
    have haliased : Pkg.aliased { p with l2 := p.l2.put key l' } k = p.aliased k := by
      unfold Pkg.aliased
      dsimp only
      rw [hput]
      rfl
    unfold Pkg.lineData
    rw [haliased]
    dsimp only
    rw [hput]

/-- A copy that an L1 drops leaves the data of every line. -/
theorem Pkg.l1Drop_lineData (p : Pkg) (core key k : Nat) : (p.l1Drop core key).lineData k = p.lineData k := by
  have hcore : (p.modCore core fun k => { k with l1 := k.l1.drop key }).lineData k = p.lineData k := rfl
  rw [← hcore, Pkg.l1Drop, Pkg.dropHolder]
  split
  next hl => refine Pkg.lineData_put hl ?_ ?_ k <;> rfl
  next => rfl

theorem Pkg.loseLine_l2 (key : Nat) (l : List Nat) (p : Pkg) :
    (l.foldl (fun p c => p.modCore c (·.loseLine key)) p).l2 = p.l2 ∧ (l.foldl (fun p c => p.modCore c (·.loseLine key)) p).log = p.log := by
  induction l generalizing p with
  | nil => exact ⟨rfl, rfl⟩
  | cons c l ih => exact ih _

/-- A line of which no chunk has uncommitted bytes is dropped whole. -/
theorem Pkg.dropLine_gone {p : Pkg} {key : Nat} (h : p.uncommitted key = false) :
    Tab.find? (p.dropLine key).l2 key = none ∧ (p.dropLine key).log = p.log := by
  unfold Pkg.dropLine
  split
  next hnone => exact ⟨hnone, rfl⟩
  next =>
    dsimp only
    rw [if_neg (ne_true_of_eq_false h), (Pkg.loseLine_l2 ..).1, (Pkg.loseLine_l2 ..).2]
    exact ⟨Tab.find?_drop_same .., rfl⟩

theorem Pkg.poisonIf_spec (p : Pkg) (b : Bool) (key : Nat) :
    (if b then p.poisonLine key else p).cores = p.cores ∧ (if b then p.poisonLine key else p).log = p.log := by
  split
  · unfold Pkg.poisonLine
    dsimp only
    split <;> split <;> exact ⟨rfl, rfl⟩
  · exact ⟨rfl, rfl⟩

/-- A line that is clean once it has been written back leaves its L2. -/
theorem Pkg.evict_clean {p r : Pkg} {key : Nat} {l : L2Line} (hback : (p.recall key).writeBack key 0x21 = r)
    (h : r.uncommitted key = false) (hl : Tab.find? r.l2 key = some l) (hclean : l.dirty = 0) :
    Tab.find? (p.evict key).l2 key = none ∧ (p.evict key).mem = r.mem ∧ (p.evict key).log = r.log := by
  have hq : p.evict key = (if l.poison then r.poisonLine key else r).dropLine key := by
    rw [Pkg.evict, hback, hl]
    exact if_pos hclean
  obtain ⟨hcores, hlog⟩ := r.poisonIf_spec l.poison key
  have hun : (if l.poison then r.poisonLine key else r).uncommitted key = false := by rwa [Pkg.uncommitted, hcores]
  obtain ⟨hgone, hkeep⟩ := Pkg.dropLine_gone hun
  rw [hq]
  exact ⟨hgone, ((r.poisonIf_atHomes l.poison key).trans (Pkg.dropLine_atHomes _ key)).mem, hkeep.trans hlog⟩

theorem Pkg.writeBack_clean {p : Pkg} {key : Nat} {l : L2Line} (hl : Tab.find? p.l2 key = some l) (hclean : l.dirty = 0) (cause : Nat) :
    p.writeBack key cause = p := by
  rw [Pkg.writeBack, hl]
  exact if_pos hclean

theorem Pkg.writeBack_dirty {p : Pkg} {key b : Nat} {l : L2Line} (hl : Tab.find? p.l2 key = some l) (hdirty : l.dirty ≠ 0)
    (hb : p.phys? (keySpace key) (keyVa key) = some b) (hrec : p.hasRec key = false) (cause : Nat) :
    p.writeBack key cause = { p.physWrite b l.dirty l.data l.poison with
      l2 := (p.physWrite b l.dirty l.data l.poison).l2.put key { l with dirty := 0, attrs := [], dirtyAt := none } } := by
  rw [Pkg.writeBack, hl]
  dsimp only
  rw [if_neg hdirty, hb, hrec]

/-! ### Migration -/

theorem Pkg.physByte_congr {p q : Pkg} (hlog : q.log = p.log) (hmem : q.mem = p.mem) (e : Nat) : q.physByte e = p.physByte e := by
  rw [Pkg.physByte, Pkg.physByte, hlog, hmem]

theorem Pkg.physLine_congr {p q : Pkg} (hlog : q.log = p.log) (hmem : q.mem = p.mem) (a : Nat) : q.physLine a = p.physLine a := by
  refine congrArg lineOf (List.ext_getElem (by simp [Pkg.physBytes_length]) fun i hi _ => ?_)
  rw [Pkg.physBytes_getElem, Pkg.physBytes_getElem, Pkg.physByte_congr hlog hmem]

/-- A migration that ends is one of its package's no longer, and its page has its frames. -/
theorem Pkg.endMig_spec {p : Pkg} {m : Mig} (h : m ∈ p.migs) : (p.endMig m).migs.length + 1 = p.migs.length ∧
    ∀ u ∈ (p.endMig m).leaves, u.space = m.space → u.vpn = m.vpn → u.mig = false ∧ u.frame = m.frame ∧ u.far = m.far := by
  refine ⟨?_, fun u hu hs hv => ?_⟩
  · have hpos := List.length_pos_of_mem h
    have hlen : (p.endMig m).migs.length = p.migs.length - 1 := List.length_erase_of_mem h
    omega
  · obtain ⟨a, -, rfl⟩ := List.mem_map.mp hu
    by_cases hm : (a.space == m.space && a.vpn == m.vpn) = true
    · rw [if_pos hm]
      exact ⟨rfl, rfl, rfl⟩
    · rw [if_neg hm] at hs hv
      exact absurd (by rw [hs, hv]; simp) hm

theorem mem_updWhere_same {α : Type} [BEq α] [LawfulBEq α] {m m' : α} {l : List α} (h : m ∈ l) :
    m' ∈ updWhere (fun a => a == m) (fun _ => m') l :=
  List.mem_map.mpr ⟨m, h, if_pos (beq_self_eq_true m)⟩

theorem length_updWhere {α : Type} (c : α → Bool) (f : α → α) (l : List α) : (updWhere c f l).length = l.length := List.length_map _

/-- The migration `m` stands as `m'` from now on, which ends it where no command is live and its last line is copied. -/
def Pkg.noteCopy (p : Pkg) (m m' : Mig) : Pkg :=
  let r : Pkg := { p with migs := updWhere (fun a => a == m) (fun _ => m') p.migs }
  if m'.live = true ∨ m'.done.length < m'.lines then r else r.endMig m'

theorem Pkg.noteCopy_bytes (p : Pkg) (m m' : Mig) : (p.noteCopy m m').log = p.log ∧ (p.noteCopy m m').mem = p.mem := by
  unfold Pkg.noteCopy
  dsimp only
  split <;> exact ⟨rfl, rfl⟩

theorem Pkg.noteCopy_goes {p : Pkg} {m m' : Mig} (hm : m ∈ p.migs) (hgo : m'.live = true ∨ m'.done.length < m'.lines) :
    m' ∈ (p.noteCopy m m').migs ∧ (p.noteCopy m m').leaves = p.leaves := by
  rw [Pkg.noteCopy]
  rw [if_pos hgo]
  exact ⟨mem_updWhere_same hm, rfl⟩

theorem Pkg.noteCopy_ends {p : Pkg} {m m' : Mig} (hm : m ∈ p.migs) (hgo : ¬ (m'.live = true ∨ m'.done.length < m'.lines)) :
    (p.noteCopy m m').migs.length + 1 = p.migs.length ∧
    ∀ u ∈ (p.noteCopy m m').leaves, u.space = m'.space → u.vpn = m'.vpn → u.mig = false ∧ u.frame = m'.frame ∧ u.far = m'.far := by
  rw [Pkg.noteCopy]
  rw [if_neg hgo, ← length_updWhere (fun a => a == m) (fun _ => m') p.migs]
  exact Pkg.endMig_spec (mem_updWhere_same hm)

theorem Pkg.copyLine_eq {p : Pkg} {mc key : Nat} {l : Leaf} {m : Mig} (hl : List.find? (fun (l : Leaf) => l.holds key) p.leaves = some l)
    (hm : List.find? (fun (m : Mig) => m.space == keySpace key && m.vpn == l.vpn) p.migs = some m) (hmc : mcOf (keyVa key) = mc)
    (hj : (keyVa key - l.vpn * 65536) / 64 ∉ m.done) (hdown : p.down key = false) :
    let old := physOf l.far (l.frame + (keyVa key / 65536 - l.vpn)) (keyVa key)
    let q := p.physWrite (physOf m.far (m.frame + (keyVa key / 65536 - l.vpn)) (keyVa key)) (BitVec.allOnes 64) (p.physLine old)
      (p.poison.contains old)
    let m' : Mig := { m with done := insertNat ((keyVa key - l.vpn * 65536) / 64) m.done }
    p.copyLine mc key = q.noteCopy m m' := by
  intro old q m'
  have hgo : ¬ (mcOf (keyVa key) ≠ mc ∨ m.done.contains ((keyVa key - l.vpn * 65536) / 64) = true ∨ p.down key = true) := by
    rw [List.contains_iff_mem, hdown]
    exact fun h => h.elim (fun h => h hmc) fun h => h.elim hj nofun
  unfold Pkg.copyLine
  dsimp only
  rw [hl]
  dsimp only
  rw [hm]
  dsimp only
  rw [if_neg hgo]
  rfl

/-- What the scrub reports of the line at `line`. -/
def Pkg.scrubEntry (p : Pkg) (mc line reason : Nat) : Pkg :=
  let (n, va) := (p.nameOf line).getD (0, 0)
  p.ras va n 0 (mc / 4) (if Config.nearFrames * 65536 ≤ line then 2 else 1) reason 1

/-- `Pkg.scrub` of a line that stands at its controller. -/
theorem Pkg.scrub_of_bad {p : Pkg} {mc a bad : Nat} (hbad : bad ≠ 0) (hmc : a / 64 * 64 % 65536 / 2048 = mc)
    (hline : a / 64 * 64 < (Config.nearFrames + Config.farFrames) * 65536) :
    p.scrub mc a bad =
      if bad ≤ 2 then p.scrubEntry mc (a / 64 * 64) 1
      else if p.poison.contains (a / 64 * 64) || !p.steady then p
      else { p.scrubEntry mc (a / 64 * 64) 2 with poison := insertNat (a / 64 * 64) p.poison } := by
  have hplace : ¬ (bad = 0 ∨ a / 64 * 64 % 65536 / 2048 ≠ mc ∨ a / 64 * 64 ≥ (Config.nearFrames + Config.farFrames) * 65536) :=
    fun h => h.elim hbad fun h => h.elim (fun hne => hne hmc) (Nat.not_le.mpr hline)
  unfold Pkg.scrub Pkg.scrubEntry
  simp only [decide_eq_true_eq]
  rw [if_neg hplace]

/-- Settles O42: a line's dirty bytes stand in memory before its L2 drops it, a migration copies a line before it sets its bit, and the
scrub reports what it corrects or poisons. -/
theorem lineEvents : Obligations.LineEvents := by
  unfold Obligations.LineEvents
  intro s core key mc a bad p
  refine ⟨fun hhas hun => ?l1, fun hun hdown hcopied l hl => ⟨fun hclean => ?clean, fun b hdirty hb hrec => ?dirty⟩,
    fun l m hl hm => ?migration, ?scrub⟩
  case l1 =>
    refine ⟨p.l1Drop core key, State.does_of_run rfl (if_pos ?_), p.l1Drop_gone core key, p.l1Drop_lineData core key,
      (p.l1Drop_misses core key).mem, (p.l1Drop_misses core key).log⟩
    rw [hhas, hun]
    rfl
  case clean =>
    have hstay : ¬ (p.uncommitted key || p.down key) = true := by simp [hun, hdown]
    have hback : (p.recall key).writeBack key 0x21 = p := by rw [Pkg.recall_of_not_copied hcopied, Pkg.writeBack_clean hl hclean]
    exact ⟨_, State.does_of_run rfl (if_neg hstay), Pkg.evict_clean hback hun hl hclean⟩
  case dirty =>
    have hstay : ¬ (p.uncommitted key || p.down key) = true := by simp [hun, hdown]
    have hback : (p.recall key).writeBack key 0x21 = { p.physWrite b l.dirty l.data l.poison with
        l2 := (p.physWrite b l.dirty l.data l.poison).l2.put key { l with dirty := 0, attrs := [], dirtyAt := none } } := by
      rw [Pkg.recall_of_not_copied hcopied, Pkg.writeBack_dirty hl hdirty hb hrec]
    obtain ⟨hin, hout⟩ := p.physByte_physWrite b l.dirty l.data l.poison
    have hcores := p.physWrite_cores b l.dirty l.data l.poison
    refine ⟨_, State.does_of_run rfl (if_neg hstay), ?_⟩
    generalize p.physWrite b l.dirty l.data l.poison = w at hin hout hcores hback ⊢
    have hunw : Pkg.uncommitted { w with l2 := w.l2.put key { l with dirty := 0, attrs := [], dirtyAt := none } } key = false := by
      rwa [Pkg.uncommitted, hcores]
    obtain ⟨hgone, hmem, hlog⟩ := Pkg.evict_clean hback hunw (Tab.find?_put_same ..) rfl
    refine ⟨hgone, fun i hi => ?_, fun e he => ?_⟩
    · rw [Pkg.physByte, hmem, hlog]
      exact hin i hi
    · rw [Pkg.physByte, hmem, hlog]
      exact hout e he
  case migration =>
    intro j u old new hmc hj hdown
    have hcopy := Pkg.copyLine_eq hl hm hmc hj hdown
    have hread := p.physLine_physWrite new old (p.poison.contains old)
    have hout := (p.physByte_physWrite new (BitVec.allOnes 64) (p.physLine old) (p.poison.contains old)).2
    have hmigs := p.physWrite_migs new (BitVec.allOnes 64) (p.physLine old) (p.poison.contains old)
    have hmem : m ∈ p.migs := List.mem_of_find?_eq_some hm
    refine ⟨_, { m with done := insertNat j m.done }, State.does_of_run rfl hcopy, ?_⟩
    generalize p.physWrite new (BitVec.allOnes 64) (p.physLine old) (p.poison.contains old) = w at hread hout hmigs ⊢
    obtain ⟨hmigs, hleaves⟩ := hmigs
    obtain ⟨hlog, hmem'⟩ := w.noteCopy_bytes m { m with done := insertNat j m.done }
    have hin : m ∈ w.migs := hmigs ▸ hmem
    refine ⟨?_, fun e he => ?_, mem_insertNat.mpr (.inr rfl), fun i hi => mem_insertNat.mpr (.inl hi), rfl, fun hgo => ?_, fun hlive hfull => ?_⟩
    · rw [← hread]
      exact Pkg.physLine_congr hlog hmem' _
    · rw [← hout e he]
      exact Pkg.physByte_congr hlog hmem' e
    · rw [← hleaves]
      exact Pkg.noteCopy_goes hin hgo
    · rw [← hmigs]
      exact Pkg.noteCopy_ends hin fun h => h.elim (by rw [hlive]; exact nofun) (Nat.not_lt.mpr hfull)
  case scrub =>
    intro line report hup hmc hline
    have hno : ¬ (Tab.find? p.resetting (mc / 4)).isSome = true := by rw [hup]; exact nofun
    refine ⟨fun hbad => ?_, fun hbad hpoison hst => ?_, fun hbad => ?_⟩
    · exact State.does_of_run rfl ((if_neg hno).trans ((Pkg.scrub_of_bad (by omega) hmc hline).trans (if_pos (by omega))))
    · have hgood : ¬ (p.poison.contains line || !p.steady) = true := by simp [hpoison, hst]
      exact State.does_of_run rfl
        ((if_neg hno).trans ((Pkg.scrub_of_bad (by omega) hmc hline).trans ((if_neg (by omega)).trans (if_neg hgood))))
    · exact State.does_of_run rfl ((if_neg hno).trans (if_pos (.inl hbad)))

end Sys2Proof.Machine

/-! SUPPORT. Proofs: the places that outstanding operations take: transfers, pan elements, B-slot commands, attestation records
and brine copies (R105, R110, R166, R323, R339). -/

namespace Sys2Proof.Machine

/-! ### Outside replay nothing waits for a log -/

theorem Pkg.opAllowed_of_live {p : Pkg} {o : Op} (h : p.replayOf o.space = none) (kind value : Nat) : p.opAllowed o kind value = true := by
  rw [Pkg.opAllowed, h]

theorem Pkg.logHas_of_live {p : Pkg} {o : Op} (h : p.replayOf o.space = none) (value : Nat) : p.logHas o value = false := by
  rw [Pkg.logHas, h]
  rfl

theorem Pkg.mxMayEnd_of_live {p : Pkg} {o : Op} (h : p.replayOf o.space = none) : p.mxMayEnd o = true := by
  rw [Pkg.mxMayEnd, Pkg.replayAllows, h]
  exact Bool.or_true _

/-! ### Transfers of a COPY -/

theorem Pkg.transfer_copy {p : Pkg} {o : Op} {x : Shape} {f : Nat}
    (hk : o.kind = .copy x.dst x.src x.n0 x.n1 x.n2 x.ss1 x.ds1 x.ss2 x.ds2 none) (hf : x.starts f = true) :
    p.transfer o f = p.copyTransfer o x f := by
  have hlt : f < x.total := by
    rw [Shape.starts, Bool.and_eq_true] at hf
    exact of_decide_eq_true hf.1
  rw [Pkg.transfer, hk]
  exact if_pos hlt

/-- A transfer may take its place. -/
def Pkg.mayTransfer (p : Pkg) (o : Op) (x : Shape) (f : Nat) : Prop :=
  x.starts f = true ∧ f < o.limit x ∧ f ∉ o.done ∧ (p.anyPoison = false ∨ o.inOrder x f = true) ∧
    p.behind o [(x.at_ f).1.toNat / 64 * 64, (x.at_ f).2.toNat / 64 * 64, ((x.at_ f).2.toNat + x.len f - 1) / 64 * 64] = false ∧
    p.replayOf o.space = none

theorem Pkg.mayTransfer.goes {p : Pkg} {o : Op} {x : Shape} {f : Nat} (h : p.mayTransfer o x f) :
    ¬ (!x.starts f || decide (o.limit x ≤ f) || o.done.contains f ||
      p.behind o [(x.at_ f).1.toNat / 64 * 64, (x.at_ f).2.toNat / 64 * 64, ((x.at_ f).2.toNat + x.len f - 1) / 64 * 64] ||
      (p.anyPoison && !o.inOrder x f) || !p.opAllowed o 3 (x.index f)) = true := by
  obtain ⟨hs, hl, hd, hp, hb, hr⟩ := h
  have hpoison : (p.anyPoison && !o.inOrder x f) = false := by
    rcases hp with hp | hp <;> simp [hp]
  simp [hs, Nat.not_le.mpr hl, hd, hpoison, hb, Pkg.opAllowed_of_live hr]

theorem Pkg.copyTransfer_bad {p q : Pkg} {o : Op} {x : Shape} {f : Nat} {b : List Byte} (h : p.mayTransfer o x f)
    (hread : p.readAll o.space (rENG + rRD) (x.at_ f).2.toNat (x.len f) = .ok (b, true, q)) :
    p.copyTransfer o x f = (q.ras ((x.at_ f).2.toNat / 64 * 64) o.space o.who.gcid (o.who.core / 64) 3 3 1).copyEnd
      { o with code := 1, lane := f } x := by
  unfold Pkg.copyTransfer
  dsimp only
  rw [if_neg h.goes, hread]
  exact if_pos rfl

theorem Pkg.copyTransfer_done {p q q' : Pkg} {o : Op} {x : Shape} {f : Nat} {b : List Byte} (h : p.mayTransfer o x f)
    (hk : o.kind = .copy x.dst x.src x.n0 x.n1 x.n2 x.ss1 x.ds1 x.ss2 x.ds2 none)
    (hread : p.readAll o.space (rENG + rRD) (x.at_ f).2.toNat (x.len f) = .ok (b, false, q))
    (hwrite : q.writePiece (some o.who.core) o.space (rENG + rWR) (x.at_ f).1.toNat b o.attr
      (match q.readPiece o.space (rENG + rRD) (x.at_ f).2.toNat (x.len f) with
        | .ok (y, _) => if x.len f = 64 ∧ (x.at_ f).2.toNat % 64 = 0 then y.side else 0
        | .error _ => 0) = .ok q') :
    p.copyTransfer o x f = (((q'.watchEvent o.space (x.at_ f).1.toNat (x.len f) 8 2 o (x.index f % 256)).advance o.space cCopyBytes
      (x.len f)).logOp o 3 (x.index f)).copyEnd { o.unheld f with done := insertNat f o.done } x := by
  unfold Pkg.copyTransfer
  dsimp only
  rw [if_neg h.goes, hread]
  dsimp only
  rw [if_neg Bool.false_ne_true, hk]
  erw [hwrite]
  rfl

/-! ### Elements of a pan invocation -/

theorem Pkg.panElement_done {p q : Pkg} {o : Op} {c : PanCall} {code : Nat} {counted ran : Bool} {ret : Line}
    (hb : p.panBehind o.who o.gen o.id c.va = false) (hr : p.replayOf o.space = none) :
    p.panElement o c (.done q code counted ran ret) =
      let q := if counted = true then q.advance o.space cPanInv 1 else q
      let q := (if ran = true then q.watchEvent o.space (c.va / 64 * 64) 64 7 3 o c.lane else q).logOp o 4 c.lane
      let first := o.code = 0 ∧ code ≠ 0
      let o' := { o with done := o.done ++ [o.done.length], bytes := o.bytes + counted.toNat, held := [],
                         code := if first then code else o.code, lane := if first then c.lane else o.lane }
      if o'.panNext.isSome = true then q.setOp o' else q.endOp o' o'.panWord :=
  if_neg (by simp [hb, Pkg.opAllowed_of_live hr])

/-! ### Commands of a BPUT -/

/-- The accesses of the next command of a BPUT. -/
def Op.putReads (o : Op) (kind : MxKind) (vas : List Nat) : List (Nat × Nat) :=
  cmdReads (sideFmt (o.sides.headD (0, 0)).2) (sideK (o.sides.headD (0, 0)).2) (mxWidth kind) (mxRowBytes kind) vas

/-- A BPUT whose command is accepted makes its next access. -/
def Pkg.bputAccess (q : Pkg) (o : Op) (cap : Word) (kind : MxKind) (n : Nat) (vas : List Nat) : Pkg :=
  let i := o.pieces.length
  let (va, m) := ((o.putReads kind vas)[i]?).getD (0, 0)
  match q.readPiece o.space (rENG + rRD) va m with
  | .error (.held h) => (q.setOp o).holdOp o o.lane h
  | .error .wait | .error (.refused _) => q.setOp o
  | .ok (x, q') =>
    if x.poison then
      match q'.squashReaders (fld cap.toNat 63 55) n none with
      | none => q.setOp o
      | some r => ((r.modBslot (fld cap.toNat 63 55) n (·.emptied o.who.core)).logOp o 3 o.lane).mxRefuse o 1
    else
      let o' := { o.unheld o.lane with pieces := o.pieces.put i x.bytes, lane := o.lane + 1 }
      let q' := q'.logOp o' 3 o.lane
      if i + 1 < (o.putReads kind vas).length then q'.setOp o'
      else (q'.bputWrite o' cap kind n vas).getD (q.setOp { o' with pieces := o'.pieces.drop i, lane := o.lane })

theorem Pkg.bputDo_goes_on {p : Pkg} {o : Op} {cap base pitch : Word} {kind : MxKind} {n : Nat} (hr : p.replayOf o.space = none)
    (hs : o.sides ≠ []) (hb : ((p.core (fld cap.toNat 63 55)).bslots.get .zero n).busy = some o.id) :
    p.bputDo o cap base pitch kind n = p.bputAccess o cap kind n (cmdVas kind base pitch o.done.length) := by
  have hgo : ¬ (o.sides.isEmpty || ((p.core (fld cap.toNat 63 55)).bslots.get .zero n).busy != some o.id) = true := by
    simp [hs, hb]
  unfold Pkg.bputDo
  dsimp only
  rw [if_neg (by simp [Pkg.opAllowed_of_live hr]), if_neg hgo]
  dsimp only
  rw [if_neg (by simp [Pkg.opAllowed_of_live hr])]
  rfl

theorem Pkg.bputDo_arrives {p : Pkg} {o : Op} {cap base pitch : Word} {kind : MxKind} {n : Nat} (hr : p.replayOf o.space = none)
    (hs : o.sides = [] ∨ ((p.core (fld cap.toNat 63 55)).bslots.get .zero n).busy ≠ some o.id) :
    (∀ code q, p.bputArrive { o with sides := [], pieces := [] } cap kind n (cmdVas kind base pitch o.done.length) = .ok (.error code, q) →
      p.bputDo o cap base pitch kind n = q.mxRefuse o code) ∧
    ∀ o' q, p.bputArrive { o with sides := [], pieces := [] } cap kind n (cmdVas kind base pitch o.done.length) = .ok (.ok o', q) →
      o'.space = o.space → o'.lane = o.lane → o'.who = o.who →
      p.bputDo o cap base pitch kind n = q.bputAccess o' cap kind n (cmdVas kind base pitch o.done.length) := by
  have hgo : (o.sides.isEmpty || ((p.core (fld cap.toNat 63 55)).bslots.get .zero n).busy != some o.id) = true := by
    rcases hs with hs | hs <;> simp [hs]
  refine ⟨fun code q ha => ?_, fun o' q ha hspace hlane hwho => ?_⟩
  · unfold Pkg.bputDo
    dsimp only
    rw [if_neg (by simp [Pkg.opAllowed_of_live hr]), if_pos hgo, ha]
    exact if_pos (Pkg.mxMayEnd_of_live hr)
  · unfold Pkg.bputDo Pkg.bputAccess
    dsimp only
    rw [if_neg (by simp [Pkg.opAllowed_of_live hr]), if_pos hgo, ha]
    dsimp only
    rw [if_neg (by simp [Pkg.opAllowed_of_live hr]), hspace, hlane, hwho]
    rfl

theorem Pkg.bputArrive_refused {p : Pkg} {o : Op} {cap : Word} {kind : MxKind} {n code : Nat} (hr : p.replayOf o.space = none)
    (vas : List Nat) (h : p.capRefuses cap n n = some code) : p.bputArrive o cap kind n vas = .ok (.error code, p) := by
  unfold Pkg.bputArrive
  dsimp only
  rw [Pkg.logHas_of_live hr, h]
  rfl

theorem Pkg.bputArrive_room {p q : Pkg} {o : Op} {cap : Word} {kind : MxKind} {n : Nat} {vas : List Nat} {sides : Tab Word}
    (hr : p.replayOf o.space = none) (h : p.capRefuses cap n n = none)
    (hfree : ((p.core (fld cap.toNat 63 55)).bslots.get .zero n).busy = some o.id ∨
      (((p.core (fld cap.toNat 63 55)).bslots.get .zero n).busy = none ∧ p.bloading (fld cap.toNat 63 55) n = false))
    (hs : p.cmdSides o.space ((cmdRowReads (mxRowBytes kind) vas).map Prod.fst) = .ok (sides, q)) :
    p.bputArrive o cap kind n vas =
      match cmdRefuses (mxWidth kind) (if o.done.isEmpty = true then none else
          some (((p.core (fld cap.toNat 63 55)).bslots.get .zero n).fmt, ((p.core (fld cap.toNat 63 55)).bslots.get .zero n).k)) sides vas with
      | some code => .ok (.error code, q)
      | none => .ok (.ok { o with sides }, q.modBslot (fld cap.toNat 63 55) n fun b => { b with busy := some o.id }) := by
  have hgo : ¬ ((((p.core (fld cap.toNat 63 55)).bslots.get .zero n).busy.getD o.id) ≠ o.id ||
      (((p.core (fld cap.toNat 63 55)).bslots.get .zero n).busy.isNone && p.bloading (fld cap.toNat 63 55) n)) = true := by
    rcases hfree with hb | ⟨hb, hl⟩
    · simp [hb]
    · simp [hb, hl]
  unfold Pkg.bputArrive
  dsimp only
  rw [Pkg.logHas_of_live hr, h, if_neg Bool.false_ne_true]
  dsimp only
  rw [if_neg hgo, hs] <;> rfl

/-- What `Pkg.bputAccess` makes of an access that is made. -/
theorem Pkg.bputAccess_made {q q' : Pkg} {o : Op} {cap : Word} {kind : MxKind} {n va m : Nat} {vas : List Nat} {x : Piece}
    (hat : (o.putReads kind vas)[o.pieces.length]? = some (va, m)) (hread : q.readPiece o.space (rENG + rRD) va m = .ok (x, q')) :
    let o' := { o.unheld o.lane with pieces := o.pieces.put o.pieces.length x.bytes, lane := o.lane + 1 }
    (x.poison = true → q'.squashReaders (fld cap.toNat 63 55) n none = none → q.bputAccess o cap kind n vas = q.setOp o) ∧
    (x.poison = true → ∀ u, q'.squashReaders (fld cap.toNat 63 55) n none = some u → q.bputAccess o cap kind n vas =
      ((u.modBslot (fld cap.toNat 63 55) n (·.emptied o.who.core)).logOp o 3 o.lane).mxRefuse o 1) ∧
    (x.poison = false → o.pieces.length + 1 < (o.putReads kind vas).length →
      q.bputAccess o cap kind n vas = (q'.logOp o' 3 o.lane).setOp o') ∧
    (x.poison = false → o.pieces.length + 1 = (o.putReads kind vas).length → q.bputAccess o cap kind n vas =
      ((q'.logOp o' 3 o.lane).bputWrite o' cap kind n vas).getD
        (q.setOp { o' with pieces := o'.pieces.drop o.pieces.length, lane := o.lane })) := by
  intro o'
  unfold Pkg.bputAccess
  dsimp only
  rw [hat, Option.getD_some]
  dsimp only
  rw [hread]
  dsimp only
  refine ⟨fun hp hn => ?_, fun hp u hu => ?_, fun hp hlt => ?_, fun hp heq => ?_⟩
  · rw [if_pos hp, hn]
  · rw [if_pos hp, hu]
  · rw [if_neg (by simp [hp]), if_pos hlt]
  · rw [if_neg (by simp [hp]), if_neg (Nat.not_lt.mpr heq.ge)]

theorem Pkg.bputWrite_eq {q q2 : Pkg} {o : Op} {cap : Word} {kind : MxKind} {n : Nat} {vas : List Nat}
    (hfirst : o.done.length = 0 → q.squashReaders (fld cap.toNat 63 55) n none = some q2) (hlater : o.done.length ≠ 0 → q2 = q) :
    let core := fld cap.toNat 63 55
    let j := o.done.length
    let side := (o.sides.headD (0, 0)).2
    let cols := cmdCols (sideFmt side) (sideK side) (mxWidth kind) (mxRowBytes kind) o.sides vas (o.pieces.map Prod.snd).flatten
    let last := decide (mxRows kind ≤ 16 * (j + 1))
    let q3 := (q2.modBslot core n fun b => b.bput o.id o.who.core (sideFmt side) (sideK side) (16 * j) cols (j == 0) last).advance o.space
      cRoundings (roundsOf cols)
    let o' := { o with done := o.done ++ [j], bytes := o.bytes + 16 * mxRowBytes kind, sides := [], pieces := [] }
    q.bputWrite o cap kind n vas = some (if last = true then q3.mxEnd o' (engineStatus 1 0 o'.bytes) else q3.setOp o') := by
  have hq : (if o.done.length = 0 then q.squashReaders (fld cap.toNat 63 55) n none else some q) = some q2 := by
    by_cases hj : o.done.length = 0
    · rw [if_pos hj, hfirst hj]
    · rw [if_neg hj, hlater hj]
  unfold Pkg.bputWrite
  dsimp only
  rw [hq]

/-! ### BDROP, attestation records and brine copies -/

theorem Pkg.bdropDo_spec {p : Pkg} {o : Op} {cap : Word} {n : Nat} (hr : p.replayOf o.space = none)
    (hbusy : ((p.core (fld cap.toNat 63 55)).bslots.get .zero n).busy = none) (hload : p.bloading (fld cap.toNat 63 55) n = false) :
    (∀ code, p.capRefuses cap (2 + n) n = some code → p.bdropDo o cap n = p.mxRefuse o code) ∧
    (p.capRefuses cap (2 + n) n = none → ∀ q, p.squashReaders (fld cap.toNat 63 55) n none = some q → p.bdropDo o cap n =
      ((q.modBslot (fld cap.toNat 63 55) n (·.emptied o.who.core)).logOp o 3 0).mxEnd o (engineStatus 1 0 0)) := by
  have hgo : ¬ (((p.core (fld cap.toNat 63 55)).bslots.get .zero n).busy.isSome || p.bloading (fld cap.toNat 63 55) n) = true := by
    simp [hbusy, hload]
  unfold Pkg.bdropDo
  dsimp only
  rw [if_neg hgo, Pkg.logHas_of_live hr, if_neg Bool.false_ne_true]
  refine ⟨fun code hc => ?_, fun hc q hq => ?_⟩
  · rw [hc]
    exact if_pos (Pkg.mxMayEnd_of_live hr)
  · rw [hc]
    dsimp only
    rw [if_pos (Pkg.opAllowed_of_live hr 3 0), hq]

theorem Pkg.writeRecord_spec {p : Pkg} {o : Op} (hr : p.replayOf o.space = none) (f : Fuses) (v : Prov) (out : Word) (a : AttRec) :
    (a.code ≠ 0 → p.writeRecord f v o out a = p.endOp o (engineStatus 2 a.code 0)) ∧
    (a.code = 0 →
      let b := recordBytes f v a (p.fw.rseq + 1)
      ∀ q, p.writeBytes (some o.who.core) o.space (rENG + rWR) o.attr (b.length / 64 + 2) out.toNat b = .ok q →
        let q := (List.range (b.length / 64)).foldl (fun q i => (q.watchEvent o.space (out.toNat + 64 * i) 64 8 2 o i).logOp o 3 i) q
        p.writeRecord f v o out a = ({ q with fw := { q.fw with rseq := q.fw.rseq + 1 } } : Pkg).endOp o (engineStatus 1 0 b.length)) := by
  refine ⟨fun hcode => if_pos hcode, fun hcode => ?_⟩
  intro b q hq
  unfold Pkg.writeRecord
  dsimp only
  rw [if_neg (not_not.mpr hcode), if_neg (by simp [Pkg.opAllowed_of_live hr]), hq]

theorem Pkg.crystallize_spec (r : Pkg) (b : Brine) :
    let p : Pkg := { r with brine := r.brine.filter fun (c : Brine) => !(c.die == b.die && c.key == b.key) }
    let e := p.tableEntry b.space b.slot
    (b.bad = true → r.crystallize b = (p.lostCopy b).drainDone b.space b.slot) ∧
    ∀ q l v, b.bad = false → p.fill b.key (BitVec.allOnes 64) = .ok q → q.linePoison b.key = false →
      runRoutine (entHdr e) (entWords e) (q.lineData b.key) (BitVec.ofNat 512 (b.value.toNat % 2 ^ opwBits (entHdr e))) = .done (some l) v →
      r.crystallize b = (q.homeWrite b.key (BitVec.allOnes 64) l (.module_ b.space) none).drainDone b.space b.slot := by
  intro p e
  refine ⟨fun hbad => ?_, fun q l v hbad hfill hpoison hrun => ?_⟩
  · unfold Pkg.crystallize
    dsimp only
    rw [if_pos hbad]
  · unfold Pkg.crystallize
    dsimp only
    rw [if_neg (by simp [hbad]), hfill]
    dsimp only
    rw [if_neg (by simp [hpoison]), hrun]

/-! ### The events -/

/-- The package as the event of an operation of `o`'s context sees it. -/
def State.asked (s : State) (o : Op) : Pkg := { s.pkg with req := some o.who.core }

section
variable {s : State} {id : Nat} {o : Op} {q : Pkg} (ho : s.pkg.op? id = some o)
include ho

theorem State.does_engineCommit {f : Nat} (h : (s.asked o).transfer o f = q) : s.does (.engineCommit id f) q := by
  refine State.does_of_run rfl ?_
  dsimp only
  rw [ho]
  exact h

theorem State.does_panApplication {c : PanCall} (hc : o.panNext = some c) (hfit : (s.asked o).brineFits c = false)
    (h : (s.asked o).panElement o c ((s.asked o).panHome c) = q) : s.does (.panApplication id) q := by
  refine State.does_of_run rfl ?_
  dsimp only
  rw [ho]
  dsimp only
  rw [hc]
  exact (if_neg (fun hf => Bool.false_ne_true (hfit.symm.trans hf))).trans h

theorem State.does_brineApplication {c : PanCall} (hc : o.panNext = some c) (hfit : (s.asked o).brineFits c = true)
    (h : (s.asked o).panElement o c ((s.asked o).panBrine c) = q) : s.does (.brineApplication id) q := by
  refine State.does_of_run rfl ?_
  dsimp only
  rw [ho]
  dsimp only
  rw [hc]
  exact (if_pos hfit).trans h

theorem State.does_bputCommand {cap base pitch : Word} {kind : MxKind} {n : Nat} (hk : o.kind = .bput cap base pitch kind n)
    (h : (s.asked o).bputDo o cap base pitch kind n = q) : s.does (.bputCommand id) q := by
  refine State.does_of_run rfl ?_
  dsimp only
  rw [ho]
  dsimp only
  rw [hk]
  exact h

theorem State.does_bdropCommand {cap : Word} {n : Nat} (hk : o.kind = .bdrop cap n) (h : s.pkg.bdropDo o cap n = q) :
    s.does (.bdropCommand id) q := by
  refine State.does_of_run rfl ?_
  dsimp only
  rw [ho]
  dsimp only
  rw [hk]
  exact h

theorem State.does_attestRecordWritten {out : Word} {a : AttRec} (hk : o.kind = .attest out a)
    (h : (s.asked o).writeRecord s.fuses s.prov o out a = q) : s.does (.attestRecordWritten id) q := by
  refine State.does_of_run rfl ?_
  dsimp only
  rw [ho]
  dsimp only
  rw [hk]
  exact h

end

/-- Settles O43: each event is a short lemma about the function that performs it; outside replay no log holds it back. -/
theorem operationEvents : Obligations.OperationEvents := by
  unfold Obligations.OperationEvents
  refine ⟨fun s id o ho hr => ?_, fun s die key b hb hdown => ?brine⟩
  · intro p
    have hp : p.replayOf o.space = none := hr
    refine ⟨?copy, ?pan, ?bput, ?bdrop, ?attest⟩
    case copy =>
      intro x f _ q q' hk d a n hs hf hd hpoison hb
      have hmay : p.mayTransfer o x f := ⟨hs, hf, hd, hpoison, hb, hp⟩
      have htransfer : p.transfer o f = p.copyTransfer o x f := Pkg.transfer_copy hk hs
      exact ⟨fun hread => State.does_engineCommit ho (htransfer.trans (Pkg.copyTransfer_bad hmay hread)),
        fun hread hwrite => State.does_engineCommit ho (htransfer.trans (Pkg.copyTransfer_done hmay hk hread hwrite))⟩
    case pan =>
      intro c q code counted ran ret hc hb ended
      have hdone := Pkg.panElement_done (q := q) (code := code) (counted := counted) (ran := ran) (ret := ret) hb hp
      refine ⟨fun hfit hhome => ?_, fun hfit hhome => ?_⟩
      · exact State.does_panApplication ho hc hfit ((congrArg (p.panElement o c) hhome).trans hdone)
      · exact State.does_brineApplication ho hc hfit ((congrArg (p.panElement o c) hhome).trans hdone)
    case bput =>
      intro cap base pitch kind n hk core vas b access
      have haccess (r : Pkg) (o' : Op) (hdo : p.bputDo o cap base pitch kind n = r.bputAccess o' cap kind n vas) : access r o' := by
        intro va m x q' side reads i hat hread o''
        obtain ⟨hwait, hpoison, hmore, hlast⟩ := Pkg.bputAccess_made (cap := cap) (n := n) hat hread
        refine ⟨fun hx hn => ?_, fun hx u hu => ?_, fun hx hlt => ?_, fun hx heq => ⟨fun u hu => ?_, fun hn => ?_⟩⟩
        · exact State.does_bputCommand ho hk (hdo.trans (hwait hx hn))
        · exact State.does_bputCommand ho hk (hdo.trans (hpoison hx u hu))
        · exact State.does_bputCommand ho hk (hdo.trans (hmore hx hlt))
        · exact State.does_bputCommand ho hk (hdo.trans ((hlast hx heq).trans (congrArg (Option.getD · _) hu)))
        · exact State.does_bputCommand ho hk (hdo.trans ((hlast hx heq).trans (congrArg (Option.getD · _) hn)))
      refine ⟨fun hs hb => haccess p o (Pkg.bputDo_goes_on hp hs hb), fun hs => ?_, ?write⟩
      case write =>
        intro q q2 o' j hfirst hlater
        exact Pkg.bputWrite_eq hfirst hlater
      obtain ⟨hrefused, haccepted⟩ := Pkg.bputDo_arrives (cap := cap) (base := base) (pitch := pitch) (kind := kind) hp hs
      refine ⟨fun code hc => ?_, fun hc hfree sides q hsides => ⟨fun code hr' => ?_, fun hr' => ?_⟩⟩
      · exact State.does_bputCommand ho hk (hrefused code p (Pkg.bputArrive_refused (o := { o with sides := [], pieces := [] }) hp vas hc))
      · have harrive := Pkg.bputArrive_room (o := { o with sides := [], pieces := [] }) (kind := kind) (vas := vas) hp hc hfree hsides
        exact State.does_bputCommand ho hk (hrefused code q (harrive.trans (by rw [show cmdRefuses _ _ sides vas = _ from hr'])))
      · have harrive := Pkg.bputArrive_room (o := { o with sides := [], pieces := [] }) (kind := kind) (vas := vas) hp hc hfree hsides
        exact haccess _ _ (haccepted _ _ (harrive.trans (by rw [show cmdRefuses _ _ sides vas = _ from hr'])) rfl rfl rfl)
    case bdrop =>
      intro cap n hk core hbusy hload
      obtain ⟨hrefused, hdone⟩ := Pkg.bdropDo_spec (p := s.pkg) hr hbusy hload
      exact ⟨fun code hc => State.does_bdropCommand ho hk (hrefused code hc),
        fun hc q hq => State.does_bdropCommand ho hk (hdone hc q hq)⟩
    case attest =>
      intro out a hk
      obtain ⟨hbad, hgood⟩ := Pkg.writeRecord_spec hp s.fuses s.prov out a
      refine ⟨fun hcode => State.does_attestRecordWritten ho hk (hbad hcode), fun hcode => ?_⟩
      intro b q hq
      exact State.does_attestRecordWritten ho hk (hgood hcode q hq)
  case brine =>
    have hhome : s.pkg.brineHome die key = s.pkg.crystallize b := by
      rw [Pkg.brineHome, hb]
      exact if_neg (by simp [hdown])
    exact ⟨State.does_of_run rfl hhome, State.does_of_run rfl hhome, s.pkg.crystallize_spec b⟩

end Sys2Proof.Machine

/-! SUPPORT. Proofs: a load after a store of its own chunk (R52, R98). -/

namespace Sys2Proof.Machine

/-! ### Bytes of lines and numbers -/

theorem lineByte_testBit (l : Line) (i : Nat) {j : Nat} (hj : j < 8) : (lineByte l i).getLsbD j = l.toNat.testBit (8 * i + j) := by
  rw [BitVec.getLsbD, lineByte, BitVec.extractLsb'_toNat, Nat.testBit_mod_two_pow, Nat.testBit_shiftRight, decide_eq_true hj, Bool.true_and]

/-- The bytes of a line at a place, as a number, once each is the number's. -/
theorem lineGet_of_bytes {l : Line} {off n v : Nat} (hn : 1 ≤ n)
    (h : ∀ i < n, lineByte l (off + i) = BitVec.ofNat 8 (v / 2 ^ (8 * i))) : lineGet l off n = v % 2 ^ (8 * n) := by
  refine Nat.eq_of_testBit_eq fun j => ?_
  have hwidth : 8 * (off + n) - 1 + 1 - 8 * off = 8 * n := by omega
  rw [lineGet, fld, hwidth, Nat.testBit_mod_two_pow, Nat.testBit_mod_two_pow, Nat.testBit_shiftRight]
  by_cases hj : j < 8 * n
  · have hbyte := congrArg (BitVec.getLsbD · (j % 8)) (h (j / 8) (by omega))
    simp only [lineByte_testBit l _ (Nat.mod_lt j (by decide)), BitVec.getLsbD_ofNat, Nat.testBit_div_two_pow] at hbyte
    have hat : 8 * (off + j / 8) + j % 8 = 8 * off + j := by omega
    have hin : j % 8 + 8 * (j / 8) = j := by omega
    rw [hat, hin, decide_eq_true (Nat.mod_lt j (by decide)), Bool.true_and] at hbyte
    rw [hbyte]
  · simp [hj]

theorem lineByte_lineSet (l : Line) {off n i : Nat} (v : Nat) (hi : i < n) (hoff : off + n ≤ 64) :
    lineByte (lineSet l off n v) (off + i) = BitVec.ofNat 8 (v / 2 ^ (8 * i)) := by
  refine BitVec.eq_of_getLsbD_eq fun j hj => ?_
  have hmask : (2 ^ (8 * n) - 1) <<< (8 * off) < 2 ^ 512 := by
    have hlt : (2 ^ (8 * n) - 1) <<< (8 * off) < 2 ^ (8 * n) * 2 ^ (8 * off) := by
      rw [Nat.shiftLeft_eq]
      exact Nat.mul_lt_mul_of_pos_right (Nat.sub_lt (Nat.two_pow_pos _) Nat.one_pos) (Nat.two_pow_pos _)
    rw [← Nat.pow_add] at hlt
    exact hlt.trans_le (Nat.pow_le_pow_right (by decide) (by omega))
  have hsub : 8 * (off + i) + j - 8 * off = 8 * i + j := by omega
  rw [lineByte_testBit _ _ hj, lineSet, BitVec.toNat_ofNat, Nat.testBit_mod_two_pow, Nat.testBit_or, Nat.testBit_and,
    Nat.sub_sub, Nat.add_comm 1, Nat.testBit_two_pow_sub_succ hmask, Nat.testBit_shiftLeft, Nat.testBit_shiftLeft, hsub,
    Nat.testBit_two_pow_sub_one, Nat.testBit_mod_two_pow, BitVec.getLsbD_ofNat, Nat.testBit_div_two_pow]
  have h1 : 8 * (off + i) + j < 512 := by omega
  have h2 : 8 * off ≤ 8 * (off + i) + j := by omega
  have h3 : 8 * i + j < 8 * n := by omega
  simp [h1, h2, h3, hj, Nat.add_comm j]

theorem getLsbD_byteMask {off n i : Nat} (hi : i < n) (hoff : off + n ≤ 64) : (byteMask off n).getLsbD (off + i) = true := by
  rw [byteMask, BitVec.getLsbD_ofNat, Nat.testBit_shiftLeft, Nat.add_sub_cancel_left, Nat.testBit_two_pow_sub_one]
  simp [hi]
  omega

/-- A chunk that has written the masked bytes misses none of them. -/
theorem byteMask_missing (m : BitVec 64) (off n : Nat) : byteMask off n &&& ~~~(m ||| byteMask off n) = 0 := by
  ext i hi
  simp only [BitVec.getElem_and, BitVec.getElem_not, BitVec.getElem_or, BitVec.getElem_zero]
  cases (byteMask off n)[i] <;> simp

theorem lineGet_merged {m : BitVec 64} {off n v : Nat} (d old : Line) (hn : 1 ≤ n) (hoff : off + n ≤ 64) :
    lineGet (mergeLine (m ||| byteMask off n) (lineSet d off n v) old) off n = v % 2 ^ (8 * n) := by
  refine lineGet_of_bytes hn fun i hi => ?_
  have hmask : (m ||| byteMask off n).getLsbD (off + i) = true := by
    rw [BitVec.getLsbD_or, getLsbD_byteMask hi hoff, Bool.or_true]
  rw [lineByte_mergeLine _ _ _ (by omega), if_pos hmask, lineByte_lineSet d v hi hoff]

/-! ### Bytes of a local store -/

theorem leBytes_length (x n : Nat) : (leBytes x n).length = n := by
  induction n generalizing x with
  | zero => rfl
  | succ n ih => rw [leBytes, List.length_cons, ih]

theorem leBytes_getElem (x n : Nat) {i : Nat} (h : i < (leBytes x n).length) : (leBytes x n)[i] = BitVec.ofNat 8 (x / 2 ^ (8 * i)) := by
  induction n generalizing x i with
  | zero => exact absurd h (Nat.not_lt_zero i)
  | succ n ih =>
    cases i with
    | zero => simp [leBytes]
    | succ i =>
      refine (ih (x / 256) (Nat.lt_of_succ_lt_succ h)).trans ?_
      rw [Nat.div_div_eq_div_mul, Nat.mul_succ, Nat.pow_add, Nat.mul_comm]

theorem Core.setLs_byte (k : Core) (off : Nat) (l : List Byte) (o : Nat) :
    (k.setLs off l).ls.get 0 o = if h : off ≤ o ∧ o < off + l.length then l[o - off]'(by omega) else k.ls.get 0 o := by
  induction l generalizing k off with
  | nil =>
    have hnot : ¬ (off ≤ o ∧ o < off + ([] : List Byte).length) := fun h => absurd h.2 (Nat.not_lt.mpr h.1)
    rw [dif_neg hnot]
    rfl
  | cons b t ih =>
    rw [Core.setLs, ih]
    dsimp only
    rw [Tab.get_set]
    by_cases ho : off = o
    · subst ho
      simp
    · by_cases hin : off ≤ o ∧ o < off + (b :: t).length
      · have hlen : (b :: t).length = t.length + 1 := rfl
        rw [dif_pos hin, dif_pos (by omega)]
        have hidx : o - off = (o - (off + 1)) + 1 := by omega
        simp only [hidx, List.getElem_cons_succ]
      · have hlen : (b :: t).length = t.length + 1 := rfl
        rw [dif_neg hin, dif_neg (by omega), if_neg ho]

theorem Core.granule_byte (k : Core) (g : Nat) {i : Nat} (hi : i < 32) : (k.granule g).extractLsb' (8 * i) 8 = k.ls.get 0 (32 * g + i) := by
  have hlen : i < ((List.range 32).map fun i => k.ls.get 0 (32 * g + i)).length := by simpa using hi
  have hbyte := leNat_div_mod _ hlen
  rw [List.getElem_map, List.getElem_range] at hbyte
  refine BitVec.eq_of_toNat_eq ?_
  have hpow : 256 ^ i = 2 ^ (8 * i) := (Nat.pow_mul 2 8 i).symm
  rw [← hbyte, BitVec.extractLsb'_toNat, Core.granule, BitVec.toNat_ofNat, Nat.shiftRight_eq_div_pow, hpow]
  refine Nat.eq_of_testBit_eq fun j => ?_
  rw [show 256 = 2 ^ 8 from rfl, Nat.testBit_mod_two_pow, Nat.testBit_mod_two_pow, Nat.testBit_div_two_pow, Nat.testBit_div_two_pow,
    Nat.testBit_mod_two_pow]
  by_cases hj : j < 8
  · have hin : j + 8 * i < 256 := by omega
    simp [hin]
  · simp [hj]

/-- No other context's chunk holds an undo record of a granule. -/
def Core.Unlogged (k : Core) (slot g : Nat) : Prop := ∀ e ∈ k.ctxs, e.1 ≠ slot → ∀ h ∈ e.2.chunks, ∀ u ∈ h.undo, u.1 ≠ g

/-- A context sees the bytes of its local store as they stand where no other context has written them. -/
theorem Core.lsByteFor_of_unlogged {k : Core} {slot o : Nat} (h : k.Unlogged slot (o / 32)) : k.lsByteFor o (some slot) = k.ls.get 0 o := by
  have hnone : List.findSome? (fun e => if some e.1 = some slot then none else
      List.findSome? (fun u => if u.1 = o / 32 then some u.2 else none) (e.2.chunks.flatMap Chunk.undo)) k.ctxs = none := by
    refine List.findSome?_eq_none_iff.mpr fun e he => ?_
    by_cases hs : e.1 = slot
    · rw [hs, if_pos rfl]
    · rw [if_neg (by simpa using hs)]
      refine List.findSome?_eq_none_iff.mpr fun u hu => ?_
      obtain ⟨c, hc, hu⟩ := List.mem_flatMap.mp hu
      exact if_neg (h e he hs c hc u hu)
  rw [Core.lsByteFor, Core.committedGranule, hnone]
  exact (k.granule_byte (o / 32) (Nat.mod_lt o (by decide))).trans (by rw [Nat.div_add_mod])

/-! ### What decides the way of an access -/

/-- Windows, tasks and local stores of `q` lead an access where those of `p` do. -/
structure Pkg.RoutesAs (p q : Pkg) : Prop where
  windows : ∀ s, (q.space? s).map Space.windows = (p.space? s).map Space.windows
  ext : ∀ c, (q.core c).extSize = (p.core c).extSize ∧ (q.core c).extSpace = (p.core c).extSpace
  task : ∀ c, (q.core c).task = (p.core c).task

namespace Pkg.RoutesAs

theorem refl (p : Pkg) : p.RoutesAs p := ⟨fun _ => rfl, fun _ => ⟨rfl, rfl⟩, fun _ => rfl⟩

theorem trans {p q r : Pkg} (h : p.RoutesAs q) (h' : q.RoutesAs r) : p.RoutesAs r :=
  ⟨fun s => (h'.windows s).trans (h.windows s), fun c => ⟨(h'.ext c).1.trans (h.ext c).1, (h'.ext c).2.trans (h.ext c).2⟩,
    fun c => (h'.task c).trans (h.task c)⟩

theorem foldl {α : Type} {f : Pkg → α → Pkg} (h : ∀ (p : Pkg) a, p.RoutesAs (f p a)) (l : List α) (p : Pkg) :
    p.RoutesAs (l.foldl f p) := by
  induction l generalizing p with
  | nil => exact refl p
  | cons a t ih => exact (h p a).trans (ih _)

/-- A change of one core that leaves what routes need. -/
theorem of_setCore {p : Pkg} {c : Nat} {k : Core} (hsize : k.extSize = (p.core c).extSize) (hspace : k.extSpace = (p.core c).extSpace)
    (htask : k.task = (p.core c).task) : p.RoutesAs (p.setCore c k) := by
  refine ⟨fun _ => rfl, fun d => ?_, fun d => ?_⟩ <;> by_cases hd : d = c
  · rw [hd, Pkg.core_setCore_same]
    exact ⟨hsize, hspace⟩
  · rw [Pkg.core_setCore_other _ hd]
    exact ⟨rfl, rfl⟩
  · rw [hd, Pkg.core_setCore_same, htask]
  · rw [Pkg.core_setCore_other _ hd]

theorem modCtx (p : Pkg) (x : CtxRef) (f : Ctx → Ctx) : p.RoutesAs (p.modCtx x f) := of_setCore rfl rfl rfl

theorem of_atHomes {p q : Pkg} (h : p.AtHomes q) : p.RoutesAs q := by
  refine ⟨h.windows, fun c => ⟨?_, ?_⟩, h.task⟩
  · have hc := congrArg Core.extSize (h.core c)
    exact hc
  · have hc := congrArg Core.extSpace (h.core c)
    exact hc

section
variable {p q : Pkg} (h : p.RoutesAs q)
include h

theorem spaceOf (c : Nat) : q.spaceOf c = p.spaceOf c := by rw [Pkg.spaceOf, Pkg.spaceOf, h.task]

theorem window? (s va : Nat) : q.window? s va = p.window? s va := by
  have hw := h.windows s
  unfold Pkg.window?
  cases hq : q.space? s <;> cases hp : p.space? s <;> simp_all

theorem route? (s va : Nat) : q.route? s va = p.route? s va := by
  unfold Pkg.route?
  simp only [h.window?, (h.ext (lsCore va)).1, (h.ext (lsCore va)).2]

theorem route (s va need : Nat) : q.route s va need = p.route s va need := by rw [Pkg.route, Pkg.route, h.route?]

end
end Pkg.RoutesAs

theorem Pkg.squashFrom_routes (p : Pkg) (x : CtxRef) (whole counted : Bool) : p.RoutesAs (p.squashFrom x whole counted) := by
  obtain ⟨k, c, q, keys, he, -, hout⟩ := p.squashFrom_shape x whole counted
  rw [he]
  have hsize := congrArg Core.extSize hout
  have hspace := congrArg Core.extSpace hout
  have htask := congrArg Core.task hout
  have hset : p.RoutesAs (p.setCore x.core k) := .of_setCore hsize hspace htask
  have hq : (p.setCore x.core k).RoutesAs { p.setCore x.core k with exclQ := q } := ⟨fun _ => rfl, fun _ => ⟨rfl, rfl⟩, fun _ => rfl⟩
  exact (hset.trans hq).trans (.of_atHomes (Pkg.shed_atHomes ..))

theorem Pkg.squashIf_routes (p : Pkg) (x : CtxRef) (hit : Chunk → Bool) : p.RoutesAs (p.squashIf x hit) := by
  unfold Pkg.squashIf Pkg.strike
  dsimp only
  split
  · exact .refl p
  · split
    · exact p.squashFrom_routes x _ _
    · split
      · exact p.squashFrom_routes x _ _
      · exact .refl p

/-! ### The steps of a load and of a store -/

theorem M.bind_ok {α β : Type} {m : M α} {f : α → M β} {p q : Pkg} {b : β} (h : (m >>= f).run p = .ok (b, q)) :
    ∃ a p', m.run p = .ok (a, p') ∧ (f a).run p' = .ok (b, q) := by
  rw [M.run_bind] at h
  split at h
  next a p' hm => exact ⟨a, p', hm, h⟩
  · cases h

theorem M.claim_routes {x : CtxRef} {others : List Nat} {holds : Chunk → Bool} {p q : Pkg}
    (h : (M.claim x others holds).run p = .ok ((), q)) : p.RoutesAs q := by
  unfold M.claim at h
  split at h
  · cases h
    exact .refl p
  next =>
    simp only [M.run_bind, M.run_get] at h
    split at h
    · cases h
      exact .foldl (fun p s => p.squashIf_routes _ _) _ p
    · cases h

theorem M.claimRemote_routes {x : CtxRef} {core g0 g1 : Nat} {p q : Pkg}
    (h : (M.claimRemote x core g0 g1).run p = .ok ((), q)) : p.RoutesAs q := by
  unfold M.claimRemote at h
  simp only [M.run_bind, M.run_get] at h
  split at h
  · cases h
    exact .refl p
  next =>
    split at h
    · cases h
      exact .foldl (fun p s => p.squashIf_routes _ _) _ p
    · cases h

theorem Pkg.serveWrite_atHomes {p q : Pkg} {key : Nat} (h : p.serveWrite key = .ok q) : p.AtHomes q := by
  unfold Pkg.serveWrite at h
  dsimp only at h
  split at h
  · cases h
  · refine (p.recall_atHomes key).trans ?_
    split at h
    · cases h
      exact .refl _
    · cases ha : (p.recall key).alloc key with
      | error e =>
        rw [ha] at h
        cases h
      | ok r =>
        rw [ha] at h
        cases h
        exact (Pkg.alloc_atHomes ha).trans (Pkg.countMiss_atHomes r key)

theorem M.touch_routes {x : CtxRef} {key : Nat} {p q : Pkg} (h : (M.touch x key).run p = .ok ((), q)) : p.RoutesAs q := by
  unfold M.touch at h
  simp only [M.run_bind, M.run_get] at h
  split at h
  next r hr =>
    cases h
    exact .of_atHomes (Pkg.takeWay_atHomes hr)
  next =>
    split at h
    · cases h
    · split at h
      · split at h
        · cases h
        · split at h <;> cases h
      next s o w _ =>
        cases h
        exact ((p.squashIf_routes _ _).trans (.of_atHomes (Pkg.l1Drop_atHomes _ x.core o))).trans
          (.of_atHomes ((Pkg.AtHomes.modCore rfl).trans (Pkg.addHolder_atHomes _ key x.core)))

/-- What a step of `x` that only notes something in its own chunk leaves. -/
structure Pkg.Jots (p q : Pkg) (x : CtxRef) : Prop where
  routes : p.RoutesAs q
  ls : ∀ c, (q.core c).ls = (p.core c).ls
  others : ∀ e ∈ (q.core x.core).ctxs, e.1 ≠ x.slot → e ∈ (p.core x.core).ctxs
  excl : (q.ctx x).excl = (p.ctx x).excl

namespace Pkg.Jots
variable {x : CtxRef}

theorem refl (p : Pkg) : p.Jots p x := ⟨.refl p, fun _ => rfl, fun _ he _ => he, rfl⟩

theorem trans {p q r : Pkg} (h : p.Jots q x) (h' : q.Jots r x) : p.Jots r x :=
  ⟨h.routes.trans h'.routes, fun c => (h'.ls c).trans (h.ls c), fun e he hs => h.others e (h'.others e he hs) hs, h'.excl.trans h.excl⟩

theorem modChunk (p : Pkg) (x : CtxRef) (f : Chunk → Chunk) : p.Jots (p.modCtx x fun c => { c with ch := f c.ch }) x where
  routes := .modCtx ..
  ls c := by
    rw [Pkg.modCtx, Pkg.setCtx, Pkg.modCore_eq]
    by_cases hc : c = x.core
    · rw [hc, Pkg.core_setCore_same]
      rfl
    · rw [Pkg.core_setCore_other _ hc]
  others e he hs := by
    rw [Pkg.modCtx, Pkg.setCtx, Pkg.modCore_eq, Pkg.core_setCore_same] at he
    exact Tab.mem_set he hs
  excl := by rw [Pkg.ctx_modCtx_same]

theorem unlogged {p q : Pkg} (h : p.Jots q x) {g : Nat} (hu : (p.core x.core).Unlogged x.slot g) : (q.core x.core).Unlogged x.slot g :=
  fun e he hs => hu e (h.others e he hs) hs

end Pkg.Jots

/-- A step of `x` that leaves the lines its running chunk has written. -/
structure Pkg.Marks (p q : Pkg) (x : CtxRef) : Prop extends p.Jots q x where
  ulines : (q.ctx x).ch.ulines = (p.ctx x).ch.ulines

namespace Pkg.Marks
variable {x : CtxRef}

theorem refl (p : Pkg) : p.Marks p x := ⟨.refl p, rfl⟩

theorem trans {p q r : Pkg} (h : p.Marks q x) (h' : q.Marks r x) : p.Marks r x :=
  ⟨h.toJots.trans h'.toJots, h'.ulines.trans h.ulines⟩

theorem modChunk (p : Pkg) (x : CtxRef) {f : Chunk → Chunk} (hf : ∀ h, (f h).ulines = h.ulines) :
    p.Marks (p.modCtx x fun c => { c with ch := f c.ch }) x := ⟨.modChunk p x f, by rw [Pkg.ctx_modCtx_same, hf]⟩

end Pkg.Marks

theorem M.watch_marks {x : CtxRef} {va n bit : Nat} {p q : Pkg} (h : (M.watch x va n bit).run p = .ok ((), q)) : p.Marks q x := by
  unfold M.watch at h
  simp only [M.run_bind, M.run_get] at h
  split at h
  · cases h
    exact .refl p
  · generalize List.filterMap _ _ = hits at h
    split at h
    · cases h
      exact .refl p
    · cases h
      exact .modChunk p x (f := fun h => { h with hits := h.hits ++ hits }) fun _ => rfl

theorem M.count_marks {x : CtxRef} {ix n : Nat} {p q : Pkg} (h : (M.count x ix n).run p = .ok ((), q)) : p.Marks q x := by
  unfold M.count at h
  split at h
  · cases h
    exact .refl p
  · cases h
    exact .modChunk p x (f := fun h => { h with adv := h.adv.put ix (h.adv.get 0 ix + n) }) fun _ => rfl

theorem M.enterWrite_marks {x : CtxRef} {key : Nat} {p q : Pkg} (h : (M.enterWrite x key).run p = .ok ((), q)) : p.Marks q x := by
  simp only [M.enterWrite, M.ctx, M.run_bind, M.run_get, M.run_pure] at h
  split at h
  · cases h
  · cases h
    exact .modChunk p x (f := fun h => { h with wlines := insertNat key h.wlines }) fun _ => rfl

theorem M.up_same {key : Nat} {p q : Pkg} (h : (M.up key).run p = .ok ((), q)) : q = p := by
  unfold M.up at h
  obtain ⟨a, p₁, hget, h⟩ := M.bind_ok h
  cases hget
  cases hd : (p.ctx p.cur).doomed key with
  | some va =>
    rw [hd] at h
    cases h
  | none =>
    rw [hd] at h
    change (if p.down key = true then (throw (Stop_.wait WaitKind.ops) : M Unit) else pure ()).run p = _ at h
    split at h
    · cases h
    · cases h
      rfl

/-- A step through `M.firstAt` that ends has ended as it does without. -/
theorem M.firstAt_ok {α : Type} {key va : Nat} {m : M α} {p q : Pkg} {a : α} (h : (M.firstAt key va m).run p = .ok (a, q)) :
    m.run p = .ok (a, q) := by
  cases hm : m.run p with
  | ok r =>
    have heq : (M.firstAt key va m).run p = .ok r := by
      show M.firstAt key va m p = _
      rw [M.firstAt, hm]
    exact heq.symm.trans h
  | error e =>
    have heq : ∃ e', (M.firstAt key va m).run p = .error e' := by
      show ∃ e', M.firstAt key va m p = _
      rw [M.firstAt, hm]
      cases e <;> exact ⟨_, rfl⟩
    obtain ⟨e', he⟩ := heq
    rw [he] at h
    cases h

/-- No other context of the core has written there where this one, not being exclusive, goes on. -/
def Pkg.Plain (p : Pkg) (x : CtxRef) : Prop :=
  (p.ctx x).excl = none ∨ ∀ e ∈ (p.core x.core).ctxs, e.1 ≠ x.slot → ∀ h ∈ e.2.chunks, h.undo = []

theorem Pkg.Plain.of_jots {p q : Pkg} {x : CtxRef} (h : p.Plain x) (hj : p.Jots q x) : q.Plain x :=
  h.imp (fun he => hj.excl.trans he) fun ho e he hs => ho e (hj.others e he hs) hs

/-- The contexts that a step must make way for are none where a plain one goes on. -/
theorem M.claim_plain {x : CtxRef} {others : List Nat} {holds : Chunk → Bool} {p q : Pkg} (he : (p.ctx x).excl = none)
    (h : (M.claim x others holds).run p = .ok ((), q)) : others.filter (· != x.slot) = [] := by
  unfold M.claim at h
  split at h
  next hnone => exact hnone
  next =>
    have hruns : (p.ctx x).exclRuns = false := by simp [Ctx.exclRuns, he]
    simp only [M.run_bind, M.run_get, hruns] at h
    cases h

theorem M.logGranule_spec {x : CtxRef} {g : Nat} {p q : Pkg} (hp : p.Plain x) (h : (M.logGranule x g).run p = .ok ((), q)) :
    p.Marks q x ∧ (q.core x.core).Unlogged x.slot g := by
  obtain ⟨_, p₁, hget, h⟩ := M.bind_ok h
  cases hget
  obtain ⟨_, p₁, hclaim, h⟩ := M.bind_ok h
  have hnobody : (List.filterMap (fun e : Nat × Ctx => if e.2.chunks.any (fun h => h.undo.any fun u => u.1 == g) then some e.1 else none)
      (p.core x.core).ctxs).filter (· != x.slot) = [] := by
    rcases hp with he | hnone
    · exact M.claim_plain he hclaim
    · refine List.filter_eq_nil_iff.mpr fun a ha => ?_
      obtain ⟨e, hmem, hsome⟩ := List.mem_filterMap.mp ha
      split at hsome
      next hany =>
        cases hsome
        obtain ⟨c, hc, hu⟩ := List.any_eq_true.mp hany
        intro hs
        rw [hnone e hmem (by simpa using hs) c hc] at hu
        cases hu
      · cases hsome
  have hfree : (p.core x.core).Unlogged x.slot g := by
    intro e he hs c hc u hu hg
    have hin : e.1 ∈ List.filterMap (fun e : Nat × Ctx => if e.2.chunks.any (fun h => h.undo.any fun u => u.1 == g) then some e.1 else none)
        (p.core x.core).ctxs := by
      refine List.mem_filterMap.mpr ⟨e, he, if_pos (List.any_eq_true.mpr ⟨c, hc, List.any_eq_true.mpr ⟨u, hu, ?_⟩⟩)⟩
      exact beq_iff_eq.mpr hg
    exact List.filter_eq_nil_iff.mp hnobody _ hin (by simpa using hs)
  have hp₁ : p₁ = p := by
    rw [M.claim_nobody hnobody] at hclaim
    cases hclaim
    rfl
  rw [hp₁] at h
  suffices hm : p.Marks q x from ⟨hm, hm.toJots.unlogged hfree⟩
  obtain ⟨_, p₂, hget, h⟩ := M.bind_ok h
  cases hget
  dsimp only at h
  split at h
  · cases h
    exact .refl p
  · split at h
    · cases h
    · cases h
      exact .modChunk p x (f := fun h => { h with undo := (g, (p.core x.core).granule g) :: h.undo }) fun _ => rfl

/-! ### A store -/

theorem Pkg.RoutesAs.of_setLs (p : Pkg) (c off : Nat) (l : List Byte) : p.RoutesAs (p.modCore c fun k => k.setLs off l) := by
  have hout := Core.outside_setLs l (p.core c) off
  have hsize := congrArg Core.extSize hout
  have hspace := congrArg Core.extSpace hout
  have htask := congrArg Core.task hout
  exact .of_setCore hsize hspace htask

/-- The line `key` is one that the chunk has written at the masked bytes, with `f` of what it had written there. -/
def Chunk.putLine (h : Chunk) (key : Nat) (mask : BitVec 64) (f : Line → Line) : Chunk :=
  let (m, d) := (Tab.find? h.ulines key).getD (0, 0)
  { h with ulines := h.ulines.put key (m ||| mask, f d) }

theorem Chunk.find?_putLine (h : Chunk) (key : Nat) (mask : BitVec 64) (f : Line → Line) :
    ∃ m d, Tab.find? (h.putLine key mask f).ulines key = some (m ||| mask, f d) := by
  unfold Chunk.putLine
  obtain ⟨m, d⟩ := (Tab.find? h.ulines key).getD (0, 0)
  exact ⟨m, d, Tab.find?_put_same ..⟩

/-- A store into the core's own local store logs the granules that it writes, and writes them. -/
theorem M.store_own {x : CtxRef} {va n v off : Nat} {p q : Pkg} {r : Route} (hp : p.Plain x)
    (hr : p.route (p.spaceOf x.core) va rWR = some r) (hown : r.place = .lstore x.core off)
    (h : (M.store x va n v).run p = .ok ((), q)) : ∃ p₁, p.Marks p₁ x ∧ (p₁.core x.core).Unlogged x.slot (lsOff va / 32) ∧
      (p₁.core x.core).Unlogged x.slot ((lsOff va + n - 1) / 32) ∧
      (p₁.modCore x.core fun k => k.setLs (lsOff va) (leBytes v n)).Jots q x := by
  obtain ⟨_, p₁, hget, h⟩ := M.bind_ok h
  cases hget
  rw [hr] at h
  obtain ⟨_, p₁, hup, h⟩ := M.bind_ok h
  obtain ⟨_, p₂, hwatch, h⟩ := M.bind_ok h
  obtain ⟨_, p₃, hcount, h⟩ := M.bind_ok h
  rw [M.up_same hup] at hwatch
  have h₃ : p.Marks p₃ x := (M.watch_marks hwatch).trans (M.count_marks hcount)
  dsimp only at h
  rw [hown] at h
  dsimp only at h
  rw [if_pos (beq_self_eq_true x.core)] at h
  obtain ⟨_, p₄, hlog, h⟩ := M.bind_ok h
  obtain ⟨_, p₅, hlog', h⟩ := M.bind_ok h
  obtain ⟨_, p₆, hls, h⟩ := M.bind_ok h
  obtain ⟨_, p₇, hput, hend⟩ := M.bind_ok h
  obtain ⟨h₄, hfree⟩ := M.logGranule_spec (hp.of_jots h₃.toJots) hlog
  obtain ⟨h₅, hfree'⟩ := M.logGranule_spec ((hp.of_jots h₃.toJots).of_jots h₄.toJots) hlog'
  cases hls
  cases hput
  exact ⟨p₅, (h₃.trans h₄).trans h₅, h₅.toJots.unlogged hfree, hfree',
    (Pkg.Jots.modChunk _ x fun c => c.putLine r.key (byteMask (va % 64) n) id).trans (M.enterWrite_marks hend).toJots⟩

theorem M.home_serveWrite {key : Nat} {p q : Pkg} (h : (M.home fun p => p.serveWrite key).run p = .ok ((), q)) : p.AtHomes q := by
  obtain ⟨_, p₁, hget, h⟩ := M.bind_ok h
  cases hget
  dsimp only at h
  cases hs : p.serveWrite key with
  | ok r =>
    rw [hs] at h
    cases h
    exact Pkg.serveWrite_atHomes hs
  | error e =>
    rw [hs] at h
    cases h

/-- What `M.touch` and the note of a written line make of a chunk. -/
theorem M.putLine_end {x : CtxRef} {va n v key : Nat} {p₁ p₂ p₃ q : Pkg} (htouch : (M.touch x key).run p₁ = .ok ((), p₂))
    (hput : (M.modChunk x fun c => c.putLine key (byteMask (va % 64) n) fun d => lineSet d (va % 64) n v).run p₂ = .ok ((), p₃))
    (hend : (M.enterWrite x key).run p₃ = .ok ((), q)) :
    p₁.RoutesAs q ∧ ∃ m d, Tab.find? (q.ctx x).ch.ulines key = some (m ||| byteMask (va % 64) n, lineSet d (va % 64) n v) := by
  have hmarks := M.enterWrite_marks hend
  cases hput
  refine ⟨((M.touch_routes htouch).trans (.modCtx ..)).trans hmarks.routes, ?_⟩
  obtain ⟨m, d, hfind⟩ := (p₂.ctx x).ch.find?_putLine key (byteMask (va % 64) n) fun d => lineSet d (va % 64) n v
  refine ⟨m, d, ?_⟩
  rw [hmarks.ulines, Pkg.ctx_modCtx_same]
  exact hfind

/-- A store elsewhere stands in the line that its chunk has written. -/
theorem M.store_away {x : CtxRef} {va n v : Nat} {p q : Pkg} {r : Route} (hr : p.route (p.spaceOf x.core) va rWR = some r)
    (hown : ∀ off, r.place ≠ .lstore x.core off) (h : (M.store x va n v).run p = .ok ((), q)) :
    p.RoutesAs q ∧ ∃ m d, Tab.find? (q.ctx x).ch.ulines r.key = some (m ||| byteMask (va % 64) n, lineSet d (va % 64) n v) := by
  obtain ⟨_, p₁, hget, h⟩ := M.bind_ok h
  cases hget
  rw [hr] at h
  obtain ⟨_, p₁, hup, h⟩ := M.bind_ok h
  obtain ⟨_, p₂, hwatch, h⟩ := M.bind_ok h
  obtain ⟨_, p₃, hcount, h⟩ := M.bind_ok h
  rw [M.up_same hup] at hwatch
  have h₃ : p.Marks p₃ x := (M.watch_marks hwatch).trans (M.count_marks hcount)
  dsimp only at h
  have hno : ¬ (match r.place with
      | .lstore c _ => c == x.core
      | .line _ _ => false) = true := by
    cases hplace : r.place with
    | line => exact nofun
    | lstore c off => exact fun he => hown off (by rw [hplace, beq_iff_eq.mp he])
  erw [if_neg hno] at h
  obtain ⟨_, p₄, hclaim, h⟩ := M.bind_ok h
  have h₄ : p.RoutesAs p₄ := h₃.routes.trans (M.claim_routes hclaim)
  cases hplace : r.place with
  | line home win =>
    rw [hplace] at h
    obtain ⟨_, p₅, hserve, h⟩ := M.bind_ok h
    obtain ⟨_, p₆, htouch, h⟩ := M.bind_ok h
    obtain ⟨_, p₇, hput, hend⟩ := M.bind_ok h
    obtain ⟨hroutes, hline⟩ := M.putLine_end htouch hput hend
    exact ⟨(h₄.trans (.of_atHomes (M.home_serveWrite (M.firstAt_ok hserve)))).trans hroutes, hline⟩
  | lstore c off =>
    rw [hplace] at h
    obtain ⟨_, p₅, hremote, h⟩ := M.bind_ok h
    obtain ⟨_, p₆, htouch, h⟩ := M.bind_ok h
    obtain ⟨_, p₇, hput, hend⟩ := M.bind_ok h
    obtain ⟨hroutes, hline⟩ := M.putLine_end htouch hput hend
    exact ⟨(h₄.trans (M.claimRemote_routes hremote)).trans hroutes, hline⟩

/-! ### A load -/

/-- The view of a line from which a load takes its bytes. -/
theorem M.load_view {x : CtxRef} {need va n w : Nat} {noalloc : Bool} {p q : Pkg} {r : Route}
    (hr : p.route (p.spaceOf x.core) va need = some r) (h : (M.load x need va n false noalloc).run p = .ok (w, q)) :
    ∃ p₁ p₂ l, p.Marks p₁ x ∧ (M.viewLine x r (byteMask (va % 64) n) noalloc).run p₁ = .ok (l, p₂) ∧ w = lineGet l (va % 64) n := by
  obtain ⟨_, p₁, hget, h⟩ := M.bind_ok h
  cases hget
  rw [hr] at h
  obtain ⟨_, p₁, hwatch, h⟩ := M.bind_ok h
  obtain ⟨_, p₂, hcount, h⟩ := M.bind_ok h
  obtain ⟨l, p₃, hview, h⟩ := M.bind_ok h
  obtain ⟨_, p₄, hread, h⟩ := M.bind_ok h
  cases h
  exact ⟨p₂, p₃, l, (M.watch_marks hwatch).trans (M.count_marks hcount), M.firstAt_ok hview, rfl⟩

/-- A chunk that has written all masked bytes of a line elsewhere sees its own. -/
theorem M.viewLine_written {x : CtxRef} {r : Route} {off n : Nat} {noalloc : Bool} {m : BitVec 64} {d l : Line} {p q : Pkg}
    (hown : ∀ o, r.place ≠ .lstore x.core o) (hline : Tab.find? (p.ctx x).ch.ulines r.key = some (m ||| byteMask off n, d))
    (h : (M.viewLine x r (byteMask off n) noalloc).run p = .ok (l, q)) :
    l = d ∨ ∃ old, l = mergeLine (m ||| byteMask off n) d old := by
  have huline : (p.ctx x).uline? r.key = some (m ||| byteMask off n, d) := by
    rw [Ctx.uline?, Ctx.chunks, List.findSome?_cons, hline]
  obtain ⟨_, p₁, hup, h⟩ := M.bind_ok h
  rw [M.up_same hup] at h
  obtain ⟨_, p₂, hget, h⟩ := M.bind_ok h
  cases hget
  dsimp only at h
  rw [huline] at h
  dsimp only [Option.getD_some] at h
  cases hplace : r.place with
  | line home win =>
    rw [hplace] at h
    dsimp only at h
    rw [if_pos (byteMask_missing m off n)] at h
    split at h <;> cases h
    exact .inl rfl
  | lstore c o =>
    rw [hplace] at h
    dsimp only at h
    split at h
    · cases h
    · rw [if_neg fun hc => hown o (by rw [hplace, hc])] at h
      obtain ⟨_, p₃, htouch, h⟩ := M.bind_ok h
      cases h
      exact .inr ⟨_, rfl⟩

/-- A context's view of its own core's local store. -/
theorem M.viewLine_own {x : CtxRef} {r : Route} {mask : BitVec 64} {off : Nat} {noalloc : Bool} {l : Line} {p q : Pkg}
    (hown : r.place = .lstore x.core off) (h : (M.viewLine x r mask noalloc).run p = .ok (l, q)) :
    l = (p.core x.core).lsLine off (some x.slot) := by
  obtain ⟨_, p₁, hup, h⟩ := M.bind_ok h
  rw [M.up_same hup] at h
  obtain ⟨_, p₂, hget, h⟩ := M.bind_ok h
  cases hget
  dsimp only at h
  rw [hown] at h
  dsimp only at h
  split at h
  · cases h
  · rw [if_pos rfl, M.run_pure] at h
    exact (congrArg Prod.fst (Except.ok.inj h)).symm

/-! ### The load after the store -/

theorem Pkg.route?_of_route {p : Pkg} {s va need : Nat} {r : Route} (h : p.route s va need = some r) : p.route? s va = some r := by
  unfold Pkg.route at h
  split at h
  next r' hr =>
    split at h
    · rwa [← h]
    · cases h
  · cases h

/-- A local store's bytes stand at the address's offset. -/
theorem Pkg.route?_lstore {p : Pkg} {s va c off : Nat} {r : Route} (h : p.route? s va = some r) (hr : r.place = .lstore c off) :
    lsBase ≤ va ∧ off = lsOff va := by
  unfold Pkg.route? at h
  split at h
  · cases h
  · split at h
    next hlocal =>
      dsimp only at h
      split at h
      · cases h
        cases hr
        rw [inLocal, Bool.and_eq_true] at hlocal
        exact ⟨of_decide_eq_true hlocal.1, rfl⟩
      · cases h
    · split at h
      · cases h
      · split at h
        · split at h <;> cases h
          cases hr
        · cases h
          cases hr

/-- An address of a local store and its offset there stand at the same byte of a line. -/
theorem lsOff_line {va : Nat} (h : lsBase ≤ va) : lsOff va % 64 = va % 64 := by
  unfold lsOff lsBase at *
  omega

/-- Bytes within a line lie in two granules. -/
theorem granule_of_byte {o a n i : Nat} (h : o % 64 = a % 64) (hoff : a % 64 + n ≤ 64) (hi : i < n) :
    (o + i) / 32 = o / 32 ∨ (o + i) / 32 = (o + n - 1) / 32 := by omega

theorem line_add_byte {o a : Nat} (h : o % 64 = a % 64) (i : Nat) : o / 64 * 64 + (a % 64 + i) = o + i := by omega

/-- The bytes that a store has written into the own core's local store are those that its context sees. -/
theorem Pkg.lsByteFor_stored {p₁ q : Pkg} {x : CtxRef} {va n v i : Nat} (hbase : lsBase ≤ va) (hoff : va % 64 + n ≤ 64) (hi : i < n)
    (hfree : (p₁.core x.core).Unlogged x.slot (lsOff va / 32)) (hfree' : (p₁.core x.core).Unlogged x.slot ((lsOff va + n - 1) / 32))
    (hq : (p₁.modCore x.core fun k => k.setLs (lsOff va) (leBytes v n)).Jots q x) :
    (q.core x.core).lsByteFor (lsOff va + i) (some x.slot) = BitVec.ofNat 8 (v / 2 ^ (8 * i)) := by
  have hlog : (p₁.core x.core).Unlogged x.slot ((lsOff va + i) / 32) := by
    rcases granule_of_byte (lsOff_line hbase) hoff hi with hg | hg
    · rw [hg]
      exact hfree
    · rw [hg]
      exact hfree'
  have hset : ((p₁.modCore x.core fun k => k.setLs (lsOff va) (leBytes v n)).core x.core) =
      (p₁.core x.core).setLs (lsOff va) (leBytes v n) := by rw [Pkg.modCore_eq, Pkg.core_setCore_same]
  have hunlogged : (q.core x.core).Unlogged x.slot ((lsOff va + i) / 32) := by
    refine hq.unlogged fun e he => hlog e ?_
    rwa [hset, Core.ctxs_setLs] at he
  have hin : lsOff va ≤ lsOff va + i ∧ lsOff va + i < lsOff va + (leBytes v n).length :=
    ⟨Nat.le_add_right .., by rw [leBytes_length]; exact Nat.add_lt_add_left hi _⟩
  rw [Core.lsByteFor_of_unlogged hunlogged, hq.ls, hset, Core.setLs_byte, dif_pos hin, leBytes_getElem, Nat.add_sub_cancel_left]

/-- Settles O22: a store stands in its chunk's version of a line, or in the local store with the granules that it writes logged by no
other context; a load of the same bytes takes them from there. -/
theorem readAfterWrite : Obligations.ReadAfterWrite := by
  unfold Obligations.ReadAfterWrite
  intro p q q' x va n v w noalloc hn hoff hplain hstore hload
  obtain ⟨r, hr⟩ := Option.isSome_iff_exists.mp (M.store_route hstore)
  obtain ⟨r', hr'⟩ := Option.isSome_iff_exists.mp (M.load_route hload)
  obtain ⟨p₁, p₂, l, hmarks, hview, rfl⟩ := M.load_view hr' hload
  by_cases hown : ∃ off, r.place = .lstore x.core off
  · obtain ⟨off, hown⟩ := hown
    obtain ⟨p₀, hp₀, hfree, hfree', hstored⟩ := M.store_own hplain hr hown hstore
    obtain ⟨hbase, hoffset⟩ := Pkg.route?_lstore (Pkg.route?_of_route hr) hown
    have hroutes : p.RoutesAs q := (hp₀.routes.trans (.of_setLs p₀ x.core (lsOff va) (leBytes v n))).trans hstored.routes
    rw [hroutes.spaceOf, hroutes.route] at hr'
    rw [← Option.some.inj ((Pkg.route?_of_route hr).symm.trans (Pkg.route?_of_route hr'))] at hview
    rw [M.viewLine_own hown hview, hoffset]
    refine lineGet_of_bytes hn fun i hi => ?_
    have hat := line_add_byte (lsOff_line hbase) i
    have hin : va % 64 + i < 64 := by omega
    have hbyte := Pkg.lsByteFor_stored hbase hoff hi hfree hfree' (hstored.trans hmarks.toJots)
    rw [← hbyte, Core.lsLine, lineByte_lineOf _ (by rw [List.length_map, List.length_range]; exact hin) hin, List.getElem_map, List.getElem_range, hat]
  · have hown : ∀ off, r.place ≠ .lstore x.core off := fun off ho => hown ⟨off, ho⟩
    obtain ⟨hroutes, m, d, hline⟩ := M.store_away hr hown hstore
    rw [hroutes.spaceOf, hroutes.route] at hr'
    rw [← Option.some.inj ((Pkg.route?_of_route hr).symm.trans (Pkg.route?_of_route hr'))] at hview
    rw [← hmarks.ulines] at hline
    obtain rfl | ⟨old, rfl⟩ := M.viewLine_written hown hline hview
    · exact lineGet_of_bytes hn fun i hi => lineByte_lineSet d v hi hoff
    · exact lineGet_merged d old hn hoff

end Sys2Proof.Machine

/-! SUPPORT. Proofs: a load of no bytes (R237). -/

namespace Sys2Proof.Machine

/-- A core of space 0 whose local store holds 1 in its first byte. -/
def oddByte : Pkg := { Pkg.reset with cores := [(0, { Core.reset with ls := [(0, 1)], extSize := 64 })] }

/-- Refutes O21: nothing keeps `n` from 0, and a load of no bytes at the start of a line answers bit 0 of the line, which is 1 in
`oddByte`: it is not below `2 ^ 0`. -/
theorem not_loadsAndStores : ¬ Obligations.LoadsAndStores := by
  intro h
  have hload : (match (M.load ⟨0, 0⟩ rRD lsBase 0 false false).run oddByte with
      | .ok (v, _) => v
      | .error _ => 0) = 1 := by decide +kernel
  have hroute : oddByte.route (oddByte.spaceOf 0) lsBase rRD =
      some ⟨lineKey 0 lsBase, rRD + rWR + rENG + rINV, .lstore 0 0⟩ := by decide +kernel
  cases hrun : (M.load ⟨0, 0⟩ rRD lsBase 0 false false).run oddByte with
  | error e =>
    rw [hrun] at hload
    cases hload
  | ok a =>
    obtain ⟨v, q⟩ := a
    rw [hrun] at hload
    obtain ⟨hv, -⟩ := h.1 oddByte q ⟨0, 0⟩ lsBase 0 v false _ hroute (by decide) hrun
    have hone : v = 1 := hload
    rw [hone] at hv
    exact absurd hv (by decide)

end Sys2Proof.Machine

/-! SUPPORT. Proofs: loads and stores of tiles (R241 to R243, R302). -/

namespace Sys2Proof.Machine

/-! ### Rows that a load reads -/

/-- A sequence whose first element is `a`. -/
def consSeq {α : Type} (a : α) (f : Nat → α) : Nat → α
  | 0 => a
  | i + 1 => f i

theorem fieldsOf_getElem? (w v : Nat) {n c : Nat} (hc : c < n) : (fieldsOf w n v)[c]? = some (v / 2 ^ (w * c) % 2 ^ w) := by
  simp [fieldsOf, hc]

/-- The groups of a row hold its codes, sixteen each. -/
theorem loadGroups_codes (fmt k w va : Nat) (side : Nat → Word) (fuel g : Nat) (codes : List Nat) (n : Nat) {i : Nat} (hi : i < fuel) :
    ∃ a, (loadGroups fmt k w va side fuel g codes n)[i]? = some a ∧ a.codes = (codes.drop (16 * i)).take 16 := by
  induction fuel generalizing g codes n i with
  | zero => cases hi
  | succ fuel ih =>
    rw [loadGroups]
    cases i with
    | zero =>
      refine ⟨_, rfl, ?_⟩
      dsimp only
      split <;> rfl
    | succ i =>
      obtain ⟨a, ha, hcodes⟩ := ih (g + 1) (codes.drop 16) _ (Nat.lt_of_succ_lt_succ hi)
      refine ⟨a, ha, ?_⟩
      rw [hcodes, List.drop_drop, Nat.mul_succ, Nat.add_comm 16]

theorem grpAt_loaded {rows : List (List Grp)} {fmt k w va n v r c : Nat} {side : Nat → Word}
    (hr : rows[r]? = some (loadGroups fmt k w va side 8 0 (fieldsOf w 128 v) n)) (hc : c < 128) :
    ((grpAt rows r (c / 16)).codes[c % 16]?).getD 0 = v / 2 ^ (w * c) % 2 ^ w := by
  obtain ⟨a, ha, hcodes⟩ := loadGroups_codes fmt k w va side 8 0 (fieldsOf w 128 v) n (i := c / 16) (by omega)
  have hat : 16 * (c / 16) + c % 16 = c := by omega
  rw [grpAt_eq hr ha, hcodes, List.getElem?_take, if_pos (by omega), List.getElem?_drop, hat, fieldsOf_getElem? w v hc]
  rfl

/-- The reads of the rows of a row load, one after another, and what each gives. -/
theorem M.loadRow_reads {x : CtxRef} {fmt k w : Nat} {inv noalloc : Bool} {side : Nat → Word} {rows : List Nat} {p q : Pkg}
    {ls : List (List Grp)} (h : (M.loadRow x fmt k w inv noalloc side rows).run p = .ok (ls, q)) :
    ∃ (at_ mid : Nat → Pkg) (before row : Nat → List Byte), at_ 0 = p ∧ at_ rows.length = q ∧ ∀ i va, rows[i]? = some va →
      let n := if fmt = 1 then va % blockBytes w k else 0
      (M.loadBytes x rRD inv noalloc (n / 64 + 2) (va - n) n).run (at_ i) = .ok (before i, mid i) ∧
      (M.loadBytes x rRD inv noalloc 8 va (16 * w)).run (mid i) = .ok (row i, at_ (i + 1)) ∧
      ∃ esc, ls[i]? = some (loadGroups fmt k w va side 8 0 (fieldsOf w 128 (leNat (row i))) esc) := by
  induction rows generalizing p ls with
  | nil =>
    cases h
    exact ⟨fun _ => q, fun _ => q, fun _ => [], fun _ => [], rfl, rfl, fun i va hi => nomatch hi⟩
  | cons va t ih =>
    obtain ⟨b, p₁, hbefore, h⟩ := M.bind_ok h
    obtain ⟨r, p₂, hrow, h⟩ := M.bind_ok h
    obtain ⟨l, p₃, hrest, h⟩ := M.bind_ok h
    cases h
    obtain ⟨at_, mid, before, row, hat, hend, hreads⟩ := ih hrest
    refine ⟨consSeq p at_, consSeq p₁ mid, consSeq b before, consSeq r row, rfl, hend, fun i a hi => ?_⟩
    cases i with
    | zero =>
      cases hi
      exact ⟨hbefore, hrow.trans (by rw [← hat]; rfl), _, rfl⟩
    | succ i => exact hreads i a hi

/-- A row load that completes reads its rows under the format, block exponent and width that it answers. -/
theorem M.loadRows_rows {x : CtxRef} {rows : List Nat} {plain : Option Nat} {accepts : Nat → Bool} {reason : Nat} {mid : M Unit}
    {inv noalloc : Bool} {l : Loaded} {p q : Pkg} (h : (M.loadRows x rows plain accepts reason mid inv noalloc).run p = .ok (l, q)) :
    ∃ side p₁, (M.loadRow x l.fmt l.k l.w inv noalloc side rows).run p₁ = .ok (l.rows, q) := by
  obtain ⟨w, p₁, hw, h⟩ := M.bind_ok h
  obtain ⟨_, p₂, hcheck, h⟩ := M.bind_ok h
  obtain ⟨_, p₃, hmid, h⟩ := M.bind_ok h
  obtain ⟨sides, p₄, hsides, h⟩ := M.bind_ok h
  obtain ⟨fk, p₅, hfmt, h⟩ := M.bind_ok h
  dsimp only at h
  split at h
  · cases h
  · split at h
    · obtain ⟨_, p₆, hbefore, h⟩ := M.bind_ok h
      obtain ⟨ls, p₇, hrows, h⟩ := M.bind_ok h
      cases h
      exact ⟨_, _, hrows⟩
    · obtain ⟨ls, p₆, hrows, h⟩ := M.bind_ok h
      cases h
      exact ⟨_, _, hrows⟩

theorem M.loadCols_go_reads {x : CtxRef} {w : Nat} {inv noalloc : Bool} {rows : List Nat} {p q : Pkg} {ls : List (List Nat)}
    (h : (M.loadCols.go x inv noalloc w rows).run p = .ok (ls, q)) :
    ∃ (at_ : Nat → Pkg) (row : Nat → List Byte), at_ 0 = p ∧ at_ rows.length = q ∧ ∀ i va, rows[i]? = some va →
      (M.loadBytes x rRD inv noalloc 4 va (2 * w)).run (at_ i) = .ok (row i, at_ (i + 1)) ∧
      ls[i]? = some (fieldsOf w 16 (leNat (row i))) := by
  induction rows generalizing p ls with
  | nil =>
    cases h
    exact ⟨fun _ => q, fun _ => [], rfl, rfl, fun i va hi => nomatch hi⟩
  | cons va t ih =>
    obtain ⟨r, p₁, hrow, h⟩ := M.bind_ok h
    obtain ⟨l, p₂, hrest, h⟩ := M.bind_ok h
    cases h
    obtain ⟨at_, row, hat, hend, hreads⟩ := ih hrest
    refine ⟨consSeq p at_, consSeq r row, rfl, hend, fun i a hi => ?_⟩
    cases i with
    | zero =>
      cases hi
      exact ⟨hrow.trans (by rw [← hat]; rfl), rfl⟩
    | succ i => exact hreads i a hi

/-- Group `g` of row `r` of a tile whose columns are `cols`. -/
def grpOfCols (cols : List (List Nat)) (r g : Nat) : Grp :=
  { Grp.zero with codes := (List.range 16).map fun j => (((cols[16 * g + j]?).getD [])[r]?).getD 0 }

def rowsOfCols (cols : List (List Nat)) : List (List Grp) := (List.range 16).map fun r => (List.range 8).map (grpOfCols cols r)

theorem rowsOfCols_code {cols : List (List Nat)} {i c w v : Nat} (hi : i < 128) (hc : c < 16) (hcol : cols[i]? = some (fieldsOf w 16 v)) :
    ((grpAt (rowsOfCols cols) c (i / 16)).codes[i % 16]?).getD 0 = v / 2 ^ (w * c) % 2 ^ w := by
  have hat : 16 * (i / 16) + i % 16 = i := by omega
  have hrow : (rowsOfCols cols)[c]? = some ((List.range 8).map (grpOfCols cols c)) := by
    rw [rowsOfCols, List.getElem?_map, List.getElem?_range hc]
    rfl
  have hgrp : ((List.range 8).map (grpOfCols cols c))[i / 16]? = some (grpOfCols cols c (i / 16)) := by
    rw [List.getElem?_map, List.getElem?_range (by omega)]
    rfl
  rw [grpAt_eq hrow hgrp, grpOfCols]
  rw [List.getElem?_map, List.getElem?_range (Nat.mod_lt i (by decide)), Option.map_some, Option.getD_some, hat, hcol,
    Option.getD_some, fieldsOf_getElem? w v hc, Option.getD_some]

/-- A column load that completes reads its rows under the width that it answers. -/
theorem M.loadCols_cols {x : CtxRef} {rows : List Nat} {plain : Option Nat} {accepts : Nat → Bool} {inv noalloc : Bool} {l : Loaded}
    {p q : Pkg} (h : (M.loadCols x rows plain accepts inv noalloc).run p = .ok (l, q)) :
    ∃ cols p₁, (M.loadCols.go x inv noalloc l.w rows).run p₁ = .ok (cols, q) ∧ l.rows = rowsOfCols cols := by
  obtain ⟨w, p₁, hw, h⟩ := M.bind_ok h
  obtain ⟨_, p₂, hcheck, h⟩ := M.bind_ok h
  obtain ⟨sides, p₃, hsides, h⟩ := M.bind_ok h
  obtain ⟨fk, p₄, hfmt, h⟩ := M.bind_ok h
  dsimp only at h
  split at h
  · cases h
  · split at h
    · cases h
    · obtain ⟨cols, p₅, hcols, h⟩ := M.bind_ok h
      cases h
      exact ⟨cols, p₄, hcols, rfl⟩

/-! ### The checks of R242 -/

/-- Two lines of a load have unlike formats or block exponents. -/
def sidesMixed (sd : Tab Word) : Prop := ∃ e ∈ sd, ∃ f ∈ sd, sideFmt e.2 ≠ sideFmt f.2 ∨ sideK e.2 ≠ sideK f.2

/-- Some line of a load has a format that the load does not take. -/
def sidesRefused (plain : Option Nat) (accepts : Nat → Bool) (sd : Tab Word) : Prop :=
  ∃ e ∈ sd, (if sideFmt e.2 = 0 then plain.isNone else !accepts (sideFmt e.2)) = true

theorem M.oneFormat_faults {sd : Tab Word} {plain : Option Nat} {accepts : Nat → Bool} (p : Pkg)
    (h : sidesMixed sd ∨ sidesRefused plain accepts sd) : (M.oneFormat sd plain accepts 0x23).run p = .error (.fault 8 0 0x23) := by
  cases sd with
  | nil => obtain ⟨e, he, -⟩ | ⟨e, he, -⟩ := h <;> cases he
  | cons a t =>
    obtain ⟨i, v⟩ := a
    unfold M.oneFormat
    by_cases hall : (t.all fun e => sideFmt e.2 == sideFmt v && sideK e.2 == sideK v) = true
    · have hsame : ∀ e ∈ (i, v) :: t, sideFmt e.2 = sideFmt v ∧ sideK e.2 = sideK v := by
        intro e he
        obtain rfl | he := List.mem_cons.mp he
        · exact ⟨rfl, rfl⟩
        · simpa using List.all_eq_true.mp hall e he
      have hrefused : (if sideFmt v = 0 then plain.isNone else !accepts (sideFmt v)) = true := by
        rcases h with ⟨e, he, f, hf, hne⟩ | ⟨e, he, hbad⟩
        · rw [(hsame e he).1, (hsame e he).2, (hsame f hf).1, (hsame f hf).2] at hne
          exact hne.elim (absurd rfl) (absurd rfl)
        · rwa [(hsame e he).1] at hbad
      simp only [hall, hrefused, Bool.not_true, Bool.false_eq_true, ↓reduceIte, M.run_bind, M.invocation, M.fault, M.run_throw]
    · simp only [hall, Bool.not_false, ↓reduceIte, M.run_bind, M.invocation, M.fault, M.run_throw]

theorem M.oneFormat_ok {sd : Tab Word} {plain : Option Nat} {accepts : Nat → Bool} (reason : Nat) (p : Pkg)
    (h : ¬ (sidesMixed sd ∨ sidesRefused plain accepts sd)) : ∃ fmt k, (M.oneFormat sd plain accepts reason).run p = .ok ((fmt, k), p) ∧
      ∀ e ∈ sd, sideFmt e.2 = fmt ∧ sideK e.2 = k := by
  cases sd with
  | nil => exact ⟨0, 0, rfl, fun e he => nomatch he⟩
  | cons a t =>
    obtain ⟨i, v⟩ := a
    have hsame : ∀ e ∈ (i, v) :: t, sideFmt e.2 = sideFmt v ∧ sideK e.2 = sideK v := by
      refine fun e he => ⟨?_, ?_⟩
      · exact not_not.mp fun hne => h (.inl ⟨e, he, _, List.mem_cons_self, .inl hne⟩)
      · exact not_not.mp fun hne => h (.inl ⟨e, he, _, List.mem_cons_self, .inr hne⟩)
    have hall : (t.all fun e => sideFmt e.2 == sideFmt v && sideK e.2 == sideK v) = true :=
      List.all_eq_true.mpr fun e he => by simpa using hsame e (List.mem_cons_of_mem _ he)
    have haccepted : (if sideFmt v = 0 then plain.isNone else !accepts (sideFmt v)) = false :=
      Bool.eq_false_iff.mpr fun hbad => h (.inr ⟨_, List.mem_cons_self, hbad⟩)
    refine ⟨sideFmt v, sideK v, ?_, hsame⟩
    unfold M.oneFormat
    simp only [hall, haccepted, Bool.not_true, Bool.false_eq_true, ↓reduceIte, M.run_pure]

theorem M.bind_error {α β : Type} {m : M α} {f : α → M β} {p : Pkg} {e : Stop_} (h : m.run p = .error e) : (m >>= f).run p = .error e := by
  rw [M.run_bind, h]

section
variable {x : CtxRef} {rows : List Nat} {plain : Option Nat} {accepts : Nat → Bool} {inv noalloc : Bool} {w : Nat} {sd : Tab Word}
  {p q q' : Pkg} (hw : (M.rowWidth x (rows.headD 0) plain 0x23 inv).run p = .ok (w, q))

section
variable (hcheck : (M.checkRows x rRD w 128 0 rows).run q = .ok ((), q))
  (hsides : (M.sides x inv (rows.flatMap fun va => linesOf va (16 * w)) []).run q = .ok (sd, q'))
include hw hcheck hsides

theorem M.loadRows_unlike (h : sidesMixed sd ∨ sidesRefused plain accepts sd) :
    (M.loadRows x rows plain accepts 0x23 (pure ()) inv noalloc).run p = .error (.fault 8 0 0x23) := by
  simp only [M.loadRows, M.run_bind, hw, hcheck, M.run_pure, hsides, M.oneFormat_faults q' h]

theorem M.loadRows_misaligned (h : ¬ (sidesMixed sd ∨ sidesRefused plain accepts sd)) {pre post : List Nat} {va : Nat}
    (hrows : rows = pre ++ va :: post) (hpre : ∀ u ∈ pre, u % (2 * w) = 0) (hva : va % (2 * w) ≠ 0) :
    (M.loadRows x rows plain accepts 0x23 (pure ()) inv noalloc).run p = .error (.fault 6 va (pre.length * 128 % 256 * 2 ^ 16)) := by
  obtain ⟨fmt, k, hfmt, -⟩ := M.oneFormat_ok 0x23 q' h
  have hfirst : List.find? (fun e : Nat × Nat => e.1 % (2 * w) != 0) rows.zipIdx = some (va, pre.length) := by
    have hnone : List.find? (fun e : Nat × Nat => e.1 % (2 * w) != 0) pre.zipIdx = none :=
      List.find?_eq_none.mpr fun e he => by simp [hpre e.1 (List.fst_mem_of_mem_zipIdx he)]
    rw [hrows, List.zipIdx_append, List.find?_append, hnone, Option.none_or, List.zipIdx_cons, List.find?_cons_of_pos (by simpa using hva),
      Nat.zero_add]
  simp only [M.loadRows, M.run_bind, hw, hcheck, M.run_pure, hsides, hfmt, hfirst, M.run_throw, Nat.shiftLeft_eq]

end

section
variable (hcheck : (M.checkRows x rRD w 16 0 rows).run q = .ok ((), q))
  (hsides : (M.sides x inv (rows.flatMap fun va => linesOf va (2 * w)) []).run q = .ok (sd, q'))
include hw hcheck hsides

theorem M.loadCols_unlike (h : sidesMixed sd ∨ sidesRefused plain accepts sd) :
    (M.loadCols x rows plain accepts inv noalloc).run p = .error (.fault 8 0 0x23) := by
  simp only [M.loadCols, M.run_bind, hw, hcheck, hsides, M.oneFormat_faults q' h]

/-- Step 3 of R242: the column port takes no line of a block format of four bits, and of another format none with a scale. -/
theorem M.loadCols_scaled {e : Nat × Word} (he : e ∈ sd) (h : sideFmt e.2 = 1 ∨ sideFmt e.2 = 2 ∨ (sideFmt e.2 ≠ 0 ∧ ∃ va ∈ rows, ∃ j < 16,
      sideScale (sd.get 0 ((va + j * w / 8) / 64 * 64)) (blockOf w (sideK e.2) (va + j * w / 8)) ≠ 0x7F)) :
    (M.loadCols x rows plain accepts inv noalloc).run p = .error (.fault 8 0 0x23) := by
  by_cases hbad : sidesMixed sd ∨ sidesRefused plain accepts sd
  · exact M.loadCols_unlike hw hcheck hsides hbad
  · obtain ⟨fmt, k, hfmt, hsame⟩ := M.oneFormat_ok 0x23 q' hbad
    obtain ⟨hf, hk⟩ := hsame e he
    rw [hf, hk] at h
    by_cases hblock : fmt = 1 ∨ fmt = 2
    · simp only [M.loadCols, M.run_bind, hw, hcheck, hsides, hfmt, hblock, ↓reduceIte, M.invocation, M.fault, M.run_throw]
    · obtain ⟨hne, va, hva, j, hj, hscale⟩ := (or_assoc.mpr h).resolve_left hblock
      have hany : (fmt ≠ 0 && rows.any fun va => ((List.range 16).map fun j => va + j * w / 8).any fun a =>
          sideScale (sd.get 0 (a / 64 * 64)) (blockOf w k a) != 0x7F) = true := by
        rw [Bool.and_eq_true]
        refine ⟨decide_eq_true hne, List.any_eq_true.mpr ⟨va, hva, List.any_eq_true.mpr ⟨va + j * w / 8, ?_, bne_iff_ne.mpr hscale⟩⟩⟩
        exact List.mem_map.mpr ⟨j, List.mem_range.mpr hj, rfl⟩
      simp only [M.loadCols, M.run_bind, hw, hcheck, hsides, hfmt, hblock, hany, ↓reduceIte, M.invocation, M.fault, M.run_throw]

end
end

/-! ### Rows that a store writes -/

theorem leNat_leBytes (x n : Nat) : leNat (leBytes x n) = x % 256 ^ n := by
  induction n generalizing x with
  | zero => simp [leBytes, leNat, Nat.mod_one]
  | succ n ih =>
    have hbyte : (BitVec.ofNat 8 x).toNat = x % 256 := BitVec.toNat_ofNat x 8
    rw [leBytes, leNat, ih, hbyte, Nat.pow_succ, Nat.mul_comm (256 ^ n), Nat.mod_mul]

/-- A byte of a string that stands from `va` on, with its address. -/
def placed (va : Nat) (b : List Byte) : List (Nat × Byte) := b.zipIdx.map fun c => (va + c.2, c.1)

theorem placed_append (va : Nat) (b b' : List Byte) : placed va (b ++ b') = placed va b ++ placed (va + b.length) b' := by
  rw [placed, List.zipIdx_append, List.map_append, Nat.zero_add, List.zipIdx_eq_map_add (l := b') (i := b.length), List.map_map]
  refine congrArg _ (List.map_congr_left fun e _ => ?_)
  simp [Nat.add_assoc, Nat.add_comm b.length]

theorem piecesOf_placed {fuel va : Nat} {b : List Byte} (h : b ≠ [] → va % 64 + b.length ≤ 64 * fuel) :
    (piecesOf fuel va b).flatMap (fun e => placed e.1 e.2) = placed va b := by
  induction fuel generalizing va b with
  | zero =>
    have hb : b = [] := by
      by_contra hb
      exact hb (List.eq_nil_of_length_eq_zero (Nat.le_zero.mp ((Nat.le_add_left ..).trans (h hb))))
    rw [hb]
    rfl
  | succ fuel ih =>
    cases hb : b.isEmpty with
    | true =>
      rw [piecesOf, if_pos hb, List.isEmpty_iff.mp hb]
      rfl
    | false =>
      have hk : (b.take (min b.length (64 - va % 64))).length = min b.length (64 - va % 64) := by
        rw [List.length_take]
        omega
      rw [piecesOf, if_neg (by simp [hb])]
      dsimp only
      have hroom := h fun hnil => by simp [hnil] at hb
      have hrest (hd : b.drop (min b.length (64 - va % 64)) ≠ []) :
          (va + min b.length (64 - va % 64)) % 64 + (b.drop (min b.length (64 - va % 64))).length ≤ 64 * fuel := by
        have hlt := List.length_pos_iff.mpr hd
        rw [List.length_drop] at hlt ⊢
        omega
      rw [List.flatMap_cons, ih hrest]
      conv_rhs => rw [← List.take_append_drop (min b.length (64 - va % 64)) b, placed_append, hk]

theorem mem_piecesOf {fuel va : Nat} {b : List Byte} {e : Nat × List Byte} (h : e ∈ piecesOf fuel va b) :
    e.2 ≠ [] ∧ e.1 % 64 + e.2.length ≤ 64 := by
  induction fuel generalizing va b with
  | zero => cases h
  | succ fuel ih =>
    rw [piecesOf] at h
    split at h
    · cases h
    next hb =>
      obtain rfl | h := List.mem_cons.mp h
      · have hpos : 0 < b.length := List.length_pos_iff.mpr fun h => hb (by rw [h]; rfl)
        dsimp only
        rw [← List.length_pos_iff, List.length_take]
        omega
      · exact ih h

/-- The bytes of memory row `j` of a tile's store. -/
def Tile.rowBytes (t : Tile) (c : Nat) (row : Tile → Nat → List Nat) (j : Nat) : List Byte :=
  leBytes (packFields t.width (row t j)) (c * t.width / 8)

theorem Tile.rowBytes_field {t : Tile} {c j k : Nat} {row : Tile → Nat → List Nat} (hlen : (row t j).length = c)
    (hdvd : 8 * (c * t.width / 8) = c * t.width) (hk : k < c) :
    leNat (t.rowBytes c row j) / 2 ^ (t.width * k) % 2 ^ t.width = ((row t j)[k]?).getD 0 % 2 ^ t.width := by
  have hlt := packFields_lt t.width (row t j)
  have hpow : 256 ^ (c * t.width / 8) = 2 ^ (t.width * (row t j).length) := by
    rw [hlen, Nat.mul_comm t.width, ← hdvd, Nat.pow_mul, Nat.mul_div_cancel_left _ (by decide)] <;> rfl
  rw [Tile.rowBytes, leNat_leBytes, hpow, Nat.mod_eq_of_lt hlt, packFields_field t.width (hlen ▸ hk), List.getElem?_eq_getElem (hlen ▸ hk)]
  rfl

theorem tilePieces_placed (t : Tile) (vas : List Nat) (c : Nat) (row : Tile → Nat → List Nat) :
    (tilePieces t vas c row).flatMap (fun e => placed e.1 e.2) = vas.zipIdx.flatMap fun e => placed e.1 (t.rowBytes c row e.2) := by
  rw [tilePieces, List.flatMap_assoc]
  refine List.flatMap_congr fun e _ => piecesOf_placed fun _ => ?_
  rw [leBytes_length]
  omega

theorem mem_tilePieces {t : Tile} {vas : List Nat} {c : Nat} {row : Tile → Nat → List Nat} {e : Nat × List Byte}
    (h : e ∈ tilePieces t vas c row) : e.2 ≠ [] ∧ e.1 % 64 + e.2.length ≤ 64 := by
  obtain ⟨_, -, he⟩ := List.mem_flatMap.mp h
  exact mem_piecesOf he

/-- The width of a tile's elements is whole nibbles. -/
theorem Tile.width_cases (t : Tile) : t.width = 4 ∨ t.width = 8 ∨ t.width = 16 := by
  unfold Tile.width plainWidth fmtWidth
  split_ifs <;> simp

/-! ### Issue -/

theorem M.checkRow_byte {x : CtxRef} {va : Nat} {p : Pkg} (htop : va < 2 ^ 56) (hbad : p.badByte (p.spaceOf x.core) rRD va 1 = none) :
    (M.checkRow x rRD va 1 8 0).run p = .ok ((), p) := by
  have htop' : ¬ va ≥ vaTop := Nat.not_le.mpr htop
  simp only [M.checkRow, M.run_bind, M.run_get, htop', ↓reduceIte, hbad, M.run_pure, Nat.mod_one, ne_eq, not_true_eq_false, Nat.max_self,
    Nat.div_self, Nat.zero_lt_succ]

/-- A load whose plain first line has no width of its own, nor one from the instruction, is refused. -/
theorem M.rowWidth_faults {x : CtxRef} {va : Nat} {inv : Bool} {v : Word} {p q : Pkg} (htop : va < 2 ^ 56)
    (hbad : p.badByte (p.spaceOf x.core) rRD va 1 = none) (hside : (M.side x va inv).run p = .ok (v, q)) (hv : sideFmt v = 0)
    (reason : Nat) : (M.rowWidth x va none reason inv).run p = .error (.fault 8 0 reason) := by
  simp only [M.rowWidth, M.run_bind, M.checkRow_byte htop hbad, hside, hv, ne_eq, not_true_eq_false, ↓reduceIte, M.run_pure, M.invocation,
    M.fault, M.run_throw]

section
variable {s : State} {g : Guard} {h : Hint} {inv : Bool} {d : TReg} {m : MemOp} {pw : BitVec 2} (hready : s.ready g (memSrcs m) [])
include hready

theorem tileLoad_makes {load : CtxRef → Regs → M Loaded} {i : Instr} {l : Loaded} {q : Pkg} (he : exec i s = s.issue (.tileLoad g m d pw load))
    (hl : (load s.pkg.cur s.regs).run s.pkg = .ok (l, q)) (hfree : q.tileFree d) :
    s.makes i (q.putTile d (.ofRows l.fmt (if l.fmt = 0 then pw.toNat else 3) l.k l.rows)) := by
  intro hfits
  rw [he]
  refine State.issue_body hready rfl rfl rfl rfl ?_ hfits
  simp only [Ins.tileLoad, M.run_bind, M.run_me, M.run_r, hl, M.tileWrite_free hfree, M.run_pure]

theorem tileLoad_faults {load : CtxRef → Regs → M Loaded} {i : Instr} {cause addr info : Nat}
    (he : exec i s = s.issue (.tileLoad g m d pw load))
    (hl : (load s.pkg.cur s.regs).run s.pkg = .error (.fault cause addr info)) : s.faults i cause addr info := by
  rw [State.faults, he]
  refine State.issue_stops (e := .fault cause addr info) hready rfl rfl rfl ?_
  simp only [Ins.tileLoad, M.run_bind, M.run_me, M.run_r, hl]

end

/-- A tile store whose rows pass their checks stores its pieces. -/
theorem tileStore_makes {s : State} {g : Guard} {d : TReg} {m : MemOp} {i : Instr} {n c : Nat} {row : Tile → Nat → List Nat} {fl : Flow}
    {q : Pkg} {vas : List Nat} {ps : List (Nat × List Byte)} (hready : s.ready g (memSrcs m) [])
    (he : exec i s = s.issue (.tileStore g m d n c row)) (hvas : rowVas (memBase s.regs m) (memPitch s.regs m) n = vas)
    (hps : tilePieces (s.pkg.tile d) vas c row = ps)
    (hcheck : (M.checkRows s.pkg.cur rWR (s.pkg.tile d).width c 0 vas).run (s.pkg.enterR (s.pkg.regLine d.toNat)) =
      .ok ((), s.pkg.enterR (s.pkg.regLine d.toNat)))
    (hparts : (M.storeParts s.pkg.cur (fun j => ((ps[j]?).map Prod.fst).getD 0) (M.putPiece s.pkg.cur ps) s.regs.part
      (List.range ps.length)).run (s.pkg.enterR (s.pkg.regLine d.toNat)) = .ok (fl, q)) : s.makes i q fl := by
  intro hfits
  subst hvas hps
  rw [he]
  refine State.issue_body hready rfl rfl rfl rfl ?_ hfits
  simp only [Ins.tileStore, M.run_bind, M.run_me, M.run_r, M.run_tileRead, hcheck, hparts]

/-- Settles O35: a load that completes has read its rows in turn and holds their fields, each check refuses in its turn, and a store's
pieces are its rows' bytes. -/
theorem tileMemory : Obligations.TileMemory := by
  unfold Obligations.TileMemory
  intro s g h inv d m pw p x r rows plain loaded t q stores places read sided mixed refused hready
  have hcode (l : Loaded) {i c : Nat} (hi : i < 16) (hc : c < 128) :
      (loaded l).code i c = ((grpAt l.rows i (c / 16)).codes[c % 16]?).getD 0 := Tile.ofRows_code _ _ _ _ hi hc
  have hlen (n : Nat) : (rows n).length = n := by simp [rows]
  have hplaces (n c : Nat) (row : Tile → Nat → List Nat) (hrow : ∀ j < n, (row t j).length = c)
      (hdvd : 8 * (c * t.width / 8) = c * t.width) : places n c row :=
    ⟨t.rowBytes c row, fun j hj => ⟨leBytes_length .., fun k hk => Tile.rowBytes_field (hrow j hj) hdvd hk⟩,
      tilePieces_placed t (rows n) c row, fun e he => mem_tilePieces he⟩
  have hwidth := t.width_cases
  have hrefuses (sd : Tab Word) : refused sd ↔ sidesRefused plain (tileAccepts pw) sd := by
    refine exists_congr fun e => and_congr_right fun _ => ?_
    by_cases hf : sideFmt e.2 = 0 <;> by_cases hp : pw = 0 <;> simp [plain, tileAccepts, hf, hp]
  refine ⟨fun l q hl => ⟨fun hfree => tileLoad_makes hready rfl hl hfree, ?reads⟩,
    fun l q hl => ⟨fun hfree => tileLoad_makes hready rfl hl hfree, ?colReads⟩, fun v q hbad htop hside hv hpw => ?plain,
    fun sd w hsd => ?rowChecks, fun sd w hsd => ?colChecks, ?places,
    ?placesCol, fun fl q' hcheck hparts => ?stt, fun fl q' hcheck hparts => ?sttCol⟩
  case reads =>
    obtain ⟨side, p₁, hrows⟩ := M.loadRows_rows hl
    obtain ⟨at_, mid, before, row, -, hend, hreads⟩ := M.loadRow_reads hrows
    rw [hlen] at hend
    refine ⟨at_, mid, before, row, hend, fun i va hi => ?_⟩
    have hlt : i < 16 := hlen 16 ▸ (List.getElem?_eq_some_iff.mp hi).1
    obtain ⟨hbefore, hrow, esc, hgroups⟩ := hreads i va hi
    exact ⟨hbefore, hrow, fun c hc => (hcode l hlt hc).trans (grpAt_loaded hgroups hc)⟩
  case colReads =>
    obtain ⟨cols, p₁, hgo, hrows⟩ := M.loadCols_cols hl
    obtain ⟨at_, row, -, hend, hreads⟩ := M.loadCols_go_reads hgo
    rw [hlen] at hend
    refine ⟨at_, row, hend, fun i va hi => ?_⟩
    have hlt : i < 128 := hlen 128 ▸ (List.getElem?_eq_some_iff.mp hi).1
    obtain ⟨hrow, hcol⟩ := hreads i va hi
    exact ⟨hrow, fun c hc => (hcode l hc hlt).trans (hrows ▸ rowsOfCols_code hlt hc hcol)⟩
  case plain =>
    have hfault : (M.rowWidth x ((rows 16).headD 0) plain 0x23 inv).run p = .error (.fault 8 0 0x23) := by
      simp only [plain, hpw, ↓reduceIte]
      exact M.rowWidth_faults htop hbad hside hv 0x23
    exact ⟨tileLoad_faults hready rfl (M.bind_error hfault), tileLoad_faults hready rfl (M.bind_error hfault)⟩
  case rowChecks =>
    obtain ⟨q0, q1, hw, hcheck, hsides⟩ := hsd
    have hwide : 128 * w / 8 = 16 * w := by omega
    rw [hwide] at hsides
    refine ⟨fun hbad => ?_, fun hmixed hrefused pre va post hrows hpre hva => ?_⟩
    · exact tileLoad_faults hready rfl (M.loadRows_unlike hw hcheck hsides (hbad.imp id (hrefuses sd).mp))
    · have hok : ¬ (sidesMixed sd ∨ sidesRefused plain (tileAccepts pw) sd) :=
        fun hbad => hbad.elim hmixed fun hr => hrefused ((hrefuses sd).mpr hr)
      exact tileLoad_faults hready rfl (M.loadRows_misaligned hw hcheck hsides hok hrows hpre hva)
  case colChecks =>
    obtain ⟨q0, q1, hw, hcheck, hsides⟩ := hsd
    have hwide : 16 * w / 8 = 2 * w := by omega
    rw [hwide] at hsides
    refine ⟨fun hbad => ?_, fun e he hf hscale => ?_⟩
    · rcases hbad with hmixed | hrefused | ⟨e, he, hblock⟩
      · exact tileLoad_faults hready rfl (M.loadCols_unlike hw hcheck hsides (.inl hmixed))
      · exact tileLoad_faults hready rfl (M.loadCols_unlike hw hcheck hsides (.inr ((hrefuses sd).mp hrefused)))
      · exact tileLoad_faults hready rfl (M.loadCols_scaled hw hcheck hsides he (or_assoc.mp (.inl hblock)))
    · exact tileLoad_faults hready rfl (M.loadCols_scaled hw hcheck hsides he (.inr (.inr ⟨hf, hscale⟩)))
  case places =>
    refine hplaces 16 128 (fun t n => (List.range 128).map (t.code n)) (fun j _ => ?_) (by omega)
    rw [List.length_map, List.length_range]
  case placesCol =>
    refine hplaces 128 16 (fun t k => (List.range 16).map fun n => t.code n k) (fun j _ => ?_) (by omega)
    rw [List.length_map, List.length_range]
  case stt => exact tileStore_makes hready rfl rfl rfl hcheck hparts
  case sttCol => exact tileStore_makes hready rfl rfl rfl hcheck hparts

end Sys2Proof.Machine
